-- ==== Sys2Proof/Word.lean ====
section
/-!
DEFINITION. The words of the machine: bytes, 64-bit register words, 64-byte lines, and the
two shapes of sparse store used throughout the state. R42 (little-endian), R127 (64-byte lines).
-/
namespace Sys2Proof

/-- One byte of memory. -/
abbrev Byte := BitVec 8

/-- One 64-bit register of a hart. -/
abbrev Word := BitVec 64

/-- One 64-byte line of memory; byte `i` of the line is bits `8*i+7` to `8*i`. -/
abbrev Line := BitVec 512

/-- A sparse store: keys strictly rising; a key that is not listed holds its default. -/
abbrev Tab (α : Type) := List (Nat × α)

end Sys2Proof
end

