-- ==== Sys2Proof/Syntax.lean ====
section
/-!
DEFINITION. The commands of the block: one constructor of `Instr` for each row of
spec/opcode_table.json, in the table's order, with the operands this model gives it (the table
names none). A docstring gives the rule the row cites.
-/
namespace Sys2Proof

/-- The two worlds of chapter 16. -/
inductive World where
  | normal
  | tantalum
deriving DecidableEq, Repr, Inhabited

/-- The three paths to the dictionary (R44): a ring node, or one of the two mailbox pages. -/
inductive Path where
  | ring (node : Nat)
  | mailbox (w : World)
deriving DecidableEq, Repr, Inhabited

/-- The units of Table 00-2. -/
inductive UnitRef where
  | core (k : Nat)
  | cluster (c : Nat)
  | die (n : Nat)
  | package
  | system
deriving DecidableEq, Repr, Inhabited

/-- The command codes of `unitCommand` (Table 00-3). -/
inductive UnitCmd where
  | nop
  | enable
  | quiesce
  | fence
  | reset
  | powerOff
deriving DecidableEq, Repr, Inhabited

/-- The lock objects of R46. -/
inductive LockObject where
  | addrMapLocked
  | ksLocked
deriving DecidableEq, Repr, Inhabited

/-- Where a register write that has no row of its own lands (R15). -/
inductive RegTarget where
  /-- a dictionary sub-entry, with its payload, over a path -/
  | dict (p : Path) (idx sub : Nat) (payload : List Byte)
  /-- a CSR of a hart, written by a CSR instruction at the hart's own privilege -/
  | csr (hart addr : Nat) (value : Word)
  /-- a 4-byte register of a mailbox page, or a data word, written by a hart in a world -/
  | mailbox (page : World) (offset value : Nat)
  /-- a 4-byte register of an instance page -/
  | instPage (inst offset : Nat) (w : World) (value : Nat)
deriving DecidableEq, Repr, Inhabited

/-- The data bytes of a ring frame (Table 02-6), less the CRC. -/
structure Frame where
  dest     : Nat
  src      : Nat
  seq      : Nat
  rsp      : Bool
  last     : Bool
  cmd      : Nat
  status   : Nat
  idx      : Nat
  sub      : Nat
  offset   : Nat
  /-- the length field `L` -/
  len      : Nat
  payload  : List Byte
deriving DecidableEq, Repr, Inhabited

/-- A DIMM of a DDR5 channel, as its SPD reports it (R335, Table 15-2). -/
structure Dimm where
  channel : Nat
  bytes   : Nat
  ranks   : Nat
  density : Nat
  /-- device row bits -/
  rowBits : Nat
  /-- fastest rate, in MT/s -/
  rate    : Nat
deriving DecidableEq, Repr, Inhabited

/-- What a boot finds in the package and on its board (R9, R102, R335, R407). -/
structure BootFinding where
  /-- dies whose PLL does not lock -/
  unlocked    : List Nat
  /-- compute dies that fail self-test or training -/
  dies        : List Nat
  /-- cores that fail self-test -/
  cores       : List Nat
  /-- engines that are FAILED -/
  engines     : List Nat
  /-- memory controllers that fail training or the fill -/
  controllers : List Nat
  /-- the DIMMs, those of one channel in their order -/
  dimms       : List Dimm
deriving DecidableEq, Repr, Inhabited

/-- How the end of a received frame reads (R56, R58). -/
inductive FrameEnd where
  | good
  /-- CRC error, or a data-byte count other than 15 + L -/
  | bad
  /-- ended in the error symbol K30.7 -/
  | k307
deriving DecidableEq, Repr, Inhabited

/-- A request as it reaches a home slice (R276, R277): its agent, the byte address of its line,
the world bit, the page hint and the stream hint. -/
structure HomeReq where
  agent  : Nat
  line   : Nat
  world  : World
  hint   : Nat
  stream : Nat
deriving DecidableEq, Repr, Inhabited

/-- STATUS of a fabric response (R299); `timeout` is only synthesized (R313). -/
inductive RspStatus where
  | ok
  | timeout
  | error
  | offline
deriving DecidableEq, Repr, Inhabited

/-- How a router input finds a flit's CHECK field (R300). -/
inductive FlitCheck where
  | clean
  | single
  | uncorrectable
deriving DecidableEq, Repr, Inhabited

/-- A point of attachment to the fabric (R298): a die and a router of it, or an attach index of a compute die. -/
structure Endpoint where
  die  : Nat
  port : Nat
deriving DecidableEq, Repr, Inhabited

/-- The header fields of a flit that a router or adapter acts on (Table 13-3). -/
structure Flit where
  vn    : Nat
  vc    : Nat
  qos   : Nat
  dest  : Endpoint
  src   : Endpoint
  agent : Nat
  msg   : Nat
  tag   : Nat
  world : World
  addr  : Nat
  kind  : Nat
deriving DecidableEq, Repr, Inhabited

/-- What a memory controller's decoder finds in a line it reads (R341). -/
inductive Decode where
  | clean
  /-- corrected: location field and whether more than one device or symbol was in error (Table 15-3) -/
  | corrected (loc : Nat) (multi : Bool)
  | uncorrectable
deriving DecidableEq, Repr, Inhabited

/-- An error met in a cache array by an access (R252 to R254). -/
inductive ArrayError where
  | none
  | corrected
  | uncorrectable
deriving DecidableEq, Repr, Inhabited

/-- An error met in a Pewter entry by a read or a write: in its data (R260), or in one or both copies of its tag word (R261). -/
inductive PwError where
  | none
  | corrected
  | uncorrectable
  | oneTag
  | bothTags
deriving DecidableEq, Repr, Inhabited

/-- Where an array error of a core lies: in the core's own state (R196), in a line of its L1I met by a fetch (R252), or in a line of its L2
that leaves (R254). -/
inductive CoreArray where
  | own
  | l1i (line : Nat)
  | l2 (line : Nat) (err : ArrayError)
deriving DecidableEq, Repr, Inhabited

/-- A memory access of a hart: register, virtual address, size in bytes, instruction length in bytes. -/
structure HartAccess where
  hart   : Nat
  reg    : Nat
  va     : Word
  size   : Nat
  signed : Bool
  ilen   : Nat
deriving DecidableEq, Repr, Inhabited

/-- The AMO operations of the base instruction set. -/
inductive AmoOp where
  | swap
  | add
  | xor
  | and
  | or
  | min
  | max
  | minu
  | maxu
deriving DecidableEq, Repr, Inhabited

/-- The bits of a FENCE set. -/
structure FenceSet where
  i : Bool
  o : Bool
  r : Bool
  w : Bool
deriving DecidableEq, Repr, Inhabited

/-- A capability record as it arrives over a link (Table 14-3), with the outcome of its CRC. -/
structure CapRecord where
  crcOk     : Bool
  major     : Nat
  minor     : Nat
  dieType   : Nat
  stepping  : Nat
  maker     : Nat
  position  : Nat
  width     : Nat
  features  : Nat
  dedicated : Nat
  shared    : Nat
  /-- bytes 18 to 21 -/
  repair    : Nat
deriving DecidableEq, Repr, Inhabited

/-- A Harfort capability record (Table 18-2), with the outcome of its CRC. -/
structure HfRecord where
  crcOk    : Bool
  major    : Nat
  package  : Nat
  count    : Nat
  link     : Nat
  width    : Nat
  fenced   : Bool
  serial   : Nat
  features : Nat
deriving DecidableEq, Repr, Inhabited

/-- How a request of a PCIe endpoint states its address (Table 10-9, ATS): to be translated, a request for a translation, or translated before. -/
inductive AtsKind where
  | untranslated
  | request
  | translated
deriving DecidableEq, Repr, Inhabited

/-- An IOMMU request (R249): an instance or a device, the address, whether it writes. -/
structure IommuReq where
  /-- the instance it is made for, or none for a PCIe or CXL device -/
  inst    : Option Nat
  /-- root port of a device request -/
  port    : Nat
  device  : Nat
  pasid   : Option Nat
  iova    : Nat
  write   : Bool
  world   : World
  ats     : AtsKind := .untranslated
deriving DecidableEq, Repr, Inhabited

/-- Why an engine lost its jobs (R93). -/
inductive EngineLoss where
  | failed
  | reset
deriving DecidableEq, Repr, Inhabited

/-- Which idle-slot arbiter starts a job (R90, R104): the slots an instance has reserved, or the pool of a class and world. -/
inductive SlotSource where
  | reserved (inst : Nat)
  | pool (cls : Nat) (w : World)
deriving DecidableEq, Repr, Inhabited

/-- Why MR_ACTIVE is released (R70). -/
inductive ReleaseCause where
  | packageReset
  | mgmtFatal
  | railLoss
deriving DecidableEq, Repr, Inhabited

/-- The result of an unwrapped or verified item whose inputs lie outside the spec: pass or fail. -/
abbrev Passed := Bool

/-- The commands. -/
inductive Instr where
  /-- R10 -/
  | unitNop (p : Path) (u : UnitRef)
  /-- R198 -/
  | unitEnable (p : Path) (u : UnitRef)
  /-- R10 -/
  | unitQuiesce (p : Path) (u : UnitRef)
  /-- R198 -/
  | unitFence (p : Path) (u : UnitRef)
  /-- R413 -/
  | unitReset (p : Path) (u : UnitRef)
  /-- R315 -/
  | unitPowerOff (p : Path) (u : UnitRef)
  /-- R315 -/
  | powerOffDrainDone (u : UnitRef)
  /-- R8 -/
  | headerCopyUpdate (u : UnitRef)
  /-- R32 -/
  | cclkStepWrite (p : Path) (die value : Nat)
  /-- R31 -/
  | cclkDividerSwitch (die : Nat)
  /-- R31 -/
  | stepVoltageSettled (die : Nat)
  /-- R30 -/
  | pllLockLost (die : Nat)
  /-- R30 -/
  | refclkLost
  /-- R46 -/
  | lockObjectWrite (p : Path) (l : LockObject) (value : Nat)
  /-- R39 -/
  | localRegionEnable (p : Path) (n value : Nat)
  /-- R219: acts on the descriptor that the path's selector names -/
  | rgnEnableWrite (p : Path) (value : Nat)
  /-- R43 -/
  | registerWrite (t : RegTarget)
  /-- R58 -/
  | ringFrameReceive (f : Frame) (e : FrameEnd)
  /-- R448 -/
  | dictRead (p : Path) (idx sub len : Nat)
  /-- R448 -/
  | dictWrite (p : Path) (idx sub : Nat) (payload : List Byte)
  /-- R448 -/
  | dictReadBlock (p : Path) (idx sub offset len : Nat)
  /-- R60 -/
  | dictWriteBlock (p : Path) (idx sub offset : Nat) (payload : List Byte) (last : Bool)
  /-- R49 -/
  | dictOwnerTimeout
  /-- R66 -/
  | notifyReceive (node idx sub value : Nat)
  /-- R65 -/
  | syncSend
  /-- R393: `t` is the payload; the arrival is the present Invar time -/
  | syncReceive (t : Nat) (crcOk : Bool)
  /-- R65 -/
  | syncPeriodMissed
  /-- R395 -/
  | syncFreeRunning
  /-- R62 -/
  | ringResponseTimeout (seq : Nat)
  /-- R74: a hart's write of MB_CMD on a page -/
  | mailboxCommand (page : World) (value : Nat)
  /-- R358 -/
  | jtagSysbusAccess (w : World) (addr : Nat) (write : Option Nat)
  /-- R67 -/
  | sessionChallenge (node : Nat)
  /-- R67: the commit of the image staged by the node -/
  | sessionOpen (node : Nat)
  /-- R67 -/
  | sessionVerifyDone (node : Nat)
  /-- R68 -/
  | sessionClose (p : Path)
  /-- R68 -/
  | sessionIdleExpiry (node : Nat)
  /-- R68 -/
  | sessionIdleWrite (p : Path) (value : Nat)
  /-- R70 -/
  | mrActiveDrive
  /-- R70 -/
  | mrActiveRelease (c : ReleaseCause)
  /-- R78: the instance that the path's selector names -/
  | instCreate (p : Path)
  /-- R81 -/
  | instEnable (p : Path)
  /-- R95 -/
  | instResetDrain (p : Path)
  /-- R95 -/
  | instResetSquash (p : Path)
  /-- R80 -/
  | instDestroy (p : Path)
  /-- R96 -/
  | instResetDone (inst : Nat)
  /-- R82 -/
  | sqTailDoorbell (inst : Nat) (w : World) (value : Nat)
  /-- R82 -/
  | cqHeadWrite (inst : Nat) (w : World) (value : Nat)
  /-- R83 -/
  | descriptorFetch (inst : Nat)
  /-- R113 -/
  | descriptorReceived (inst : Nat)
  /-- R90 -/
  | jobSlotStart (src : SlotSource)
  /-- R113 -/
  | jobStageComplete (job : Nat)
  /-- R116 -/
  | jobExecuteEnd (job : Nat)
  /-- R86 -/
  | jobOutputDone (job : Nat)
  /-- R85 -/
  | completionRecordWrite (job : Nat)
  /-- R87 -/
  | msiSend (inst : Nat)
  /-- R97 -/
  | dlStart (p : Path)
  /-- R97 -/
  | dlStartDone (inst : Nat)
  /-- R97 -/
  | dlStop (p : Path)
  /-- R93 -/
  | engineFailure (eng : Nat) (why : EngineLoss)
  /-- R105 -/
  | slotMoveComplete (eng : Nat)
  /-- R111 -/
  | sterlingNop (job : Nat)
  /-- R135 -/
  | falcon512Keygen (job : Nat)
  /-- R135 -/
  | falcon1024Keygen (job : Nat)
  /-- R118 -/
  | falcon512Sign (job : Nat)
  /-- R118 -/
  | falcon1024Sign (job : Nat)
  /-- R112 -/
  | falcon512Verify (job : Nat)
  /-- R112 -/
  | falcon1024Verify (job : Nat)
  /-- R112 -/
  | ecdsaP256Verify (job : Nat)
  /-- R112 -/
  | ecdsaP384Verify (job : Nat)
  /-- R116 -/
  | shake128 (job : Nat)
  /-- R116 -/
  | shake256 (job : Nat)
  /-- R116 -/
  | cmacGenerate (job : Nat)
  /-- R116 -/
  | cmacVerify (job : Nat)
  /-- R121 -/
  | pinTranslate (job : Nat)
  /-- R135 -/
  | importFalcon512Public (job : Nat)
  /-- R135 -/
  | importFalcon1024Public (job : Nat)
  /-- R135 -/
  | importP256Public (job : Nat)
  /-- R135 -/
  | importP384Public (job : Nat)
  /-- R111 -/
  | exportPublic (job : Nat)
  /-- R133 -/
  | keyCheck (job : Nat)
  /-- R123 -/
  | drbgReseed (b : Nat)
  /-- R122: which continuous test failed (true: repetition count, false: adaptive proportion) -/
  | esHealthFail (b : Nat) (rct : Bool)
  /-- R122 -/
  | esRestart (p : Path) (b value : Nat)
  /-- R122 -/
  | esStartupDone (b : Nat) (pass : Passed)
  /-- R126 -/
  | engNop (p : Path) (eng : Nat)
  /-- R106 -/
  | engEnable (p : Path) (eng : Nat)
  /-- R126 -/
  | engQuiesce (p : Path) (eng : Nat)
  /-- R106 -/
  | engFence (p : Path) (eng : Nat)
  /-- R106 -/
  | engReset (p : Path) (eng : Nat)
  /-- R125 -/
  | engUpdate (p : Path) (eng : Nat)
  /-- R125 -/
  | updateDrainDone (eng : Nat)
  /-- R106 -/
  | engineSelfTestDone (eng : Nat) (pass : Passed)
  /-- R411 -/
  | attKeyDerived (b : Nat)
  /-- R130: the key slot that the path's selector names -/
  | ksSuspend (p : Path)
  /-- R130 -/
  | ksResume (p : Path)
  /-- R131 -/
  | ksDestroy (p : Path)
  /-- R131 -/
  | ksEraseComplete (handle : Nat)
  /-- R145 -/
  | ksImport (p : Path)
  /-- R145 -/
  | importExecuteDone (b : Nat)
  /-- R146 -/
  | ksStart (p : Path) (value : Nat)
  /-- R137 -/
  | ksUseLimitWrite (p : Path) (value : Nat)
  /-- R144 -/
  | ksProvisionWrite (p : Path) (sub value : Nat)
  /-- R148 -/
  | journalRingWrite (b : Nat)
  /-- R148 -/
  | journalRecordVisible (b : Nat)
  /-- R149 -/
  | journalStallExpiry (b seq : Nat)
  /-- R150 -/
  | journalClose (b : Nat)
  /-- R151 -/
  | checkpointTimeTrigger
  /-- R151 -/
  | ckCommand (p : Path) (value : Nat)
  /-- R151 -/
  | checkpointSigned (b : Nat)
  /-- R153 -/
  | journalNop (job : Nat)
  /-- R154 -/
  | journalRead (job : Nat)
  /-- R154 -/
  | journalReadWaitExpiry (job : Nat)
  /-- R160 -/
  | electrumNop (job : Nat)
  /-- R160 -/
  | electrumTranslate (job : Nat)
  /-- R160 -/
  | electrumValidate (job : Nat)
  /-- R158 -/
  | tableLineFill (eng slot line : Nat)
  /-- R164 -/
  | elbLoad0 (p : Path) (n : Nat)
  /-- R164 -/
  | elbLoad1 (p : Path) (n : Nat)
  /-- R164 -/
  | elbLoadDone (n side : Nat)
  /-- R164 -/
  | elbSwitch (p : Path) (n : Nat)
  /-- R164 -/
  | elbUnload0 (p : Path) (n : Nat)
  /-- R164 -/
  | elbUnload1 (p : Path) (n : Nat)
  /-- R164 -/
  | elbUnloadDone (n side : Nat)
  /-- R179 -/
  | deflateNop (job : Nat)
  /-- R183 -/
  | compress (job : Nat)
  /-- R186 -/
  | decompress (job : Nat)
  /-- R220 -/
  | load (a : HartAccess) (err : ArrayError)
  /-- R220 -/
  | store (a : HartAccess)
  /-- R220 -/
  | storeBufferDrain (hart : Nat) (err : ArrayError)
  /-- R222: `src` is the operand register -/
  | amo (a : HartAccess) (op : AmoOp) (src : Nat)
  /-- R222 -/
  | lr (a : HartAccess)
  /-- R222: `src` is the stored register -/
  | sc (a : HartAccess) (src : Nat)
  /-- R223 -/
  | ioLoad (a : HartAccess)
  /-- R223 -/
  | ioAcceptance (hart dest : Nat)
  /-- R223 -/
  | ioAcceptanceTimeout (hart dest : Nat)
  /-- R217 -/
  | ioResponse (hart tag : Nat) (status : RspStatus) (data : Word)
  /-- R273 -/
  | cboClean (a : HartAccess)
  /-- R273 -/
  | cboFlush (a : HartAccess)
  /-- R273 -/
  | cboInval (a : HartAccess)
  /-- R273 -/
  | cboZero (a : HartAccess)
  /-- R226 -/
  | fence (hart : Nat) (pred succ : FenceSet) (tso : Bool)
  /-- R226 -/
  | fenceRelease (hart : Nat)
  /-- R226 -/
  | fenceI (hart : Nat)
  /-- R202; an instruction word of the custom-0 opcode (R201) -/
  | wcall (hart word : Nat)
  /-- R202 -/
  | wcallEntry (hart : Nat)
  /-- R203 -/
  | wret (hart : Nat)
  /-- R203 -/
  | wretReturn (hart : Nat)
  /-- R366 -/
  | ecall (hart : Nat)
  /-- R212: a CSR write of `mbeinfo`, or of `sbeinfo` -/
  | mbeinfoWrite (hart : Nat) (viaS : Bool) (value : Word)
  /-- R206: a CSR write of `mpsctl`, or of `spsctl` -/
  | samplingArm (hart : Nat) (viaS : Bool) (value : Word)
  /-- R206: the record's fields that describe the instruction, and whether the write is permitted -/
  | counterOverflowSample (hart counter : Nat) (record : List Byte) (w : World)
  /-- R215 -/
  | msiReceive (hart file identity : Nat)
  /-- R195 -/
  | lockstepMismatch (lead : Nat)
  /-- R196; of arrays that recover, R252 and R254 -/
  | coreArrayError (core : Nat) (array : CoreArray)
  /-- R237: the next step of walk number `n` of the hart; `err` the outcome of the PTE read -/
  | pageWalkStep (hart n : Nat) (err : ArrayError)
  /-- R244 -/
  | sfenceVma (hart : Nat) (rs1 rs2 : Option Word)
  /-- R245 -/
  | sinvalVma (hart : Nat) (rs1 rs2 : Option Word)
  /-- R245 -/
  | hfenceVvma (hart : Nat) (rs1 rs2 : Option Word)
  /-- R245 -/
  | hfenceGvma (hart : Nat) (rs1 rs2 : Option Word)
  /-- R245 -/
  | hinvalVvma (hart : Nat) (rs1 rs2 : Option Word)
  /-- R245 -/
  | hinvalGvma (hart : Nat) (rs1 rs2 : Option Word)
  /-- R245 -/
  | sfenceWInval (hart : Nat)
  /-- R245 -/
  | sfenceInvalIr (hart : Nat)
  /-- R246 -/
  | fenceVmaComplete (hart : Nat)
  /-- R249 -/
  | iommuTranslate (r : IommuReq)
  /-- R250: `av` an address argument; GSCID and PSCID arguments where given -/
  | iotinvalVma (av : Option Nat) (gscid pscid : Option Nat)
  /-- R250 -/
  | iotinvalGvma (av : Option Nat) (gscid : Option Nat)
  /-- R250 -/
  | iodirInvalDdt (device : Option Nat)
  /-- R250 -/
  | iodirInvalPdt (device pasid : Nat)
  /-- R250 -/
  | iofenceC
  /-- R35 -/
  | inboundPcieRequest (r : IommuReq) (data : Option Line)
  /-- R272 -/
  | pwEnableWrite (p : Path) (value : Nat)
  /-- R271, with the errors met in the entries read -/
  | pwDrainDone (errs : List (Nat × PwError))
  /-- R269 -/
  | pwPreload (p : Path)
  /-- R269 -/
  | pwLock (p : Path)
  /-- R270 -/
  | pwUnlock (p : Path)
  /-- R269 -/
  | pwFlush (p : Path)
  /-- R269, with the errors met in the entries read -/
  | pwCommandDone (errs : List (Nat × PwError))
  /-- R266 -/
  | prefetchDataReturn (slice line : Nat) (ok : Bool)
  /-- R262: the next entry of the slice, with the data error and the number of tag copies that fail parity -/
  | patrolScrub (slice : Nat) (err : ArrayError) (badTags : Nat)
  /-- R285: with the errors met in the die filter, the directory and Pewter -/
  | readShared (r : HomeReq) (nc : Bool) (fltErr dirErr : ArrayError) (pwErr : PwError)
  /-- R285 -/
  | readOwn (r : HomeReq) (fltErr dirErr : ArrayError) (pwErr : PwError)
  /-- R281 -/
  | upgrade (r : HomeReq) (fltErr dirErr : ArrayError) (pwErr : PwError)
  /-- R285 -/
  | invWrite (r : HomeReq) (data : Line) (mark : Bool) (dirErr : ArrayError) (pwErr : PwError)
  /-- R285 -/
  | partialWrite (r : HomeReq) (mask : BitVec 64) (data : Line) (dirErr : ArrayError) (pwErr : PwError)
  /-- R286 -/
  | homeFetchAdd (r : HomeReq) (size offset operand : Nat) (dirErr : ArrayError) (pwErr : PwError)
  /-- R286 -/
  | homeSwap (r : HomeReq) (size offset operand : Nat) (dirErr : ArrayError) (pwErr : PwError)
  /-- R286 -/
  | homeCas (r : HomeReq) (size offset compare swap : Nat) (dirErr : ArrayError) (pwErr : PwError)
  /-- R286 -/
  | homeFetchOr (r : HomeReq) (size offset operand : Nat) (dirErr : ArrayError) (pwErr : PwError)
  /-- R285 -/
  | lineMaintainClean (r : HomeReq) (dirErr : ArrayError) (pwErr : PwError)
  /-- R285 -/
  | lineMaintainFlush (r : HomeReq) (dirErr : ArrayError) (pwErr : PwError)
  /-- R287 -/
  | writeBackFull (agent line : Nat) (data : Line) (mark : Bool)
  /-- R287 -/
  | writeBackClean (agent line : Nat)
  /-- R283: an S-line eviction of a core, at its die's filter -/
  | evictClean (core line : Nat)
  /-- R285 -/
  | recallAckData (agent line : Nat) (data : Line) (mark : Bool)
  /-- R280: `err` is an error that the recall finds in the L2 (R254) -/
  | recallShare (hart line : Nat) (err : ArrayError)
  /-- R280 -/
  | recallInv (hart line : Nat) (discard : Bool) (err : ArrayError)
  /-- R283 -/
  | inv (die line : Nat) (excepted : Option Nat)
  /-- R285 -/
  | recallAck (agent line : Nat) (wbpend : Bool)
  /-- R285 -/
  | invAck (die line : Nat)
  /-- R279 -/
  | grantAck (agent line : Nat)
  /-- R285 -/
  | cmpWrite (agent line : Nat) (status : RspStatus)
  /-- R280 -/
  | wbAck (hart line : Nat)
  /-- R289 -/
  | retry (agent line : Nat) (res : Bool)
  /-- R290 -/
  | retryGrant (agent line : Nat)
  /-- R280 -/
  | dataShared (agent line : Nat) (data : Line) (mark : Bool)
  /-- R280 -/
  | dataExclusive (agent line : Nat) (data : Line) (mark : Bool)
  /-- R285 -/
  | atomicData (agent line : Nat) (old : Nat)
  /-- R290 -/
  | reservationGrant (slice agent : Nat)
  /-- R278 -/
  | memoryReadData (line : Nat) (data : Line) (mark : Bool)
  /-- R279 -/
  | memoryWriteComplete (line : Nat)
  /-- R296 -/
  | directoryPurge (die : Nat)
  /-- R300 -/
  | flitReceive (router port : Nat) (f : Flit) (c : FlitCheck)
  /-- R300 -/
  | linkReplayRequest (router port : Nat)
  /-- R308: whether the bypass switch works -/
  | routerBypass (router : Nat) (bypassOk : Bool)
  /-- R311 -/
  | injectionGrant (point : Nat)
  /-- R313 -/
  | initiatorTimeout (req : Nat)
  /-- R307 -/
  | vnOrderHoldRelease (edge : Nat)
  /-- R326: a data flit at the receiving end of a module; whether LCRC passes under the expected sequence -/
  | weladeDataFlit (adapter : Nat) (f : Flit) (lcrcOk : Bool)
  /-- R324: ACK, SCREDIT and the QCREDIT totals -/
  | weladeUpdate (adapter ack scredit : Nat) (qcredit : List Nat)
  /-- R326 -/
  | weladeNak (adapter seq : Nat)
  /-- R326 -/
  | weladeReplay (adapter seq : Nat)
  /-- R333: at a sender: the lost module and its last accepted sequence -/
  | weladeResync (adapter lost seq : Nat)
  /-- R325 -/
  | controlFlitSend (adapter : Nat)
  /-- R326 -/
  | nakRepeat (adapter : Nat)
  /-- R327 -/
  | replayTimeout (adapter : Nat)
  /-- R320: UCIe training of a module reaches ACTIVE: failing lanes of each half at this end -/
  | trainingActive (adapter lowBad highBad : Nat)
  /-- R331 -/
  | capabilityRecord (adapter : Nat) (rec : CapRecord)
  /-- R329 -/
  | exchangeTimeout (module : Nat)
  /-- R331 -/
  | trainingTimeout (module : Nat)
  /-- R332 -/
  | sdRetrain (p : Path) (module : Nat)
  /-- R332 -/
  | sdDisable (p : Path) (module : Nat)
  /-- R332 -/
  | sdEnable (p : Path) (module : Nat)
  /-- R332 -/
  | retrainDrainDone (module : Nat)
  /-- R332 -/
  | retrainDrainExpiry (module : Nat)
  /-- R333 -/
  | resyncTimeout (module : Nat)
  /-- R341: first decode, and the decode of the second read where one is made -/
  | mcLineRead (line hint : Nat) (first second : Decode)
  /-- R342 -/
  | mcLineWrite (line hint : Nat) (data : Line) (mark : Bool)
  /-- R339: the number of buffered commands confirmed; whether a needed retraining succeeds -/
  | mcAlert (mc : Nat) (confirmed : Nat) (retrainOk : Passed)
  /-- R338 -/
  | pageIdleClose (mc bank : Nat)
  /-- R347 -/
  | mcSwitch (p : Path) (mc : Nat)
  /-- R348 -/
  | mcSwitchDone (mc : Nat) (pass : Passed)
  /-- R349 -/
  | mcSpareSoft (p : Path) (mc : Nat)
  /-- R349 -/
  | mcSpareHard (p : Path) (mc : Nat)
  /-- R350 -/
  | mcSpareDone (mc : Nat) (spareLeft : Bool)
  /-- R346 -/
  | mcTestModeWrite (p : Path) (mc value : Nat)
  /-- R361 -/
  | blkToNormal (p : Path) (n : Nat)
  /-- R361 -/
  | blkToTantalum (p : Path) (n : Nat)
  /-- R361 -/
  | handoverReleaseDone (n : Nat)
  /-- R361 -/
  | irqToNormal (p : Path)
  /-- R361 -/
  | irqToTantalum (p : Path)
  /-- R354 -/
  | wrEnableWrite (p : Path) (n value : Nat)
  /-- R357 -/
  | scrubListWrite (p : Path) (sub value : Nat)
  /-- R359 -/
  | debugEnableWrite (p : Path) (sub value : Nat)
  /-- R364 -/
  | watchdogKick (p : Path) (value : Nat)
  /-- R364 -/
  | watchdogExpiry
  /-- R365 -/
  | secureLossHartAction (hart : Nat)
  /-- R368 -/
  | tkRestart (p : Path)
  /-- R368: the harts that pass self-test -/
  | tkRestartDone (selfTestOk : List Nat)
  /-- R368 -/
  | tkDeclareDown (p : Path)
  /-- R415 -/
  | deferredResetApply (hart : Nat)
  /-- R370: the message of the source's queue that the arbiter grants next; `corrected` says whether the storage of the log corrects an
  error as it is accessed (R374) -/
  | faultAccept (corrected : Bool)
  /-- R376 -/
  | frAck (p : Path)
  /-- R376 -/
  | frClear (p : Path)
  /-- R376 -/
  | srcClear (p : Path) (source : Nat)
  /-- R376 -/
  | clearAll (p : Path)
  /-- R377 -/
  | urgentEscalation (element : Nat)
  /-- R377 -/
  | foldedUrgentEscalation (source : Nat)
  /-- R382 -/
  | regulatorPhaseLoss (source : Nat)
  /-- R383: whether the firmware image verifies -/
  | mgmtLockstepMismatch (verified : Passed)
  /-- R383 -/
  | mgmtResume
  /-- R387 -/
  | harfortL0 (link : Nat) (width : Nat)
  /-- R387 -/
  | harfortRecordReceive (link : Nat) (rec : HfRecord)
  /-- R388 -/
  | harfortReplayLimit (link : Nat)
  /-- R388 -/
  | harfortTrainLimit (link : Nat)
  /-- R388 -/
  | hfRetrain (p : Path) (link : Nat)
  /-- R388 -/
  | hfDisable (p : Path) (link : Nat)
  /-- R388 -/
  | hfEnable (p : Path) (link : Nat)
  /-- R392 -/
  | harfortResendTimeout (peer : Nat)
  /-- R397: bit 4a + b of `far`: packages a and b have a link in service -/
  | partitionHoldExpiry (far : Nat)
  /-- R400 -/
  | partVerdictContinue (p : Path)
  /-- R399 -/
  | partVerdictFence (p : Path)
  /-- R398 -/
  | partitionDecideExpiry
  /-- R413: whether the standby rail had been off -/
  | powerOn (standbyWasOff : Bool)
  /-- R413 -/
  | packageReset
  /-- R407: PKG_RST_N rises with these strap levels, on this board -/
  | packageResetRelease (straps : Nat) (found : BootFinding)
  /-- R417 -/
  | bootActivate (p : Path)
  /-- R417 -/
  | activateDone
  /-- R406 -/
  | bootRevokeKey0 (p : Path)
  /-- R406 -/
  | bootRevokeKey1 (p : Path)
  /-- R406 -/
  | bootAdvanceSvn (p : Path)
  /-- R406 -/
  | fuseBlowDone
  /-- R403 -/
  | bootCheck (p : Path)
  /-- R410 -/
  | measExtend (p : Path) (payload : List Byte)
  /-- R412 -/
  | attSign (p : Path)
  /-- R412 -/
  | attSigned (b : Nat)
  /-- R414 -/
  | dieResetComplete (die : Nat) (pass : Passed) (features : Nat)
  /-- R441 -/
  | railOutOfTolerance (rail : Nat)
  /-- R441 -/
  | standbyLoss
  /-- R444 -/
  | throttleNFall
  /-- R444 -/
  | throttleNRise
  /-- R444 -/
  | throttleLift
  /-- R444: the die whose sensor reads the temperature -/
  | thermalCapTick (die temperature : Nat)
  /-- R444 -/
  | thermalCapLift (die temperature : Nat)
  /-- R445 -/
  | thermalTrip (die point : Nat)
  /-- R442: the average power in mW -/
  | powerCapTick (average : Nat)
  /-- R442 -/
  | powerCapLift (average : Nat)
  /-- R420 -/
  | cgEventWrite (p : Path) (sub value : Nat)
  /-- R423 -/
  | pcFreeze (p : Path)
  /-- R423 -/
  | freezeGatherDone
  /-- R424 -/
  | pcUnfreeze (p : Path)
  /-- R426 -/
  | bwStart (p : Path)
  /-- R427 -/
  | bwStop (p : Path)
  /-- R426 -/
  | bwWindowEnd
  /-- R70 -/
  | mrInSymbolLockLost
  /-- R200 -/
  | mret (hart : Nat)
  /-- R209: the interrupt that the hart takes -/
  | interruptTaken (hart cause : Nat)
  /-- R392: `far` as of partitionHoldExpiry -/
  | harfortL0Lost (link far : Nat)
  /-- R436: the levels driven, contact number and level -/
  | extest (levels : List (Nat × Bool))
deriving DecidableEq, Repr, Inhabited

end Sys2Proof
end

