-- ==== Sys2Proof/Config.lean ====
section
/-!
DEFINITION. What one implementation of the package fixes and the manual leaves to fuses, straps and
training (logs 5 and 6), and the free values (log 8): constants without a body, about which
nothing can be proved but what holds of every value.
-/
namespace Sys2Proof.Config

/-- Feature bitmap that every die reports (R24, Table 01-3): every feature set. DESIGN CHOICE (log 5). -/
def dieFeatures : Nat := 0xFFFF_FFFF_FFFF_FFFF

/-- Stepping code of a die (Table 00-7): compute dies B0, base dies B0, IOD A1. DESIGN CHOICE (log 5). -/
def dieStepping (die : Nat) : Nat := if die = 16 then 0x11 else 0x20

/-- Serial number of a die. DESIGN CHOICE (log 5). -/
def dieSerial (die : Nat) : Nat := 0x5853_0000 + die

/-- Where the management firmware places the monitor and the Tantalum firmware in HBM, and the monitor's entry: the manual names no
address (R407 step 4; log 86). -/
opaque monitorBase : Nat
opaque tantalumBase : Nat
opaque monitorEntry : Nat

/-- The ring node of a package: each board straps its own packages, and the manual fixes no relation to `pkgNumber` (R63, R398; log 78). -/
opaque ringNodeOf : Nat → Nat

/-- The n-th free byte. No body: a statement about it holds for every value (log 8). -/
opaque freeByte : Nat → Byte

/-- The n-th free word. -/
opaque freeWord : Nat → Word

/-- The n-th free truth value. -/
opaque freeBool : Nat → Bool

/-- Whether a staged microcode image verifies under one of the boot keys whose digests are given, its version and its epoch: the
container's format lies outside the manual (R125; log 101). -/
opaque ucodeValid : List Byte → List (List Byte) → Bool
opaque ucodeVersion : List Byte → Nat
opaque ucodeEpoch : List Byte → Nat

/-- What the sampler of attempt 1, 2 or 3 of a Falcon signing job gives as s2, from the parameter set, the private key, the hashed point
and the 32-byte seed of the sampler stream (R118): the arithmetic behind it is the engine's microcode (R109; log 76). -/
opaque falconSample : Nat → List Byte → List Nat → List Byte → Nat → List Int

/-- The Falcon private key and the coefficients of the public key that a key generation makes, from the parameter set and its
randomness (log 76). -/
opaque falconPrivate : Nat → List Byte → List Byte
opaque falconPublic : Nat → List Byte → List Nat

/-- Whether BITMAP_BUILD writes hex digits above 9 in lower case (R173, Table 06-12 does not say; log 79). -/
opaque hexLower : Bool

/-- Whether the object at an index lives in its unit, so that it does not answer while the unit is FENCED, BYPASSED or OFF: R49 names
none (log 42). -/
opaque objectInUnit : Nat → Bool

/-- The check symbols that a memory controller computes for a line, by their number: the code's generator lies outside the manual
(Table 15-1; log 12). -/
opaque checkSymbols : Nat → Line → List Byte

/-- The root port to which an address of configuration or BAR space leads: the system's software lays out buses and windows
(log 44). -/
opaque rootPortOf : Nat → Nat

/-- `n` free bytes from counter value `c` on. -/
def freeBytes (c n : Nat) : List Byte := (List.range n).map (fun i => freeByte (c + i))

end Sys2Proof.Config
end

