-- ==== Sys2Proof/Machine/State.lean ====
section
/-!
DEFINITION. The state of the block, as plain data: every register, buffer, queue and pin that
chapters 00 to 21 give the package, and the queue of commands that are waiting.
Dictionary sub-entries live in `Dev.regs` and `Dev.doms` under the manual's own numbers (R41);
everything else has a field of its own.
-/
namespace Sys2Proof.Machine

/-! ## Outcomes -/

/-- Why the block stops with a fault. The package reports its errors through Fusible, the status
codes and the harts' exceptions, all of which are next states; no command ends in a fault. -/
inductive Fault where
  /-- Raised by no meaning: kept so that the type names its one possible reason, a command on a block
  the package does not have. Safe. -/
  | noSuchBlock
deriving DecidableEq, Repr

/-- Why a command is turned away by the model. -/
inductive Refusal where
  /-- Raised only by the dispatch of a command that has no meaning yet. Safe. -/
  | notModelled (mnemonic : String)
  /-- An operand names a block, slot or register that the package does not have. Raised by `occursAt` and
  by the rows of dictionary writes. Safe. -/
  | noSuchOperand (rule : Nat)
deriving DecidableEq, Repr

/-! ## Status codes (Table 02-3) and responses -/

/-- The status codes of dictionary transactions. -/
inductive Status where
  | ok
  | noObject
  | noSub
  | type
  | length
  | world
  | accessDenied
  | writeOnce
  | range
  | busy
  | timeout
deriving DecidableEq, Repr, Inhabited

/-- The last response on a path. -/
structure Resp where
  status : Status
  data   : List Byte
deriving DecidableEq, Repr, Inhabited

/-- A transaction that waits for its owning unit, or for the management firmware (R49, R383). -/
structure WaitTx where
  path     : Path
  /-- the sequence number of its ring request; 256 where it came in no frame -/
  tag      : Nat
  idx      : Nat
  sub      : Nat
  /-- the value written, a read where none -/
  write    : Option (List Byte)
  /-- it waits for the firmware to resume, not for its unit -/
  firmware : Bool
  deadline : Nat
deriving DecidableEq, Repr, Inhabited

/-- A staged block-write image (R60). -/
structure Staged where
  path  : Nat
  key   : Nat
  bytes : List Byte
deriving DecidableEq, Repr, Inhabited

/-! ## Time -/

/-- Invar time in ns, a pending hold (R394), the slew still to apply, and the root cycle count. -/
structure Clock where
  invar    : Nat
  /-- ns for which a first negative offset still holds Invar still -/
  hold     : Nat
  /-- ns still to be slewed, and its sign (true: forward) -/
  slew     : Nat
  slewUp   : Bool
  root     : Nat
  /-- the root count at which the PLL of a die locked -/
  locks    : Tab Nat
deriving DecidableEq, Repr, Inhabited

/-! ## Harts -/

/-- Privilege of a hart. -/
inductive Priv where
  | u
  | s
  | m
deriving DecidableEq, Repr, Inhabited

/-- L2 states (R280). -/
inductive L2State where
  | i
  | s
  | e
  | m
  | is
  | im
  | sm
  | ei
  | mi
deriving DecidableEq, Repr, Inhabited

/-- Who waits for the request of an L2 line: the instruction that the hart executes, a page walk, a retired store. -/
inductive Asker where
  | inst
  | walk
  | store
deriving DecidableEq, Repr, Inhabited

/-- A line in an L2. -/
structure L2Line where
  state : L2State
  data  : Line
  mark  : Bool
  /-- the request that the line waits for, in a transient state -/
  req   : Option HomeReq
  /-- refused with RES = 0: held until the reserved request is served (R289) -/
  held  : Bool := false
  /-- who waits for that request -/
  askers : List Asker := []
deriving DecidableEq, Repr, Inhabited

/-- What a store-buffer entry does when it leaves (R220, R225). -/
inductive StoreKind where
  | plain
  | zero
  | clean
  | flush
  | inval
deriving DecidableEq, Repr, Inhabited

/-- One entry of a store buffer. -/
structure StoreEntry where
  pa    : Nat
  size  : Nat
  data  : Nat
  io    : Bool
  world : World
  kind  : StoreKind
  hint  : Nat
  /-- stream hint of its instruction -/
  stream : Nat
  /-- PBMT of the leaf, on a memory region (R234): 0 PMA, 1 NC, 2 IO -/
  pbmt  : Nat
deriving DecidableEq, Repr, Inhabited

/-- How an I/O access acts on its target (R224, R225). -/
inductive IoKind where
  | plain
  /-- AMOSWAP and AMOADD, which a BAR takes as PCIe Swap and FetchAdd, with the operand -/
  | swap (operand : Nat)
  | fetchAdd (operand : Nat)
  /-- another AMO, LR or SC -/
  | otherAtomic
  /-- CBO.CLEAN, CBO.FLUSH or CBO.INVAL -/
  | maintain
deriving DecidableEq, Repr, Inhabited

/-- The answer of a home to a hart's request other than a cacheable read, for its store buffer or for the instruction that waits. -/
structure HomeAnswer where
  line  : Nat
  store : Bool
  ok    : Bool
  value : Nat
deriving DecidableEq, Repr, Inhabited

/-- One entry of the non-posted tracker (R224). -/
structure NonPosted where
  tag   : Nat
  pa    : Nat
  size  : Nat
  world : World
  /-- what the package itself answers; none where the answer comes from outside -/
  answer : Option RspStatus
  kind  : IoKind
  /-- the region descriptor that covered it at its injection (R219) -/
  rgn   : Option Nat
  /-- a store to memory under the I/O attribute (R234), which the home of its line answers -/
  home  : Bool := false
deriving DecidableEq, Repr, Inhabited

/-- The one outstanding I/O load or I/O atomic of a hart (R223, R225). -/
structure IoLoadState where
  tag    : Nat
  pa     : Nat
  size   : Nat
  reg    : Nat
  signed : Bool
  ilen   : Nat
  va     : Word
  store  : Bool
  world  : World
  answer : Option RspStatus
  kind   : IoKind
deriving DecidableEq, Repr, Inhabited

/-- An I/O access whose acceptance has not come (R223). -/
structure Acceptance where
  tag      : Nat
  dest     : Nat
  vn       : Nat
  deadline : Nat
deriving DecidableEq, Repr, Inhabited

/-- A leaf in a TLB (R242, R243); `log` is the log2 of its size in bytes. -/
structure TlbEntry where
  gstage : Bool
  v      : Bool
  vmid   : Nat
  asid   : Nat
  g      : Bool
  va     : Nat
  log    : Nat
  pa     : Nat
  r      : Bool
  w      : Bool
  x      : Bool
  u      : Bool
  d      : Bool
  /-- R and X of the G-stage leaf of a combined translation; true otherwise -/
  gr     : Bool
  gx     : Bool
  pbmt   : Nat
  hint   : Nat
deriving DecidableEq, Repr, Inhabited

/-- A non-leaf entry of a partial-walk cache (R242): level, the address bits above that level's index, the table it names. -/
structure PwcEntry where
  gstage : Bool
  v      : Bool
  vmid   : Nat
  asid   : Nat
  g      : Bool
  level  : Nat
  prefix_ : Nat
  table  : Nat
deriving DecidableEq, Repr, Inhabited

/-- The type of an access that needs translation. -/
inductive AccessType where
  | fetch
  | load
  | store
deriving DecidableEq, Repr, Inhabited

/-- A G-stage walk inside a two-stage walk. -/
structure GWalk where
  gpa   : Nat
  level : Nat
  table : Nat
  /-- true when it translates the final guest-physical address -/
  last  : Bool
deriving DecidableEq, Repr, Inhabited

/-- A page walk in flight (R236). -/
structure Walk where
  va     : Nat
  access : AccessType
  amo    : Bool
  priv   : Priv
  v      : Bool
  vmid   : Nat
  asid   : Nat
  world  : World
  spec   : Bool
  mode   : Nat
  gmode  : Nat
  level  : Nat
  table  : Nat
  global : Bool
  gw     : Option GWalk
  /-- physical address of the VS-stage PTE once the G-stage has given it -/
  ptePa  : Option Nat
  /-- the first-stage leaf once read -/
  leaf   : Option TlbEntry
  read   : List PwcEntry
  /-- G-stage leaves that VS-stage reads used -/
  gleaves : List TlbEntry
deriving DecidableEq, Repr, Inhabited

/-- A bus-error log (Table 08-10). -/
structure BusLog where
  info : Word
  addr : Word
deriving DecidableEq, Repr, Inhabited

/-- Which invalidation a hart waits to perform (R244 to R246). -/
inductive InvalKind where
  | vma (v : Bool)
  | gvma
deriving DecidableEq, Repr, Inhabited

/-- What a hart is waiting for. -/
inductive Wait where
  | none
  | fence (pred succ : FenceSet)
  | wcall
  | wret
  | inval (k : InvalKind) (rs1 rs2 : Option Word)
  | invalW
deriving DecidableEq, Repr, Inhabited

/-- One hart with its core. -/
structure Hart where
  pc       : Word
  priv     : Priv
  v        : Bool
  /-- x1 to x31; x0 reads as zero through the accessor -/
  xregs    : Tab Word
  fregs    : Tab Word
  vregs    : Tab (List Byte)
  /-- CSRs that differ from their reset value, by address -/
  csrs     : Tab Word
  /-- the bus-error logs of the normal and of the Tantalum world -/
  logN     : BusLog
  logT     : BusLog
  /-- entered M by WCALL and no trap into M since (R365) -/
  inWcall  : Bool
  running  : Bool
  resv     : Option Nat
  sbuf     : List StoreEntry
  tracker  : List NonPosted
  ioLoad   : Option IoLoadState
  accepts  : List Acceptance
  nextTag  : Nat
  wait     : Wait
  l2       : Tab L2Line
  l1d      : List Nat
  l1i      : List Nat
  /-- lines whose request was answered with an error, each for one who waits -/
  lineErr  : List (Nat × Asker)
  /-- the victim buffer: writebacks, evictions and recall data that wait for the one before them (R287) -/
  victims  : List Instr
  /-- answers of a home to requests other than cacheable reads -/
  homeDone : List HomeAnswer
  /-- the first part of a misaligned load that is performed as two accesses (R191) -/
  half     : Option Nat
  /-- the L2 TLB, the L1 ITLB and the L1 DTLB (Table 10-5), most recently used first -/
  tlb      : List TlbEntry
  itlb     : List TlbEntry
  dtlb     : List TlbEntry
  pwc      : List PwcEntry
  walks    : List Walk
  /-- instructions already fetched but not executed -/
  fetched  : List Word
  /-- pending identities of the IMSIC files, supervisor file 0 and guest files 1 to 7 -/
  imsic    : Tab (List Nat)
  /-- a normal-world reset waits for this hart (R415) -/
  deferred : Bool
  /-- the hart must be handled under R365 -/
  lossDue  : Bool
  /-- fenced by R365, so a restart enables it again (R368) -/
  lostToTk : Bool
  /-- WRET has returned and no instruction has executed since (R204) -/
  returned : Bool
  /-- overflows of the sampled counter whose record is not written yet: the counter and the world at the event (R206) -/
  sampleDue : List (Nat × World)
deriving DecidableEq, Repr, Inhabited

/-! ## Engine instances and jobs -/

/-- The page registers of an instance and what is tracked beside them (03). -/
structure Inst where
  sqTail   : Nat
  sqHead   : Nat
  cqHead   : Nat
  cqTail   : Nat
  /-- phase of the next record -/
  phase    : Bool
  dbErrors : Nat
  /-- a descriptor fetch is outstanding -/
  fetching : Bool
  /-- jobs in fetch order -/
  queue    : List Nat
  /-- MSIs due, each with its job's tag -/
  msis     : List Nat
  /-- placed slots in placement order: engine and slot, or none when unplaced (R105) -/
  slotMap  : List (Option (Nat × Nat))
  /-- dirty logging runs -/
  dlOn     : Bool
  /-- free completion records are counted from these -/
  unreleased : Nat
  squash   : Bool
  /-- MSIs that have been sent and are not yet delivered; those of them that a start of dirty logging waits for -/
  sent     : List Instr
  dlWait   : List Instr
deriving DecidableEq, Repr, Inhabited

/-- A job in flight (R83, R113). -/
structure Job where
  inst      : Nat
  desc      : List Byte
  phase     : Nat
  slot      : Option (Nat × Nat)
  partner   : Option (Nat × Nat)
  /-- engines it may not use again (R119) -/
  avoid     : List Nat
  keyOk     : Bool
  /-- handles whose slots it holds (R131) -/
  holds     : List Nat
  target    : Option Nat
  genA      : Nat
  input     : List Byte
  aux       : List Byte
  rand      : List Byte
  opDone    : Bool
  status    : Nat
  detail    : Nat
  out       : List Byte
  written   : Nat
  attempts  : Nat
  /-- the Result field; of a Sterling job, 1 plus the base die of the journal written (R115) -/
  result    : Nat
  journal   : Option (Nat × Nat)
  deadline  : Nat
  bank      : Option (Nat × Nat)
  version   : Nat
  restarted : Bool
  selfFails : Nat
  /-- context bytes to write back (07) -/
  ctxOut    : List Byte
  /-- journal entries copied (R154) -/
  copied    : Nat
  /-- address of the access that failed -/
  failAddr  : Nat
  /-- the wrapped blobs of keys A and B, once staged (R113); after execution, the material of a key to create, and what the
  partner of a guarded pair computed -/
  blobA     : List Byte
  blobB     : List Byte
  /-- table lines that the job has waited for (R158) -/
  seen      : List Nat
deriving DecidableEq, Repr, Inhabited

/-- Owner of an engine slot (R101, Table 04-8). -/
inductive SlotOwner where
  | free
  | mgmt
  | inst (i : Nat)
deriving DecidableEq, Repr, Inhabited

/-- A slot move in progress (R105). -/
structure SlotMove where
  /-- the engine that left, or the engine whose slot 15 a die takes -/
  eng      : Nat
  /-- the instance and the position in its slot map, or 0xFFFE and the base die of a management slot -/
  inst     : Nat
  pos      : Nat
  place    : Nat × Nat
deriving DecidableEq, Repr, Inhabited

/-- What an engine is doing beside its jobs. -/
inductive EngTask where
  | none
  | selfTest
  /-- the image of its update is in verification on a management slot (R125) -/
  | verify
  | drain
  | update
deriving DecidableEq, Repr, Inhabited

/-- The part of an engine that no register shows. -/
structure Eng where
  task      : EngTask
  /-- an engCommand reads RUNNING through this task -/
  command   : Bool
  /-- 1 plus the version of the image that an update loads, else 0 -/
  newVer    : Nat
  /-- the package KEK, as the engine derived it at its reset (R138) -/
  kek       : List Byte
deriving DecidableEq, Repr, Inhabited

/-- Kinds of management work (R451). -/
inductive MgmtKind where
  | session (node id : Nat)
  | import_ (handle : Nat)
  | checkpoint (trigger : Nat)
  | attest (path : Nat)
  | bootSlot
  /-- the staged microcode image, for an engine's UPDATE -/
  | ucode (eng : Nat)
deriving DecidableEq, Repr, Inhabited

/-- A piece of management work, on the management slot of a base die. -/
structure MgmtWork where
  kind      : MgmtKind
  die       : Nat
  data      : List Byte
  restarted : Bool
  /-- sequence of its journal record once appended, and the end of its stall time -/
  seq       : Option Nat
  deadline  : Nat
  out       : List Byte
  status    : Nat
  /-- failed self-checks of its signature (R119) -/
  fails     : Nat
deriving DecidableEq, Repr, Inhabited

/-! ## Key store, journals, randomness -/

/-- Key-store state beside the descriptors in memory (05). -/
structure KeyStore where
  started   : Bool
  /-- cached handles of each base die and set, most recent first; key: die * 512 + set -/
  cache     : Tab (List Nat)
  /-- handles claimed by an import, with the state before -/
  claims    : List (Nat × Nat)
  /-- the secure firmware's inventory of generated handles (R136) -/
  inventory : List Nat
deriving DecidableEq, Repr, Inhabited

/-- A record in a staging buffer (R148, R149). -/
structure StagedRec where
  seq      : Nat
  bytes    : List Byte
  /-- its ring write is issued but not yet visible -/
  issued   : Bool
  slots    : List (Nat × Nat)
deriving DecidableEq, Repr, Inhabited

/-- A journal beside its dictionary object. -/
structure Journal where
  staged   : List StagedRec
  /-- sequence number of the oldest record not freed -/
  freed    : Nat
  /-- sequence number and chain value of the last record in the ring -/
  ringSeq  : Option Nat
  ringHead : List Byte
  genesis  : List Byte
  /-- records appended since the last checkpoint was latched -/
  sinceCk  : Nat
deriving DecidableEq, Repr, Inhabited

/-- Checkpoint service state (R151, R152). -/
structure Checkpoints where
  lastTime  : Nat
  prevHash  : List Byte
  /-- entries freed in the checkpoint ring -/
  freed     : Nat
  /-- last sequence covered, per journal, for the Count fields -/
  covered   : Tab Nat
  /-- a trigger was missed or is to be retried -/
  retry     : Bool
  /-- the trigger that is tried again -/
  retryTrigger : Nat
  wasDown   : Bool
  startTime : Nat
deriving DecidableEq, Repr, Inhabited

/-- A base die's DRBG (R123). -/
structure Drbg where
  ready     : Bool
  serving   : Bool
  calls     : Nat
  lastSeed  : Nat
  /-- the working state of the CTR_DRBG -/
  key       : List Byte
  v         : Nat
deriving DecidableEq, Repr, Inhabited

/-- A bank side's hidden state (R164 to R166). -/
structure BankSide where
  version   : Nat
  /-- order in which the sides of the bank last read DONE -/
  loadOrder : Nat
  loading   : Bool
  unloading : Bool
  length    : Nat
deriving DecidableEq, Repr, Inhabited

/-- Where a decoder stands in a DEFLATE stream (07): in a header, between blocks, in a stored block with bytes left, in a block
with these code lengths, in a trailer. -/
inductive DfMode where
  | header
  | block
  | stored (left : Nat) (final : Bool)
  | codes (lit dist : List Nat) (final : Bool)
  | trailer
deriving DecidableEq, Repr, Inhabited

/-- What the engine's own fields of a DEFLATE context stand for (Table 07-4): bits held over, where the decoder stands, and the
distance that the stream's header allows. -/
structure DfSave where
  held   : List Bool
  mode   : DfMode
  window : Nat
deriving DecidableEq, Repr, Inhabited

/-! ## Ring, sessions and mailboxes -/

/-- A session of a ring node (R67 to R69). -/
structure Session where
  role : Nat
  last : Nat
deriving DecidableEq, Repr, Inhabited

/-- A session that is being opened (R67): the node, the sequence number of its commit (256 where that came in no frame), the digest
that the signature covers, the public key, the signature, and the role of the operator key. -/
structure Opening where
  node   : Nat
  id     : Nat
  tag    : Nat
  digest : List Byte
  key    : List Byte
  sig    : List Byte
  role   : Nat
deriving DecidableEq, Repr, Inhabited

/-- A request of the package itself that awaits a response (R62). -/
structure RingWait where
  frame    : Frame
  resends  : Nat
  deadline : Nat
deriving DecidableEq, Repr, Inhabited

/-- The ring port. -/
structure Ring where
  lock       : Bool
  running    : Bool
  driven     : Bool
  terminated : Bool
  stripSeen  : Bool
  /-- last executed sequence and response of each source (R61) -/
  remembered : Tab Frame
  /-- requests still executing (R61), at 512 times the source plus the sequence number -/
  executing  : Tab Frame
  outbox     : List (Frame × FrameEnd)
  waits      : List RingWait
  nextSeq    : Nat
  sessions   : Tab Session
  challenges : Tab (List Byte)
  /-- commits that await verification -/
  opening    : List Opening
  /-- when the last valid SYNC came, in the ns that REFCLK has counted; none until one arms the check -/
  lastSync   : Option Nat
  firstDone  : Bool
  /-- periods in a row without a valid SYNC; the end of the present one and the time of node 0's next SYNC, in REFCLK ns -/
  missedRun  : Nat
  periodEnd  : Nat
  nextSync   : Nat
  /-- what NOTIFY frames have told node 0 of the packages' headers (R66): at 256 times the node plus the sub-index -/
  reports    : Tab Nat
  /-- the status with which the package's last read of each such sub-entry ended (R62) -/
  results    : Tab Nat
deriving DecidableEq, Repr, Inhabited

/-- A mailbox page (Table 02-10). -/
structure Mailbox where
  addr   : Nat
  xfer   : Nat
  cmd    : Nat
  busy   : Bool
  code   : Nat
  irqen  : Nat
  data   : List Byte
deriving DecidableEq, Repr, Inhabited

/-! ## Fault collection -/

/-- A fault message on its way to Fusible (R369). -/
structure FaultMsg where
  time     : Nat
  valid    : Bool
  addr     : Nat
  syndrome : Nat
  kind     : Nat
  lost     : Bool
deriving DecidableEq, Repr, Inhabited

/-- A stored record (Table 17-1). -/
structure FaultRec where
  msg       : FaultMsg
  source    : Nat
  cls       : Nat
  state     : Nat
  contained : Bool
  escalated : Bool
  seq       : Nat
  deadline  : Nat
deriving DecidableEq, Repr, Inhabited

/-- Fusible (17). -/
structure Fusible where
  queues   : Tab (List FaultMsg)
  /-- sources whose next message carries LOST -/
  lostNext : Tab Nat
  log      : Tab FaultRec
  /-- folded class of each source, and its URGENT deadline -/
  folded   : Tab Nat
  timers   : Tab Nat
  stopped  : Bool
deriving DecidableEq, Repr, Inhabited

/-! ## Coherence, Pewter and the fabric -/

/-- A directory entry (Table 12-5): state 1 S, 2 X. -/
structure DirEntry where
  line    : Nat
  state   : Nat
  remote  : Nat
  isLocal : Bool
  holders : Nat
deriving DecidableEq, Repr, Inhabited

/-- What an open transaction at a home does (R285). -/
inductive TxnKind where
  | shared (nc : Bool)
  | own
  | invWrite (data : Line) (mark : Bool)
  | partialWrite (mask : BitVec 64) (data : Line)
  | fetchAdd (size offset operand : Nat)
  | swap (size offset operand : Nat)
  | cas (size offset compare new : Nat)
  | fetchOr (size offset operand : Nat)
  | clean
  | flush
  | victim
deriving DecidableEq, Repr, Inhabited

/-- An open transaction at a home (R279). -/
structure Txn where
  req      : HomeReq
  kind     : TxnKind
  /-- agents whose recall answers are awaited -/
  recalls  : List Nat
  /-- dies whose InvAck is awaited -/
  acks     : List Nat
  /-- waiting for a writeback in flight (WBPEND) -/
  wbPend   : Bool
  memRead  : Bool
  memWrite : Bool
  grantee  : Option Nat
  /-- the line of the request that waits for this back-invalidation, if it is one -/
  after    : Option Nat
  /-- waiting for a back-invalidation to free a way (R292) -/
  hold     : Bool
  /-- the writeback of the recalled owner came before its answer -/
  wbSeen   : Bool
  /-- old value of an atomic at home, once read -/
  old      : Nat
  /-- its read fills an entry of a locked segment that an error emptied (R260) -/
  refill   : Bool := false
deriving DecidableEq, Repr, Inhabited

/-- A reservation (R289, R290). -/
structure Resv where
  line    : Nat
  /-- the request is one that needs a directory entry (R285) -/
  needs   : Bool
  granted : Bool
deriving DecidableEq, Repr, Inhabited

/-- A prefetch stream (R263, R264). -/
structure Stream where
  world  : World
  req    : Nat
  hint   : Nat
  block  : Nat
  stride : Int
  conf   : Bool
deriving DecidableEq, Repr, Inhabited

/-- A home slice with its directory and its Pewter slice's small structures. -/
structure Home where
  /-- directory sets, most recently used first -/
  dir       : Tab (List DirEntry)
  txns      : List Txn
  resvs     : Tab Resv
  lostLines : List Nat
  sideBuf   : List (Nat × Line × World)
  streams   : List Stream
  /-- prefetch reads in flight; false once an operation has made its return fill nothing (R275) -/
  prefetches : List (Nat × Bool)
  scrubPos  : Nat
deriving DecidableEq, Repr, Inhabited

/-- A Pewter entry. -/
structure PwEntry where
  line  : Nat
  dirty : Bool
  mark  : Bool
  data  : Line
deriving DecidableEq, Repr, Inhabited

/-- A die-filter entry (R282). -/
structure FilterEntry where
  line     : Nat
  presence : Nat
  x        : Bool
  /-- cores whose eviction a victim choice awaits -/
  leaving  : Nat
deriving DecidableEq, Repr, Inhabited

/-- A non-posted request with its timer (R312). -/
inductive ReqOwner where
  | hartStore (hart tag : Nat)
  | hartLoad (hart tag : Nat)
  | hartLine (hart line : Nat)
  | homeRecall (agent line : Nat)
  | homeInv (die line : Nat)
  | homeRead (line : Nat)
  | homeWrite (line : Nat)
  | inbound (port line : Nat)
deriving DecidableEq, Repr, Inhabited

/-- An outstanding request. -/
structure Req where
  owner    : ReqOwner
  deadline : Nat
deriving DecidableEq, Repr, Inhabited

/-- A request waiting at an injection point (R311). -/
structure InjReq where
  initiator : Nat
  cls       : Nat
  flits     : Nat
  /-- FCLK at which it was queued -/
  since     : Nat
  msg       : Instr
  /-- the timer that its injection starts, and its length in microseconds -/
  timer     : Option (ReqOwner × Nat)
deriving DecidableEq, Repr, Inhabited

/-- A router's input-link state (R300, R308). -/
structure Router where
  bypassed : Bool
  /-- consecutive failed replays and spares used, per input port -/
  fails    : Tab Nat
  spares   : Tab Nat
  /-- flits held for replay, per input port -/
  replaying : Tab (List Flit)
deriving DecidableEq, Repr, Inhabited

/-- The routes of a fabric: the in-service sets of its edges (0 to 3 the leading ends, 4 to 7 the inner edges, 8 on the faces) and
`fabOppositeRoute`. -/
structure Routes where
  sets     : List (List Nat)
  opposite : Nat
deriving DecidableEq, Repr, Inhabited

/-- VN5 and VN6 flits held after a route change (R307): with the mesh that each waits in; the flits of the old assignment that are not
yet acknowledged; the routes of that assignment. -/
structure OrderHold where
  flits : List (Nat × Flit)
  waits : List Flit
  old   : Routes
deriving DecidableEq, Repr, Inhabited

/-- The on-package network (13). -/
structure Fabric where
  /-- messages and completions in flight, as the commands that will deliver them -/
  net     : List Instr
  /-- requests of agents other than cacheable reads that are outstanding at a home: agent, line, request -/
  ops     : List (Nat × Nat × Instr)
  /-- requests refused with a reservation, and those of such a message that wait for the reserved one: agent and line (R289) -/
  reserved : List (Nat × Nat)
  heldOps : List (Nat × Nat)
  reqs    : Tab Req
  nextReq : Nat
  /-- tokens in 1/1024 flits, by injection point * 64 + class, and the FCLK they were counted at -/
  tokens  : Tab (Nat × Nat)
  injQ    : Tab (List InjReq)
  routers : Tab Router
  /-- VN5 and VN6 flits held per edge (R307) -/
  held    : Tab OrderHold
deriving DecidableEq, Repr, Inhabited

/-! ## Links -/

/-- A flit in a retry buffer, with its sequence number and the time it was sent. -/
structure RetryFlit where
  seq  : Nat
  flit : Flit
  sent : Nat
  /-- sent against a shared credit -/
  pool : Bool
deriving DecidableEq, Repr, Inhabited

/-- Control flits that are due (R325). -/
inductive DueCtl where
  | nak (seq : Nat)
  | replay (seq : Nat)
  | resync (lost seq : Nat)
deriving DecidableEq, Repr, Inhabited

/-- One end of a module or channel (R323 to R328). -/
structure Adapter where
  txNext     : Nat
  retry      : List RetryFlit
  acked      : Nat
  rxExpect   : Nat
  discarding : Bool
  nakSince   : Nat
  dataRun    : Nat
  due        : List DueCtl
  replayRun  : Nat
  /-- credits held toward the peer: dedicated per queue, shared -/
  dedicated  : Tab Nat
  shared     : Nat
  /-- totals returned by this end, and totals last seen from the peer -/
  qret       : Tab Nat
  sret       : Nat
  qseen      : Tab Nat
  sseen      : Nat
  /-- flits ready to send, and new flits held until RESYNC (R333) -/
  txq        : List Flit
  holdNew    : Bool
  width      : Nat
  peerRec   : Option CapRecord
  repairs    : Nat
  recFails   : Nat
deriving DecidableEq, Repr, Inhabited

/-- A module or channel: its service state (Table 14-5) and its training counts. -/
structure Chan where
  state     : Nat
  attempts  : Nat
  retrains  : Nat
  started   : Nat
  /-- when UCIe training reached ACTIVE -/
  activeAt  : Nat
  drainEnd  : Nat
  resyncEnd : Nat
  /-- flits unacknowledged when it left service, with the end that sent them -/
  lostFlits : List (Nat × RetryFlit)
  command   : Bool
deriving DecidableEq, Repr, Inhabited

/-- A Harfort link (18). -/
structure HfLink where
  /-- full retrainings after check 5 (R387), and the width that the last training gave -/
  widthTries : Nat
  width      : Nat
  /-- flits that the peer has not acknowledged: the package they are for, the flit, whether it carries data -/
  unacked    : List (Nat × Flit × Bool)
  /-- when the link left service with flits unacknowledged (R392) -/
  lostSince  : Option Nat
deriving DecidableEq, Repr, Inhabited

/-- A memory controller (15). -/
structure Mc where
  /-- open rows: bank -> row, hint of the last access, time of the last access -/
  rows      : Tab (Nat × Nat × Nat)
  retryBuf  : List (Nat × Bool)
  replayRun : Nat
  held      : Bool
  holdStart : Nat
  rowErrs   : Tab Nat
  spares    : Tab Nat
  /-- lines stored with given check symbols by test mode -/
  testCheck : Tab (List Byte)
  hard      : Bool
  /-- the line whose row a sparing command replaces -/
  spareAddr : Nat
  /-- the timing set in effect (Table 15-5) -/
  timing    : List Byte
deriving DecidableEq, Repr, Inhabited

/-- An IOMMU fault-queue record. -/
structure IommuFault where
  cause  : Nat
  device : Nat
  pasid  : Option Nat
  iova   : Nat
  /-- the transaction type of the record, and its second value: the guest-physical address of a guest-page fault -/
  ttyp   : Nat
  val2   : Nat
deriving DecidableEq, Repr, Inhabited

/-- A cached IOMMU translation (R250). -/
structure IotlbEntry where
  device : Nat
  pasid  : Option Nat
  /-- the process whose context translated, which is 0 under DPE, and whether a G-stage took part -/
  proc   : Option Nat
  v      : Bool
  gscid  : Nat
  pscid  : Nat
  iova   : Nat
  log    : Nat
  pa     : Nat
  /-- the guest-physical address after the first stage, which dirty logging needs (R98) -/
  gpa    : Nat
  w      : Bool
  g      : Bool
deriving DecidableEq, Repr, Inhabited

/-- The IOMMU (R248 to R251). `ddtp` holds mode and root as the specification's register does. -/
structure Iommu where
  ddtMode : Nat
  ddtRoot : Nat
  ddtCache : Tab (List Word)
  pdtCache : Tab (List Word)
  atc     : List IotlbEntry
  pwc     : List PwcEntry
  faultq  : List IommuFault
  /-- BAR0 in its configuration header, where its register set lies (R248) -/
  bar0    : Nat
  /-- the words of its other registers: the command and fault queues, the pending and vector registers, the MSI table -/
  regs    : Tab Nat
deriving DecidableEq, Repr, Inhabited

/-! ## Secure side, partition, boot, counters, pins and power -/

/-- Secure-side state beside its object (R364, R368). -/
structure Secure where
  deadline    : Nat
  running     : Bool
deriving DecidableEq, Repr, Inhabited

/-- Split handling (R397 to R400). -/
structure Partition where
  /-- when the last direct link to a package left service -/
  lostAt    : Tab Nat
  /-- the packages within this one's half when it fenced itself (R399) -/
  half      : Nat
  /-- bit 4a + b: packages a and b, neither this one, have a link in service between them -/
  far       : Nat
  decideEnd : Nat
deriving DecidableEq, Repr, Inhabited

/-- What a die reports of itself (Table 01-6); `foreign` on a die of another maker (R25). -/
structure DieIdentity where
  stepping : Nat
  features : Nat
  serial   : Nat
  foreign  : Bool
deriving DecidableEq, Repr, Inhabited

/-- What fuses hold (R405). They survive every reset. -/
structure Fuses where
  keyDigest0 : List Byte
  keyDigest1 : List Byte
  revoked0   : Bool
  revoked1   : Bool
  svn        : Nat
  ksSeed     : List Byte
  attSeed    : List Byte
  /-- bit k: debug enable k is fused off -/
  debugOff   : Nat
  /-- the debug enables' fused values -/
  debugOn    : Nat
  /-- the stored check bits match -/
  checkOk    : Bool
  /-- the part is of speed bin 24 (R18) -/
  speed24    : Bool
  /-- dies that report something else than the product's own B0, B0 and A1 dies -/
  dies       : Tab DieIdentity
deriving DecidableEq, Repr, Inhabited

/-- A fuse blow in progress. -/
inductive Blow where
  | none
  | key0
  | key1
  | svn (target : Nat)
deriving DecidableEq, Repr, Inhabited

/-- Boot and management-firmware state (19). -/
structure Boot where
  blow       : Blow
  blowEnd    : Nat
  runSvn     : Nat
  runKeySlot : Nat
  activating : Bool
  /-- management cores are restarting (R383), until then firmware objects wait -/
  mgmtDown   : Bool
  mgmtUpAt   : Nat
  lastMismatch : Option Nat
  mgmtFailed : Bool
  latchHold  : Bool
  /-- the staged microcode image has been verified (R125) -/
  ucodeOk    : Bool
deriving DecidableEq, Repr, Inhabited

/-- Counters beside their objects (20). -/
structure Counters where
  /-- byte counters, in and out, by group number -/
  bytesIn   : Tab Nat
  bytesOut  : Tab Nat
  /-- values latched at the last window boundary -/
  latchIn   : Tab Nat
  latchOut  : Tab Nat
  t0        : Nat
  window    : Nat
  entry     : Nat
  lostSince : Bool
  bwWorld   : World
  gather    : Bool
  /-- windows start at `t0`, which has not come yet -/
  armed     : Bool
  /-- listed groups whose port has been in service since the window began -/
  steady    : List Nat
  /-- the counts of each group whose block was in service at the last freeze -/
  snaps     : Tab (List Nat)
deriving DecidableEq, Repr, Inhabited

/-- The pins of Table 21-3 and the supply. -/
structure Pins where
  rstN      : Bool
  errN      : Bool
  fatalN    : Bool
  thermtripN : Bool
  throttleN : Bool
  /-- bit `g`: PERST_N[g]; bit `c`: RESET_N of DDR5 channel `c` -/
  perstN    : Nat
  ddrResetN : Nat
  refclk    : Bool
  rails     : Nat
  straps    : Nat
  /-- contacts driven by EXTEST, and the levels captured by SAMPLE -/
  driven    : List (Nat × Bool)
  sampled   : List (Nat × Bool)
deriving DecidableEq, Repr, Inhabited

/-- A CCLK step change in progress (R31). -/
structure StepChange where
  target   : Nat
  /-- to a faster step: the voltage rises before the divider switches -/
  faster   : Bool
  switched : Bool
  settled  : Bool
deriving DecidableEq, Repr, Inhabited

/-- Power and thermal control (R442 to R444). -/
structure Power where
  changes    : Tab StepChange
  /-- steps of each cap by die; the thermal one is kept by the capping die's sensor -/
  powerCap   : Tab Nat
  thermalCap : Tab Nat
  throttled  : Bool
  liftAt     : Option Nat
  lastPower  : Nat
  lastLift   : Nat
  lastTherm  : Tab Nat
  lastCool   : Tab Nat
  /-- lost regulator phases, by source -/
  phases     : Tab Nat
  tripped    : Bool
  /-- last reading of the sensors of each die, in °C -/
  temps      : Tab Nat
deriving DecidableEq, Repr, Inhabited

/-- The APLIC's wired sources (R214): pending, and enabled in the source's domain. -/
structure Aplic where
  pending : Tab Nat
  enabled : Tab Nat
  /-- the target register of a source: hart, then guest file and identity in the supervisor domain -/
  target  : Tab Nat
  /-- the machine and the supervisor domain deliver interrupts (`domaincfg`.IE) -/
  mmode   : Bool
  smode   : Bool
  /-- `sourcecfg` of each source -/
  cfg     : Tab Nat
  /-- delivery structure of each hart, at 4 times the hart: delivery, forced, threshold -/
  idc     : Tab Nat
deriving DecidableEq, Repr, Inhabited

/-! ## The device and the state -/

/-- Everything of the package but the waiting commands. -/
structure Dev where
  regs     : Tab Nat
  doms     : Tab (List Byte)
  units    : Tab Nat
  mem      : List Host.Cell
  marks    : Tab Nat
  clock    : Clock
  harts    : Tab Hart
  insts    : Tab Inst
  jobs     : Tab Job
  nextJob  : Nat
  slots    : Tab SlotOwner
  moves    : List SlotMove
  engs     : Tab Eng
  mgmt     : List MgmtWork
  attKeys  : Tab Nat
  ks       : KeyStore
  jns      : Tab Journal
  ck       : Checkpoints
  drbgs    : Tab Drbg
  sides    : Tab BankSide
  tcache   : List (Nat × Nat)
  /-- the model's own: what the engine's own bytes in DEFLATE contexts stand for (log 26) -/
  dfSaved   : List (List Byte × DfSave)
  paused   : List (Nat × Nat × Nat)
  ring     : Ring
  mbox     : Tab Mailbox
  staged   : List Staged
  resp     : Tab Resp
  waiting  : List WaitTx
  fus      : Fusible
  homes    : Tab Home
  pewter   : Tab PwEntry
  /-- the Pewter command that runs: its code, then base and length or slices and segments (Table 11-2) -/
  pwJob    : Option (Nat × Nat × Nat)
  filters  : Tab (List FilterEntry)
  fab      : Fabric
  adapters : Tab Adapter
  chans    : Tab Chan
  hf       : Tab HfLink
  remote   : Tab (List FilterEntry)
  mcs      : Tab Mc
  iommu    : Iommu
  tk       : Secure
  part     : Partition
  boot     : Boot
  cnt      : Counters
  /-- the DIMMs that training found (R335) -/
  dimms    : List Dimm
  pins     : Pins
  power    : Power
  aplic    : Aplic
  arb      : Tab Nat
  /-- compute dies whose reset is in its first step (R414) -/
  resetting : List Nat
  /-- outcome of the last JTAG system-bus access: none before any, `some none` an error to the tool -/
  jtag     : Option (Option Nat)
  fuses    : Fuses
  /-- the always-on latch: LATCHED records, oldest first (R379) -/
  latch    : List FaultRec
  /-- the SPI boot flash: bytes that differ from 0xFF -/
  flash    : Tab Byte
  /-- bit k: reads of boot slot k fail (Table 19-2, result 8) -/
  flashBad : Nat
  /-- how the boot flash answers (R402): bit 0, with no SFDP tables; bit 1, it does not implement READ of 4-byte addresses -/
  flashMode : Nat
  /-- the model's own: how many free values have been taken (log 8) -/
  fresh    : Nat
deriving DecidableEq, Repr

/-- The state of the block. -/
structure State where
  /-- the commands that are waiting, first in first out (log 1) -/
  pending : List Instr
  dev     : Dev
deriving DecidableEq, Repr

/-! ## Reset values -/

/-- A mailbox page after reset (log 4). -/
def Mailbox.reset : Mailbox :=
  { addr := 0, xfer := 0, cmd := 0, busy := false, code := 0, irqen := 0, data := [] }

/-- A hart after reset: in M and in the Tantalum world (R198, Table 08-7), not running; every other register zero (log 7). -/
def Hart.reset : Hart :=
  { pc := 0, priv := .m, v := false, xregs := [], fregs := [], vregs := [], csrs := [],
    logN := ⟨0, 0⟩, logT := ⟨0, 0⟩, inWcall := false, running := false, resv := none, sbuf := [],
    tracker := [], ioLoad := none, accepts := [], nextTag := 0, wait := .none, l2 := [], l1d := [],
    l1i := [], lineErr := [], victims := [], homeDone := [], half := none, tlb := [], itlb := [], dtlb := [], pwc := [], walks := [], fetched := [], imsic := [], deferred := false,
    lossDue := false, lostToTk := false, returned := false, sampleDue := [] }

/-- An instance's page after reset (R96): indices 0, phase 1. -/
def Inst.reset : Inst :=
  { sqTail := 0, sqHead := 0, cqHead := 0, cqTail := 0, phase := true, dbErrors := 0,
    fetching := false, queue := [], msis := [], slotMap := [], dlOn := false,
    unreleased := 0, squash := false, sent := [], dlWait := [] }

/-- An engine with nothing in progress. -/
def Eng.reset : Eng := { task := .none, command := false, newVer := 0, kek := [] }

/-- A journal before `ksStart`. -/
def Journal.reset : Journal :=
  { staged := [], freed := 0, ringSeq := none, ringHead := [], genesis := [], sinceCk := 0 }

/-- A home slice with an empty directory. -/
def Home.reset : Home :=
  { dir := [], txns := [], resvs := [], lostLines := [], sideBuf := [], streams := [],
    prefetches := [], scrubPos := 0 }

/-- A router on its primary switch. -/
def Router.reset : Router :=
  { bypassed := false, fails := [], spares := [], replaying := [] }

/-- An adapter whose sequences and totals are 0 (Table 14-5, CREDIT). -/
def Adapter.reset : Adapter :=
  { txNext := 0, retry := [], acked := 255, rxExpect := 0, discarding := false, nakSince := 0,
    dataRun := 0, due := [], replayRun := 0, dedicated := [], shared := 0, qret := [], sret := 0,
    qseen := [], sseen := 0, txq := [], holdNew := false, width := 0, peerRec := none,
    repairs := 0, recFails := 0 }

/-- A module in RESET (Table 14-10). -/
def Chan.reset : Chan :=
  { state := 1, attempts := 0, retrains := 0, started := 0, activeAt := 0, drainEnd := 0, resyncEnd := 0,
    lostFlits := [], command := false }

/-- A Harfort link after reset. -/
def HfLink.reset : HfLink :=
  { widthTries := 0, width := 0, unacked := [], lostSince := none }

/-- A memory controller after reset. -/
def Mc.reset : Mc :=
  { rows := [], retryBuf := [], replayRun := 0, held := false, holdStart := 0, rowErrs := [],
    spares := [], testCheck := [], hard := false, spareAddr := 0, timing := 1 :: List.replicate 63 0 }

/-- The ring port after reset: off the ring. -/
def Ring.reset : Ring :=
  { lock := false, running := false, driven := false, terminated := false, stripSeen := false,
    remembered := [], executing := [], outbox := [], waits := [], nextSeq := 0, sessions := [],
    challenges := [], opening := [], lastSync := none, firstDone := false,
    missedRun := 0, periodEnd := 0, nextSync := 0, reports := [], results := [] }

/-- The fuses of the modelled part: nothing blown, seeds and digests zero, every debug enable
available and fused to 0 (log 6). -/
def Fuses.reset : Fuses :=
  { keyDigest0 := List.replicate 32 0, keyDigest1 := List.replicate 32 0, revoked0 := false,
    revoked1 := false, svn := 0, ksSeed := List.replicate 32 0, attSeed := List.replicate 32 0,
    debugOff := 0, debugOn := 0, checkOk := true, speed24 := false, dies := [] }

/-- The device right after reset: every dictionary sub-entry at its default, nothing stored,
PKG_RST_N low. -/
def Dev.reset : Dev :=
  { regs := [], doms := [], units := [], mem := [], marks := [],
    clock := { invar := 0, hold := 0, slew := 0, slewUp := true, root := 0, locks := [] },
    harts := [], insts := [], jobs := [], nextJob := 0, slots := [], moves := [], engs := [],
    mgmt := [], attKeys := [],
    ks := { started := false, cache := [], claims := [], inventory := [] },
    jns := [],
    ck := { lastTime := 0, prevHash := [], freed := 0, covered := [], retry := false, retryTrigger := 0,
            wasDown := false, startTime := 0 },
    drbgs := [], sides := [], tcache := [], dfSaved := [], paused := [], ring := Ring.reset,
    mbox := [], staged := [], resp := [], waiting := [],
    fus := { queues := [], lostNext := [], log := [], folded := [], timers := [], stopped := false },
    homes := [], pewter := [], pwJob := none, filters := [],
    fab := { net := [], ops := [], reserved := [], heldOps := [], reqs := [], nextReq := 0, tokens := [], injQ := [], routers := [], held := [],
             },
    adapters := [], chans := [], hf := [], remote := [], mcs := [],
    iommu := { ddtMode := 0, ddtRoot := 0, ddtCache := [], pdtCache := [], atc := [], pwc := [],
               faultq := [], bar0 := 0, regs := [] },
    tk := { deadline := 0, running := false },
    part := { lostAt := [], half := 0, far := 0xFFFF, decideEnd := 0 },
    boot := { blow := .none, blowEnd := 0, runSvn := 0, runKeySlot := 0, activating := false,
              mgmtDown := false, mgmtUpAt := 0, lastMismatch := none, mgmtFailed := false,
              latchHold := false, ucodeOk := false },
    cnt := { bytesIn := [], bytesOut := [], latchIn := [], latchOut := [], t0 := 0, window := 0,
             entry := 0, lostSince := false, bwWorld := .normal, gather := false, armed := false, steady := [],
             snaps := [] },
    pins := { rstN := false, errN := true, fatalN := true, thermtripN := true,
              throttleN := true, perstN := 0, ddrResetN := 0, refclk := true, rails := 255, straps := 2,
              driven := [], sampled := [] },
    power := { changes := [], powerCap := [], thermalCap := [], throttled := false, liftAt := none,
               lastPower := 0, lastLift := 0, lastTherm := [], lastCool := [], phases := [],
               tripped := false, temps := [] },
    aplic := { pending := [], enabled := [], target := [], mmode := false, smode := false, cfg := [], idc := [] },
    arb := [], resetting := [], dimms := [], jtag := none, fuses := Fuses.reset, latch := [], flash := [], flashBad := 0, flashMode := 0, fresh := 0 }

/-- The machine right after reset. -/
def State.reset : State :=
  { pending := [], dev := Dev.reset }

end Sys2Proof.Machine
end

