-- ==== Sys2Proof/Machine/Flags.lean ====
section
/-!
DEFINITION. Bits, counters and status codes: the small computations that registers, status words
and Table 02-3 share.
-/
namespace Sys2Proof.Machine

/-! ## Bit fields of a number -/

/-- The field of `v` whose lowest bit is `lo`, `w` bits wide. -/
def field (v lo w : Nat) : Nat := v / 2 ^ lo % 2 ^ w

/-- Bit `i` of `v`. -/
def bitAt (v i : Nat) : Bool := v.testBit i

/-- `v` with bit `i` set. -/
def bitSet (v i : Nat) : Nat := v ||| 2 ^ i

/-- `v` with bit `i` cleared. -/
def bitClear (v i : Nat) : Nat := if v.testBit i then v - 2 ^ i else v

/-- `v` with bit `i` given. -/
def bitPut (v i : Nat) (b : Bool) : Nat := if b then bitSet v i else bitClear v i

/-- `v` with the bits of `m` cleared. -/
def bitsClear (v m : Nat) : Nat := v - (v &&& m)

/-- `v` with the field at `lo`, `w` bits wide, replaced by `x`. -/
def fieldPut (v lo w x : Nat) : Nat := v - field v lo w * 2 ^ lo + x % 2 ^ w * 2 ^ lo

/-- Number of bits of `v` below `n` that are set. -/
def popCount (n v : Nat) : Nat := ((List.range n).filter (fun i => v.testBit i)).length

/-- Lowest bit of `v` below `n` that is set. -/
def lowestBit (n v : Nat) : Option Nat := (List.range n).find? (fun i => v.testBit i)

/-- One for true. -/
def boolNat (b : Bool) : Nat := if b then 1 else 0

/-! ## Counters -/

/-- The 32-bit counters that the tables mark 'saturates'. -/
def satAdd32 (v n : Nat) : Nat := min (v + n) 0xFFFF_FFFF

/-- A counter of `w` bits that wraps. -/
def wrapAdd (w v n : Nat) : Nat := (v + n) % 2 ^ w

/-! ## Status codes (Table 02-3) -/

/-- The code of a status, as responses carry it. -/
def statusCode : Status → Nat
  | .ok => 0
  | .noObject => 1
  | .noSub => 2
  | .type => 3
  | .length => 4
  | .world => 5
  | .accessDenied => 6
  | .writeOnce => 7
  | .range => 8
  | .busy => 9
  | .timeout => 10

/-- R49: of the conditions that hold, the code of the one earliest in the table. The list gives
them in the table's order. -/
def firstStatus : List (Bool × Status) → Status
  | [] => .ok
  | (c, st) :: r => if c then st else firstStatus r

/-- Values of a CMD sub-entry (R47). -/
def cmdIdle : Nat := 0
def cmdRunning : Nat := 1
def cmdDone : Nat := 2
def cmdRefused : Nat := 3

/-! ## Unit states (Table 00-4) -/

def stOff : Nat := 0
def stReset : Nat := 1
def stReady : Nat := 2
def stActive : Nat := 3
def stQuiescing : Nat := 4
def stFenced : Nat := 5
def stBypassed : Nat := 6
def stFailed : Nat := 7

end Sys2Proof.Machine
end

