-- ==== Sys2Proof/Machine/Operands.lean ====
section
/-!
DEFINITION. How operands are laid out in bytes: little-endian values (R42), byte strings, lines
and the numbers by which paths and units are told apart.
-/
namespace Sys2Proof.Machine

/-! ## Little-endian bytes (R42) -/

/-- The number that bytes spell, least significant first. -/
def leNat : List Byte → Nat
  | [] => 0
  | b :: r => b.toNat + 256 * leNat r

/-- `n` bytes of a number, least significant first. -/
def leBytes : Nat → Nat → List Byte
  | 0, _ => []
  | n + 1, v => BitVec.ofNat 8 v :: leBytes n (v / 256)

/-- The number that bytes spell, most significant first. -/
def beNat (l : List Byte) : Nat := l.foldl (fun acc b => acc * 256 + b.toNat) 0

/-- `n` bytes of a number, most significant first. -/
def beBytes (n v : Nat) : List Byte := (leBytes n v).reverse

/-- `n` bytes of `l` from offset `o`, read as a number. -/
def fieldLe (l : List Byte) (o n : Nat) : Nat := leNat ((l.drop o).take n)

/-- Byte `o` of `l`, zero beyond its end. -/
def byteAt (l : List Byte) (o : Nat) : Nat := ((l.drop o).headD 0).toNat

/-- `n` zero bytes. -/
def zeros (n : Nat) : List Byte := List.replicate n 0

/-- `l` brought to `n` bytes with zeros behind. -/
def padTo (n : Nat) (l : List Byte) : List Byte := (l ++ zeros (n - l.length)).take n

/-- `l` with the bytes from offset `o` replaced by `x`. -/
def spliceBytes (l : List Byte) (o : Nat) (x : List Byte) : List Byte :=
  padTo o l ++ x ++ l.drop (o + x.length)

/-- Byte `i` of a line. -/
def lineByte (l : Line) (i : Nat) : Byte := BitVec.ofNat 8 (l.toNat / 256 ^ i)

/-- The 64 bytes of a line. -/
def lineBytes (l : Line) : List Byte := leBytes 64 l.toNat

/-- The line that 64 bytes spell. -/
def lineOf (b : List Byte) : Line := BitVec.ofNat 512 (leNat b)

/-- ASCII bytes of a list of character codes. -/
def asciiBytes (l : List Nat) : List Byte := l.map (fun c => BitVec.ofNat 8 c)

/-! ## Paths and units -/

/-- R51: the source of a transaction: ring nodes 0 to 15, then the two mailboxes. -/
def pathNum : Path → Nat
  | .ring n => n
  | .mailbox .normal => 16
  | .mailbox .tantalum => 17

/-- R45: the path as a fault record carries it. -/
def pathCode : Path → Nat
  | .ring _ => 0
  | .mailbox .normal => 1
  | .mailbox .tantalum => 2

/-- The payload limit of a path (R448). -/
def pathLimit : Path → Nat
  | .ring _ => 256
  | .mailbox _ => 2048

/-- The world bit. -/
def worldBit : World → Nat
  | .normal => 0
  | .tantalum => 1

/-- The world of a bit. -/
def bitWorld (n : Nat) : World := if n = 0 then .normal else .tantalum

/-- Key of a unit's state in `Dev.units`. -/
def unitKey : UnitRef → Nat
  | .core k => k
  | .cluster c => 1000 + c
  | .die n => 1100 + n
  | .package => 1200
  | .system => 1201

/-- Table 00-2: the parent of a unit. -/
def unitParent : UnitRef → Option UnitRef
  | .core k => some (.die (k / 20))
  | .cluster c => some (.die (if c < 4 then 12 + c else 16))
  | .die _ => some .package
  | .package => some .system
  | .system => none

/-- The dictionary index of a unit's header (R22, R100, R155, R176, 08). -/
def headerIndex : UnitRef → Nat
  | .core k => 0x4000 + 0x10 * k
  | .cluster c => 0x7000 + c
  | .die n => 0x3000 + 0x80 * n
  | .package => 0x1000
  | .system => 0x1001

/-- The unit exists (Table 00-2). -/
def unitExists : UnitRef → Bool
  | .core k => k < 240
  | .cluster c => c < 6
  | .die n => n < 17
  | .package => true
  | .system => true

/-- Code of a unit command (Table 00-3). -/
def unitCmdCode : UnitCmd → Nat
  | .nop => 0
  | .enable => 1
  | .quiesce => 2
  | .fence => 3
  | .reset => 4
  | .powerOff => 5

end Sys2Proof.Machine
end

