-- ==== Sys2Proof/Machine/Registers.lean ====
section
/-!
DEFINITION. The registers of the dictionary: one name for each sub-entry of the manual's parameter
tables, with its index, element and sub-index as one key, and its default value. DOMAIN sub-entries
have a key only (their bytes are in `Dev.doms`). R41, R48.
-/
namespace Sys2Proof.Machine

/-- A register: its key and its default. -/
structure Reg where
  key  : Nat
  dflt : Nat
deriving DecidableEq, Repr

/-- The key of a sub-entry: index, element of a selector array (or path number where a value is kept
for each path), sub-index. -/
def regKey (idx elem sub : Nat) : Nat := (idx * 2 ^ 24 + elem) * 2 ^ 8 + sub

/-- The index in a key. -/
def keyIndex (k : Nat) : Nat := k / 2 ^ 32

/-- The element in a key. -/
def keyElem (k : Nat) : Nat := k / 2 ^ 8 % 2 ^ 24

/-- The sub-index in a key. -/
def keySub (k : Nat) : Nat := k % 2 ^ 8

/-! ## Values that defaults rest on -/

/-- Table 00-3, unitId: kind code, unit number, stepping code (R19: 0 for package and system; a core and
a cluster carry the stepping of their die). -/
def unitIdValue : UnitRef → Nat
  | .core k => 0x01 * 2 ^ 24 + k * 2 ^ 8 + Config.dieStepping (k / 20)
  | .cluster c => 0x02 * 2 ^ 24 + c * 2 ^ 8 + Config.dieStepping (if c < 4 then 12 + c else 16)
  | .die n => 0x03 * 2 ^ 24 + n * 2 ^ 8 + Config.dieStepping n
  | .package => 0x04 * 2 ^ 24
  | .system => 0x05 * 2 ^ 24

/-- R34: start of the MMIO window of package `p`. -/
def mmioBase (p : Nat) : Nat := 0x4_0000_0000_0000 + p * 0x1_0000_0000_0000

/-- R73: the Tantalum mailbox page of package `p`. -/
def tantalumPage (p : Nat) : Nat := mmioBase p + 0x0100_1000

/-- Index of module object `m`: 0 to 39 the 2D modules, 40 to 51 the Solder-3D interfaces (Table 14-10). -/
def moduleIndex (m : Nat) : Nat := if m < 40 then 0x6410 + m else 0x6440 + (m - 40)

/-- Index of controller object `m`: 0 to 11 the DDR5 channels, 12 to 19 the HBM3E stacks (Table 15-9). -/
def controllerIndex (m : Nat) : Nat := if m < 12 then 0x6010 + m else 0x6030 + (m - 12)

/-- Table 17-4: default class and whether it is fixed; none for a code not in the table. -/
def kindRow (k : Nat) : Option (Nat × Bool) :=
  match k with
  | 0x01 => some (2, false)
  | 0x02 => some (2, false)
  | 0x03 => some (2, false)
  | 0x04 => some (2, false)
  | 0x05 => some (2, false)
  | 0x06 => some (2, false)
  | 0x10 => some (1, false)
  | 0x11 => some (1, false)
  | 0x12 => some (1, false)
  | 0x13 => some (1, false)
  | 0x14 => some (1, false)
  | 0x15 => some (1, false)
  | 0x20 => some (3, false)
  | 0x21 => some (3, false)
  | 0x22 => some (3, true)
  | 0x23 => some (1, false)
  | 0x24 => some (2, false)
  | 0x28 => some (1, false)
  | 0x29 => some (2, false)
  | 0x2A => some (5, false)
  | 0x2B => some (1, false)
  | 0x2C => some (1, false)
  | 0x2D => some (1, false)
  | 0x2E => some (3, true)
  | 0x2F => some (5, true)
  | 0x30 => some (5, true)
  | 0x31 => some (2, true)
  | 0x32 => some (5, true)
  | 0x38 => some (1, true)
  | 0x39 => some (2, true)
  | 0x3A => some (3, false)
  | 0x3B => some (3, false)
  | 0x3C => some (3, false)
  | 0x3D => some (3, false)
  | 0x3E => some (3, false)
  | 0x3F => some (3, false)
  | 0x40 => some (3, false)
  | 0x41 => some (3, false)
  | 0x42 => some (5, true)
  | 0x48 => some (1, false)
  | 0x49 => some (2, false)
  | 0x4A => some (2, false)
  | 0x4B => some (2, false)
  | 0x4C => some (1, false)
  | 0x4D => some (2, false)
  | 0x4E => some (2, false)
  | 0x4F => some (5, false)
  | 0x50 => some (3, false)
  | 0x51 => some (3, false)
  | 0x52 => some (2, false)
  | 0x53 => some (2, false)
  | 0x54 => some (3, false)
  | 0x55 => some (2, false)
  | 0x56 => some (3, true)
  | 0x58 => some (2, false)
  | 0x60 => some (2, false)
  | 0x61 => some (3, true)
  | 0x62 => some (2, false)
  | 0x63 => some (5, true)
  | 0x64 => some (6, true)
  | 0x65 => some (6, true)
  | 0x66 => some (6, true)
  | 0x67 => some (1, false)
  | 0x70 => some (2, false)
  | 0x71 => some (3, false)
  | 0x72 => some (5, true)
  | _ => none

/-! The kind codes of Table 17-4. -/

def kWorldViolation : Nat := 0x01
def kRingStrap : Nat := 0x02
def kRingDupNode : Nat := 0x03
def kSessionRejected : Nat := 0x04
def kKeystoreWrite : Nat := 0x05
def kElectrumBankWrite : Nat := 0x06
def kUnmappedAccess : Nat := 0x10
def kInstanceHalt : Nat := 0x11
def kBusError : Nat := 0x12
def kPostedError : Nat := 0x13
def kAccessTimeout : Nat := 0x14
def kWalkError : Nat := 0x15
def kCoreLockstep : Nat := 0x20
def kCoreArray : Nat := 0x21
def kCoreSecureLost : Nat := 0x22
def kCacheCorrected : Nat := 0x23
def kCacheUncorrectable : Nat := 0x24
def kPewterCorrected : Nat := 0x28
def kPewterUncorrectable : Nat := 0x29
def kPewterTagLost : Nat := 0x2A
def kDirectoryCorrected : Nat := 0x2B
def kDirectoryRecovered : Nat := 0x2C
def kFilterRecovered : Nat := 0x2D
def kRecallTimeout : Nat := 0x2E
def kLostLineOverflow : Nat := 0x2F
def kMeshLinkLost : Nat := 0x30
def kRouterBypass : Nat := 0x31
def kFabricPartition : Nat := 0x32
def kSolderLaneRepair : Nat := 0x38
def kSolderWidthDegraded : Nat := 0x39
def kSolderWidthMismatch : Nat := 0x3A
def kSolder3dLost : Nat := 0x3B
def kSolderFlitsLost : Nat := 0x3C
def kWeladeVersion : Nat := 0x3D
def kWeladeTopology : Nat := 0x3E
def kWeladeCredits : Nat := 0x3F
def kDieFeaturesLost : Nat := 0x40
def kPllLost : Nat := 0x41
def kClockLost : Nat := 0x42
def kMemoryCorrected : Nat := 0x48
def kMemoryUncorrectable : Nat := 0x49
def kPoisonConsumed : Nat := 0x4A
def kRowDegraded : Nat := 0x4B
def kMemoryReplay : Nat := 0x4C
def kMemoryRateChange : Nat := 0x4D
def kDdrPopulation : Nat := 0x4E
def kMemoryChannelLost : Nat := 0x4F
def kSterlingGuard : Nat := 0x50
def kSterlingSelfCheck : Nat := 0x51
def kSterlingKeySuspect : Nat := 0x52
def kEntropyHealth : Nat := 0x53
def kKeystoreIntegrity : Nat := 0x54
def kJournalFullEvent : Nat := 0x55
def kEngineSelfTest : Nat := 0x56
def kSecureWatchdog : Nat := 0x58
def kRegulatorPhase : Nat := 0x60
def kRegulatorLost : Nat := 0x61
def kMgmtLockstep : Nat := 0x62
def kMgmtFailed : Nat := 0x63
def kThermalTrip : Nat := 0x64
def kRailLost : Nat := 0x65
def kFuseIntegrity : Nat := 0x66
def kFusibleCorrected : Nat := 0x67
def kHarfortLinkDegraded : Nat := 0x70
def kHarfortLinkLost : Nat := 0x71
def kPartitionLost : Nat := 0x72

/-- Default class of a kind. -/
def kindDefault (k : Nat) : Nat := ((kindRow k).getD (0, false)).1

/-- The class of the kind is fixed. -/
def kindIsFixed (k : Nat) : Bool := ((kindRow k).getD (0, false)).2

/-! ## The registers -/

/-- R51: the selector of the array at base index `a`, for each path. -/
def rArraySelectAt (a : Nat) (p : Path) : Reg := ⟨regKey a (pathNum p) 0x01, 0⟩

/-- Table 00-3: `unitId` -/
def rUnitId (u : UnitRef) : Reg := ⟨regKey (headerIndex u) 0 0x01, unitIdValue u⟩

/-- Table 00-3: `unitState` -/
def rUnitState (u : UnitRef) : Reg := ⟨regKey (headerIndex u) 0 0x02, 1⟩

/-- Table 00-3: `childStates` -/
def rChildStates (u : UnitRef) : Reg := ⟨regKey (headerIndex u) 0 0x03, 0x0000_0000⟩

/-- Table 00-3: `faultSummary` -/
def rFaultSummary (u : UnitRef) : Reg := ⟨regKey (headerIndex u) 0 0x04, 0⟩

/-- Table 00-3: `faultCount` -/
def rFaultCount (u : UnitRef) : Reg := ⟨regKey (headerIndex u) 0 0x05, 0⟩

/-- Table 00-3: `powerMw` -/
def rPowerMw (u : UnitRef) : Reg := ⟨regKey (headerIndex u) 0 0x06, 0⟩

/-- Table 00-3: `counterSummary` -/
def rCounterSummary (u : UnitRef) : Reg := ⟨regKey (headerIndex u) 0 0x07, 0x0000_0000⟩

/-- Table 00-3: `unitCommand` -/
def rUnitCommand (u : UnitRef) : Reg := ⟨regKey (headerIndex u) 0 0x08, 0⟩

/-- Table 01-5: `pkgFeatures` -/
def rPkgFeatures : Reg := ⟨regKey 0x1002 0 0x01, 0⟩

/-- Table 01-5: `pairing` -/
def rPairing : Reg := ⟨regKey 0x1002 0 0x02, 0⟩

/-- Table 01-6: `dieFeatures` -/
def rDieFeatures (n : Nat) : Reg := ⟨regKey (0x3001 + 0x80 * n) 0 0x01, Config.dieFeatures⟩

/-- Table 01-6: `dieStepping` -/
def rDieStepping (n : Nat) : Reg := ⟨regKey (0x3001 + 0x80 * n) 0 0x02, Config.dieStepping n⟩

/-- Table 01-6: `dieSerial` -/
def rDieSerial (n : Nat) : Reg := ⟨regKey (0x3001 + 0x80 * n) 0 0x03, Config.dieSerial n⟩

/-- Table 01-8: `pllState` -/
def rPllState (n : Nat) : Reg := ⟨regKey (0x3002 + 0x80 * n) 0 0x01, 0⟩

/-- Table 01-8: `cclkStep` -/
def rCclkStep (n : Nat) : Reg := ⟨regKey (0x3002 + 0x80 * n) 0 0x02, 2⟩

/-- Table 01-8: `cclkActive` -/
def rCclkActive (n : Nat) : Reg := ⟨regKey (0x3002 + 0x80 * n) 0 0x03, 2⟩

/-- Table 01-8: `stepChanges` -/
def rStepChanges (n : Nat) : Reg := ⟨regKey (0x3002 + 0x80 * n) 0 0x04, 0⟩

/-- Table 01-12: `pkgNumber` -/
def rPkgNumber : Reg := ⟨regKey 0x2002 0 0x01, 0⟩

/-- Table 01-12: `pkgCount` -/
def rPkgCount : Reg := ⟨regKey 0x2002 0 0x02, 0⟩

/-- Table 01-12: `hbmInterleave` -/
def rHbmInterleave : Reg := ⟨regKey 0x2002 0 0x03, 1⟩

/-- Table 01-12: `ddrInstalled` -/
def rDdrInstalled : Reg := ⟨regKey 0x2002 0 0x04, 0⟩

/-- Table 01-12: `cxlInstalled` -/
def rCxlInstalled : Reg := ⟨regKey 0x2002 0 0x05, 0⟩

/-- Table 01-12: `addrMapLocked` -/
def rAddrMapLocked : Reg := ⟨regKey 0x2002 0 0x06, 0⟩

/-- Table 01-13: `lrEnable` -/
def rLrEnable (n : Nat) : Reg := ⟨regKey (0x2010 + n) 0 0x01, 0⟩

/-- Table 01-13: `lrBase` -/
def rLrBase (n : Nat) : Reg := ⟨regKey (0x2010 + n) 0 0x02, 0x0⟩

/-- Table 01-13: `lrLimit` -/
def rLrLimit (n : Nat) : Reg := ⟨regKey (0x2010 + n) 0 0x03, 0x0⟩

/-- Table 01-13: `lrBaseDie` -/
def rLrBaseDie (n : Nat) : Reg := ⟨regKey (0x2010 + n) 0 0x04, 0⟩

/-- Table 02-8: `ringNode` -/
def rRingNode : Reg := ⟨regKey 0x1100 0 0x01, 0⟩

/-- Table 02-8: `ringMaster` -/
def rRingMaster : Reg := ⟨regKey 0x1100 0 0x02, 0⟩

/-- Table 02-8: `ringState` -/
def rRingState : Reg := ⟨regKey 0x1100 0 0x03, 0⟩

/-- Table 02-8: `ringTimeout` -/
def rRingTimeout : Reg := ⟨regKey 0x1100 0 0x04, 1000⟩

/-- Table 02-8: `ringRetries` -/
def rRingRetries : Reg := ⟨regKey 0x1100 0 0x05, 3⟩

/-- Table 02-8: `ringCrcErrors` -/
def rRingCrcErrors : Reg := ⟨regKey 0x1100 0 0x06, 0⟩

/-- Table 02-8: `ringForeignStrip` -/
def rRingForeignStrip : Reg := ⟨regKey 0x1100 0 0x07, 0⟩

/-- Table 02-8: `syncMissed` -/
def rSyncMissed : Reg := ⟨regKey 0x1100 0 0x08, 0⟩

/-- Table 02-8: `notifyNode` -/
def rNotifyNode : Reg := ⟨regKey 0x1100 0 0x09, 0⟩

/-- Table 02-8: `sessionChallenge` -/
def domSessionChallenge : Nat := regKey 0x1100 0 0x0A

/-- Table 02-8: `sessionOpen` -/
def domSessionOpen : Nat := regKey 0x1100 0 0x0B

/-- Table 02-8: `sessionClose` -/
def rSessionClose : Reg := ⟨regKey 0x1100 0 0x0C, 0⟩

/-- Table 02-8: `sessionIdle` -/
def rSessionIdle : Reg := ⟨regKey 0x1100 0 0x0D, 60000⟩

/-- Table 02-8: `sessionNodes` -/
def rSessionNodes : Reg := ⟨regKey 0x1100 0 0x0E, 0x0000_0000⟩

/-- Table 02-8: `operatorKey0`–`operatorKey7` -/
def domOperatorKey (j : Nat) : Nat := regKey 0x1100 0 (0x10 + j)

/-- Table 02-12: `mbCollisions` -/
def rMbCollisions : Reg := ⟨regKey 0x1101 0 0x01, 0⟩

/-- Table 03-3: `arraySelect` -/
def rInstArraySelect (p : Path) : Reg := ⟨regKey 0x7800 (pathNum p) 0x01, 0⟩

/-- Table 03-3: `arrayCount` -/
def rInstArrayCount : Reg := ⟨regKey 0x7800 0 0x02, 4096⟩

/-- Table 03-3: `freeSlotsSterling` -/
def rInstFreeSlotsSterling : Reg := ⟨regKey 0x7800 0 0x03, 0⟩

/-- Table 03-3: `freeSlotsElectrum` -/
def rInstFreeSlotsElectrum : Reg := ⟨regKey 0x7800 0 0x04, 128⟩

/-- Table 03-3: `freeSlotsDeflate` -/
def rInstFreeSlotsDeflate : Reg := ⟨regKey 0x7800 0 0x05, 32⟩

/-- Table 03-4: `instClass` -/
def rInstClass (i : Nat) : Reg := ⟨regKey 0x7801 i 0x01, 0⟩

/-- Table 03-4: `instWorld` -/
def rInstWorld (i : Nat) : Reg := ⟨regKey 0x7801 i 0x02, 0⟩

/-- Table 03-4: `instTenant` -/
def rInstTenant (i : Nat) : Reg := ⟨regKey 0x7801 i 0x03, 0⟩

/-- Table 03-4: `instDeviceId` -/
def rInstDeviceId (i : Nat) : Reg := ⟨regKey 0x7801 i 0x04, 0⟩

/-- Table 03-4: `instPasid` -/
def rInstPasid (i : Nat) : Reg := ⟨regKey 0x7801 i 0x05, 0⟩

/-- Table 03-4: `instSlots` -/
def rInstSlots (i : Nat) : Reg := ⟨regKey 0x7801 i 0x06, 0⟩

/-- Table 03-4: `instQuota` -/
def rInstQuota (i : Nat) : Reg := ⟨regKey 0x7801 i 0x07, 16⟩

/-- Table 03-4: `instQos` -/
def rInstQos (i : Nat) : Reg := ⟨regKey 0x7801 i 0x08, 0⟩

/-- Table 03-4: `instPageHint` -/
def rInstPageHint (i : Nat) : Reg := ⟨regKey 0x7801 i 0x09, 0⟩

/-- Table 03-4: `instKeyBase` -/
def rInstKeyBase (i : Nat) : Reg := ⟨regKey 0x7801 i 0x0A, 0⟩

/-- Table 03-4: `instKeyCount` -/
def rInstKeyCount (i : Nat) : Reg := ⟨regKey 0x7801 i 0x0B, 0⟩

/-- Table 03-5: `sqBase` -/
def rSqBase (i : Nat) : Reg := ⟨regKey 0x7802 i 0x01, 0x0⟩

/-- Table 03-5: `sqLog2` -/
def rSqLog2 (i : Nat) : Reg := ⟨regKey 0x7802 i 0x02, 6⟩

/-- Table 03-5: `cqBase` -/
def rCqBase (i : Nat) : Reg := ⟨regKey 0x7802 i 0x03, 0x0⟩

/-- Table 03-5: `cqLog2` -/
def rCqLog2 (i : Nat) : Reg := ⟨regKey 0x7802 i 0x04, 6⟩

/-- Table 03-5: `msiAddr` -/
def rMsiAddr (i : Nat) : Reg := ⟨regKey 0x7802 i 0x05, 0x0⟩

/-- Table 03-5: `msiData` -/
def rMsiData (i : Nat) : Reg := ⟨regKey 0x7802 i 0x06, 0⟩

/-- Table 03-5: `msiEnable` -/
def rMsiEnable (i : Nat) : Reg := ⟨regKey 0x7802 i 0x07, 0⟩

/-- Table 03-8: `instState` -/
def rInstState (i : Nat) : Reg := ⟨regKey 0x7803 i 0x01, 0⟩

/-- Table 03-8: `instCommand` -/
def rInstCommand (i : Nat) : Reg := ⟨regKey 0x7803 i 0x02, 0⟩

/-- Table 03-8: `haltStatus` -/
def rHaltStatus (i : Nat) : Reg := ⟨regKey 0x7803 i 0x03, 0⟩

/-- Table 03-8: `haltAddress` -/
def rHaltAddress (i : Nat) : Reg := ⟨regKey 0x7803 i 0x04, 0x0⟩

/-- Table 03-8: `haltTag` -/
def rHaltTag (i : Nat) : Reg := ⟨regKey 0x7803 i 0x05, 0⟩

/-- Table 03-8: `jobsCompleted` -/
def rJobsCompleted (i : Nat) : Reg := ⟨regKey 0x7803 i 0x06, 0⟩

/-- Table 03-8: `jobsSquashed` -/
def rJobsSquashed (i : Nat) : Reg := ⟨regKey 0x7803 i 0x07, 0⟩

/-- Table 03-8: `doorbellErrors` -/
def rDoorbellErrors (i : Nat) : Reg := ⟨regKey 0x7803 i 0x08, 0⟩

/-- Table 03-13: `dlControl` -/
def rDlControl (i : Nat) : Reg := ⟨regKey 0x7804 i 0x01, 0⟩

/-- Table 03-13: `dlBitmap` -/
def rDlBitmap (i : Nat) : Reg := ⟨regKey 0x7804 i 0x02, 0x0⟩

/-- Table 03-13: `dlGpaBase` -/
def rDlGpaBase (i : Nat) : Reg := ⟨regKey 0x7804 i 0x03, 0x0⟩

/-- Table 03-13: `dlPages` -/
def rDlPages (i : Nat) : Reg := ⟨regKey 0x7804 i 0x04, 0⟩

/-- Table 03-13: `dlStatus` -/
def rDlStatus (i : Nat) : Reg := ⟨regKey 0x7804 i 0x05, 0x0000_0000⟩

/-- Table 03-13: `dlBitsSet` -/
def rDlBitsSet (i : Nat) : Reg := ⟨regKey 0x7804 i 0x06, 0⟩

/-- Table 04-7: `stUcodeEpoch` -/
def rStUcodeEpoch : Reg := ⟨regKey 0x7008 0 0x01, 0⟩

/-- Table 04-7: `stUcodeImage` -/
def domStUcodeImage : Nat := regKey 0x7008 0 0x02

/-- Table 04-7: `stMgmtSlots` -/
def domStMgmtSlots : Nat := regKey 0x7008 0 0x03

/-- Table 04-7: `stSlotsUnplaced` -/
def rStSlotsUnplaced : Reg := ⟨regKey 0x7008 0 0x04, 0⟩

/-- Table 04-7: `stGuardMismatches` -/
def rStGuardMismatches : Reg := ⟨regKey 0x7008 0 0x05, 0⟩

/-- Table 04-7: `stSelfCheckFails` -/
def rStSelfCheckFails : Reg := ⟨regKey 0x7008 0 0x06, 0⟩

/-- Table 04-7: `stSignExhausted` -/
def rStSignExhausted : Reg := ⟨regKey 0x7008 0 0x07, 0⟩

/-- Table 04-8: `engState` -/
def rStEngState (e : Nat) : Reg := ⟨regKey (0x7010 + e) 0 0x01, 1⟩

/-- Table 04-8: `engCommand` -/
def rStEngCommand (e : Nat) : Reg := ⟨regKey (0x7010 + e) 0 0x02, 0⟩

/-- Table 04-8: `engUcodeVersion` -/
def rStEngUcodeVersion (e : Nat) : Reg := ⟨regKey (0x7010 + e) 0 0x03, 0⟩

/-- Table 04-8: `engSlotOwner` -/
def domStEngSlotOwner (e : Nat) : Nat := regKey (0x7010 + e) 0 0x04

/-- Table 04-8: `engJobs` -/
def rStEngJobs (e : Nat) : Reg := ⟨regKey (0x7010 + e) 0 0x05, 0⟩

/-- Table 04-8: `engRestarts` -/
def rStEngRestarts (e : Nat) : Reg := ⟨regKey (0x7010 + e) 0 0x06, 0⟩

/-- Table 04-8: `engSelfTest` -/
def rStEngSelfTest (e : Nat) : Reg := ⟨regKey (0x7010 + e) 0 0x07, 0⟩

/-- Table 04-9: `esState` -/
def rEsState (b : Nat) : Reg := ⟨regKey (0x7050 + b) 0 0x01, 0⟩

/-- Table 04-9: `esRctFails` -/
def rEsRctFails (b : Nat) : Reg := ⟨regKey (0x7050 + b) 0 0x02, 0⟩

/-- Table 04-9: `esAptFails` -/
def rEsAptFails (b : Nat) : Reg := ⟨regKey (0x7050 + b) 0 0x03, 0⟩

/-- Table 04-9: `esRestart` -/
def rEsRestart (b : Nat) : Reg := ⟨regKey (0x7050 + b) 0 0x04, 0⟩

/-- Table 04-9: `drbgReseedCalls` -/
def rDrbgReseedCalls (b : Nat) : Reg := ⟨regKey (0x7050 + b) 0 0x05, 65536⟩

/-- Table 04-9: `drbgSource` -/
def rDrbgSource (b : Nat) : Reg := ⟨regKey (0x7050 + b) 0 0x06, b⟩

/-- Table 04-9: `drbgReseeds` -/
def rDrbgReseeds (b : Nat) : Reg := ⟨regKey (0x7050 + b) 0 0x07, 0⟩

/-- Table 04-10: `stGuarded` -/
def rStGuarded (i : Nat) : Reg := ⟨regKey 0x7801 i 0x20, 0⟩

/-- Table 04-10: `stSlotMap` -/
def domStSlotMap (i : Nat) : Nat := regKey 0x7801 i 0x21

/-- Table 04-10: `stSignsReleased` -/
def rStSignsReleased (i : Nat) : Reg := ⟨regKey 0x7801 i 0x22, 0⟩

/-- Table 05-10: `ksState` -/
def rKsState (h : Nat) : Reg := ⟨regKey 0x7101 h 0x01, 0⟩

/-- Table 05-10: `ksType` -/
def rKsType (h : Nat) : Reg := ⟨regKey 0x7101 h 0x02, 0⟩

/-- Table 05-10: `ksGeneration` -/
def rKsGeneration (h : Nat) : Reg := ⟨regKey 0x7101 h 0x03, 0⟩

/-- Table 05-10: `ksUsage` -/
def rKsUsage (h : Nat) : Reg := ⟨regKey 0x7101 h 0x04, 0⟩

/-- Table 05-10: `ksUseCount` -/
def rKsUseCount (h : Nat) : Reg := ⟨regKey 0x7101 h 0x05, 0⟩

/-- Table 05-10: `ksUseLimit` -/
def rKsUseLimit (h : Nat) : Reg := ⟨regKey 0x7101 h 0x06, 0⟩

/-- Table 05-10: `ksTenant` -/
def rKsTenant (h : Nat) : Reg := ⟨regKey 0x7101 h 0x07, 0⟩

/-- Table 05-10: `ksOwner` -/
def rKsOwner (h : Nat) : Reg := ⟨regKey 0x7101 h 0x08, 0⟩

/-- Table 05-10: `ksUsageMask` -/
def rKsUsageMask (h : Nat) : Reg := ⟨regKey 0x7101 h 0x09, 0x00⟩

/-- Table 05-10: `ksTypeMask` -/
def rKsTypeMask (h : Nat) : Reg := ⟨regKey 0x7101 h 0x0A, 0x0000⟩

/-- Table 05-10: `ksBlobOffset` -/
def rKsBlobOffset (h : Nat) : Reg := ⟨regKey 0x7101 h 0x0B, 0⟩

/-- Table 05-10: `ksBlobCapacity` -/
def rKsBlobCapacity (h : Nat) : Reg := ⟨regKey 0x7101 h 0x0C, 0⟩

/-- Table 05-10: `ksCommand` -/
def rKsCommand (h : Nat) : Reg := ⟨regKey 0x7101 h 0x0D, 0⟩

/-- Table 05-10: `ksImage` -/
def domKsImage (h : Nat) : Nat := regKey 0x7101 h 0x0E

/-- Table 05-10: `ksCreated` -/
def rKsCreated (h : Nat) : Reg := ⟨regKey 0x7101 h 0x0F, 0⟩

/-- Table 05-10: `ksSnapshot` -/
def domKsSnapshot (h : Nat) : Nat := regKey 0x7101 h 0x10

/-- Table 05-10: `ksImportError` -/
def rKsImportError (h : Nat) : Reg := ⟨regKey 0x7101 h 0x11, 0⟩

/-- Table 05-11: `ksDescBase` -/
def rKsDescBase : Reg := ⟨regKey 0x7060 0 0x01, 0x0⟩

/-- Table 05-11: `ksBlobBase` -/
def rKsBlobBase : Reg := ⟨regKey 0x7060 0 0x02, 0x0⟩

/-- Table 05-11: `ksBlobSize` -/
def rKsBlobSize : Reg := ⟨regKey 0x7060 0 0x03, 0⟩

/-- Table 05-11: `ksLocked` -/
def rKsLocked : Reg := ⟨regKey 0x7060 0 0x04, 0⟩

/-- Table 05-11: `ksStart` -/
def rKsStart : Reg := ⟨regKey 0x7060 0 0x05, 0⟩

/-- Table 05-11: `ksActiveKeys` -/
def rKsActiveKeys : Reg := ⟨regKey 0x7060 0 0x06, 0⟩

/-- Table 05-11: `ksCacheHits` -/
def rKsCacheHits : Reg := ⟨regKey 0x7060 0 0x07, 0⟩

/-- Table 05-11: `ksCacheMisses` -/
def rKsCacheMisses : Reg := ⟨regKey 0x7060 0 0x08, 0⟩

/-- Table 05-11: `ksIntegrityErrors` -/
def rKsIntegrityErrors : Reg := ⟨regKey 0x7060 0 0x09, 0⟩

/-- Table 05-13: `jnRingBase` -/
def rJnRingBase (b : Nat) : Reg := ⟨regKey (0x7068 + b) 0 0x01, 0x0⟩

/-- Table 05-13: `jnRingLog2` -/
def rJnRingLog2 (b : Nat) : Reg := ⟨regKey (0x7068 + b) 0 0x02, 20⟩

/-- Table 05-13: `jnState` -/
def rJnState (b : Nat) : Reg := ⟨regKey (0x7068 + b) 0 0x03, 0⟩

/-- Table 05-13: `jnNextSeq` -/
def rJnNextSeq (b : Nat) : Reg := ⟨regKey (0x7068 + b) 0 0x04, 0⟩

/-- Table 05-13: `jnHead` -/
def domJnHead (b : Nat) : Nat := regKey (0x7068 + b) 0 0x05

/-- Table 05-13: `jnFill` -/
def rJnFill (b : Nat) : Reg := ⟨regKey (0x7068 + b) 0 0x06, 0⟩

/-- Table 05-13: `jnStaged` -/
def rJnStaged (b : Nat) : Reg := ⟨regKey (0x7068 + b) 0 0x07, 0⟩

/-- Table 05-13: `jnStallTime` -/
def rJnStallTime (b : Nat) : Reg := ⟨regKey (0x7068 + b) 0 0x08, 2000⟩

/-- Table 05-13: `jnFullEvents` -/
def rJnFullEvents (b : Nat) : Reg := ⟨regKey (0x7068 + b) 0 0x09, 0⟩

/-- Table 05-15: `ckRingBase` -/
def rCkRingBase : Reg := ⟨regKey 0x706C 0 0x01, 0x0⟩

/-- Table 05-15: `ckRingLog2` -/
def rCkRingLog2 : Reg := ⟨regKey 0x706C 0 0x02, 10⟩

/-- Table 05-15: `ckRecordInterval` -/
def rCkRecordInterval : Reg := ⟨regKey 0x706C 0 0x03, 65536⟩

/-- Table 05-15: `ckTimeInterval` -/
def rCkTimeInterval : Reg := ⟨regKey 0x706C 0 0x04, 100⟩

/-- Table 05-15: `ckCommand` -/
def rCkCommand : Reg := ⟨regKey 0x706C 0 0x05, 0⟩

/-- Table 05-15: `ckNumber` -/
def rCkNumber : Reg := ⟨regKey 0x706C 0 0x06, 0⟩

/-- Table 05-15: `ckMissed` -/
def rCkMissed : Reg := ⟨regKey 0x706C 0 0x07, 0⟩

/-- Table 05-15: `ckLast` -/
def domCkLast : Nat := regKey 0x706C 0 0x08

/-- Table 05-16: `jrSource` -/
def rJrSource (i : Nat) : Reg := ⟨regKey 0x7801 i 0x20, 0⟩

/-- Table 05-16: `jrNextEntry` -/
def rJrNextEntry (i : Nat) : Reg := ⟨regKey 0x7801 i 0x21, 0⟩

/-- Table 05-16: `jrEntriesRead` -/
def rJrEntriesRead (i : Nat) : Reg := ⟨regKey 0x7801 i 0x22, 0⟩

/-- Table 06-17: `elBytesIn` -/
def rElBytesIn : Reg := ⟨regKey 0x7200 0 0x01, 0⟩

/-- Table 06-17: `elJobErrors` -/
def rElJobErrors : Reg := ⟨regKey 0x7200 0 0x02, 0⟩

/-- Table 06-17: `elTableMisses` -/
def rElTableMisses : Reg := ⟨regKey 0x7200 0 0x03, 0⟩

/-- Table 06-18: `engState` -/
def rElEngState (e : Nat) : Reg := ⟨regKey (0x7210 + e) 0 0x01, 1⟩

/-- Table 06-18: `engCommand` -/
def rElEngCommand (e : Nat) : Reg := ⟨regKey (0x7210 + e) 0 0x02, 0⟩

/-- Table 06-18: `engSlotOwner` -/
def domElEngSlotOwner (e : Nat) : Nat := regKey (0x7210 + e) 0 0x03

/-- Table 06-18: `engJobs` -/
def rElEngJobs (e : Nat) : Reg := ⟨regKey (0x7210 + e) 0 0x04, 0⟩

/-- Table 06-18: `engRestarts` -/
def rElEngRestarts (e : Nat) : Reg := ⟨regKey (0x7210 + e) 0 0x05, 0⟩

/-- Table 06-19: `elbSide0Base` -/
def rElbSide0Base (n : Nat) : Reg := ⟨regKey (0x7220 + n) 0 0x01, 0x0⟩

/-- Table 06-19: `elbSide1Base` -/
def rElbSide1Base (n : Nat) : Reg := ⟨regKey (0x7220 + n) 0 0x02, 0x0⟩

/-- Table 06-19: `elbSide0State` -/
def rElbSide0State (n : Nat) : Reg := ⟨regKey (0x7220 + n) 0 0x03, 0⟩

/-- Table 06-19: `elbSide1State` -/
def rElbSide1State (n : Nat) : Reg := ⟨regKey (0x7220 + n) 0 0x04, 0⟩

/-- Table 06-19: `elbCommand` -/
def rElbCommand (n : Nat) : Reg := ⟨regKey (0x7220 + n) 0 0x05, 0⟩

/-- Table 06-19: `elbLoadError` -/
def rElbLoadError (n : Nat) : Reg := ⟨regKey (0x7220 + n) 0 0x06, 0⟩

/-- Table 06-19: `elbVersion` -/
def rElbVersion (n : Nat) : Reg := ⟨regKey (0x7220 + n) 0 0x07, 0⟩

/-- Table 06-19: `elbBinds` -/
def rElbBinds (n : Nat) : Reg := ⟨regKey (0x7220 + n) 0 0x08, 0⟩

/-- Table 06-20: `elBankMask` -/
def rElBankMask (i : Nat) : Reg := ⟨regKey 0x7801 i 0x20, 0x0000_0000_0000_0000⟩

/-- Table 07-6: `dfBytesIn` -/
def rDfBytesIn : Reg := ⟨regKey 0x7300 0 0x01, 0⟩

/-- Table 07-6: `dfBytesOut` -/
def rDfBytesOut : Reg := ⟨regKey 0x7300 0 0x02, 0⟩

/-- Table 07-6: `dfJobErrors` -/
def rDfJobErrors : Reg := ⟨regKey 0x7300 0 0x03, 0⟩

/-- Table 07-7: `engState` -/
def rDfEngState (e : Nat) : Reg := ⟨regKey (0x7310 + e) 0 0x01, 1⟩

/-- Table 07-7: `engCommand` -/
def rDfEngCommand (e : Nat) : Reg := ⟨regKey (0x7310 + e) 0 0x02, 0⟩

/-- Table 07-7: `engSlotOwner` -/
def domDfEngSlotOwner (e : Nat) : Nat := regKey (0x7310 + e) 0 0x03

/-- Table 07-7: `engJobs` -/
def rDfEngJobs (e : Nat) : Reg := ⟨regKey (0x7310 + e) 0 0x04, 0⟩

/-- Table 07-7: `engRestarts` -/
def rDfEngRestarts (e : Nat) : Reg := ⟨regKey (0x7310 + e) 0 0x05, 0⟩

/-- Table 08-4: `coreHartId` -/
def rCoreHartId (k : Nat) : Reg := ⟨regKey (0x4001 + 0x10 * k) 0 0x01, k⟩

/-- Table 08-4: `coreRole` -/
def rCoreRole (k : Nat) : Reg := ⟨regKey (0x4001 + 0x10 * k) 0 0x02, 0⟩

/-- Table 08-4: `coreResetVector` -/
def rCoreResetVector (k : Nat) : Reg := ⟨regKey (0x4001 + 0x10 * k) 0 0x03, 0x0⟩

/-- Table 08-4: `coreLockstepFails` -/
def rCoreLockstepFails (k : Nat) : Reg := ⟨regKey (0x4001 + 0x10 * k) 0 0x04, 0⟩

/-- Table 08-4: `coreArrayErrors` -/
def rCoreArrayErrors (k : Nat) : Reg := ⟨regKey (0x4001 + 0x10 * k) 0 0x05, 0⟩

/-- Table 08-4: `coreMsiDropped` -/
def rCoreMsiDropped (k : Nat) : Reg := ⟨regKey (0x4001 + 0x10 * k) 0 0x06, 0⟩

/-- Table 08-4: `coreBusErrors` -/
def rCoreBusErrors (k : Nat) : Reg := ⟨regKey (0x4001 + 0x10 * k) 0 0x07, 0⟩

/-- Table 08-5: `coreModeNext` -/
def rCoreModeNext (n : Nat) : Reg := ⟨regKey (0x3003 + 0x80 * n) 0 0x01, 0⟩

/-- Table 08-5: `coreModeActive` -/
def rCoreModeActive (n : Nat) : Reg := ⟨regKey (0x3003 + 0x80 * n) 0 0x02, 0⟩

/-- Table 09-1: `rgnEnable` -/
def rRgnEnable (n : Nat) : Reg := ⟨regKey 0x2041 n 0x01, 0⟩

/-- Table 09-1: `rgnBase` -/
def rRgnBase (n : Nat) : Reg := ⟨regKey 0x2041 n 0x02, 0x0⟩

/-- Table 09-1: `rgnLimit` -/
def rRgnLimit (n : Nat) : Reg := ⟨regKey 0x2041 n 0x03, 0x0⟩

/-- Table 09-1: `rgnPosted` -/
def rRgnPosted (n : Nat) : Reg := ⟨regKey 0x2041 n 0x04, 0⟩

/-- Table 09-1: `rgnWorld` -/
def rRgnWorld (n : Nat) : Reg := ⟨regKey 0x2041 n 0x05, 0⟩

/-- Table 09-1: `rgnStoreErrors` -/
def rRgnStoreErrors (n : Nat) : Reg := ⟨regKey 0x2041 n 0x06, 0⟩

/-- Table 10-3: `hintSrcHbm` -/
def rHintSrcHbm : Reg := ⟨regKey 0x2004 0 0x01, 0⟩

/-- Table 10-3: `hintSrcDdr` -/
def rHintSrcDdr : Reg := ⟨regKey 0x2004 0 0x02, 0⟩

/-- Table 10-3: `hintSrcCxl` -/
def rHintSrcCxl : Reg := ⟨regKey 0x2004 0 0x03, 0⟩

/-- Table 10-10: `trWalks` -/
def rTrWalks (k : Nat) : Reg := ⟨regKey (0x4002 + 0x10 * k) 0 0x01, 0⟩

/-- Table 10-10: `trWalkCacheHits` -/
def rTrWalkCacheHits (k : Nat) : Reg := ⟨regKey (0x4002 + 0x10 * k) 0 0x02, 0⟩

/-- Table 10-10: `trRewalks` -/
def rTrRewalks (k : Nat) : Reg := ⟨regKey (0x4002 + 0x10 * k) 0 0x03, 0⟩

/-- Table 10-10: `trWalkAccessFaults` -/
def rTrWalkAccessFaults (k : Nat) : Reg := ⟨regKey (0x4002 + 0x10 * k) 0 0x04, 0⟩

/-- Table 11-4: `pwEnable` -/
def rPwEnable : Reg := ⟨regKey 0x5840 0 0x01, 0⟩

/-- Table 11-4: `pwState` -/
def rPwState : Reg := ⟨regKey 0x5840 0 0x02, 0⟩

/-- Table 11-4: `pwCommand` -/
def rPwCommand : Reg := ⟨regKey 0x5840 0 0x03, 0⟩

/-- Table 11-4: `pwCmdBase` -/
def rPwCmdBase (p : Path) : Reg := ⟨regKey 0x5840 (pathNum p) 0x04, 0x0⟩

/-- Table 11-4: `pwCmdLength` -/
def rPwCmdLength (p : Path) : Reg := ⟨regKey 0x5840 (pathNum p) 0x05, 0⟩

/-- Table 11-4: `pwCmdSlices` -/
def rPwCmdSlices (p : Path) : Reg := ⟨regKey 0x5840 (pathNum p) 0x06, 0x0000_0000⟩

/-- Table 11-4: `pwCmdSegments` -/
def rPwCmdSegments (p : Path) : Reg := ⟨regKey 0x5840 (pathNum p) 0x07, 0x0000_0000_0000_0000⟩

/-- Table 11-4: `pwCmdSkipped` -/
def rPwCmdSkipped : Reg := ⟨regKey 0x5840 0 0x08, 0⟩

/-- Table 11-4: `pwPfDepth` -/
def rPwPfDepth : Reg := ⟨regKey 0x5840 0 0x09, 4⟩

/-- Table 11-4: `pwDirtyLines` -/
def rPwDirtyLines : Reg := ⟨regKey 0x5840 0 0x0A, 0⟩

/-- Table 11-4: `pwCorrected` -/
def rPwCorrected : Reg := ⟨regKey 0x5840 0 0x0B, 0⟩

/-- Table 11-4: `pwUncorrectable` -/
def rPwUncorrectable : Reg := ⟨regKey 0x5840 0 0x0C, 0⟩

/-- Table 11-4: `pwTagRepairs` -/
def rPwTagRepairs : Reg := ⟨regKey 0x5840 0 0x0D, 0⟩

/-- Table 11-4: `pwScrubHours` -/
def rPwScrubHours : Reg := ⟨regKey 0x5840 0 0x0E, 24⟩

/-- Table 11-5: `pwSegLocked` -/
def rPwSegLocked (s : Nat) : Reg := ⟨regKey (0x5860 + s) 0 0x01, 0x0000_0000_0000_0000⟩

/-- Table 11-5: `pwSegWorld` -/
def rPwSegWorld (s : Nat) : Reg := ⟨regKey (0x5860 + s) 0 0x02, 0x0000_0000_0000_0000⟩

/-- Table 11-5: `pwHits` -/
def rPwHits (s : Nat) : Reg := ⟨regKey (0x5860 + s) 0 0x03, 0⟩

/-- Table 11-5: `pwMisses` -/
def rPwMisses (s : Nat) : Reg := ⟨regKey (0x5860 + s) 0 0x04, 0⟩

/-- Table 11-5: `pwBypasses` -/
def rPwBypasses (s : Nat) : Reg := ⟨regKey (0x5860 + s) 0 0x05, 0⟩

/-- Table 11-5: `pwPfIssued` -/
def rPwPfIssued (s : Nat) : Reg := ⟨regKey (0x5860 + s) 0 0x06, 0⟩

/-- Table 11-5: `pwPfUsed` -/
def rPwPfUsed (s : Nat) : Reg := ⟨regKey (0x5860 + s) 0 0x07, 0⟩

/-- Table 11-5: `pwPfAged` -/
def rPwPfAged (s : Nat) : Reg := ⟨regKey (0x5860 + s) 0 0x08, 0⟩

/-- Table 12-9: `dirEntries` -/
def rDirEntries : Reg := ⟨regKey 0x5820 0 0x01, 5242880⟩

/-- Table 12-9: `dirTrackers` -/
def rDirTrackers : Reg := ⟨regKey 0x5820 0 0x02, 192⟩

/-- Table 12-9: `dirReservationSlots` -/
def rDirReservationSlots : Reg := ⟨regKey 0x5820 0 0x03, 256⟩

/-- Table 12-9: `dirVictimPolicy` -/
def rDirVictimPolicy : Reg := ⟨regKey 0x5820 0 0x04, 0⟩

/-- Table 12-10: `hsTrackersBusy` -/
def rHsTrackersBusy (s : Nat) : Reg := ⟨regKey (0x5800 + s) 0 0x01, 0⟩

/-- Table 12-10: `hsRetries` -/
def rHsRetries (s : Nat) : Reg := ⟨regKey (0x5800 + s) 0 0x02, 0⟩

/-- Table 12-10: `hsRetriesPinned` -/
def rHsRetriesPinned (s : Nat) : Reg := ⟨regKey (0x5800 + s) 0 0x03, 0⟩

/-- Table 12-10: `hsReservationsGranted` -/
def rHsReservationsGranted (s : Nat) : Reg := ⟨regKey (0x5800 + s) 0 0x04, 0⟩

/-- Table 12-10: `hsBackInvals` -/
def rHsBackInvals (s : Nat) : Reg := ⟨regKey (0x5800 + s) 0 0x05, 0⟩

/-- Table 12-10: `hsRecalls` -/
def rHsRecalls (s : Nat) : Reg := ⟨regKey (0x5800 + s) 0 0x06, 0⟩

/-- Table 12-10: `hsDirCorrected` -/
def rHsDirCorrected (s : Nat) : Reg := ⟨regKey (0x5800 + s) 0 0x07, 0⟩

/-- Table 12-10: `hsBroadcastRecoveries` -/
def rHsBroadcastRecoveries (s : Nat) : Reg := ⟨regKey (0x5800 + s) 0 0x08, 0⟩

/-- Table 12-11: `fltEntries` -/
def rFltEntries (n : Nat) : Reg := ⟨regKey (0x3004 + 0x80 * n) 0 0x01, 393216⟩

/-- Table 12-11: `fltBackInvals` -/
def rFltBackInvals (n : Nat) : Reg := ⟨regKey (0x3004 + 0x80 * n) 0 0x02, 0⟩

/-- Table 12-11: `fltCorrected` -/
def rFltCorrected (n : Nat) : Reg := ⟨regKey (0x3004 + 0x80 * n) 0 0x03, 0⟩

/-- Table 12-11: `fltRecoveries` -/
def rFltRecoveries (n : Nat) : Reg := ⟨regKey (0x3004 + 0x80 * n) 0 0x04, 0⟩

/-- Table 13-6: `qosRate` -/
def rQosRate (c : Nat) : Reg := ⟨regKey (0x5040 + c) 0 0x01, 1024⟩

/-- Table 13-6: `qosBurst` -/
def rQosBurst (c : Nat) : Reg := ⟨regKey (0x5040 + c) 0 0x02, 64⟩

/-- Table 13-6: `qosThrottled` -/
def rQosThrottled (c : Nat) : Reg := ⟨regKey (0x5040 + c) 0 0x03, 0⟩

/-- Table 13-10: `toCoherent` -/
def rToCoherent : Reg := ⟨regKey 0x5000 0 0x01, 400⟩

/-- Table 13-10: `toRegister` -/
def rToRegister : Reg := ⟨regKey 0x5000 0 0x02, 50⟩

/-- Table 13-10: `toIo` -/
def rToIo : Reg := ⟨regKey 0x5000 0 0x03, 10000⟩

/-- Table 13-10: `fabOppositeRoute` -/
def rFabOppositeRoute : Reg := ⟨regKey 0x5000 0 0x04, 0⟩

/-- Table 13-10: `fabLateResponses` -/
def rFabLateResponses : Reg := ⟨regKey 0x5000 0 0x05, 0⟩

/-- Table 13-10: `fabTargetOffline` -/
def rFabTargetOffline : Reg := ⟨regKey 0x5000 0 0x06, 0⟩

/-- Table 13-10: `fabPostedDiscarded` -/
def rFabPostedDiscarded : Reg := ⟨regKey 0x5000 0 0x07, 0⟩

/-- Table 13-10: `fabTimeouts` -/
def rFabTimeouts : Reg := ⟨regKey 0x5000 0 0x08, 0⟩

/-- Table 13-10: `fabRouteChanges` -/
def rFabRouteChanges : Reg := ⟨regKey 0x5000 0 0x09, 0⟩

/-- Table 13-11: `rtState` -/
def rRtState (n : Nat) : Reg := ⟨regKey (0x5100 + n) 0 0x01, 3⟩

/-- Table 13-11: `rtCorrected` -/
def rRtCorrected (n : Nat) : Reg := ⟨regKey (0x5100 + n) 0 0x02, 0⟩

/-- Table 13-11: `rtReplays` -/
def rRtReplays (n : Nat) : Reg := ⟨regKey (0x5100 + n) 0 0x03, 0⟩

/-- Table 13-11: `rtSpares` -/
def rRtSpares (n : Nat) : Reg := ⟨regKey (0x5100 + n) 0 0x04, 0⟩

/-- Table 14-9: `sdReplayLimit` -/
def rSdReplayLimit : Reg := ⟨regKey 0x6400 0 0x01, 8⟩

/-- Table 14-9: `sdModulesOut` -/
def rSdModulesOut : Reg := ⟨regKey 0x6400 0 0x02, 0⟩

/-- Table 14-9: `sdFlitsLostTotal` -/
def rSdFlitsLostTotal : Reg := ⟨regKey 0x6400 0 0x03, 0⟩

/-- Table 14-10: `sdState` -/
def rSdState (m : Nat) : Reg := ⟨regKey (moduleIndex m) 0 0x01, 1⟩

/-- Table 14-10: `sdWidth` -/
def rSdWidth (m : Nat) : Reg := ⟨regKey (moduleIndex m) 0 0x02, 0⟩

/-- Table 14-10: `sdCommand` -/
def rSdCommand (m : Nat) : Reg := ⟨regKey (moduleIndex m) 0 0x03, 0⟩

/-- Table 14-10: `sdTrainAttempts` -/
def rSdTrainAttempts (m : Nat) : Reg := ⟨regKey (moduleIndex m) 0 0x04, 0⟩

/-- Table 14-10: `sdPeerCaps` -/
def domSdPeerCaps (m : Nat) : Nat := regKey (moduleIndex m) 0 0x05

/-- Table 14-10: `sdReplays` -/
def rSdReplays (m : Nat) : Reg := ⟨regKey (moduleIndex m) 0 0x06, 0⟩

/-- Table 14-10: `sdCrcErrors` -/
def rSdCrcErrors (m : Nat) : Reg := ⟨regKey (moduleIndex m) 0 0x07, 0⟩

/-- Table 14-10: `sdRetrains` -/
def rSdRetrains (m : Nat) : Reg := ⟨regKey (moduleIndex m) 0 0x08, 0⟩

/-- Table 14-10: `sdWidthMismatches` -/
def rSdWidthMismatches (m : Nat) : Reg := ⟨regKey (moduleIndex m) 0 0x09, 0⟩

/-- Table 14-10: `sdFlitsLost` -/
def rSdFlitsLost (m : Nat) : Reg := ⟨regKey (moduleIndex m) 0 0x0A, 0⟩

/-- Table 15-8: `memPoisonMode` -/
def rMemPoisonMode : Reg := ⟨regKey 0x6000 0 0x01, 1⟩

/-- Table 15-8: `ddrPopulation` -/
def rDdrPopulation : Reg := ⟨regKey 0x6000 0 0x02, 0⟩

/-- Table 15-8: `memUncorrectable` -/
def rMemUncorrectable : Reg := ⟨regKey 0x6000 0 0x03, 0⟩

/-- Table 15-8: `memMarkedReads` -/
def rMemMarkedReads : Reg := ⟨regKey 0x6000 0 0x04, 0⟩

/-- Table 15-9: `mcState` -/
def rMcState (m : Nat) : Reg := ⟨regKey (controllerIndex m) 0 0x01, 1⟩

/-- Table 15-9: `mcRate` -/
def rMcRate (m : Nat) : Reg := ⟨regKey (controllerIndex m) 0 0x02, 0⟩

/-- Table 15-9: `mcShadowRate` -/
def rMcShadowRate (m : Nat) : Reg := ⟨regKey (controllerIndex m) 0 0x03, (if m < 12 then 6400 else 8000)⟩

/-- Table 15-9: `mcShadowTiming` -/
def domMcShadowTiming (m : Nat) : Nat := regKey (controllerIndex m) 0 0x04

/-- Table 15-9: `mcCommand` -/
def rMcCommand (m : Nat) : Reg := ⟨regKey (controllerIndex m) 0 0x05, 0⟩

/-- Table 15-9: `mcSpareAddr` -/
def rMcSpareAddr (m : Nat) : Reg := ⟨regKey (controllerIndex m) 0 0x06, 0x0⟩

/-- Table 15-9: `mcSpareError` -/
def rMcSpareError (m : Nat) : Reg := ⟨regKey (controllerIndex m) 0 0x07, 0⟩

/-- Table 15-9: `mcPageIdle` -/
def rMcPageIdle (m : Nat) : Reg := ⟨regKey (controllerIndex m) 0 0x08, 200⟩

/-- Table 15-9: `mcCorrected` -/
def rMcCorrected (m : Nat) : Reg := ⟨regKey (controllerIndex m) 0 0x09, 0⟩

/-- Table 15-9: `mcUncorrectable` -/
def rMcUncorrectable (m : Nat) : Reg := ⟨regKey (controllerIndex m) 0 0x0A, 0⟩

/-- Table 15-9: `mcMarkedReads` -/
def rMcMarkedReads (m : Nat) : Reg := ⟨regKey (controllerIndex m) 0 0x0B, 0⟩

/-- Table 15-9: `mcReplays` -/
def rMcReplays (m : Nat) : Reg := ⟨regKey (controllerIndex m) 0 0x0C, 0⟩

/-- Table 15-9: `mcCeTable` -/
def domMcCeTable (m : Nat) : Nat := regKey (controllerIndex m) 0 0x0D

/-- Table 15-9: `mcCeOverflows` -/
def rMcCeOverflows (m : Nat) : Reg := ⟨regKey (controllerIndex m) 0 0x0E, 0⟩

/-- Table 15-9: `mcRowThreshold` -/
def rMcRowThreshold (m : Nat) : Reg := ⟨regKey (controllerIndex m) 0 0x0F, 16⟩

/-- Table 15-9: `mcTestMode` -/
def rMcTestMode (m : Nat) : Reg := ⟨regKey (controllerIndex m) 0 0x10, 0⟩

/-- Table 15-9: `mcTestLine` -/
def rMcTestLine (m : Nat) : Reg := ⟨regKey (controllerIndex m) 0 0x11, 0x0⟩

/-- Table 15-9: `mcTestCheck` -/
def domMcTestCheck (m : Nat) : Nat := regKey (controllerIndex m) 0 0x12

/-- Table 15-9: `mcTestSyndrome` -/
def domMcTestSyndrome (m : Nat) : Nat := regKey (controllerIndex m) 0 0x13

/-- Table 15-9: `mcHeldMax` -/
def rMcHeldMax (m : Nat) : Reg := ⟨regKey (controllerIndex m) 0 0x14, 0⟩

/-- Table 16-7: `tkState` -/
def rTkState : Reg := ⟨regKey 0x8000 0 0x01, 0⟩

/-- Table 16-7: `tkWatchdogPeriod` -/
def rTkWatchdogPeriod : Reg := ⟨regKey 0x8000 0 0x02, 10000⟩

/-- Table 16-7: `tkWatchdogKick` -/
def rTkWatchdogKick : Reg := ⟨regKey 0x8000 0 0x03, 0⟩

/-- Table 16-7: `tkCommand` -/
def rTkCommand : Reg := ⟨regKey 0x8000 0 0x04, 0⟩

/-- Table 16-7: `tkExpiries` -/
def rTkExpiries : Reg := ⟨regKey 0x8000 0 0x05, 0⟩

/-- Table 16-7: `tkForcedReturns` -/
def rTkForcedReturns : Reg := ⟨regKey 0x8000 0 0x06, 0⟩

/-- Table 16-7: `tkLastExpiry` -/
def rTkLastExpiry : Reg := ⟨regKey 0x8000 0 0x07, 0⟩

/-- Table 16-7: `tkRestarts` -/
def rTkRestarts : Reg := ⟨regKey 0x8000 0 0x08, 0⟩

/-- Table 16-8: `wrEnable` -/
def rWrEnable (n : Nat) : Reg := ⟨regKey (0x8010 + n) 0 0x01, (if n = 0 then 1 else 0)⟩

/-- Table 16-8: `wrBase` -/
def rWrBase (n : Nat) : Reg := ⟨regKey (0x8010 + n) 0 0x02, (if n = 0 then tantalumPage 0 else 0)⟩

/-- Table 16-8: `wrLimit` -/
def rWrLimit (n : Nat) : Reg := ⟨regKey (0x8010 + n) 0 0x03, (if n = 0 then tantalumPage 0 + 0xFFF else 0)⟩

/-- Table 16-8: `wrOwner` -/
def rWrOwner (n : Nat) : Reg := ⟨regKey (0x8010 + n) 0 0x04, (if n = 0 then 1 else 0)⟩

/-- Table 16-8: `wrViolations` -/
def rWrViolations (n : Nat) : Reg := ⟨regKey (0x8010 + n) 0 0x05, 0⟩

/-- Table 16-9: `scrubFid0`–`scrubFid15` -/
def rScrubFid (j : Nat) : Reg := ⟨regKey 0x8030 0 (0x01 + j), 0⟩

/-- Table 16-9: `scrubValid` -/
def rScrubValid : Reg := ⟨regKey 0x8030 0 0x11, 0x0000_0000⟩

/-- Table 16-10: `blkWorld` -/
def rBlkWorld (n : Nat) : Reg := ⟨regKey (0x8040 + n) 0 0x01, 1⟩

/-- Table 16-10: `blkCommand` -/
def rBlkCommand (n : Nat) : Reg := ⟨regKey (0x8040 + n) 0 0x02, 0⟩

/-- Table 16-11: `irqSource` -/
def rIrqSource : Reg := ⟨regKey 0x8080 0 0x01, 3⟩

/-- Table 16-11: `irqCommand` -/
def rIrqCommand : Reg := ⟨regKey 0x8080 0 0x02, 0⟩

/-- Table 16-11: `irqWorld0`–`irqWorld15` -/
def rIrqWorld (j : Nat) : Reg := ⟨regKey 0x8080 0 (0x03 + j), (if j = 0 then 0xFFFF_FFFF_FFFF_FFFC else 0xFFFF_FFFF_FFFF_FFFF)⟩

/-- Table 16-12: `dbgNormInvasive` -/
def rDbgNormInvasive : Reg := ⟨regKey 0xA000 0 0x01, 0⟩

/-- Table 16-12: `dbgNormNonInvasive` -/
def rDbgNormNonInvasive : Reg := ⟨regKey 0xA000 0 0x02, 0⟩

/-- Table 16-12: `dbgTanInvasive` -/
def rDbgTanInvasive : Reg := ⟨regKey 0xA000 0 0x03, 0⟩

/-- Table 16-12: `dbgTanNonInvasive` -/
def rDbgTanNonInvasive : Reg := ⟨regKey 0xA000 0 0x04, 0⟩

/-- Table 16-12: `dbgFused` -/
def rDbgFused : Reg := ⟨regKey 0xA000 0 0x05, 0⟩

/-- Table 17-7: `fsUrgentTime` -/
def rFsUrgentTime : Reg := ⟨regKey 0x9000 0 0x01, 1000⟩

/-- Table 17-7: `fsRecords` -/
def rFsRecords : Reg := ⟨regKey 0x9000 0 0x02, 0⟩

/-- Table 17-7: `fsLogLost` -/
def rFsLogLost : Reg := ⟨regKey 0x9000 0 0x03, 0⟩

/-- Table 17-7: `fsNewest` -/
def rFsNewest : Reg := ⟨regKey 0x9000 0 0x04, 0⟩

/-- Table 17-7: `fsSequence` -/
def rFsSequence : Reg := ⟨regKey 0x9000 0 0x05, 0⟩

/-- Table 17-7: `fsCommand` -/
def rFsCommand : Reg := ⟨regKey 0x9000 0 0x06, 0⟩

/-- Table 17-7: `fsLatched` -/
def rFsLatched : Reg := ⟨regKey 0x9000 0 0x07, 0⟩

/-- Table 17-7: `fsPins` -/
def rFsPins : Reg := ⟨regKey 0x9000 0 0x08, 0x0000_0000⟩

/-- Table 17-7: `fsEscalations` -/
def rFsEscalations : Reg := ⟨regKey 0x9000 0 0x09, 0⟩

/-- Table 17-8: `frState` -/
def rFrState (e : Nat) : Reg := ⟨regKey 0x9011 e 0x01, 0⟩

/-- Table 17-8: `frClass` -/
def rFrClass (e : Nat) : Reg := ⟨regKey 0x9011 e 0x02, 0⟩

/-- Table 17-8: `frSnapshot` -/
def domFrSnapshot (e : Nat) : Nat := regKey 0x9011 e 0x03

/-- Table 17-8: `frCommand` -/
def rFrCommand (e : Nat) : Reg := ⟨regKey 0x9011 e 0x04, 0⟩

/-- Table 17-9: `kindClass` -/
def rKindClass (k : Nat) : Reg := ⟨regKey (0x9100 + k) 0 0x01, kindDefault k⟩

/-- Table 17-9: `kindFixed` -/
def rKindFixed (k : Nat) : Reg := ⟨regKey (0x9100 + k) 0 0x02, boolNat (kindIsFixed k)⟩

/-- Table 17-9: `kindCount` -/
def rKindCount (k : Nat) : Reg := ⟨regKey (0x9100 + k) 0 0x03, 0⟩

/-- Table 17-10: `srcClass` -/
def rSrcClass (s : Nat) : Reg := ⟨regKey (0x9200 + s) 0 0x01, 0⟩

/-- Table 17-10: `srcPending` -/
def rSrcPending (s : Nat) : Reg := ⟨regKey (0x9200 + s) 0 0x02, 0⟩

/-- Table 17-10: `srcCount` -/
def rSrcCount (s : Nat) : Reg := ⟨regKey (0x9200 + s) 0 0x03, 0⟩

/-- Table 17-10: `srcLost` -/
def rSrcLost (s : Nat) : Reg := ⟨regKey (0x9200 + s) 0 0x04, 0⟩

/-- Table 17-10: `srcCommand` -/
def rSrcCommand (s : Nat) : Reg := ⟨regKey (0x9200 + s) 0 0x05, 0⟩

/-- Table 17-10: `srcFolded` -/
def rSrcFolded (s : Nat) : Reg := ⟨regKey (0x9200 + s) 0 0x06, 0⟩

/-- Table 18-4: `invarNow` -/
def rInvarNow : Reg := ⟨regKey 0x1200 0 0x01, 0⟩

/-- Table 18-4: `syncState` -/
def rSyncState : Reg := ⟨regKey 0x1200 0 0x02, 0⟩

/-- Table 18-4: `syncPathDelay` -/
def rSyncPathDelay : Reg := ⟨regKey 0x1200 0 0x03, 0⟩

/-- Table 18-4: `syncOffset` -/
def rSyncOffset : Reg := ⟨regKey 0x1200 0 0x04, 0⟩

/-- Table 18-4: `syncSteps` -/
def rSyncSteps : Reg := ⟨regKey 0x1200 0 0x05, 0⟩

/-- Table 18-5: `partState` -/
def rPartState : Reg := ⟨regKey 0x1208 0 0x01, 0⟩

/-- Table 18-5: `partReach` -/
def rPartReach : Reg := ⟨regKey 0x1208 0 0x02, 0⟩

/-- Table 18-5: `partVerdict` -/
def rPartVerdict : Reg := ⟨regKey 0x1208 0 0x03, 0⟩

/-- Table 18-5: `partMasterPkg` -/
def rPartMasterPkg : Reg := ⟨regKey 0x1208 0 0x04, 0xFF⟩

/-- Table 18-5: `partHold` -/
def rPartHold : Reg := ⟨regKey 0x1208 0 0x05, 2000⟩

/-- Table 18-5: `partDecide` -/
def rPartDecide : Reg := ⟨regKey 0x1208 0 0x06, 5000⟩

/-- Table 18-5: `partLost` -/
def rPartLost : Reg := ⟨regKey 0x1208 0 0x07, 0x0000_0000⟩

/-- Table 18-6: `hfFilterEntries` -/
def rHfFilterEntries : Reg := ⟨regKey 0x6470 0 0x01, 262144⟩

/-- Table 18-6: `hfBackInvals` -/
def rHfBackInvals : Reg := ⟨regKey 0x6470 0 0x02, 0⟩

/-- Table 18-6: `hfRelayFlits` -/
def rHfRelayFlits : Reg := ⟨regKey 0x6470 0 0x03, 0⟩

/-- Table 18-6: `hfFlitsLost` -/
def rHfFlitsLost : Reg := ⟨regKey 0x6470 0 0x04, 0⟩

/-- Table 18-7: `hfState` -/
def rHfState (l : Nat) : Reg := ⟨regKey (0x6480 + l) 0 0x01, 1⟩

/-- Table 18-7: `hfWidth` -/
def rHfWidth (l : Nat) : Reg := ⟨regKey (0x6480 + l) 0 0x02, 0⟩

/-- Table 18-7: `hfPeer` -/
def rHfPeer (l : Nat) : Reg := ⟨regKey (0x6480 + l) 0 0x03, 0xFF⟩

/-- Table 18-7: `hfCommand` -/
def rHfCommand (l : Nat) : Reg := ⟨regKey (0x6480 + l) 0 0x04, 0⟩

/-- Table 18-7: `hfReplays` -/
def rHfReplays (l : Nat) : Reg := ⟨regKey (0x6480 + l) 0 0x05, 0⟩

/-- Table 18-7: `hfFecCorrected` -/
def rHfFecCorrected (l : Nat) : Reg := ⟨regKey (0x6480 + l) 0 0x06, 0⟩

/-- Table 18-7: `hfRetrains` -/
def rHfRetrains (l : Nat) : Reg := ⟨regKey (0x6480 + l) 0 0x07, 0⟩

/-- Table 19-10: `bootState` -/
def rBootState : Reg := ⟨regKey 0x2200 0 0x01, 0⟩

/-- Table 19-10: `bootSlotActive` -/
def rBootSlotActive : Reg := ⟨regKey 0x2200 0 0x02, 0⟩

/-- Table 19-10: `bootSlotResult0` -/
def rBootSlotResult0 : Reg := ⟨regKey 0x2200 0 0x03, 0⟩

/-- Table 19-10: `bootSlotResult1` -/
def rBootSlotResult1 : Reg := ⟨regKey 0x2200 0 0x04, 0⟩

/-- Table 19-10: `bootVersion0` -/
def rBootVersion0 : Reg := ⟨regKey 0x2200 0 0x05, 0⟩

/-- Table 19-10: `bootVersion1` -/
def rBootVersion1 : Reg := ⟨regKey 0x2200 0 0x06, 0⟩

/-- Table 19-10: `bootSvnFused` -/
def rBootSvnFused : Reg := ⟨regKey 0x2200 0 0x07, 0⟩

/-- Table 19-10: `bootKeyRevoked` -/
def rBootKeyRevoked : Reg := ⟨regKey 0x2200 0 0x08, 0⟩

/-- Table 19-10: `bootCommand` -/
def rBootCommand : Reg := ⟨regKey 0x2200 0 0x09, 0⟩

/-- Table 19-10: `bootKeyDigest0` -/
def domBootKeyDigest0 : Nat := regKey 0x2200 0 0x0A

/-- Table 19-10: `bootKeyDigest1` -/
def domBootKeyDigest1 : Nat := regKey 0x2200 0 0x0B

/-- Table 19-10: `mgmtFwVersion` -/
def rMgmtFwVersion : Reg := ⟨regKey 0x2200 0 0x0C, 0⟩

/-- Table 19-11: `measCount` -/
def rMeasCount : Reg := ⟨regKey 0x2202 0 0x01, 0⟩

/-- Table 19-11: `measHead` -/
def domMeasHead : Nat := regKey 0x2202 0 0x02

/-- Table 19-11: `measLog` -/
def domMeasLog : Nat := regKey 0x2202 0 0x03

/-- Table 19-11: `measExtend` -/
def domMeasExtend : Nat := regKey 0x2202 0 0x04

/-- Table 19-12: `attPublicKey` -/
def domAttPublicKey : Nat := regKey 0x2203 0 0x01

/-- Table 19-12: `attNonce` -/
def domAttNonce (p : Path) : Nat := regKey 0x2203 (pathNum p) 0x02

/-- Table 19-12: `attCommand` -/
def rAttCommand : Reg := ⟨regKey 0x2203 0 0x03, 0⟩

/-- Table 19-12: `attReport` -/
def domAttReport (p : Path) : Nat := regKey 0x2203 (pathNum p) 0x04

/-- Table 20-6: `pcCommand` -/
def rPcCommand : Reg := ⟨regKey 0x9800 0 0x01, 0⟩

/-- Table 20-6: `pcFrozen` -/
def rPcFrozen : Reg := ⟨regKey 0x9800 0 0x02, 0⟩

/-- Table 20-6: `pcFreezeTime` -/
def rPcFreezeTime : Reg := ⟨regKey 0x9800 0 0x03, 0⟩

/-- Table 20-6: `pcFreezeOnFatal` -/
def rPcFreezeOnFatal : Reg := ⟨regKey 0x9800 0 0x04, 1⟩

/-- Table 20-7: `hsnCycle` -/
def rHsnCycle (k : Nat) : Reg := ⟨regKey (0x4003 + 0x10 * k) 0 0x01, 0⟩

/-- Table 20-7: `hsnInstret` -/
def rHsnInstret (k : Nat) : Reg := ⟨regKey (0x4003 + 0x10 * k) 0 0x02, 0⟩

/-- Table 20-7: `hsnHpm3`–`hsnHpm10` -/
def rHsnHpm (k : Nat) (j : Nat) : Reg := ⟨regKey (0x4003 + 0x10 * k) 0 (0x03 + j), 0⟩

/-- Table 20-7: `hsnValid` -/
def rHsnValid (k : Nat) : Reg := ⟨regKey (0x4003 + 0x10 * k) 0 0x0B, 0⟩

/-- Table 20-8: `cgKind` -/
def rCgKind (g : Nat) : Reg := ⟨regKey 0x9811 g 0x01, 0⟩

/-- Table 20-8: `cgEvent0`–`cgEvent7` -/
def rCgEvent (g : Nat) (j : Nat) : Reg := ⟨regKey 0x9811 g (0x02 + j), 0⟩

/-- Table 20-8: `cgCount0`–`cgCount7` -/
def rCgCount (g : Nat) (j : Nat) : Reg := ⟨regKey 0x9811 g (0x0A + j), 0⟩

/-- Table 20-8: `cgSnap0`–`cgSnap7` -/
def rCgSnap (g : Nat) (j : Nat) : Reg := ⟨regKey 0x9811 g (0x12 + j), 0⟩

/-- Table 20-8: `cgSnapValid` -/
def rCgSnapValid (g : Nat) : Reg := ⟨regKey 0x9811 g 0x1A, 0⟩

/-- Table 20-8: `cgOverflow` -/
def rCgOverflow (g : Nat) : Reg := ⟨regKey 0x9811 g 0x1B, 0x0000_0000⟩

/-- Table 20-9: `bwCommand` -/
def rBwCommand : Reg := ⟨regKey 0x9820 0 0x01, 0⟩

/-- Table 20-9: `bwState` -/
def rBwState : Reg := ⟨regKey 0x9820 0 0x02, 0⟩

/-- Table 20-9: `bwWindow` -/
def rBwWindow : Reg := ⟨regKey 0x9820 0 0x03, 1000⟩

/-- Table 20-9: `bwList` -/
def domBwList : Nat := regKey 0x9820 0 0x04

/-- Table 20-9: `bwRingBase` -/
def rBwRingBase : Reg := ⟨regKey 0x9820 0 0x05, 0x0⟩

/-- Table 20-9: `bwRingLog2` -/
def rBwRingLog2 : Reg := ⟨regKey 0x9820 0 0x06, 12⟩

/-- Table 20-9: `bwRingHead` -/
def rBwRingHead : Reg := ⟨regKey 0x9820 0 0x07, 0⟩

/-- Table 20-9: `bwRingTail` -/
def rBwRingTail : Reg := ⟨regKey 0x9820 0 0x08, 0⟩

/-- Table 20-9: `bwWindowsLost` -/
def rBwWindowsLost : Reg := ⟨regKey 0x9820 0 0x09, 0⟩

/-- Table 21-8: `strapRaw` -/
def rStrapRaw : Reg := ⟨regKey 0x2003 0 0x01, 0⟩

/-- Table 21-8: `strapError` -/
def rStrapError : Reg := ⟨regKey 0x2003 0 0x02, 0⟩

/-- Table 21-9: `pkgPowerLimit` -/
def rPkgPowerLimit : Reg := ⟨regKey 0x2100 0 0x01, 1000⟩

/-- Table 21-9: `pkgPowerWindow` -/
def rPkgPowerWindow : Reg := ⟨regKey 0x2100 0 0x02, 10⟩

/-- Table 21-9: `pkgPowerAvg` -/
def rPkgPowerAvg : Reg := ⟨regKey 0x2100 0 0x03, 0⟩

/-- Table 21-9: `pkgPowerLimited` -/
def rPkgPowerLimited : Reg := ⟨regKey 0x2100 0 0x04, 0⟩

/-- Table 21-9: `throttleInput` -/
def rThrottleInput : Reg := ⟨regKey 0x2100 0 0x05, 0⟩

/-- Table 21-9: `capMask` -/
def rCapMask : Reg := ⟨regKey 0x2100 0 0x06, 0x0000_0000⟩

/-- Table 21-10: `thThrottle` -/
def rThThrottle : Reg := ⟨regKey 0x2101 0 0x01, 98⟩

/-- Table 21-10: `thTrip` -/
def rThTrip : Reg := ⟨regKey 0x2101 0 0x02, 115⟩

/-- Table 21-10: `thMaxNow` -/
def rThMaxNow : Reg := ⟨regKey 0x2101 0 0x03, 0⟩

/-- Table 21-10: `thThrottleEvents` -/
def rThThrottleEvents : Reg := ⟨regKey 0x2101 0 0x04, 0⟩

/-- Table 21-11: `railVoltage` -/
def rRailVoltage (r : Nat) : Reg := ⟨regKey (0x2108 + r) 0 0x01, 0⟩

/-- Table 21-11: `railCurrent` -/
def rRailCurrent (r : Nat) : Reg := ⟨regKey (0x2108 + r) 0 0x02, 0⟩

/-- Table 21-11: `railInLimit` -/
def rRailInLimit (r : Nat) : Reg := ⟨regKey (0x2108 + r) 0 0x03, 0⟩

/-- Table 21-12: `pdAutoGate` -/
def rPdAutoGate (n : Nat) : Reg := ⟨regKey (0x2140 + n) 0 0x01, 1⟩

/-- Table 21-12: `pdGatedTime` -/
def rPdGatedTime (n : Nat) : Reg := ⟨regKey (0x2140 + n) 0 0x02, 0⟩

/-- Table 21-12: `pdPowerMw` -/
def rPdPowerMw (n : Nat) : Reg := ⟨regKey (0x2140 + n) 0 0x03, 0⟩

end Sys2Proof.Machine
end

