-- ==== Sys2Proof/Machine/Ops.lean ====
section
/-!
DEFINITION. The named operations over the state that every family uses: sparse stores, registers,
how a command answers, faults on their way to Fusible (R369, R370, R450), time, arbitration (R14),
memory, the address map (R34 to R38) and the world ranges (R352, R353).
-/
namespace Sys2Proof.Machine

/-! ## Sparse stores -/

/-- The value listed at a key. -/
def tabFind {α : Type} : Tab α → Nat → Option α
  | [], _ => none
  | (k', v) :: r, k => if k' = k then some v else tabFind r k

/-- The store with a key given a value; keys stay rising. -/
def tabPut {α : Type} : Tab α → Nat → α → Tab α
  | [], k, v => [(k, v)]
  | (k', v') :: r, k, v =>
    if k < k' then (k, v) :: (k', v') :: r
    else if k' = k then (k, v) :: r
    else (k', v') :: tabPut r k v

/-- The store without a key. -/
def tabErase {α : Type} (t : Tab α) (k : Nat) : Tab α := t.filter (fun e => e.1 != k)

/-- The store without the keys that `f` names. -/
def tabDrop {α : Type} (t : Tab α) (f : Nat → Bool) : Tab α := t.filter (fun e => !f e.1)

/-- The value at a key, or a default. -/
def tabGet {α : Type} (t : Tab α) (k : Nat) (d : α) : α := (tabFind t k).getD d

/-! ## Registers -/

/-- The value of a register. -/
def Dev.get (d : Dev) (r : Reg) : Nat := tabGet d.regs r.key r.dflt

/-- The device with a register written. -/
def Dev.set (d : Dev) (r : Reg) (v : Nat) : Dev := { d with regs := tabPut d.regs r.key v }

/-- A register reads non-zero. -/
def Dev.flag (d : Dev) (r : Reg) : Bool := d.get r != 0

/-- A 64-bit counter goes up by `n`. -/
def Dev.add (d : Dev) (r : Reg) (n : Nat) : Dev := d.set r (wrapAdd 64 (d.get r) n)

/-- A counter that saturates goes up by `n`. -/
def Dev.addSat (d : Dev) (r : Reg) (n : Nat) : Dev := d.set r (satAdd32 (d.get r) n)

/-- A 32-bit counter that wraps goes up by one (R16: no other counter is limited). -/
def Dev.addWrap32 (d : Dev) (r : Reg) : Dev := d.set r (wrapAdd 32 (d.get r) 1)

/-- The bytes of a DOMAIN sub-entry, or its default. -/
def Dev.dom (d : Dev) (k : Nat) (dflt : List Byte) : List Byte := tabGet d.doms k dflt

/-- The device with a DOMAIN written. -/
def Dev.setDom (d : Dev) (k : Nat) (b : List Byte) : Dev := { d with doms := tabPut d.doms k b }

/-- R48: every register and DOMAIN of an index that `f` names takes its default. -/
def Dev.resetRegs (d : Dev) (f : Nat → Bool) : Dev :=
  { d with regs := tabDrop d.regs (fun k => f (keyIndex k)),
           doms := tabDrop d.doms (fun k => f (keyIndex k)) }

/-! ## The parts of the device, each with its value at reset where it is not listed -/

def Dev.hart (d : Dev) (k : Nat) : Hart := tabGet d.harts k Hart.reset
def Dev.setHart (d : Dev) (k : Nat) (h : Hart) : Dev := { d with harts := tabPut d.harts k h }
def Dev.inst (d : Dev) (i : Nat) : Inst := tabGet d.insts i Inst.reset
def Dev.setInst (d : Dev) (i : Nat) (x : Inst) : Dev := { d with insts := tabPut d.insts i x }
def Dev.job (d : Dev) (j : Nat) : Option Job := tabFind d.jobs j
def Dev.setJob (d : Dev) (j : Nat) (x : Job) : Dev := { d with jobs := tabPut d.jobs j x }
def Dev.eng (d : Dev) (e : Nat) : Eng := tabGet d.engs e Eng.reset
def Dev.setEng (d : Dev) (e : Nat) (x : Eng) : Dev := { d with engs := tabPut d.engs e x }
def Dev.journal (d : Dev) (b : Nat) : Journal := tabGet d.jns b Journal.reset
def Dev.setJournal (d : Dev) (b : Nat) (x : Journal) : Dev := { d with jns := tabPut d.jns b x }
def Dev.home (d : Dev) (s : Nat) : Home := tabGet d.homes s Home.reset
def Dev.setHome (d : Dev) (s : Nat) (x : Home) : Dev := { d with homes := tabPut d.homes s x }
def Dev.router (d : Dev) (n : Nat) : Router := tabGet d.fab.routers n Router.reset
def Dev.setRouter (d : Dev) (n : Nat) (x : Router) : Dev :=
  { d with fab := { d.fab with routers := tabPut d.fab.routers n x } }
def Dev.adapter (d : Dev) (a : Nat) : Adapter := tabGet d.adapters a Adapter.reset
def Dev.setAdapter (d : Dev) (a : Nat) (x : Adapter) : Dev :=
  { d with adapters := tabPut d.adapters a x }
def Dev.chan (d : Dev) (c : Nat) : Chan := tabGet d.chans c Chan.reset
def Dev.setChan (d : Dev) (c : Nat) (x : Chan) : Dev := { d with chans := tabPut d.chans c x }
def Dev.hfLink (d : Dev) (l : Nat) : HfLink := tabGet d.hf l HfLink.reset
def Dev.setHfLink (d : Dev) (l : Nat) (x : HfLink) : Dev := { d with hf := tabPut d.hf l x }
def Dev.mc (d : Dev) (m : Nat) : Mc := tabGet d.mcs m Mc.reset
def Dev.setMc (d : Dev) (m : Nat) (x : Mc) : Dev := { d with mcs := tabPut d.mcs m x }
def Dev.mailbox (d : Dev) (w : World) : Mailbox := tabGet d.mbox (worldBit w) Mailbox.reset
def Dev.setMailbox (d : Dev) (w : World) (x : Mailbox) : Dev :=
  { d with mbox := tabPut d.mbox (worldBit w) x }
def Dev.drbg (d : Dev) (b : Nat) : Drbg :=
  tabGet d.drbgs b { ready := false, serving := false, calls := 0, lastSeed := 0, key := zeros 32, v := 0 }
def Dev.setDrbg (d : Dev) (b : Nat) (x : Drbg) : Dev := { d with drbgs := tabPut d.drbgs b x }
def Dev.side (d : Dev) (n s : Nat) : BankSide :=
  tabGet d.sides (2 * n + s) { version := 0, loadOrder := 0, loading := false, unloading := false, length := 0 }
def Dev.setSide (d : Dev) (n s : Nat) (x : BankSide) : Dev :=
  { d with sides := tabPut d.sides (2 * n + s) x }

/-- The state of a unit itself; RESET at reset (Table 00-3). -/
def Dev.unit (d : Dev) (u : UnitRef) : Nat := tabGet d.units (unitKey u) stReset

/-- The device with a unit in a state. -/
def Dev.setUnit (d : Dev) (u : UnitRef) (st : Nat) : Dev :=
  { d with units := tabPut d.units (unitKey u) st }

/-! ## Engines 0 to 63 Sterling, 64 to 79 Electrum, 80 to 87 DEFLATE -/

/-- The state register of an engine. -/
def rEngState (e : Nat) : Reg :=
  if e < 64 then rStEngState e else if e < 80 then rElEngState (e - 64) else rDfEngState (e - 80)

/-- The command register of an engine. -/
def rEngCommand (e : Nat) : Reg :=
  if e < 64 then rStEngCommand e else if e < 80 then rElEngCommand (e - 64) else rDfEngCommand (e - 80)

/-- The job counter of an engine. -/
def rEngJobs (e : Nat) : Reg :=
  if e < 64 then rStEngJobs e else if e < 80 then rElEngJobs (e - 64) else rDfEngJobs (e - 80)

/-- The counter of jobs moved off an engine. -/
def rEngRestarts (e : Nat) : Reg :=
  if e < 64 then rStEngRestarts e else if e < 80 then rElEngRestarts (e - 64)
  else rDfEngRestarts (e - 80)

/-- The cluster of an engine (R100, R155, R176). -/
def engCluster (e : Nat) : Nat := if e < 64 then e / 16 else if e < 80 then 4 else 5

/-- The engines of a cluster. -/
def clusterEngines (c : Nat) : List Nat :=
  if c < 4 then (List.range 16).map (fun j => 16 * c + j)
  else if c = 4 then (List.range 16).map (fun j => 64 + j)
  else (List.range 8).map (fun j => 80 + j)

/-- The class of an engine (Table 03-1). -/
def engClass (e : Nat) : Nat := if e < 64 then 1 else if e < 80 then 2 else 3

/-- Engine slots of an engine of a class (Table 03-1). -/
def classSlots (c : Nat) : Nat := if c = 1 then 16 else if c = 2 then 8 else if c = 3 then 4 else 0

/-- Engines of a class, in ascending order. -/
def classEngines (c : Nat) : List Nat :=
  if c = 1 then List.range 64
  else if c = 2 then (List.range 16).map (fun j => 64 + j)
  else if c = 3 then (List.range 8).map (fun j => 80 + j)
  else []

/-- The fault source of an engine (Table 17-2). -/
def engSource (e : Nat) : Nat := if e < 64 then 532 + e else if e < 80 then 616 + (e - 64) else 632 + (e - 80)

/-- Key of an engine slot. -/
def slotKey (e s : Nat) : Nat := 16 * e + s

/-- The owner of an engine slot. -/
def Dev.slot (d : Dev) (e s : Nat) : SlotOwner := tabGet d.slots (slotKey e s) .free

/-- The device with an engine slot owned. -/
def Dev.setSlot (d : Dev) (e s : Nat) (o : SlotOwner) : Dev :=
  { d with slots := tabPut d.slots (slotKey e s) o }

/-! ## Outcomes of a meaning -/

/-- The outcome type of a meaning. -/
abbrev Out := Host.Outcome State Fault Refusal

/-- The command has an effect on the device. -/
def perform (s : State) (f : Dev → Dev) : Out := .next { s with dev := f s.dev }

/-- An event of rule `R<rule>` has its effect in the states in which the rule says that it arises. Where it is sent in another state (the
completion of something that is not in progress, an expiry ahead of its time), of which the rules say nothing, it changes nothing.
DESIGN CHOICE (log 1). -/
def occurs (_rule : Nat) (ok : Dev → Bool) (f : Dev → Dev) (s : State) : Out :=
  perform s (fun d => if ok d then f d else d)

/-- An event that names a block: refused where the package has no such block. -/
def occursAt (rule : Nat) (exists_ : Bool) (ok : Dev → Bool) (f : Dev → Dev) (s : State) : Out :=
  if exists_ then occurs rule ok f s else .refused (.noSuchOperand rule)

/-! ## Time -/

/-- Invar time in ns. -/
def Dev.now (d : Dev) : Nat := d.clock.invar

/-- The time `us` microseconds from now. -/
def Dev.inUs (d : Dev) (us : Nat) : Nat := d.now + us * 1000

/-- The time `ms` milliseconds from now. -/
def Dev.inMs (d : Dev) (ms : Nat) : Nat := d.now + ms * 1000000

/-! ## Arbitration (R14) -/

/-- The first requesting port at or after the pointer, in ascending order, wrapping past the highest port. -/
def arbWinner (n ptr : Nat) (req : Nat → Bool) : Option Nat :=
  ((List.range n).map (fun i => (ptr + i) % n)).find? req

/-- After a grant the pointer moves to the port after the winner. -/
def arbNext (n winner : Nat) : Nat := (winner + 1) % n

/-- The pointer of a named arbiter; 0 after reset. -/
def Dev.arbPtr (d : Dev) (name : Nat) : Nat := tabGet d.arb name 0

/-- The winner at a named arbiter of `n` ports, and the device after the grant. -/
def Dev.arbitrate (d : Dev) (name n : Nat) (req : Nat → Bool) : Option Nat × Dev :=
  match arbWinner n (d.arbPtr name) req with
  | none => (none, d)
  | some w => (some w, { d with arb := tabPut d.arb name (arbNext n w) })

/-- The grant of a request that comes alone: commands come one at a time, so that one port asks at each instant (log 53). -/
def Dev.grantPort (d : Dev) (name n port : Nat) : Dev := (d.arbitrate name n (fun q => q = port)).2

/-! Names of the arbiters that the model keeps. -/

def arbFusible : Nat := 1
def arbPowerCap : Nat := 2
def arbPool (cls : Nat) (w : World) : Nat := 10 + 2 * cls + worldBit w
def arbMgmtSlot : Nat := 20
def arbDictionary : Nat := 21
def arbRingOut : Nat := 22
def arbKeyStore (b : Nat) : Nat := 30 + b
def arbReservation (slice : Nat) : Nat := 100 + slice
def arbInstSlots (i : Nat) : Nat := 1000 + i
def arbInjection (point : Nat) : Nat := 10000 + point
def arbHome (slice : Nat) : Nat := 200 + slice
/-- The arbiter over the queues of Solder adapter a. -/
def arbAdapter (a : Nat) : Nat := 30000 + a

def arbRouterOut (n q : Nat) : Nat := 20000 + 16 * n + q
def arbRouterIn (n p : Nat) : Nat := 24000 + 16 * n + p

/-! ## Faults on their way to Fusible (R369, R370) -/

/-- The messages that wait at a source. -/
def Dev.faultQueue (d : Dev) (src : Nat) : List FaultMsg := tabGet d.fus.queues src []

/-- A message appended to a source's queue of 4; a fifth is counted in `srcLost` and marks the next (R370). -/
def Dev.sendFault (d : Dev) (src : Nat) (m : FaultMsg) : Dev :=
  let q := d.faultQueue src
  if q.length < 4 then
    let m := { m with lost := tabGet d.fus.lostNext src 0 != 0 }
    { d with fus := { d.fus with queues := tabPut d.fus.queues src (q ++ [m]),
                                 lostNext := tabErase d.fus.lostNext src } }
  else
    let d := d.addSat (rSrcLost src) 1
    { d with fus := { d.fus with lostNext := tabPut d.fus.lostNext src 1 } }

/-- A fault with an address in its record. -/
def Dev.raiseAt (d : Dev) (kind src addr syn : Nat) : Dev :=
  d.sendFault src { time := d.now, valid := true, addr := addr, syndrome := syn, kind := kind, lost := false }

/-- A fault for which no address exists. -/
def Dev.raise (d : Dev) (kind src syn : Nat) : Dev :=
  d.sendFault src { time := d.now, valid := false, addr := 0, syndrome := syn, kind := kind, lost := false }

/-! ## Free values (log 8) -/

/-- `n` free bytes. -/
def Dev.takeBytes (d : Dev) (n : Nat) : List Byte × Dev :=
  (Config.freeBytes d.fresh n, { d with fresh := d.fresh + n })

/-- One free word. -/
def Dev.takeWord (d : Dev) : Word × Dev := (Config.freeWord d.fresh, { d with fresh := d.fresh + 1 })

/-- One free truth value. -/
def Dev.takeBool (d : Dev) : Bool × Dev := (Config.freeBool d.fresh, { d with fresh := d.fresh + 1 })

/-! ## Memory behind the controllers -/

/-- What an unlisted address reads as (log 2). -/
def memDefault : Byte := 0

/-- One byte of memory. -/
def memFind : List Host.Cell → Nat → Byte
  | [], _ => memDefault
  | (k, b) :: r, a => if k = a then b else memFind r a

/-- Memory with one byte written; the canonical form is kept. -/
def memPut : List Host.Cell → Nat → Byte → List Host.Cell
  | [], a, b => if b = memDefault then [] else [(a, b)]
  | (k, v) :: r, a, b =>
    if a < k then (if b = memDefault then (k, v) :: r else (a, b) :: (k, v) :: r)
    else if k = a then (if b = memDefault then r else (a, b) :: r)
    else (k, v) :: memPut r a b

/-- Addresses strictly rise. -/
def memRising : List Host.Cell → Bool
  | [] => true
  | [_] => true
  | (a, _) :: (b, v) :: r => a < b && memRising ((b, v) :: r)

/-- The canonical form of memory: addresses strictly rising, no entry equal to the default. -/
def Memory.wf (m : List Host.Cell) : Bool := memRising m && m.all (fun c => c.2 != memDefault)

/-- Bytes written from an address on. -/
def memPutAll (m : List Host.Cell) (a : Nat) : List Byte → List Host.Cell
  | [] => m
  | b :: r => memPutAll (memPut m a b) (a + 1) r

/-- `n` bytes of memory from an address on. -/
def Dev.memRead (d : Dev) (a n : Nat) : List Byte := (List.range n).map (fun i => memFind d.mem (a + i))

/-- The device with bytes written behind the controllers. -/
def Dev.memWrite (d : Dev) (a : Nat) (b : List Byte) : Dev := { d with mem := memPutAll d.mem a b }

/-- A line of memory. -/
def Dev.memLine (d : Dev) (line : Nat) : Line := lineOf (d.memRead line 64)

/-- The line is stored with the mark (R341 to R343). -/
def Dev.memMark (d : Dev) (line : Nat) : Bool := (tabFind d.marks line).isSome

/-- A line written behind the controllers, with or without the mark. -/
def Dev.setMemLine (d : Dev) (line : Nat) (v : Line) (mark : Bool) : Dev :=
  let d := d.memWrite line (lineBytes v)
  { d with marks := if mark then tabPut d.marks line 1 else tabErase d.marks line }

/-- The line that holds an address. -/
def lineAddr (a : Nat) : Nat := a / 64 * 64

/-! ## The address map (R34, Table 01-10, Table 01-11) -/

/-- What lies at a physical address, seen from this package. -/
inductive Region where
  | hbm (off : Nat)
  | ddr (off : Nat)
  | cxl (off : Nat)
  | mmio (off : Nat)
  /-- memory of another package, which the Harfort proxy reaches -/
  | remote (pkg : Nat)
  /-- MMIO window of another package -/
  | remoteMmio (pkg : Nat)
  | unmapped
deriving DecidableEq, Repr, Inhabited

/-- The number of this package. -/
def Dev.pkg (d : Dev) : Nat := d.get rPkgNumber

/-- The start of this package's memory slot. -/
def Dev.slotBase (d : Dev) : Nat := d.pkg * 0x1000_0000_0000

/-- The parts of the MMIO window that Table 01-11 lists. -/
def mmioMapped (off : Nat) : Bool :=
  off < 0x0100_0000
  || (0x0100_0000 ≤ off && off < 0x0100_2000)
  || (0x0200_0000 ≤ off && off < 0x0300_0000)
  || (0x0300_0000 ≤ off && off < 0x0301_0000)
  || (0x0001_0000_0000 ≤ off && off < 0x0001_1000_0000)
  || (0x0100_0000_0000 ≤ off && off < 0x0100_0000_0000 + 0xFF00_0000_0000)

/-- The parts of a memory slot that Table 01-10 maps, whatever capacity is installed. What another package has installed this one does
not know (log 52). -/
def slotMapped (off : Nat) : Bool :=
  off < 0x30_0000_0000 || (0x100_0000_0000 ≤ off && off < 0x400_0000_0000) || 0x800_0000_0000 ≤ off

/-- Table 01-10: the region of a physical address. -/
def Dev.region (d : Dev) (a : Nat) : Region :=
  if a < 0x4000_0000_0000 then
    let q := a / 0x1000_0000_0000
    if q = d.pkg then
      let off := a % 0x1000_0000_0000
      if off < 0x30_0000_0000 then .hbm off
      else if 0x100_0000_0000 ≤ off && off < 0x100_0000_0000 + d.get rDdrInstalled then
        .ddr (off - 0x100_0000_0000)
      else if 0x800_0000_0000 ≤ off && off < 0x800_0000_0000 + d.get rCxlInstalled then
        .cxl (off - 0x800_0000_0000)
      else .unmapped
    else if q < d.get rPkgCount && slotMapped (a % 0x1000_0000_0000) then .remote q
    else .unmapped
  else if 0x4_0000_0000_0000 ≤ a && a < 0x8_0000_0000_0000 then
    let q := (a - 0x4_0000_0000_0000) / 0x1_0000_0000_0000
    if q = d.pkg then
      let off := a % 0x1_0000_0000_0000
      if mmioMapped off then .mmio off else .unmapped
    else if q < d.get rPkgCount && mmioMapped (a % 0x1_0000_0000_0000) then .remoteMmio q
    else .unmapped
  else .unmapped

/-- The address is memory (of this or of another package), not MMIO. -/
def Region.isMemory : Region → Bool
  | .hbm _ => true
  | .ddr _ => true
  | .cxl _ => true
  | .remote _ => true
  | _ => false

/-- The address is mapped. -/
def Region.isMapped : Region → Bool
  | .unmapped => false
  | _ => true

/-- The address is MMIO. -/
def Region.isMmio : Region → Bool
  | .mmio _ => true
  | .remoteMmio _ => true
  | _ => false

/-- R36: the HBM stack of an offset in the HBM region. -/
def Dev.hbmStack (d : Dev) (off : Nat) : Nat :=
  if d.get rHbmInterleave = 1 then field off 12 3 else off / 0x6_0000_0000

/-- R37: the XOR of the ten address fields. -/
def homeHash (a : Nat) : Nat :=
  field a 6 5 ^^^ field a 11 5 ^^^ field a 16 5 ^^^ field a 21 5 ^^^ field a 26 5 ^^^ field a 31 5
    ^^^ field a 36 5 ^^^ field a 41 5 ^^^ field a 46 5 ^^^ field a 51 1

/-- R38: the slice, in base die `b`, of an address inside a local region. -/
def localSlice (h : Nat) : Nat := h % 8 ^^^ h / 8

/-- The last byte of local region descriptor `n`; its low bits read as 1. -/
def Dev.lrLimit (d : Dev) (n : Nat) : Nat := d.get (rLrLimit n) ||| 0x3FFF_FFFF

/-- The enabled local region that holds an address. -/
def Dev.localRegion (d : Dev) (a : Nat) : Option Nat :=
  (List.range 16).find? (fun n =>
    d.flag (rLrEnable n) && d.get (rLrBase n) ≤ a && a ≤ d.lrLimit n)

/-- R37, R38: the global home slice of an address of this package. -/
def Dev.homeSlice (d : Dev) (a : Nat) : Nat :=
  match d.localRegion a with
  | none => homeHash a
  | some n => 8 * d.get (rLrBaseDie n) + localSlice (homeHash a)

/-! ## World ranges (R352, R353) -/

/-- The last byte of world range `n`; its low bits read as 1. -/
def Dev.wrLimit (d : Dev) (n : Nat) : Nat := d.get (rWrLimit n) ||| 0xFFF

/-- The enabled range with owner 1 that contains an address. -/
def Dev.tantalumRange (d : Dev) (a : Nat) : Option Nat :=
  (List.range 32).find? (fun n =>
    d.flag (rWrEnable n) && d.get (rWrOwner n) = 1 && d.get (rWrBase n) ≤ a && a ≤ d.wrLimit n)

/-- R352: the range that refuses a request of world `w`. -/
def Dev.refusedBy (d : Dev) (w : World) (a : Nat) : Option Nat :=
  match w with
  | .normal => d.tantalumRange a
  | .tantalum => none

/-- R353, R450: the effects of a refusal by range `n`, made at the check point that is source `src`. -/
def Dev.noteRefusal (d : Dev) (n src a : Nat) : Dev :=
  (d.addSat (rWrViolations n) 1).raiseAt kWorldViolation src a 0

/-! ## Worlds of paths and blocks (R44, R360) -/

/-- A session has been idle for `sessionIdle`, as it stands at this instant. -/
def Dev.sessionIdled (d : Dev) (x : Session) : Bool := x.last + d.get rSessionIdle * 1000000 ≤ d.now

/-- The session of a ring node: one that has been idle too long gives no right, whether or not its closing has been told (R68). -/
def Dev.session (d : Dev) (node : Nat) : Option Session :=
  match tabFind d.ring.sessions node with
  | some x => if d.sessionIdled x then none else some x
  | none => none

/-- R44, R69: the world of a path's transactions. -/
def Dev.pathWorld (d : Dev) (p : Path) : World :=
  match p with
  | .mailbox w => w
  | .ring n =>
    match d.session n with
    | some s => if s.role.testBit 1 then .tantalum else .normal
    | none => .normal

/-- The assignable block of a unit (Table 16-4). -/
def unitBlock : UnitRef → Option Nat
  | .cluster c => some c
  | _ => none

/-- The world of an assignable block. -/
def Dev.blockWorld (d : Dev) (n : Nat) : World := bitWorld (d.get (rBlkWorld n))

/-- The block of a fault source (R376). -/
def sourceBlock (s : Nat) : Option Nat :=
  if 532 ≤ s && s < 596 then some ((s - 532) / 16)
  else if 616 ≤ s && s < 632 then some 4
  else if 632 ≤ s && s < 640 then some 5
  else if 696 ≤ s && s < 720 then some (8 + (s - 696))
  else if 888 ≤ s && s < 912 then some 33
  else none

/-! ## Straps (R432 to R434) -/

/-- Table 21-2: the units at which lane-group division `code` creates root ports. -/
def groupPorts (code : Nat) : List Nat :=
  if code = 0 then [0, 1, 2, 3, 4, 5]
  else if code = 1 then [0, 2, 4]
  else if code = 2 then [0, 4]
  else [0, 4, 5]

/-- R434: root port `n` exists under the straps. -/
def Dev.rootPort (d : Dev) (n : Nat) : Bool :=
  n < 24 && (groupPorts (field (d.get rStrapRaw) (9 + 2 * (n / 6)) 2)).contains (n % 6)

/-- Table 16-4: assignable block `n` exists. -/
def Dev.blockExists (d : Dev) (n : Nat) : Bool :=
  n < 6 || (8 ≤ n && n < 32 && d.rootPort (n - 8)) || n = 32 || n = 33

/-- A root port or peripheral is FENCED (Table 16-5). -/
def Dev.blockFenced (d : Dev) (n : Nat) : Bool := tabGet d.units (1300 + n) stActive = stFenced

/-- A root port or peripheral in a state. -/
def Dev.setBlock (d : Dev) (n st : Nat) : Dev := { d with units := tabPut d.units (1300 + n) st }

/-! ## Measurement log (R409) -/

/-- An entry of the measurement log without its hash: the caller supplies the new head. -/
def measEntry (index kind slot version time : Nat) (digest : List Byte) : List Byte :=
  leBytes 2 index ++ leBytes 1 kind ++ leBytes 1 slot ++ leBytes 4 version ++ leBytes 8 time
    ++ padTo 32 digest ++ zeros 16

end Sys2Proof.Machine
end

