-- ==== Sys2Proof/Machine/Dictionary.lean ====
section
/-!
DEFINITION. The object dictionary: its objects and the type, access, range and default of every
sub-entry (Tables 00-3 to 21-12), and the conditions of Table 02-3 that do not depend on what a
sub-entry does: NO_OBJECT, NO_SUB, WORLD, ACCESS_DENIED, WRITE_ONCE and the permitted set (R43 to R49, R55).
-/
namespace Sys2Proof.Machine

/-- Table 02-1. A DOMAIN has one stated length (`exact`) or a maximum (R448). -/
inductive SubTy where
  | bool
  | u8
  | u16
  | u32
  | u64
  | i32
  | bits32
  | bits64
  | enum8
  | time64
  | domain (exact : Bool) (max : Nat)
deriving DecidableEq, Repr, Inhabited

/-- Table 02-2; an RWL sub-entry names its lock object (R46). -/
inductive Access where
  | ro
  | rw
  | wo
  | w1c
  | rws
  | sec
  | rwl (l : LockObject)
  | cmd
deriving DecidableEq, Repr, Inhabited

/-- The permitted set of a written value: any, bits outside the mask are res0, an interval, a list of codes. -/
inductive Rng where
  | any
  | bits (mask : Nat)
  | between (lo hi : Nat)
  | codes (l : List Nat)
deriving DecidableEq, Repr, Inhabited

/-- A row of a parameter table; `ones` are the bits that read as 1. -/
structure SubDesc where
  sub  : Nat
  ty   : SubTy
  acc  : Access
  rng  : Rng
  dflt : Nat
  ones : Nat
deriving DecidableEq, Repr, Inhabited

/-- The objects of the dictionary, one constructor for each parameter table; `selector` is the
selector object of an array that has no table of its own (R51). -/
inductive Obj where
  /-- Table 00-3 -/
  | header (u : UnitRef)
  /-- Table 01-5 -/
  | capability
  /-- Table 01-6 -/
  | dieIdentity (n : Nat)
  /-- Table 01-8 -/
  | clock (n : Nat)
  /-- Table 01-12 -/
  | addressMap
  /-- Table 01-13 -/
  | localRegion (n : Nat)
  /-- Table 02-8 -/
  | ringObject
  /-- Table 02-12 -/
  | mailboxObject
  /-- Table 03-3 -/
  | instSelector
  /-- Table 03-4 -/
  | instBinding (i : Nat)
  /-- Table 03-5 -/
  | instQueue (i : Nat)
  /-- Table 03-8 -/
  | instStateWin (i : Nat)
  /-- Table 03-13 -/
  | instDirty (i : Nat)
  /-- Table 04-7 -/
  | sterlingPkg
  /-- Table 04-8 -/
  | sterlingEngine (e : Nat)
  /-- Table 04-9 -/
  | entropy (b : Nat)
  /-- Table 04-10 -/
  | sterlingBinding (i : Nat)
  /-- Table 05-10 -/
  | keySlot (h : Nat)
  /-- Table 05-11 -/
  | keyStore
  /-- Table 05-13 -/
  | journal (b : Nat)
  /-- Table 05-15 -/
  | checkpoint
  /-- Table 05-16 -/
  | readoutBinding (i : Nat)
  /-- Table 06-17 -/
  | electrumPkg
  /-- Table 06-18 -/
  | electrumEngine (e : Nat)
  /-- Table 06-19 -/
  | bank (n : Nat)
  /-- Table 06-20 -/
  | electrumBinding (i : Nat)
  /-- Table 07-6 -/
  | deflatePkg
  /-- Table 07-7 -/
  | deflateEngine (e : Nat)
  /-- Table 08-4 -/
  | coreObject (k : Nat)
  /-- Table 08-5 -/
  | coreMode (n : Nat)
  /-- Table 09-1 -/
  | mmioRegion (n : Nat)
  /-- Table 10-3 -/
  | translationAttr
  /-- Table 10-10 -/
  | translationCounters (k : Nat)
  /-- Table 11-4 -/
  | pewterPkg
  /-- Table 11-5 -/
  | pewterSlice (s : Nat)
  /-- Table 12-9 -/
  | directoryPkg
  /-- Table 12-10 -/
  | homeSlice (s : Nat)
  /-- Table 12-11 -/
  | dieFilter (n : Nat)
  /-- Table 13-6 -/
  | qosClass (c : Nat)
  /-- Table 13-10 -/
  | fabricPkg
  /-- Table 13-11 -/
  | routerObject (n : Nat)
  /-- Table 14-9 -/
  | solderPkg
  /-- Table 14-10 -/
  | module (m : Nat)
  /-- Table 15-8 -/
  | memoryPkg
  /-- Table 15-9 -/
  | controller (m : Nat)
  /-- Table 16-7 -/
  | secureSide
  /-- Table 16-8 -/
  | worldRange (n : Nat)
  /-- Table 16-9 -/
  | scrubList
  /-- Table 16-10 -/
  | blockObject (n : Nat)
  /-- Table 16-11 -/
  | irqObject
  /-- Table 16-12 -/
  | debugObject
  /-- Table 17-7 -/
  | fusibleObject
  /-- Table 17-8 -/
  | faultRecord (e : Nat)
  /-- Table 17-9 -/
  | kindObject (k : Nat)
  /-- Table 17-10 -/
  | sourceObject (s : Nat)
  /-- Table 18-4 -/
  | invarObject
  /-- Table 18-5 -/
  | partitionObject
  /-- Table 18-6 -/
  | harfortProxy
  /-- Table 18-7 -/
  | harfortLink (l : Nat)
  /-- Table 19-10 -/
  | bootObject
  /-- Table 19-11 -/
  | measurement
  /-- Table 19-12 -/
  | attestation
  /-- Table 20-6 -/
  | counterReader
  /-- Table 20-7 -/
  | hartSnapshot (k : Nat)
  /-- Table 20-8 -/
  | counterGroup (g : Nat)
  /-- Table 20-9 -/
  | bandwidth
  /-- Table 21-8 -/
  | strapObject
  /-- Table 21-9 -/
  | powerObject
  /-- Table 21-10 -/
  | thermalObject
  /-- Table 21-11 -/
  | railObject (r : Nat)
  /-- Table 21-12 -/
  | domainObject (n : Nat)
  | selector (base : Nat)
deriving DecidableEq, Repr, Inhabited

/-! ## The parameter tables -/

/-- Table 00-3. -/
def subsHeader (u : UnitRef) : List SubDesc :=
  [⟨0x01, .u32, .ro, .any, unitIdValue u, 0⟩,
   ⟨0x02, .enum8, .ro, .any, 1, 0⟩,
   ⟨0x03, .bits32, .ro, .any, 0x0000_0000, 0⟩,
   ⟨0x04, .enum8, .ro, .any, 0, 0⟩,
   ⟨0x05, .u32, .ro, .any, 0, 0⟩,
   ⟨0x06, .u32, .ro, .any, 0, 0⟩,
   ⟨0x07, .bits32, .ro, .any, 0x0000_0000, 0⟩,
   ⟨0x08, .enum8, .cmd, .between 0 5, 0, 0⟩]

/-- Table 01-5. -/
def subsCapability : List SubDesc :=
  [⟨0x01, .bits64, .ro, .any, 0, 0⟩,
   ⟨0x02, .enum8, .ro, .any, 0, 0⟩]

/-- Table 01-6. -/
def subsDieIdentity (n : Nat) : List SubDesc :=
  [⟨0x01, .bits64, .ro, .any, Config.dieFeatures, 0⟩,
   ⟨0x02, .u8, .ro, .any, Config.dieStepping n, 0⟩,
   ⟨0x03, .u64, .ro, .any, Config.dieSerial n, 0⟩]

/-- Table 01-8. -/
def subsClock : List SubDesc :=
  [⟨0x01, .enum8, .ro, .any, 0, 0⟩,
   ⟨0x02, .enum8, .rw, .between 0 3, 2, 0⟩,
   ⟨0x03, .enum8, .ro, .any, 2, 0⟩,
   ⟨0x04, .u32, .ro, .any, 0, 0⟩]

/-- Table 01-12. -/
def subsAddressMap : List SubDesc :=
  [⟨0x01, .u8, .ro, .any, 0, 0⟩,
   ⟨0x02, .u8, .ro, .any, 0, 0⟩,
   ⟨0x03, .enum8, .rwl .addrMapLocked, .between 0 1, 1, 0⟩,
   ⟨0x04, .u64, .ro, .any, 0, 0⟩,
   ⟨0x05, .u64, .rwl .addrMapLocked, .between 0 0x800_0000_0000, 0, 0⟩,
   ⟨0x06, .bool, .rwl .addrMapLocked, .between 0 1, 0, 0⟩]

/-- Table 01-13. -/
def subsLocalRegion : List SubDesc :=
  [⟨0x01, .bool, .rwl .addrMapLocked, .between 0 1, 0, 0⟩,
   ⟨0x02, .u64, .rwl .addrMapLocked, .bits 0xFFFF_FFFF_C000_0000, 0x0, 0⟩,
   ⟨0x03, .u64, .rwl .addrMapLocked, .any, 0x0, 0x3FFF_FFFF⟩,
   ⟨0x04, .u8, .rwl .addrMapLocked, .between 0 3, 0, 0⟩]

/-- Table 02-8. -/
def subsRingObject : List SubDesc :=
  [⟨0x01, .u8, .ro, .any, 0, 0⟩,
   ⟨0x02, .bool, .ro, .between 0 1, 0, 0⟩,
   ⟨0x03, .enum8, .ro, .any, 0, 0⟩,
   ⟨0x04, .u32, .rw, .between 100 100000, 1000, 0⟩,
   ⟨0x05, .u8, .rw, .between 0 7, 3, 0⟩,
   ⟨0x06, .u32, .w1c, .any, 0, 0⟩,
   ⟨0x07, .u32, .w1c, .any, 0, 0⟩,
   ⟨0x08, .u32, .w1c, .any, 0, 0⟩,
   ⟨0x09, .u8, .rw, .between 0 15, 0, 0⟩,
   ⟨0x0A, .domain true 32, .ro, .any, 0, 0⟩,
   ⟨0x0B, .domain true 3074, .wo, .any, 0, 0⟩,
   ⟨0x0C, .enum8, .cmd, .between 1 1, 0, 0⟩,
   ⟨0x0D, .u32, .rws, .between 1000 3600000, 60000, 0⟩,
   ⟨0x0E, .bits32, .ro, .any, 0x0000_0000, 0⟩,
   ⟨0x10, .domain true 33, .rws, .any, 0, 0⟩,
   ⟨0x11, .domain true 33, .rws, .any, 0, 0⟩,
   ⟨0x12, .domain true 33, .rws, .any, 0, 0⟩,
   ⟨0x13, .domain true 33, .rws, .any, 0, 0⟩,
   ⟨0x14, .domain true 33, .rws, .any, 0, 0⟩,
   ⟨0x15, .domain true 33, .rws, .any, 0, 0⟩,
   ⟨0x16, .domain true 33, .rws, .any, 0, 0⟩,
   ⟨0x17, .domain true 33, .rws, .any, 0, 0⟩]

/-- Table 02-12. -/
def subsMailboxObject : List SubDesc :=
  [⟨0x01, .u32, .w1c, .any, 0, 0⟩]

/-- Table 03-3. -/
def subsInstSelector : List SubDesc :=
  [⟨0x01, .u32, .rw, .any, 0, 0⟩,
   ⟨0x02, .u32, .ro, .any, 4096, 0⟩,
   ⟨0x03, .u16, .ro, .any, 0, 0⟩,
   ⟨0x04, .u16, .ro, .any, 128, 0⟩,
   ⟨0x05, .u16, .ro, .any, 32, 0⟩]

/-- Table 03-4. -/
def subsInstBinding : List SubDesc :=
  [⟨0x01, .enum8, .rw, .between 0 4, 0, 0⟩,
   ⟨0x02, .enum8, .rws, .between 0 1, 0, 0⟩,
   ⟨0x03, .u32, .rw, .any, 0, 0⟩,
   ⟨0x04, .u32, .rw, .bits 0x00FF_FFFF, 0, 0⟩,
   ⟨0x05, .u32, .rw, .bits 0x800F_FFFF, 0, 0⟩,
   ⟨0x06, .u16, .rw, .any, 0, 0⟩,
   ⟨0x07, .u16, .rw, .any, 16, 0⟩,
   ⟨0x08, .u8, .rw, .between 0 63, 0, 0⟩,
   ⟨0x09, .enum8, .rw, .between 0 2, 0, 0⟩,
   ⟨0x0A, .u32, .rw, .bits 0x000F_FFFF, 0, 0⟩,
   ⟨0x0B, .u32, .rw, .between 0 1048576, 0, 0⟩]

/-- Table 03-5. -/
def subsInstQueue : List SubDesc :=
  [⟨0x01, .u64, .rw, .bits 0xFFFF_FFFF_FFFF_F000, 0x0, 0⟩,
   ⟨0x02, .u8, .rw, .between 4 16, 6, 0⟩,
   ⟨0x03, .u64, .rw, .bits 0xFFFF_FFFF_FFFF_F000, 0x0, 0⟩,
   ⟨0x04, .u8, .rw, .between 4 16, 6, 0⟩,
   ⟨0x05, .u64, .rw, .bits 0xFFFF_FFFF_FFFF_FFFC, 0x0, 0⟩,
   ⟨0x06, .u32, .rw, .any, 0, 0⟩,
   ⟨0x07, .bool, .rw, .between 0 1, 0, 0⟩]

/-- Table 03-8. -/
def subsInstStateWin : List SubDesc :=
  [⟨0x01, .enum8, .ro, .any, 0, 0⟩,
   ⟨0x02, .enum8, .cmd, .between 1 5, 0, 0⟩,
   ⟨0x03, .u8, .ro, .any, 0, 0⟩,
   ⟨0x04, .u64, .ro, .any, 0x0, 0⟩,
   ⟨0x05, .u16, .ro, .any, 0, 0⟩,
   ⟨0x06, .u64, .ro, .any, 0, 0⟩,
   ⟨0x07, .u64, .ro, .any, 0, 0⟩,
   ⟨0x08, .u32, .w1c, .any, 0, 0⟩]

/-- Table 03-13. -/
def subsInstDirty : List SubDesc :=
  [⟨0x01, .enum8, .cmd, .between 0 1, 0, 0⟩,
   ⟨0x02, .u64, .rw, .bits 0xFFFF_FFFF_FFFF_FFF8, 0x0, 0⟩,
   ⟨0x03, .u64, .rw, .bits 0xFFFF_FFFF_FFFF_F000, 0x0, 0⟩,
   ⟨0x04, .u32, .rw, .any, 0, 0⟩,
   ⟨0x05, .bits32, .w1c, .bits 3, 0x0000_0000, 0⟩,
   ⟨0x06, .u64, .ro, .any, 0, 0⟩]

/-- Table 04-7. -/
def subsSterlingPkg : List SubDesc :=
  [⟨0x01, .u16, .ro, .any, 0, 0⟩,
   ⟨0x02, .domain false 65536, .rws, .any, 0, 0⟩,
   ⟨0x03, .domain true 8, .ro, .any, 0, 0⟩,
   ⟨0x04, .u32, .ro, .any, 0, 0⟩,
   ⟨0x05, .u32, .w1c, .any, 0, 0⟩,
   ⟨0x06, .u32, .w1c, .any, 0, 0⟩,
   ⟨0x07, .u32, .w1c, .any, 0, 0⟩]

/-- Table 04-8. -/
def subsSterlingEngine : List SubDesc :=
  [⟨0x01, .enum8, .ro, .any, 1, 0⟩,
   ⟨0x02, .enum8, .cmd, .codes [0, 1, 2, 3, 4, 6], 0, 0⟩,
   ⟨0x03, .u32, .ro, .any, 0, 0⟩,
   ⟨0x04, .domain true 32, .ro, .any, 0, 0⟩,
   ⟨0x05, .u64, .ro, .any, 0, 0⟩,
   ⟨0x06, .u32, .ro, .any, 0, 0⟩,
   ⟨0x07, .enum8, .ro, .any, 0, 0⟩]

/-- Table 04-9. -/
def subsEntropy (b : Nat) : List SubDesc :=
  [⟨0x01, .enum8, .ro, .any, 0, 0⟩,
   ⟨0x02, .u32, .w1c, .any, 0, 0⟩,
   ⟨0x03, .u32, .w1c, .any, 0, 0⟩,
   ⟨0x04, .enum8, .cmd, .between 1 1, 0, 0⟩,
   ⟨0x05, .u32, .rws, .between 1024 1048576, 65536, 0⟩,
   ⟨0x06, .u8, .ro, .any, b, 0⟩,
   ⟨0x07, .u64, .ro, .any, 0, 0⟩]

/-- Table 04-10. -/
def subsSterlingBinding : List SubDesc :=
  [⟨0x20, .bool, .rw, .between 0 1, 0, 0⟩,
   ⟨0x21, .domain false 65536, .ro, .any, 0, 0⟩,
   ⟨0x22, .u64, .ro, .any, 0, 0⟩]

/-- Table 05-10. -/
def subsKeySlot : List SubDesc :=
  [⟨0x01, .enum8, .ro, .any, 0, 0⟩,
   ⟨0x02, .enum8, .ro, .any, 0, 0⟩,
   ⟨0x03, .u16, .ro, .any, 0, 0⟩,
   ⟨0x04, .u8, .ro, .any, 0, 0⟩,
   ⟨0x05, .u64, .ro, .any, 0, 0⟩,
   ⟨0x06, .u32, .rws, .any, 0, 0⟩,
   ⟨0x07, .u32, .rws, .any, 0, 0⟩,
   ⟨0x08, .u16, .rws, .any, 0, 0⟩,
   ⟨0x09, .u8, .rws, .any, 0x00, 0⟩,
   ⟨0x0A, .u16, .rws, .any, 0x0000, 0⟩,
   ⟨0x0B, .u32, .rws, .any, 0, 0⟩,
   ⟨0x0C, .u16, .rws, .any, 0, 0⟩,
   ⟨0x0D, .enum8, .cmd, .between 1 4, 0, 0⟩,
   ⟨0x0E, .domain false 4160, .wo, .any, 0, 0⟩,
   ⟨0x0F, .time64, .ro, .any, 0, 0⟩,
   ⟨0x10, .domain true 64, .ro, .any, 0, 0⟩,
   ⟨0x11, .enum8, .ro, .any, 0, 0⟩]

/-- Table 05-11. -/
def subsKeyStore : List SubDesc :=
  [⟨0x01, .u64, .rwl .ksLocked, .bits 0xFFFF_FFFF_FC00_0000, 0x0, 0⟩,
   ⟨0x02, .u64, .rwl .ksLocked, .bits 0xFFFF_FFFF_FFFF_F000, 0x0, 0⟩,
   ⟨0x03, .u64, .rwl .ksLocked, .between 0 0x1_0000_0000, 0, 0⟩,
   ⟨0x04, .bool, .rwl .ksLocked, .between 0 1, 0, 0⟩,
   ⟨0x05, .enum8, .cmd, .between 1 1, 0, 0⟩,
   ⟨0x06, .u32, .ro, .any, 0, 0⟩,
   ⟨0x07, .u64, .ro, .any, 0, 0⟩,
   ⟨0x08, .u64, .ro, .any, 0, 0⟩,
   ⟨0x09, .u32, .w1c, .any, 0, 0⟩]

/-- Table 05-13. -/
def subsJournal : List SubDesc :=
  [⟨0x01, .u64, .rwl .ksLocked, .bits 0xFFFF_FFFF_FFFF_F000, 0x0, 0⟩,
   ⟨0x02, .u8, .rwl .ksLocked, .between 12 24, 20, 0⟩,
   ⟨0x03, .enum8, .ro, .any, 0, 0⟩,
   ⟨0x04, .u64, .ro, .any, 0, 0⟩,
   ⟨0x05, .domain true 32, .ro, .any, 0, 0⟩,
   ⟨0x06, .u32, .ro, .any, 0, 0⟩,
   ⟨0x07, .u16, .ro, .any, 0, 0⟩,
   ⟨0x08, .u32, .rws, .between 0 1000000, 2000, 0⟩,
   ⟨0x09, .u32, .w1c, .any, 0, 0⟩]

/-- Table 05-15. -/
def subsCheckpoint : List SubDesc :=
  [⟨0x01, .u64, .rwl .ksLocked, .bits 0xFFFF_FFFF_FFFF_F000, 0x0, 0⟩,
   ⟨0x02, .u8, .rwl .ksLocked, .between 6 16, 10, 0⟩,
   ⟨0x03, .u32, .rws, .between 1024 1048576, 65536, 0⟩,
   ⟨0x04, .u32, .rws, .between 10 1000, 100, 0⟩,
   ⟨0x05, .enum8, .cmd, .between 1 1, 0, 0⟩,
   ⟨0x06, .u64, .ro, .any, 0, 0⟩,
   ⟨0x07, .u32, .w1c, .any, 0, 0⟩,
   ⟨0x08, .domain true 1536, .ro, .any, 0, 0⟩]

/-- Table 05-16. -/
def subsReadoutBinding : List SubDesc :=
  [⟨0x20, .enum8, .rw, .between 0 4, 0, 0⟩,
   ⟨0x21, .u64, .ro, .any, 0, 0⟩,
   ⟨0x22, .u64, .ro, .any, 0, 0⟩]

/-- Table 06-17. -/
def subsElectrumPkg : List SubDesc :=
  [⟨0x01, .u64, .ro, .any, 0, 0⟩,
   ⟨0x02, .u64, .ro, .any, 0, 0⟩,
   ⟨0x03, .u64, .ro, .any, 0, 0⟩]

/-- Table 06-18. -/
def subsElectrumEngine : List SubDesc :=
  [⟨0x01, .enum8, .ro, .any, 1, 0⟩,
   ⟨0x02, .enum8, .cmd, .between 0 4, 0, 0⟩,
   ⟨0x03, .domain true 16, .ro, .any, 0, 0⟩,
   ⟨0x04, .u64, .ro, .any, 0, 0⟩,
   ⟨0x05, .u32, .ro, .any, 0, 0⟩]

/-- Table 06-19. -/
def subsBank : List SubDesc :=
  [⟨0x01, .u64, .rw, .bits 0xFFFF_FFFF_FFFF_F000, 0x0, 0⟩,
   ⟨0x02, .u64, .rw, .bits 0xFFFF_FFFF_FFFF_F000, 0x0, 0⟩,
   ⟨0x03, .enum8, .ro, .any, 0, 0⟩,
   ⟨0x04, .enum8, .ro, .any, 0, 0⟩,
   ⟨0x05, .enum8, .cmd, .between 1 5, 0, 0⟩,
   ⟨0x06, .enum8, .ro, .any, 0, 0⟩,
   ⟨0x07, .u32, .ro, .any, 0, 0⟩,
   ⟨0x08, .u64, .ro, .any, 0, 0⟩]

/-- Table 06-20. -/
def subsElectrumBinding : List SubDesc :=
  [⟨0x20, .bits64, .rw, .any, 0x0000_0000_0000_0000, 0⟩]

/-- Table 07-6. -/
def subsDeflatePkg : List SubDesc :=
  [⟨0x01, .u64, .ro, .any, 0, 0⟩,
   ⟨0x02, .u64, .ro, .any, 0, 0⟩,
   ⟨0x03, .u64, .ro, .any, 0, 0⟩]

/-- Table 07-7. -/
def subsDeflateEngine : List SubDesc :=
  [⟨0x01, .enum8, .ro, .any, 1, 0⟩,
   ⟨0x02, .enum8, .cmd, .between 0 4, 0, 0⟩,
   ⟨0x03, .domain true 8, .ro, .any, 0, 0⟩,
   ⟨0x04, .u64, .ro, .any, 0, 0⟩,
   ⟨0x05, .u32, .ro, .any, 0, 0⟩]

/-- Table 08-4. -/
def subsCoreObject (k : Nat) : List SubDesc :=
  [⟨0x01, .u16, .ro, .any, k, 0⟩,
   ⟨0x02, .enum8, .ro, .any, 0, 0⟩,
   ⟨0x03, .u64, .rws, .bits 0xFFFF_FFFF_FFFF_FFFC, 0x0, 0⟩,
   ⟨0x04, .u32, .w1c, .any, 0, 0⟩,
   ⟨0x05, .u32, .w1c, .any, 0, 0⟩,
   ⟨0x06, .u32, .w1c, .any, 0, 0⟩,
   ⟨0x07, .u32, .ro, .any, 0, 0⟩]

/-- Table 08-5. -/
def subsCoreMode : List SubDesc :=
  [⟨0x01, .enum8, .rw, .between 0 1, 0, 0⟩,
   ⟨0x02, .enum8, .ro, .any, 0, 0⟩]

/-- Table 09-1. -/
def subsMmioRegion : List SubDesc :=
  [⟨0x01, .bool, .rw, .between 0 1, 0, 0⟩,
   ⟨0x02, .u64, .rw, .bits 0xFFFF_FFFF_FFFF_F000, 0x0, 0⟩,
   ⟨0x03, .u64, .rw, .any, 0x0, 0xFFF⟩,
   ⟨0x04, .bool, .rw, .between 0 1, 0, 0⟩,
   ⟨0x05, .enum8, .rws, .between 0 1, 0, 0⟩,
   ⟨0x06, .u32, .w1c, .any, 0, 0⟩]

/-- Table 10-3. -/
def subsTranslationAttr : List SubDesc :=
  [⟨0x01, .enum8, .rw, .between 0 1, 0, 0⟩,
   ⟨0x02, .enum8, .rw, .between 0 1, 0, 0⟩,
   ⟨0x03, .enum8, .rw, .between 0 1, 0, 0⟩]

/-- Table 10-10. -/
def subsTranslationCounters : List SubDesc :=
  [⟨0x01, .u64, .ro, .any, 0, 0⟩,
   ⟨0x02, .u64, .ro, .any, 0, 0⟩,
   ⟨0x03, .u64, .ro, .any, 0, 0⟩,
   ⟨0x04, .u32, .w1c, .any, 0, 0⟩]

/-- Table 11-4. -/
def subsPewterPkg : List SubDesc :=
  [⟨0x01, .bool, .rws, .between 0 1, 0, 0⟩,
   ⟨0x02, .enum8, .ro, .any, 0, 0⟩,
   ⟨0x03, .enum8, .cmd, .between 1 4, 0, 0⟩,
   ⟨0x04, .u64, .rw, .bits 0xFFFF_FFFF_FFFF_FFC0, 0x0, 0⟩,
   ⟨0x05, .u64, .rw, .bits 0xFFFF_FFFF_FFFF_FFC0, 0, 0⟩,
   ⟨0x06, .bits32, .rw, .any, 0x0000_0000, 0⟩,
   ⟨0x07, .bits64, .rw, .any, 0x0000_0000_0000_0000, 0⟩,
   ⟨0x08, .u64, .ro, .any, 0, 0⟩,
   ⟨0x09, .u8, .rw, .between 0 8, 4, 0⟩,
   ⟨0x0A, .u32, .ro, .any, 0, 0⟩,
   ⟨0x0B, .u64, .ro, .any, 0, 0⟩,
   ⟨0x0C, .u32, .w1c, .any, 0, 0⟩,
   ⟨0x0D, .u32, .w1c, .any, 0, 0⟩,
   ⟨0x0E, .u8, .rw, .between 0 168, 24, 0⟩]

/-- Table 11-5. -/
def subsPewterSlice : List SubDesc :=
  [⟨0x01, .bits64, .ro, .any, 0x0000_0000_0000_0000, 0⟩,
   ⟨0x02, .bits64, .rws, .any, 0x0000_0000_0000_0000, 0⟩,
   ⟨0x03, .u64, .ro, .any, 0, 0⟩,
   ⟨0x04, .u64, .ro, .any, 0, 0⟩,
   ⟨0x05, .u64, .ro, .any, 0, 0⟩,
   ⟨0x06, .u64, .ro, .any, 0, 0⟩,
   ⟨0x07, .u64, .ro, .any, 0, 0⟩,
   ⟨0x08, .u64, .ro, .any, 0, 0⟩]

/-- Table 12-9. -/
def subsDirectoryPkg : List SubDesc :=
  [⟨0x01, .u32, .ro, .any, 5242880, 0⟩,
   ⟨0x02, .u16, .ro, .any, 192, 0⟩,
   ⟨0x03, .u16, .ro, .any, 256, 0⟩,
   ⟨0x04, .enum8, .rw, .between 0 1, 0, 0⟩]

/-- Table 12-10. -/
def subsHomeSlice : List SubDesc :=
  [⟨0x01, .u16, .ro, .any, 0, 0⟩,
   ⟨0x02, .u64, .ro, .any, 0, 0⟩,
   ⟨0x03, .u64, .ro, .any, 0, 0⟩,
   ⟨0x04, .u64, .ro, .any, 0, 0⟩,
   ⟨0x05, .u64, .ro, .any, 0, 0⟩,
   ⟨0x06, .u64, .ro, .any, 0, 0⟩,
   ⟨0x07, .u64, .ro, .any, 0, 0⟩,
   ⟨0x08, .u32, .w1c, .any, 0, 0⟩]

/-- Table 12-11. -/
def subsDieFilter : List SubDesc :=
  [⟨0x01, .u32, .ro, .any, 393216, 0⟩,
   ⟨0x02, .u64, .ro, .any, 0, 0⟩,
   ⟨0x03, .u64, .ro, .any, 0, 0⟩,
   ⟨0x04, .u32, .w1c, .any, 0, 0⟩]

/-- Table 13-6. -/
def subsQosClass : List SubDesc :=
  [⟨0x01, .u16, .rw, .between 1 1024, 1024, 0⟩,
   ⟨0x02, .u16, .rw, .between 2 4096, 64, 0⟩,
   ⟨0x03, .u64, .ro, .any, 0, 0⟩]

/-- Table 13-10. -/
def subsFabricPkg : List SubDesc :=
  [⟨0x01, .u32, .rw, .between 100 100000, 400, 0⟩,
   ⟨0x02, .u32, .ro, .any, 50, 0⟩,
   ⟨0x03, .u32, .rw, .between 100 1000000, 10000, 0⟩,
   ⟨0x04, .enum8, .rwl .addrMapLocked, .between 0 1, 0, 0⟩,
   ⟨0x05, .u64, .ro, .any, 0, 0⟩,
   ⟨0x06, .u64, .ro, .any, 0, 0⟩,
   ⟨0x07, .u64, .ro, .any, 0, 0⟩,
   ⟨0x08, .u64, .ro, .any, 0, 0⟩,
   ⟨0x09, .u32, .ro, .any, 0, 0⟩]

/-- Table 13-11. -/
def subsRouterObject : List SubDesc :=
  [⟨0x01, .enum8, .ro, .any, 3, 0⟩,
   ⟨0x02, .u64, .ro, .any, 0, 0⟩,
   ⟨0x03, .u32, .w1c, .any, 0, 0⟩,
   ⟨0x04, .u8, .ro, .any, 0, 0⟩]

/-- Table 14-9. -/
def subsSolderPkg : List SubDesc :=
  [⟨0x01, .u8, .rw, .between 2 32, 8, 0⟩,
   ⟨0x02, .u8, .ro, .any, 0, 0⟩,
   ⟨0x03, .u64, .ro, .any, 0, 0⟩]

/-- Table 14-10. -/
def subsModule : List SubDesc :=
  [⟨0x01, .enum8, .ro, .any, 1, 0⟩,
   ⟨0x02, .u8, .ro, .any, 0, 0⟩,
   ⟨0x03, .enum8, .cmd, .between 1 3, 0, 0⟩,
   ⟨0x04, .u8, .ro, .any, 0, 0⟩,
   ⟨0x05, .domain true 64, .ro, .any, 0, 0⟩,
   ⟨0x06, .u64, .ro, .any, 0, 0⟩,
   ⟨0x07, .u64, .ro, .any, 0, 0⟩,
   ⟨0x08, .u32, .ro, .any, 0, 0⟩,
   ⟨0x09, .u32, .w1c, .any, 0, 0⟩,
   ⟨0x0A, .u32, .w1c, .any, 0, 0⟩]

/-- Table 15-8. -/
def subsMemoryPkg : List SubDesc :=
  [⟨0x01, .bool, .rws, .between 0 1, 1, 0⟩,
   ⟨0x02, .enum8, .ro, .any, 0, 0⟩,
   ⟨0x03, .u64, .ro, .any, 0, 0⟩,
   ⟨0x04, .u64, .ro, .any, 0, 0⟩]

/-- Table 15-9. -/
def subsController (m : Nat) : List SubDesc :=
  [⟨0x01, .enum8, .ro, .any, 1, 0⟩,
   ⟨0x02, .u16, .ro, .any, 0, 0⟩,
   ⟨0x03, .u16, .rw, .any, (if m < 12 then 6400 else 8000), 0⟩,
   ⟨0x04, .domain true 64, .rw, .any, 0, 0⟩,
   ⟨0x05, .enum8, .cmd, .between 1 3, 0, 0⟩,
   ⟨0x06, .u64, .rw, .bits 0xFFFF_FFFF_FFFF_FFC0, 0x0, 0⟩,
   ⟨0x07, .enum8, .ro, .any, 0, 0⟩,
   ⟨0x08, .u16, .rw, .between 10 10000, 200, 0⟩,
   ⟨0x09, .u64, .ro, .any, 0, 0⟩,
   ⟨0x0A, .u32, .w1c, .any, 0, 0⟩,
   ⟨0x0B, .u64, .ro, .any, 0, 0⟩,
   ⟨0x0C, .u64, .ro, .any, 0, 0⟩,
   ⟨0x0D, .domain true 256, .ro, .any, 0, 0⟩,
   ⟨0x0E, .u32, .w1c, .any, 0, 0⟩,
   ⟨0x0F, .u16, .rw, .between 1 65535, 16, 0⟩,
   ⟨0x10, .bool, .sec, .between 0 1, 0, 0⟩,
   ⟨0x11, .u64, .sec, .bits 0xFFFF_FFFF_FFFF_FFC0, 0x0, 0⟩,
   ⟨0x12, .domain true (if m < 12 then 16 else 8), .sec, .any, 0, 0⟩,
   ⟨0x13, .domain true (if m < 12 then 17 else 9), .sec, .any, 0, 0⟩,
   ⟨0x14, .u32, .ro, .any, 0, 0⟩]

/-- Table 16-7. -/
def subsSecureSide : List SubDesc :=
  [⟨0x01, .enum8, .ro, .any, 0, 0⟩,
   ⟨0x02, .u32, .rws, .between 1000 1000000, 10000, 0⟩,
   ⟨0x03, .u32, .sec, .any, 0, 0⟩,
   ⟨0x04, .enum8, .cmd, .between 1 2, 0, 0⟩,
   ⟨0x05, .u32, .ro, .any, 0, 0⟩,
   ⟨0x06, .u32, .ro, .any, 0, 0⟩,
   ⟨0x07, .time64, .ro, .any, 0, 0⟩,
   ⟨0x08, .u32, .ro, .any, 0, 0⟩]

/-- Table 16-8. -/
def subsWorldRange (n : Nat) : List SubDesc :=
  [⟨0x01, .bool, (if n = 0 then .ro else .rws), .between 0 1, (if n = 0 then 1 else 0), 0⟩,
   ⟨0x02, .u64, (if n = 0 then .ro else .rws), .bits 0xFFFF_FFFF_FFFF_F000, (if n = 0 then tantalumPage 0 else 0), 0⟩,
   ⟨0x03, .u64, (if n = 0 then .ro else .rws), .any, (if n = 0 then tantalumPage 0 + 0xFFF else 0), 0xFFF⟩,
   ⟨0x04, .enum8, (if n = 0 then .ro else .rws), .between 0 1, (if n = 0 then 1 else 0), 0⟩,
   ⟨0x05, .u32, .w1c, .any, 0, 0⟩]

/-- Table 16-9. -/
def subsScrubList : List SubDesc :=
  [⟨0x01, .u64, .rws, .any, 0, 0⟩,
   ⟨0x02, .u64, .rws, .any, 0, 0⟩,
   ⟨0x03, .u64, .rws, .any, 0, 0⟩,
   ⟨0x04, .u64, .rws, .any, 0, 0⟩,
   ⟨0x05, .u64, .rws, .any, 0, 0⟩,
   ⟨0x06, .u64, .rws, .any, 0, 0⟩,
   ⟨0x07, .u64, .rws, .any, 0, 0⟩,
   ⟨0x08, .u64, .rws, .any, 0, 0⟩,
   ⟨0x09, .u64, .rws, .any, 0, 0⟩,
   ⟨0x0A, .u64, .rws, .any, 0, 0⟩,
   ⟨0x0B, .u64, .rws, .any, 0, 0⟩,
   ⟨0x0C, .u64, .rws, .any, 0, 0⟩,
   ⟨0x0D, .u64, .rws, .any, 0, 0⟩,
   ⟨0x0E, .u64, .rws, .any, 0, 0⟩,
   ⟨0x0F, .u64, .rws, .any, 0, 0⟩,
   ⟨0x10, .u64, .rws, .any, 0, 0⟩,
   ⟨0x11, .bits32, .rws, .bits 0xFFFF, 0x0000_0000, 0⟩]

/-- Table 16-10. -/
def subsBlockObject : List SubDesc :=
  [⟨0x01, .enum8, .ro, .any, 1, 0⟩,
   ⟨0x02, .enum8, .cmd, .between 1 2, 0, 0⟩]

/-- Table 16-11. -/
def subsIrqObject : List SubDesc :=
  [⟨0x01, .u16, .rws, .between 3 1023, 3, 0⟩,
   ⟨0x02, .enum8, .cmd, .between 1 2, 0, 0⟩,
   ⟨0x03, .bits64, .ro, .any, 0xFFFF_FFFF_FFFF_FFFC, 0⟩,
   ⟨0x04, .bits64, .ro, .any, 0xFFFF_FFFF_FFFF_FFFF, 0⟩,
   ⟨0x05, .bits64, .ro, .any, 0xFFFF_FFFF_FFFF_FFFF, 0⟩,
   ⟨0x06, .bits64, .ro, .any, 0xFFFF_FFFF_FFFF_FFFF, 0⟩,
   ⟨0x07, .bits64, .ro, .any, 0xFFFF_FFFF_FFFF_FFFF, 0⟩,
   ⟨0x08, .bits64, .ro, .any, 0xFFFF_FFFF_FFFF_FFFF, 0⟩,
   ⟨0x09, .bits64, .ro, .any, 0xFFFF_FFFF_FFFF_FFFF, 0⟩,
   ⟨0x0A, .bits64, .ro, .any, 0xFFFF_FFFF_FFFF_FFFF, 0⟩,
   ⟨0x0B, .bits64, .ro, .any, 0xFFFF_FFFF_FFFF_FFFF, 0⟩,
   ⟨0x0C, .bits64, .ro, .any, 0xFFFF_FFFF_FFFF_FFFF, 0⟩,
   ⟨0x0D, .bits64, .ro, .any, 0xFFFF_FFFF_FFFF_FFFF, 0⟩,
   ⟨0x0E, .bits64, .ro, .any, 0xFFFF_FFFF_FFFF_FFFF, 0⟩,
   ⟨0x0F, .bits64, .ro, .any, 0xFFFF_FFFF_FFFF_FFFF, 0⟩,
   ⟨0x10, .bits64, .ro, .any, 0xFFFF_FFFF_FFFF_FFFF, 0⟩,
   ⟨0x11, .bits64, .ro, .any, 0xFFFF_FFFF_FFFF_FFFF, 0⟩,
   ⟨0x12, .bits64, .ro, .any, 0xFFFF_FFFF_FFFF_FFFF, 0⟩]

/-- Table 16-12. -/
def subsDebugObject : List SubDesc :=
  [⟨0x01, .bool, .rws, .between 0 1, 0, 0⟩,
   ⟨0x02, .bool, .rws, .between 0 1, 0, 0⟩,
   ⟨0x03, .bool, .rws, .between 0 1, 0, 0⟩,
   ⟨0x04, .bool, .rws, .between 0 1, 0, 0⟩,
   ⟨0x05, .bits32, .ro, .any, 0, 0⟩]

/-- Table 17-7. -/
def subsFusibleObject : List SubDesc :=
  [⟨0x01, .u32, .rws, .between 100 100000, 1000, 0⟩,
   ⟨0x02, .u16, .ro, .any, 0, 0⟩,
   ⟨0x03, .u32, .w1c, .any, 0, 0⟩,
   ⟨0x04, .u16, .ro, .any, 0, 0⟩,
   ⟨0x05, .u32, .ro, .any, 0, 0⟩,
   ⟨0x06, .enum8, .cmd, .between 1 1, 0, 0⟩,
   ⟨0x07, .u8, .ro, .any, 0, 0⟩,
   ⟨0x08, .bits32, .ro, .any, 0x0000_0000, 0⟩,
   ⟨0x09, .u32, .ro, .any, 0, 0⟩]

/-- Table 17-8. -/
def subsFaultRecord : List SubDesc :=
  [⟨0x01, .enum8, .ro, .any, 0, 0⟩,
   ⟨0x02, .enum8, .ro, .any, 0, 0⟩,
   ⟨0x03, .domain true 32, .ro, .any, 0, 0⟩,
   ⟨0x04, .enum8, .cmd, .between 1 2, 0, 0⟩]

/-- Table 17-9. -/
def subsKindObject (k : Nat) : List SubDesc :=
  [⟨0x01, .enum8, .rws, .between 1 5, kindDefault k, 0⟩,
   ⟨0x02, .bool, .ro, .between 0 1, boolNat (kindIsFixed k), 0⟩,
   ⟨0x03, .u64, .ro, .any, 0, 0⟩]

/-- Table 17-10. -/
def subsSourceObject : List SubDesc :=
  [⟨0x01, .enum8, .rws, .between 0 5, 0, 0⟩,
   ⟨0x02, .enum8, .ro, .any, 0, 0⟩,
   ⟨0x03, .u64, .ro, .any, 0, 0⟩,
   ⟨0x04, .u32, .w1c, .any, 0, 0⟩,
   ⟨0x05, .enum8, .cmd, .between 1 1, 0, 0⟩,
   ⟨0x06, .u32, .ro, .any, 0, 0⟩]

/-- Table 18-4. -/
def subsInvarObject : List SubDesc :=
  [⟨0x01, .time64, .ro, .any, 0, 0⟩,
   ⟨0x02, .enum8, .ro, .any, 0, 0⟩,
   ⟨0x03, .u32, .rw, .between 0 1000000, 0, 0⟩,
   ⟨0x04, .i32, .ro, .any, 0, 0⟩,
   ⟨0x05, .u32, .ro, .any, 0, 0⟩]

/-- Table 18-5. -/
def subsPartitionObject : List SubDesc :=
  [⟨0x01, .enum8, .ro, .any, 0, 0⟩,
   ⟨0x02, .bits32, .ro, .any, 0, 0⟩,
   ⟨0x03, .enum8, .wo, .between 1 2, 0, 0⟩,
   ⟨0x04, .u8, .rwl .addrMapLocked, .codes [0, 1, 2, 3, 0xFF], 0xFF, 0⟩,
   ⟨0x05, .u32, .rw, .between 500 100000, 2000, 0⟩,
   ⟨0x06, .u32, .rw, .between 1000 100000, 5000, 0⟩,
   ⟨0x07, .bits32, .ro, .any, 0x0000_0000, 0⟩]

/-- Table 18-6. -/
def subsHarfortProxy : List SubDesc :=
  [⟨0x01, .u32, .ro, .any, 262144, 0⟩,
   ⟨0x02, .u64, .ro, .any, 0, 0⟩,
   ⟨0x03, .u64, .ro, .any, 0, 0⟩,
   ⟨0x04, .u32, .w1c, .any, 0, 0⟩]

/-- Table 18-7. -/
def subsHarfortLink : List SubDesc :=
  [⟨0x01, .enum8, .ro, .any, 1, 0⟩,
   ⟨0x02, .u8, .ro, .any, 0, 0⟩,
   ⟨0x03, .u8, .ro, .any, 0xFF, 0⟩,
   ⟨0x04, .enum8, .cmd, .between 1 3, 0, 0⟩,
   ⟨0x05, .u64, .ro, .any, 0, 0⟩,
   ⟨0x06, .u64, .ro, .any, 0, 0⟩,
   ⟨0x07, .u32, .ro, .any, 0, 0⟩]

/-- Table 19-10. -/
def subsBootObject : List SubDesc :=
  [⟨0x01, .enum8, .ro, .any, 0, 0⟩,
   ⟨0x02, .u8, .ro, .any, 0, 0⟩,
   ⟨0x03, .enum8, .ro, .any, 0, 0⟩,
   ⟨0x04, .enum8, .ro, .any, 0, 0⟩,
   ⟨0x05, .u32, .ro, .any, 0, 0⟩,
   ⟨0x06, .u32, .ro, .any, 0, 0⟩,
   ⟨0x07, .u8, .ro, .any, 0, 0⟩,
   ⟨0x08, .bits32, .ro, .any, 0, 0⟩,
   ⟨0x09, .enum8, .cmd, .between 1 5, 0, 0⟩,
   ⟨0x0A, .domain true 32, .ro, .any, 0, 0⟩,
   ⟨0x0B, .domain true 32, .ro, .any, 0, 0⟩,
   ⟨0x0C, .u32, .ro, .any, 0, 0⟩]

/-- Table 19-11. -/
def subsMeasurement : List SubDesc :=
  [⟨0x01, .u16, .ro, .any, 0, 0⟩,
   ⟨0x02, .domain true 32, .ro, .any, 0, 0⟩,
   ⟨0x03, .domain false 65536, .ro, .any, 0, 0⟩,
   ⟨0x04, .domain true 33, .sec, .any, 0, 0⟩]

/-- Table 19-12. -/
def subsAttestation : List SubDesc :=
  [⟨0x01, .domain true 1793, .ro, .any, 0, 0⟩,
   ⟨0x02, .domain true 32, .rw, .any, 0, 0⟩,
   ⟨0x03, .enum8, .cmd, .between 1 1, 0, 0⟩,
   ⟨0x04, .domain true 1536, .ro, .any, 0, 0⟩]

/-- Table 20-6. -/
def subsCounterReader : List SubDesc :=
  [⟨0x01, .enum8, .cmd, .between 1 2, 0, 0⟩,
   ⟨0x02, .bool, .ro, .between 0 1, 0, 0⟩,
   ⟨0x03, .time64, .ro, .any, 0, 0⟩,
   ⟨0x04, .bool, .rw, .between 0 1, 1, 0⟩]

/-- Table 20-7. -/
def subsHartSnapshot : List SubDesc :=
  [⟨0x01, .u64, .ro, .any, 0, 0⟩,
   ⟨0x02, .u64, .ro, .any, 0, 0⟩,
   ⟨0x03, .u64, .ro, .any, 0, 0⟩,
   ⟨0x04, .u64, .ro, .any, 0, 0⟩,
   ⟨0x05, .u64, .ro, .any, 0, 0⟩,
   ⟨0x06, .u64, .ro, .any, 0, 0⟩,
   ⟨0x07, .u64, .ro, .any, 0, 0⟩,
   ⟨0x08, .u64, .ro, .any, 0, 0⟩,
   ⟨0x09, .u64, .ro, .any, 0, 0⟩,
   ⟨0x0A, .u64, .ro, .any, 0, 0⟩,
   ⟨0x0B, .bool, .ro, .between 0 1, 0, 0⟩]

/-- Table 20-8. -/
def subsCounterGroup : List SubDesc :=
  [⟨0x01, .enum8, .ro, .any, 0, 0⟩,
   ⟨0x02, .u16, .rw, .any, 0, 0⟩,
   ⟨0x03, .u16, .rw, .any, 0, 0⟩,
   ⟨0x04, .u16, .rw, .any, 0, 0⟩,
   ⟨0x05, .u16, .rw, .any, 0, 0⟩,
   ⟨0x06, .u16, .rw, .any, 0, 0⟩,
   ⟨0x07, .u16, .rw, .any, 0, 0⟩,
   ⟨0x08, .u16, .rw, .any, 0, 0⟩,
   ⟨0x09, .u16, .rw, .any, 0, 0⟩,
   ⟨0x0A, .u64, .ro, .any, 0, 0⟩,
   ⟨0x0B, .u64, .ro, .any, 0, 0⟩,
   ⟨0x0C, .u64, .ro, .any, 0, 0⟩,
   ⟨0x0D, .u64, .ro, .any, 0, 0⟩,
   ⟨0x0E, .u64, .ro, .any, 0, 0⟩,
   ⟨0x0F, .u64, .ro, .any, 0, 0⟩,
   ⟨0x10, .u64, .ro, .any, 0, 0⟩,
   ⟨0x11, .u64, .ro, .any, 0, 0⟩,
   ⟨0x12, .u64, .ro, .any, 0, 0⟩,
   ⟨0x13, .u64, .ro, .any, 0, 0⟩,
   ⟨0x14, .u64, .ro, .any, 0, 0⟩,
   ⟨0x15, .u64, .ro, .any, 0, 0⟩,
   ⟨0x16, .u64, .ro, .any, 0, 0⟩,
   ⟨0x17, .u64, .ro, .any, 0, 0⟩,
   ⟨0x18, .u64, .ro, .any, 0, 0⟩,
   ⟨0x19, .u64, .ro, .any, 0, 0⟩,
   ⟨0x1A, .bool, .ro, .between 0 1, 0, 0⟩,
   ⟨0x1B, .bits32, .w1c, .bits 0xFF, 0x0000_0000, 0⟩]

/-- Table 20-9. -/
def subsBandwidth : List SubDesc :=
  [⟨0x01, .enum8, .cmd, .between 1 2, 0, 0⟩,
   ⟨0x02, .enum8, .ro, .any, 0, 0⟩,
   ⟨0x03, .u32, .rw, .between 1 1000000, 1000, 0⟩,
   ⟨0x04, .domain false 512, .rw, .any, 0, 0⟩,
   ⟨0x05, .u64, .rw, .bits 0xFFFF_FFFF_FFFF_F000, 0x0, 0⟩,
   ⟨0x06, .u8, .rw, .between 8 20, 12, 0⟩,
   ⟨0x07, .u32, .rw, .any, 0, 0⟩,
   ⟨0x08, .u32, .ro, .any, 0, 0⟩,
   ⟨0x09, .u32, .w1c, .any, 0, 0⟩]

/-- Table 21-8. -/
def subsStrapObject : List SubDesc :=
  [⟨0x01, .bits32, .ro, .any, 0, 0⟩,
   ⟨0x02, .bool, .ro, .between 0 1, 0, 0⟩]

/-- Table 21-9. -/
def subsPowerObject : List SubDesc :=
  [⟨0x01, .u16, .rws, .between 400 1000, 1000, 0⟩,
   ⟨0x02, .u16, .rws, .between 1 1000, 10, 0⟩,
   ⟨0x03, .u32, .ro, .any, 0, 0⟩,
   ⟨0x04, .bool, .ro, .between 0 1, 0, 0⟩,
   ⟨0x05, .bool, .ro, .between 0 1, 0, 0⟩,
   ⟨0x06, .bits32, .ro, .any, 0x0000_0000, 0⟩]

/-- Table 21-10. -/
def subsThermalObject : List SubDesc :=
  [⟨0x01, .u8, .rws, .between 70 100, 98, 0⟩,
   ⟨0x02, .u8, .ro, .any, 115, 0⟩,
   ⟨0x03, .u8, .ro, .any, 0, 0⟩,
   ⟨0x04, .u32, .ro, .any, 0, 0⟩]

/-- Table 21-11. -/
def subsRailObject : List SubDesc :=
  [⟨0x01, .u16, .ro, .any, 0, 0⟩,
   ⟨0x02, .u32, .ro, .any, 0, 0⟩,
   ⟨0x03, .bool, .ro, .between 0 1, 0, 0⟩]

/-- Table 21-12. -/
def subsDomainObject : List SubDesc :=
  [⟨0x01, .bool, .rw, .between 0 1, 1, 0⟩,
   ⟨0x02, .u64, .ro, .any, 0, 0⟩,
   ⟨0x03, .u32, .ro, .any, 0, 0⟩]

/-- Elements of a selector array (Table 02-4, Table 20-8). -/
def arrayCount (base : Nat) : Nat :=
  if base = 0x2040 then 256
  else if base = 0x7100 then 1048576
  else if base = 0x7800 then 4096
  else if base = 0x9010 then 4096
  else if base = 0x9810 then 2816
  else 0

/-- Selector object (R51). -/
def subsSelector (base : Nat) : List SubDesc :=
  [⟨0x01, .u32, .rw, .any, 0, 0⟩, ⟨0x02, .u32, .ro, .any, arrayCount base, 0⟩]

/-- The rows of an object's own table. -/
def objSubs : Obj → List SubDesc
  | .header u => subsHeader u
  | .capability => subsCapability
  | .dieIdentity n => subsDieIdentity n
  | .clock _ => subsClock
  | .addressMap => subsAddressMap
  | .localRegion _ => subsLocalRegion
  | .ringObject => subsRingObject
  | .mailboxObject => subsMailboxObject
  | .instSelector => subsInstSelector
  | .instBinding _ => subsInstBinding
  | .instQueue _ => subsInstQueue
  | .instStateWin _ => subsInstStateWin
  | .instDirty _ => subsInstDirty
  | .sterlingPkg => subsSterlingPkg
  | .sterlingEngine _ => subsSterlingEngine
  | .entropy b => subsEntropy b
  | .sterlingBinding _ => subsSterlingBinding
  | .keySlot _ => subsKeySlot
  | .keyStore => subsKeyStore
  | .journal _ => subsJournal
  | .checkpoint => subsCheckpoint
  | .readoutBinding _ => subsReadoutBinding
  | .electrumPkg => subsElectrumPkg
  | .electrumEngine _ => subsElectrumEngine
  | .bank _ => subsBank
  | .electrumBinding _ => subsElectrumBinding
  | .deflatePkg => subsDeflatePkg
  | .deflateEngine _ => subsDeflateEngine
  | .coreObject k => subsCoreObject k
  | .coreMode _ => subsCoreMode
  | .mmioRegion _ => subsMmioRegion
  | .translationAttr => subsTranslationAttr
  | .translationCounters _ => subsTranslationCounters
  | .pewterPkg => subsPewterPkg
  | .pewterSlice _ => subsPewterSlice
  | .directoryPkg => subsDirectoryPkg
  | .homeSlice _ => subsHomeSlice
  | .dieFilter _ => subsDieFilter
  | .qosClass _ => subsQosClass
  | .fabricPkg => subsFabricPkg
  | .routerObject _ => subsRouterObject
  | .solderPkg => subsSolderPkg
  | .module _ => subsModule
  | .memoryPkg => subsMemoryPkg
  | .controller m => subsController m
  | .secureSide => subsSecureSide
  | .worldRange n => subsWorldRange n
  | .scrubList => subsScrubList
  | .blockObject _ => subsBlockObject
  | .irqObject => subsIrqObject
  | .debugObject => subsDebugObject
  | .fusibleObject => subsFusibleObject
  | .faultRecord _ => subsFaultRecord
  | .kindObject k => subsKindObject k
  | .sourceObject _ => subsSourceObject
  | .invarObject => subsInvarObject
  | .partitionObject => subsPartitionObject
  | .harfortProxy => subsHarfortProxy
  | .harfortLink _ => subsHarfortLink
  | .bootObject => subsBootObject
  | .measurement => subsMeasurement
  | .attestation => subsAttestation
  | .counterReader => subsCounterReader
  | .hartSnapshot _ => subsHartSnapshot
  | .counterGroup _ => subsCounterGroup
  | .bandwidth => subsBandwidth
  | .strapObject => subsStrapObject
  | .powerObject => subsPowerObject
  | .thermalObject => subsThermalObject
  | .railObject _ => subsRailObject
  | .domainObject _ => subsDomainObject
  | .selector base => subsSelector base

/-- How many of the endpoint lists of an attach table name router `r`. -/
def attachCount (l : List (List Nat)) (r : Nat) : Nat := (l.map (fun x => x.count r)).sum

/-- Table 13-1: the routers of base-die endpoints, in the table's order. -/
def baseAttach : List (List Nat) :=
  [[10, 11, 16, 17, 22, 23, 28, 29], [8, 9, 14, 15, 20, 21, 26, 27], [6, 7, 12, 13, 18, 19, 24, 25],
   [7, 8, 9, 10, 25, 26, 27, 28],
   (List.range 16).map (fun j => 6 * (1 + j / 4) + 1 + j % 4),
   [21], [30, 31, 32], [33, 34, 35]]

/-- Table 13-2: the routers of IOD endpoints, in the table's order. -/
def iodAttach : List (List Nat) :=
  [List.range 16, [5, 5, 6, 6, 9, 9, 10, 10], [12, 13, 14, 15, 12, 13], [0, 1, 2, 3, 0, 1],
   [4, 8, 7, 11], [7, 11, 4, 8], [5], [6], [9], [10]]

/-- R297: a mesh port of a base-die router leads to a neighbour or carries a Solder module. -/
def baseMeshPort (r q : Nat) : Bool :=
  if q = 2 then r / 6 != 0 || (1 ≤ r && r ≤ 4)
  else if q = 3 then r / 6 != 5
  else q < 2

/-- R297, Table 13-1, Table 13-2: router `n` has an input port `q`. Every edge port of the IOD carries a module.
A row of an attach table gives one local port for each time it names the router. DEDUCED (log 13). -/
def routerHasPort (n q : Nat) : Bool :=
  if n < 144 then
    let r := n % 36
    if q < 4 then baseMeshPort r q else q - 4 < attachCount baseAttach r
  else n < 160 && (q < 4 || q - 4 < attachCount iodAttach (n - 144))

/-- R419: the kind of a counter group (Table 20-1). Routers of a base die have ports 0 to 5 where they
are implemented; the kind of a port is that of its router. -/
def Dev.groupKind (d : Dev) (g : Nat) : Nat :=
  if g < 32 then 1 else if g < 64 then 2 else if g < 128 then 3 else if g < 144 then 4
  else if g < 152 then 5 else if g < 164 then 6 else if g < 172 then 7 else if g < 212 then 8
  else if g < 224 then 9 else if g < 228 then 10
  else if g < 252 then (if d.rootPort (g - 228) then 11 else 0)
  else if g < 256 then 0
  else if routerHasPort ((g - 256) / 16) ((g - 256) % 16) then 12 else 0

/-- The assignable block of a counter group (Table 16-4, Table 20-1). -/
def groupBlock (g : Nat) : Option Nat :=
  if 64 ≤ g && g < 128 then some ((g - 64) / 16)
  else if 128 ≤ g && g < 144 then some 4
  else if 144 ≤ g && g < 152 then some 5
  else if 228 ≤ g && g < 252 then some (8 + (g - 228))
  else none

/-- The class-specific sub-entries of the binding window (Tables 04-10, 05-16, 06-20). -/
def Dev.bindingSubs (d : Dev) (i : Nat) : List SubDesc :=
  let c := d.get (rInstClass i)
  if c = 1 then subsSterlingBinding
  else if c = 2 then subsElectrumBinding
  else if c = 4 then subsReadoutBinding
  else []

/-- The sub-entries that an object presents in the present configuration (R49 NO_SUB). -/
def Dev.subsAt (d : Dev) (o : Obj) : List SubDesc :=
  match o with
  | .instBinding i => objSubs o ++ d.bindingSubs i
  | .worldRange 0 => (objSubs o).map (fun r => if r.sub < 5 then { r with acc := .ro } else r)
  | .clock n => if n < 12 then objSubs o else (objSubs o).filter (fun r => r.sub = 1 || r.sub = 4)
  | .counterGroup g =>
    if d.groupKind g = 12 then (objSubs o).filter (fun r => !(6 ≤ r.sub && r.sub ≤ 9)) else objSubs o
  | _ => objSubs o

/-- The element that a path has selected in the array at a base index (R51). -/
def Dev.selected (d : Dev) (base : Nat) (p : Path) : Nat := d.get (rArraySelectAt base p)

/-- The objects of a die's block (R22). -/
def dieObject (n off : Nat) : Option Obj :=
  if off = 0 then some (.header (.die n))
  else if off = 1 then some (.dieIdentity n)
  else if off = 2 then some (.clock n)
  else if off = 3 && n < 12 then some (.coreMode n)
  else if off = 4 && n < 12 then some (.dieFilter n)
  else none

/-- The objects of a core's block (Tables 08-4, 10-10, 20-7). -/
def coreBlockObject (k off : Nat) : Option Obj :=
  if off = 0 then some (.header (.core k))
  else if off = 1 then some (.coreObject k)
  else if off = 2 then some (.translationCounters k)
  else if off = 3 then some (.hartSnapshot k)
  else none

/-- Objects below 0x3000. -/
def Dev.objectLow (d : Dev) (p : Path) (i : Nat) : Option Obj :=
  if i = 0x1000 then some (.header .package)
  else if i = 0x1001 then (if d.flag rRingMaster then some (.header .system) else none)
  else if i = 0x1002 then some .capability
  else if i = 0x1100 then some .ringObject
  else if i = 0x1101 then some .mailboxObject
  else if i = 0x1200 then some .invarObject
  else if i = 0x1208 then some .partitionObject
  else if i = 0x2002 then some .addressMap
  else if i = 0x2003 then some .strapObject
  else if i = 0x2004 then some .translationAttr
  else if 0x2010 ≤ i && i < 0x2020 then some (.localRegion (i - 0x2010))
  else if i = 0x2040 then some (.selector 0x2040)
  else if i = 0x2041 then some (.mmioRegion (d.selected 0x2040 p))
  else if i = 0x2100 then some .powerObject
  else if i = 0x2101 then some .thermalObject
  else if 0x2108 ≤ i && i < 0x2110 then some (.railObject (i - 0x2108))
  else if 0x2140 ≤ i && i < 0x2162 && d.blockExists (i - 0x2140) then some (.domainObject (i - 0x2140))
  else if i = 0x2200 then some .bootObject
  else if i = 0x2202 then some .measurement
  else if i = 0x2203 then some .attestation
  else none

/-- Objects from 0x3000 to 0x6FFF. -/
def objectMid (i : Nat) : Option Obj :=
  if 0x3000 ≤ i && i < 0x3880 then dieObject ((i - 0x3000) / 0x80) ((i - 0x3000) % 0x80)
  else if 0x4000 ≤ i && i < 0x4F00 then coreBlockObject ((i - 0x4000) / 0x10) ((i - 0x4000) % 0x10)
  else if i = 0x5000 then some .fabricPkg
  else if 0x5040 ≤ i && i < 0x5080 then some (.qosClass (i - 0x5040))
  else if 0x5100 ≤ i && i < 0x51A0 then some (.routerObject (i - 0x5100))
  else if 0x5800 ≤ i && i < 0x5820 then some (.homeSlice (i - 0x5800))
  else if i = 0x5820 then some .directoryPkg
  else if i = 0x5840 then some .pewterPkg
  else if 0x5860 ≤ i && i < 0x5880 then some (.pewterSlice (i - 0x5860))
  else if i = 0x6000 then some .memoryPkg
  else if 0x6010 ≤ i && i < 0x601C then some (.controller (i - 0x6010))
  else if 0x6030 ≤ i && i < 0x6038 then some (.controller (12 + (i - 0x6030)))
  else if i = 0x6400 then some .solderPkg
  else if 0x6410 ≤ i && i < 0x6438 then some (.module (i - 0x6410))
  else if 0x6440 ≤ i && i < 0x644C then some (.module (40 + (i - 0x6440)))
  else if i = 0x6470 then some .harfortProxy
  else if 0x6480 ≤ i && i < 0x6484 then some (.harfortLink (i - 0x6480))
  else none

/-- Objects from 0x7000 on. -/
def Dev.objectHigh (d : Dev) (p : Path) (i : Nat) : Option Obj :=
  if 0x7000 ≤ i && i < 0x7006 then some (.header (.cluster (i - 0x7000)))
  else if i = 0x7008 then some .sterlingPkg
  else if 0x7010 ≤ i && i < 0x7050 then some (.sterlingEngine (i - 0x7010))
  else if 0x7050 ≤ i && i < 0x7054 then some (.entropy (i - 0x7050))
  else if i = 0x7060 then some .keyStore
  else if 0x7068 ≤ i && i < 0x706C then some (.journal (i - 0x7068))
  else if i = 0x706C then some .checkpoint
  else if i = 0x7100 then some (.selector 0x7100)
  else if i = 0x7101 then some (.keySlot (d.selected 0x7100 p))
  else if i = 0x7200 then some .electrumPkg
  else if 0x7210 ≤ i && i < 0x7220 then some (.electrumEngine (i - 0x7210))
  else if 0x7220 ≤ i && i < 0x7260 then some (.bank (i - 0x7220))
  else if i = 0x7300 then some .deflatePkg
  else if 0x7310 ≤ i && i < 0x7318 then some (.deflateEngine (i - 0x7310))
  else if i = 0x7800 then some .instSelector
  else if i = 0x7801 then some (.instBinding (d.selected 0x7800 p))
  else if i = 0x7802 then some (.instQueue (d.selected 0x7800 p))
  else if i = 0x7803 then some (.instStateWin (d.selected 0x7800 p))
  else if i = 0x7804 then some (.instDirty (d.selected 0x7800 p))
  else if i = 0x8000 then some .secureSide
  else if 0x8010 ≤ i && i < 0x8030 then some (.worldRange (i - 0x8010))
  else if i = 0x8030 then some .scrubList
  else if 0x8040 ≤ i && i < 0x8062 && d.blockExists (i - 0x8040) then some (.blockObject (i - 0x8040))
  else if i = 0x8080 then some .irqObject
  else if i = 0xA000 then some .debugObject
  else if i = 0x9000 then some .fusibleObject
  else if i = 0x9010 then some (.selector 0x9010)
  else if i = 0x9011 then some (.faultRecord (d.selected 0x9010 p))
  else if 0x9100 ≤ i && i < 0x9200 && (kindRow (i - 0x9100)).isSome then some (.kindObject (i - 0x9100))
  else if 0x9200 ≤ i && i < 0x9800 then some (.sourceObject (i - 0x9200))
  else if i = 0x9800 then some .counterReader
  else if i = 0x9810 then some (.selector 0x9810)
  else if i = 0x9811 then some (.counterGroup (d.selected 0x9810 p))
  else if i = 0x9820 then some .bandwidth
  else none

/-- The object that an index names on a path (R41, R51, R54); none returns NO_OBJECT. -/
def Dev.objectAt (d : Dev) (p : Path) (i : Nat) : Option Obj :=
  if i < 0x3000 then d.objectLow p i
  else if i < 0x7000 then objectMid i
  else d.objectHigh p i

/-- R41: sub-index 0x00 holds the highest sub-index that the object implements. -/
def highestSub (l : List SubDesc) : Nat := l.foldl (fun m r => max m r.sub) 0

/-- The row of a sub-index; sub 0x00 is a U8, RO. -/
def Dev.subDesc (d : Dev) (o : Obj) (sub : Nat) : Option SubDesc :=
  let l := d.subsAt o
  if sub = 0 then some ⟨0, .u8, .ro, .any, highestSub l, 0⟩ else l.find? (fun r => r.sub = sub)

/-! ## Sizes and permitted values -/

/-- Size of a type in bytes (Table 02-1); none for a DOMAIN. -/
def tySize : SubTy → Option Nat
  | .bool => some 1
  | .u8 => some 1
  | .u16 => some 2
  | .u32 => some 4
  | .u64 => some 8
  | .i32 => some 4
  | .bits32 => some 4
  | .bits64 => some 8
  | .enum8 => some 1
  | .time64 => some 8
  | .domain _ _ => none

/-- The sub-entry is a DOMAIN. -/
def isDomain : SubTy → Bool
  | .domain _ _ => true
  | _ => false

/-- The greatest length of a DOMAIN. -/
def domainMax : SubTy → Nat
  | .domain _ m => m
  | _ => 0

/-- R448: a DOMAIN takes a value of this length. -/
def domainTakes (t : SubTy) (n : Nat) : Bool :=
  match t with
  | .domain true m => n = m
  | .domain false m => n ≤ m
  | _ => false

/-- The value is in the permitted set. -/
def rngTakes : Rng → Nat → Bool
  | .any, _ => true
  | .bits m, v => bitsClear v m = 0
  | .between lo hi, v => lo ≤ v && v ≤ hi
  | .codes l, v => l.contains v

/-! ## Worlds and locks -/

/-- The lock object reads 1. -/
def Dev.locked (d : Dev) : LockObject → Bool
  | .addrMapLocked => d.flag rAddrMapLocked
  | .ksLocked => d.flag rKsLocked

/-- The rule of a chapter by which a write of a sub-entry is open to the Tantalum world only, beyond
its access code: R13, R144, R361 to R363, R364, R376, R422, and the tables of ksCommand,
ksStart, ckCommand, bootCommand and tkCommand. -/
def Dev.writeNeedsTantalum (d : Dev) (o : Obj) (sub value : Nat) : Bool :=
  match o with
  | .header (.cluster c) => sub = 8 && d.blockWorld c = .tantalum
  | .keySlot _ => sub = 0x0D || sub = 0x0E
  | .keyStore => sub = 0x05
  | .checkpoint => sub = 0x05
  | .bootObject => sub = 0x09
  | .secureSide => sub = 0x04 && value = 2
  | .blockObject _ => sub = 0x02
  | .irqObject => sub = 0x02
  | .domainObject n => sub = 0x01 && d.blockWorld n = .tantalum
  | .faultRecord e =>
    sub = 0x04 && (match tabFind d.fus.log e with
      | some r => (match sourceBlock r.source with
          | some b => d.blockWorld b = .tantalum
          | none => false)
      | none => false)
  | .sourceObject s =>
    sub = 0x05 && (match sourceBlock s with
      | some b => d.blockWorld b = .tantalum
      | none => false)
  | .counterGroup g =>
    2 ≤ sub && sub ≤ 9 && (match groupBlock g with
      | some b => d.blockWorld b = .tantalum
      | none => false)
  | _ => false

/-- R52 with R79 and R219: the selected element is the Tantalum world's, and its table closes every writable sub-entry of it to the
normal world, for reads too. -/
def Dev.elementOfTantalum (d : Dev) (o : Obj) : Bool :=
  match o with
  | .instBinding i => d.get (rInstWorld i) = 1
  | .instQueue i => d.get (rInstWorld i) = 1
  | .instStateWin i => d.get (rInstWorld i) = 1
  | .instDirty i => d.get (rInstWorld i) = 1
  | .mmioRegion n => d.get (rRgnWorld n) = 1
  | _ => false

/-- R43: the path's world may not perform the access. `ksImage` alone is write-only and Tantalum only (Table 05-10): its reads too. DEDUCED
(log 114). -/
def Dev.worldDenies (d : Dev) (p : Path) (o : Obj) (r : SubDesc) (write : Bool) (value : Nat) : Bool :=
  d.pathWorld p = .normal &&
    ((r.acc != .ro && d.elementOfTantalum o) ||
     (match r.acc with
      | .sec => true
      | .rws => write
      | .wo => d.writeNeedsTantalum o r.sub value
      | _ => write && d.writeNeedsTantalum o r.sub value))

/-- R55: the sub-entry is security-relevant. -/
def securityRelevant (idx : Nat) (o : Obj) (r : SubDesc) (value : Nat) : Bool :=
  let writable := r.acc != .ro
  (writable && ((0x2000 ≤ idx && idx < 0x2300) || (0x7000 ≤ idx && idx < 0x9000)
     || (0xA000 ≤ idx && idx < 0xA100)))
  || (idx = 0x1100 && (r.sub = 0x0D || (0x10 ≤ r.sub && r.sub ≤ 0x17)))
  || (match o with
      | .header _ => r.sub = 8 && 3 ≤ value && value ≤ 5
      | _ => false)

/-- R67: a security-relevant write from a ring node without a session. -/
def Dev.sessionDenies (d : Dev) (p : Path) (idx : Nat) (o : Obj) (r : SubDesc) (value : Nat) : Bool :=
  match p with
  | .mailbox _ => false
  | .ring n => securityRelevant idx o r value && (d.session n).isNone

/-- Access codes that deny a read or a write outright (Table 02-2). -/
def accDenies (a : Access) (write : Bool) : Bool :=
  match a with
  | .ro => write
  | .wo => !write
  | _ => false

/-- R43, R46: the lock of an RWL sub-entry is set; a lock object is not locked by its own lock. -/
def Dev.lockDenies (d : Dev) (o : Obj) (r : SubDesc) : Bool :=
  match r.acc with
  | .rwl l =>
    d.locked l && !(match o with
      | .addressMap => r.sub = 0x06
      | .keyStore => r.sub = 0x04
      | _ => false)
  | _ => false

/-- R67: a mailbox may not read `sessionChallenge` nor write `sessionOpen` and `sessionClose`. -/
def mailboxDenies (p : Path) (o : Obj) (sub : Nat) (write : Bool) : Bool :=
  match p, o with
  | .mailbox _, .ringObject => if write then sub = 0x0B || sub = 0x0C else sub = 0x0A
  | _, _ => false

/-- R398: `partVerdict` takes no write of a ring node but 0. -/
def verdictDenies (p : Path) (o : Obj) (sub : Nat) : Bool :=
  match p, o with
  | .ring n, .partitionObject => sub = 0x03 && n != 0
  | _, _ => false

/-- The conditions of Table 02-3 from WORLD to WRITE_ONCE for one sub-entry. -/
def Dev.accessStatus (d : Dev) (p : Path) (idx : Nat) (o : Obj) (r : SubDesc) (write : Bool)
    (value : Nat) : Status :=
  firstStatus
    [(d.worldDenies p o r write value, .world),
     (accDenies r.acc write || (write && d.sessionDenies p idx o r value) || mailboxDenies p o r.sub write
        || (write && verdictDenies p o r.sub),
       .accessDenied),
     (write && d.lockDenies o r, .writeOnce)]

/-! ## How a transaction ends -/

/-- R45: the fault of a transaction that returns WORLD. -/
def Dev.raiseWorld (d : Dev) (p : Path) (idx sub : Nat) : Dev :=
  d.raiseAt kWorldViolation 882 (pathCode p) (idx * 256 + sub)

/-- A transaction of a path as it stands when it ends: its status, its data, the device. -/
structure Answer where
  status : Status
  data   : List Byte
  dev    : Dev
deriving DecidableEq, Repr

/-- R68: a transaction from a node puts off the idle close of its session. -/
def Dev.touchSession (d : Dev) (p : Path) : Dev :=
  match p with
  | .mailbox _ => d
  | .ring n =>
    match d.session n with
    | none => d
    | some s => { d with ring := { d.ring with sessions := tabPut d.ring.sessions n { s with last := d.now } } }

/-- R50: the port of a path at the dictionary server. -/
def pathPort : Path → Nat
  | .ring _ => 0
  | .mailbox .normal => 1
  | .mailbox .tantalum => 2

/-- A transaction of a path reaches the dictionary server: the server's arbiter grants it, and its session is not idle. -/
def Dev.takeTurn (d : Dev) (p : Path) : Dev := (d.touchSession p).grantPort arbDictionary 3 (pathPort p)

/-- The response recorded for a path. -/
def Dev.respond (d : Dev) (p : Path) (st : Status) (data : List Byte) : Dev :=
  { d with resp := tabPut d.resp (pathNum p) ⟨st, data⟩ }

/-- A status with the device. -/
abbrev Reply := Status × Dev

/-- A transaction that ends with WORLD by a rule of its own chapter. -/
def Dev.denyWorld (d : Dev) (p : Path) (idx sub : Nat) : Reply := (.world, d.raiseWorld p idx sub)

/-- A write of value `value` to a sub-entry, as far as the sub-entry's own effect `k`: the conditions
from NO_OBJECT to WRITE_ONCE, then the permitted set, then `k`. The length and the type fit. -/
def Dev.guardWrite (d : Dev) (p : Path) (idx sub value : Nat) (k : Obj → Reply) : Reply :=
  match d.objectAt p idx with
  | none => (.noObject, d)
  | some o =>
    match d.subDesc o sub with
    | none => (.noSub, d)
    | some r =>
      match d.accessStatus p idx o r true value with
      | .ok => if rngTakes r.rng value then k o else (.range, d)
      | .world => (.world, d.raiseWorld p idx sub)
      | st => (st, d)

/-- The path is a ring node that exists. -/
def pathOk : Path → Bool
  | .ring n => n < 16
  | .mailbox _ => true

/-- R71: a ring node reaches the package only while the package drives MR_ACTIVE. -/
def Dev.pathLive (d : Dev) (p : Path) : Bool :=
  match p with
  | .ring _ => d.ring.driven
  | .mailbox _ => true

/-- A transaction arrives on a path. A package that does not drive MR_ACTIVE takes in no frame (R71), so that nothing happens there. -/
def onPath (p : Path) (f : Dev → Dev) (s : State) : Out :=
  occursAt 71 (pathOk p) (fun _ => true) (fun d => if d.pathLive p then f (d.takeTurn p) else d) s

/-- A transaction of a path: its handler answers a status, which the path receives. -/
def transact (p : Path) (h : Dev → Reply) (s : State) : Out :=
  onPath p (fun d =>
    let r := h d
    r.2.respond p r.1 []) s

/-! ## Transactions that do not end at once (R49, R383) -/

/-- A transaction waits: its path has no response yet. -/
def Dev.holdTx (d : Dev) (t : WaitTx) : Dev :=
  { d with waiting := d.waiting ++ [t], resp := tabErase d.resp (pathNum t.path) }

/-! ## Objects whose unit does not answer (R49) -/

/-- The unit to which an object belongs, of those that may leave service. -/
def objUnit : Obj → Option UnitRef
  | .clock n => some (.die n)
  | .dieIdentity n => some (.die n)
  | .coreMode n => some (.die n)
  | .dieFilter n => some (.die n)
  | .coreObject k => some (.core k)
  | .translationCounters k => some (.core k)
  | .hartSnapshot k => some (.core k)
  | .sterlingEngine e => some (.cluster (e / 16))
  | .electrumEngine _ => some (.cluster 4)
  | .deflateEngine _ => some (.cluster 5)
  | _ => none

/-- A unit is FENCED, BYPASSED or OFF. -/
def Dev.unitSilent (d : Dev) (u : UnitRef) : Bool :=
  let st := d.unit u
  st = stFenced || st = stBypassed || st = stOff

/-- The object lives in a unit that does not answer. Which objects live in their unit the manual does not say (log 42). -/
def Dev.objSilent (d : Dev) (idx : Nat) (o : Obj) : Bool :=
  match objUnit o with
  | none => false
  | some u =>
    (d.unitSilent u || (match u with
        | .core k => d.unitSilent (.die (k / 20))
        | _ => false)) && Config.objectInUnit idx

/-- A transaction that waits for a unit (R49). -/
def Dev.unitHold (d : Dev) (p : Path) (tag idx sub : Nat) (b : Option (List Byte)) : Dev :=
  d.holdTx { path := p, tag := tag, idx := idx, sub := sub, write := b, firmware := false,
             deadline := d.inUs (d.get rToRegister) }

/-- The object at an index does not answer. -/
def Dev.silentAt (d : Dev) (p : Path) (idx : Nat) : Bool :=
  match d.objectAt p idx with
  | some o => d.objSilent idx o
  | none => false

/-- A write of one sub-entry as a command of its own row: one that nothing else turns away waits for a unit that does not answer. -/
def writeCommand (p : Path) (idx sub value : Nat) (k : Dev → Obj → Reply) (s : State) : Out :=
  onPath p (fun d =>
    let r := d.guardWrite p idx sub value (k d)
    if r.1 = .ok && d.silentAt p idx then d.unitHold p 256 idx sub (some (leBytes 8 value)) else r.2.respond p r.1 []) s

/-- R383: a transaction whose action the management firmware executes waits while the firmware does not run. -/
def Dev.firmwareHold (d : Dev) (p : Path) (tag idx sub : Nat) (b : List Byte) : Dev :=
  d.holdTx { path := p, tag := tag, idx := idx, sub := sub, write := some b, firmware := true, deadline := 0 }

/-- A write of a one-byte sub-entry whose action the firmware executes, as a command of its own row. -/
def firmwareCommand (p : Path) (idx sub value : Nat) (k : Dev → Obj → Reply) (s : State) : Out :=
  onPath p (fun d =>
    if d.boot.mgmtDown then d.firmwareHold p 256 idx sub (leBytes 1 value)
    else
      let r := d.guardWrite p idx sub value (k d)
      r.2.respond p r.1 []) s

end Sys2Proof.Machine
end

