-- ==== Sys2Proof/Machine/Counting.lean ====
section
/-!
DEFINITION. Counting events in the counter groups (R419 to R421, R424) and bytes at the measured ports
(R425), and messages in flight on the fabric.
-/
namespace Sys2Proof.Machine

/-! ## Counter groups -/

/-- R358: the non-invasive debug enable of a world. -/
def Dev.nonInvasive (d : Dev) : World → Bool
  | .normal => d.flag rDbgNormNonInvasive
  | .tantalum => d.flag rDbgTanNonInvasive

/-- R421: an event of world `w` (none: of no request) at group `g` is counted. -/
def Dev.countsWorld (d : Dev) (g : Nat) (w : Option World) : Bool :=
  match groupBlock g with
  | some b => d.nonInvasive (d.blockWorld b)
  | none =>
    match w with
    | some w => d.nonInvasive w
    | none => d.nonInvasive .normal && d.nonInvasive .tantalum

/-- One counter of a group goes up by `n`; a wrap sets its overflow bit (R419). -/
def Dev.bumpCounter (d : Dev) (g j n : Nat) : Dev :=
  let v := d.get (rCgCount g j) + n
  let d := d.set (rCgCount g j) (v % 2 ^ 48)
  if v < 2 ^ 48 then d else d.set (rCgOverflow g) (bitSet (d.get (rCgOverflow g)) j)

/-- The counters of group `g` that select event `code` go up by `n`, unless the group is frozen (R423)
or the event's world is not counted. -/
def Dev.countEvent (d : Dev) (g code n : Nat) (w : Option World) : Dev :=
  if d.flag rPcFrozen || !d.countsWorld g w then d
  else ((List.range 8).filter (fun j => d.get (rCgEvent g j) = code)).foldl
    (fun d j => d.bumpCounter g j n) d

/-- R425: bytes counted at a measured port. -/
def Dev.countBytes (d : Dev) (g inn out : Nat) (w : Option World) : Dev :=
  if d.countsWorld g w then
    { d with cnt := { d.cnt with
        bytesIn := tabPut d.cnt.bytesIn g ((tabGet d.cnt.bytesIn g 0 + inn) % 2 ^ 48),
        bytesOut := tabPut d.cnt.bytesOut g ((tabGet d.cnt.bytesOut g 0 + out) % 2 ^ 48) } }
  else d

/-- R419, R425: a reset whose scope includes the block of a group sets its counters and event selectors, and its byte counters, to 0. -/
def Dev.clearGroup (d : Dev) (g : Nat) : Dev :=
  { d with regs := tabDrop d.regs (fun k => keyIndex k = 0x9811 && keyElem k = g),
           cnt := { d.cnt with bytesIn := tabErase d.cnt.bytesIn g, bytesOut := tabErase d.cnt.bytesOut g } }

/-- The counter group of an engine. -/
def engGroup (e : Nat) : Nat := if e < 64 then 64 + e else if e < 80 then 128 + (e - 64) else 144 + (e - 80)

/-! ## Messages in flight -/

/-- A message sent: the command that will deliver it is in flight. -/
def Dev.post (d : Dev) (m : Instr) : Dev :=
  { d with fab := { d.fab with net := d.fab.net ++ [m] } }

/-- The list without its first element that `f` names. -/
def dropFirst {α : Type} (f : α → Bool) : List α → List α
  | [] => []
  | m :: r => if f m then r else m :: dropFirst f r

/-- The first message that `f` names leaves the network. -/
def Dev.takeMsg (d : Dev) (f : Instr → Bool) : Dev :=
  { d with fab := { d.fab with net := dropFirst f d.fab.net } }

/-- The messages that `f` names leave the network. -/
def Dev.unpostAll (d : Dev) (f : Instr → Bool) : Dev :=
  { d with fab := { d.fab with net := d.fab.net.filter (fun m => !f m) } }

/-! ## Interrupt sources (R214) -/

/-- R360: the world of a wired source. -/
def Dev.irqWorldOf (d : Dev) (n : Nat) : World := if bitAt (d.get (rIrqWorld (n / 64))) (n % 64) then .tantalum else .normal

/-- The supervisor domain of the APLIC sends a pending, enabled source of the normal world as an MSI: hart, guest file and identity
are the fields of its target register. -/
def Dev.aplicForward (d : Dev) (n : Nat) : Dev :=
  if tabGet d.aplic.pending n 0 != 0 && tabGet d.aplic.enabled n 0 != 0 && d.irqWorldOf n = .normal && d.aplic.smode then
    let t := tabGet d.aplic.target n 0
    ({ d with aplic := { d.aplic with pending := tabErase d.aplic.pending n } }).post
      (.msiReceive (t / 2 ^ 18) (field t 12 6) (t % 2 ^ 11))
  else d

/-- A wired source of the APLIC becomes pending. -/
def Dev.pendWired (d : Dev) (n : Nat) : Dev :=
  ({ d with aplic := { d.aplic with pending := tabPut d.aplic.pending n 1 } }).aplicForward n

/-! ## CCLK steps due (R31, R443) -/

/-- The slowest cap in force on a compute die, as a step code; 0 where none is (R444). A thermal cap stands at
16 times the sensor's die plus the capped die. -/
def Dev.capOf (d : Dev) (n : Nat) : Nat :=
  let t := (d.power.thermalCap.filter (fun e => e.1 % 16 = n)).foldl (fun m e => max m e.2) (tabGet d.power.powerCap n 0)
  if d.power.throttled then 3 else t

/-- R443: the step at which a compute die is to run. -/
def Dev.stepDue (d : Dev) (n : Nat) : Nat := max (d.get (rCclkStep n)) (d.capOf n)

/-- The PLL of a die locks; its root cycles are counted from here (R31). -/
def Dev.lockPll (d : Dev) (n : Nat) : Dev :=
  { d.set (rPllState n) 1 with clock := { d.clock with locks := tabPut d.clock.locks n d.clock.root } }

/-- A step change begins on a die whose PLL is locked, where the step due is not in effect and none is in progress. -/
def Dev.startStep (d : Dev) (n : Nat) : Dev :=
  if d.get (rPllState n) != 1 || (tabFind d.power.changes n).isSome || d.stepDue n = d.get (rCclkActive n) then d
  else { d with power := { d.power with changes := tabPut d.power.changes n ⟨d.stepDue n, d.stepDue n < d.get (rCclkActive n), false, false⟩ } }

/-! ## Injection (R310, R311) -/

/-- FCLK cycles since the root started (R28: FCLK is the root divided by 5). -/
def Dev.fclk (d : Dev) : Nat := d.clock.root / 5

/-- R208: the QoS class of a hart's requests, from its `hpartition` (CSR 0x6C0): VCLASS while V = 1, else HCLASS. -/
def Dev.hartClass (d : Dev) (k : Nat) : Nat :=
  field (tabGet (d.hart k).csrs 0x6C0 0).toNat (if (d.hart k).v then 0 else 8) 6

/-- The injection point of a core (R298): attach index 0 to 7 of compute die 0 to 11. -/
def corePoint (k : Nat) : Nat := 8 * (k / 20) + k % 20 % 8

/-- A request joins its initiator's queue at an injection point; its timer starts when it is injected. -/
def Dev.inject (d : Dev) (point init cls flits : Nat) (m : Instr) (timer : Option (ReqOwner × Nat)) : Dev :=
  let r : InjReq := { initiator := init, cls := cls, flits := flits, since := d.fclk, msg := m, timer := timer }
  let q := tabGet d.fab.injQ point [] ++ [r]
  { d with fab := { d.fab with injQ := tabPut d.fab.injQ point q } }

/-- The injection point of the IOD agent, apart from those of the compute dies; the requests of engine instances, which the IOMMU there
translates, take it too. DESIGN CHOICE (log 72). -/
def iodPoint : Nat := 128

/-- The injection point of a home slice, for its prefetch reads. -/
def slicePoint (s : Nat) : Nat := 160 + s

/-- Tokens of a class at a point, in 1/1,024 flits, at this FCLK; full before the first count (log 9). -/
def Dev.tokensNow (d : Dev) (point cls : Nat) : Nat :=
  let cap := d.get (rQosBurst cls) * 1024
  match tabFind d.fab.tokens (point * 64 + cls) with
  | none => cap
  | some t => if d.fclk < t.2 then 0 else min cap (t.1 + (d.fclk - t.2) * d.get (rQosRate cls))

/-- A write of `qosRate` or `qosBurst` takes effect (R311): every bucket of the class holds what it has gathered until now, cut to the new
capacity. -/
def Dev.qosWrite (d : Dev) (c : Nat) (r : Reg) (v : Nat) : Dev :=
  let full := (List.range 192).foldl (fun t point =>
    let k := point * 64 + c
    match tabFind t k with
    | some x => if d.fclk < x.2 then t else tabPut t k (d.tokensNow point c, d.fclk)
    | none => tabPut t k (d.tokensNow point c, d.fclk)) d.fab.tokens
  let d := d.set r v
  let cap := d.get (rQosBurst c) * 1024
  let cut := full.map (fun (e : Nat × Nat × Nat) => if e.1 % 64 = c then (e.1, min cap e.2.1, e.2.2) else e)
  { d with fab := { d.fab with tokens := cut } }

/-- A request of an agent whose accesses take one instant (log 23) passes the regulator: it takes its tokens, and where they are short the
bucket is empty until the wait that they would take is over; the wait is counted. -/
def Dev.injectNow (d : Dev) (point cls flits : Nat) : Dev :=
  let rate := d.get (rQosRate cls)
  if rate = 1024 then d
  else
    let start := match tabFind d.fab.tokens (point * 64 + cls) with
      | some t => max d.fclk t.2
      | none => d.fclk
    let have_ := if start = d.fclk then d.tokensNow point cls else 0
    let wait := (flits * 1024 - have_ + rate - 1) / rate
    let d := d.add (rQosThrottled cls) (start - d.fclk + wait)
    { d with fab := { d.fab with tokens := tabPut d.fab.tokens (point * 64 + cls) (have_ + wait * rate - flits * 1024, start + wait) } }

/-! ## Timers of non-posted requests (R312) -/

/-- A request is injected and its timer starts, `us` microseconds long. -/
def Dev.startTimer (d : Dev) (o : ReqOwner) (us : Nat) : Dev :=
  { d with fab := { d.fab with reqs := tabPut d.fab.reqs d.fab.nextReq ⟨o, d.inUs us⟩,
                               nextReq := d.fab.nextReq + 1 } }

/-- The request of an owner is outstanding. -/
def Dev.timerRuns (d : Dev) (o : ReqOwner) : Bool := d.fab.reqs.any (fun e => e.2.owner = o)

/-- The answer of an owner's request has come. -/
def Dev.stopTimer (d : Dev) (o : ReqOwner) : Dev :=
  { d with fab := { d.fab with reqs := d.fab.reqs.filter (fun e => e.2.owner != o) } }

/-- R312: the timer of a request to a home, to a controller or across Harfort. -/
def Dev.coherentUs (d : Dev) : Nat := d.get rToCoherent

/-- R312: the timer of a request to an MMIO or memory address. -/
def Dev.timeoutOf (d : Dev) (a : Nat) : Nat :=
  match d.region a with
  | .mmio off => if off < 0x0001_0000_0000 then d.get rToRegister else d.get rToIo
  | .remoteMmio _ => d.get rToIo
  | .cxl _ => d.get rToIo
  | _ => d.get rToCoherent

/-- R314: a response for a request whose timer has expired is discarded and counted. -/
def Dev.lateResponse (d : Dev) : Dev := d.add rFabLateResponses 1

end Sys2Proof.Machine
end

