-- ==== Sys2Proof/Machine/Crc.lean ====
section
/-!
DEFINITION. The check sums that the manual names by their standards (log 12): CRC-32C of ring frames and
capability records, CRC-32 and Adler-32 of compressed data.
-/
namespace Sys2Proof.Machine

/-- One bit of a reflected CRC. -/
def crcBit (poly c : Nat) : Nat := if c % 2 = 1 then (c / 2) ^^^ poly else c / 2

/-- `n` bits of a reflected CRC. -/
def crcBits (poly : Nat) : Nat → Nat → Nat
  | 0, c => c
  | n + 1, c => crcBits poly n (crcBit poly c)

/-- A reflected 32-bit CRC continued over bytes. -/
def crcRun (poly : Nat) (c : Nat) (l : List Byte) : Nat :=
  l.foldl (fun c b => crcBits poly 8 (c ^^^ b.toNat)) c

/-- A reflected 32-bit CRC with initial value and final XOR of all ones. -/
def crcReflected (poly : Nat) (l : List Byte) : Nat := crcRun poly 0xFFFF_FFFF l ^^^ 0xFFFF_FFFF

/-- CRC-32C (Castagnoli). PRESUMED from its standard (log 12). -/
def crc32c (l : List Byte) : Nat := crcReflected 0x82F6_3B78 l

/-- CRC-32 of RFC 1952. PRESUMED (log 12). -/
def crc32 (l : List Byte) : Nat := crcReflected 0xEDB8_8320 l

/-- Adler-32 of RFC 1950 continued from a value. PRESUMED (log 12). -/
def adlerRun (v : Nat) (l : List Byte) : Nat :=
  let r := l.foldl (fun (p : Nat × Nat) b =>
    let a := (p.1 + b.toNat) % 65521
    (a, (p.2 + a) % 65521)) (v % 65536, v / 65536)
  r.2 * 65536 + r.1

/-- Adler-32 of bytes. -/
def adler32 (l : List Byte) : Nat := adlerRun 1 l

end Sys2Proof.Machine
end

