-- ==== Sys2Proof/Machine/Frames.lean ====
section
/-!
DEFINITION. Frames of the management ring (Table 02-6) and what the package sends of its own: NOTIFY frames (R57, R66) and requests
(R62).
-/
namespace Sys2Proof.Machine

/-! The command codes of Table 02-7. -/

def cmdRead : Nat := 1
def cmdWrite : Nat := 2
def cmdReadBlock : Nat := 3
def cmdWriteBlock : Nat := 4
def cmdNotify : Nat := 5
def cmdSync : Nat := 6

/-- Data bytes 0 to 10 + L of a frame. -/
def frameHead (f : Frame) : List Byte :=
  leBytes 1 (f.dest % 16 * 16 + f.src % 16) ++ leBytes 1 f.seq
    ++ leBytes 1 (boolNat f.rsp * 128 + boolNat f.last * 64 + f.cmd % 8) ++ leBytes 1 f.status ++ leBytes 2 f.idx
    ++ leBytes 1 f.sub ++ leBytes 2 f.offset ++ leBytes 2 f.len ++ f.payload

/-- The data bytes of a frame as they stand on the wire (R56). -/
def frameBytes (f : Frame) : List Byte := frameHead f ++ leBytes 4 (crc32c (frameHead f))

/-- A frame of the node's own leaves MR_OUT, good; a package that is off the ring sends none (R59, R70). -/
def Dev.sendFrame (d : Dev) (f : Frame) : Dev :=
  if d.ring.driven then { d.grantPort arbRingOut 2 1 with ring := { d.ring with outbox := d.ring.outbox ++ [(f, .good)] } } else d

/-- A frame of the package's own, under a new sequence number. -/
def Dev.ownFrame (d : Dev) (dest cmd idx sub : Nat) (payload : List Byte) : Frame :=
  { dest := dest, src := d.get rRingNode, seq := d.ring.nextSeq, rsp := false, last := false, cmd := cmd, status := 0,
    idx := idx, sub := sub, offset := 0, len := payload.length, payload := payload }

/-- The next frame of the package has a new sequence number. -/
def Dev.nextFrame (d : Dev) : Dev := { d with ring := { d.ring with nextSeq := (d.ring.nextSeq + 1) % 256 } }

/-- R66, R398: a NOTIFY frame for `notifyNode`; none where that is this node. -/
def Dev.notify (d : Dev) (idx sub : Nat) (value : List Byte) : Dev :=
  let n := d.get rNotifyNode
  if n = d.get rRingNode || !d.ring.driven then d
  else (d.sendFrame (d.ownFrame n cmdNotify idx sub value)).nextFrame

/-- R62: the package sends a request and waits for its response. -/
def Dev.request (d : Dev) (dest cmd idx sub : Nat) (payload : List Byte) : Dev :=
  if !d.ring.driven then d
  else
    let f := d.ownFrame dest cmd idx sub payload
    let w : RingWait := { frame := f, resends := 0, deadline := d.inUs (d.get rRingTimeout) }
    let d := (d.sendFrame f).nextFrame
    { d with ring := { d.ring with waits := d.ring.waits ++ [w] } }

end Sys2Proof.Machine
end

