-- ==== Sys2Proof/Machine/Crypto.lean ====
section
/-!
DEFINITION. The algorithms that the engines and the management complex run by name: FIPS 202, AES and its modes, ECDSA and
Falcon verification (chapters 02, 04, 05 and 19). The manual names their standards; the algorithms are PRESUMED from
those standards (log 12).
-/
namespace Sys2Proof.Machine

/-! ## Keccak (FIPS 202) -/

/-- Lane `x + 5 y` of a state. -/
def lane (a : List Word) (i : Nat) : Word := a.getD i 0

/-- The register that generates the round constants, one step on: times x modulo x⁸ + x⁶ + x⁵ + x⁴ + 1. -/
def keccakShift (r : Nat) : Nat := if r < 128 then 2 * r else (2 * r) ^^^ 0x171

/-- `n` states of that register from `r` on. -/
def keccakStream : Nat → Nat → List Nat
  | 0, _ => []
  | n + 1, r => r :: keccakStream n (keccakShift r)

/-- The round constant that seven states give: state `j` stands for bit 2^j - 1. -/
def keccakConst : Nat → List Nat → Nat
  | _, [] => 0
  | j, r :: l => (if r % 2 = 1 then 2 ^ (2 ^ j - 1) else 0) + keccakConst (j + 1) l

/-- `n` round constants from a stream of register states. -/
def keccakConsts : Nat → List Nat → List Word
  | 0, _ => []
  | n + 1, l => BitVec.ofNat 64 (keccakConst 0 (l.take 7)) :: keccakConsts n (l.drop 7)

/-- Two lists of lanes XORed. -/
def xorLanes (a b : List Word) : List Word := List.zipWith (fun v w => v ^^^ w) a b

/-- The five planes of a state. -/
def keccakPlanes (a : List Word) : List (List Word) := (List.range 5).map (fun y => (a.drop (5 * y)).take 5)

/-- Step θ: to every plane the parities of the two columns beside each lane. -/
def keccakTheta (a : List Word) : List Word :=
  let p := (keccakPlanes a).foldl xorLanes (List.replicate 5 0)
  let q := xorLanes (p.drop 4 ++ p.take 4) ((p.drop 1 ++ p.take 1).map (fun w => w.rotateLeft 1))
  (keccakPlanes a).flatMap (fun r => xorLanes r q)

/-- Where step π takes a lane: from (x, y) to (y, 2x + 3y). -/
def keccakGoes (i : Nat) : Nat := i / 5 + 5 * ((2 * (i % 5) + 3 * (i / 5)) % 5)

/-- Steps ρ and π together, along the cycle of π from lane `i` on: the lane met at turn `t` is rotated by (t + 1)(t + 2) / 2. -/
def keccakMove (a : List Word) : Nat → Nat → Nat → List Word → List Word
  | 0, _, _, b => b
  | n + 1, t, i, b =>
    keccakMove a n (t + 1) (keccakGoes i) (b.set (keccakGoes i) ((lane a i).rotateLeft ((t + 1) * (t + 2) / 2 % 64)))

/-- Step χ on one plane. -/
def keccakChi (r : List Word) : List Word :=
  xorLanes r (List.zipWith (fun v w => ~~~v &&& w) (r.drop 1 ++ r.take 1) (r.drop 2 ++ r.take 2))

/-- One round of Keccak-f[1600]; step ι adds the round constant to lane 0. -/
def keccakRound (a : List Word) (rc : Word) : List Word :=
  let a := keccakTheta a
  match (keccakPlanes (keccakMove a 24 0 1 a)).flatMap keccakChi with
  | [] => []
  | w :: l => (w ^^^ rc) :: l

/-- Keccak-f[1600]. -/
def keccakF (a : List Word) : List Word := (keccakConsts 24 (keccakStream 168 1)).foldl keccakRound a

/-- A block of at most 200 bytes XORed into a state. -/
def keccakXor (a : List Word) (b : List Byte) : List Word :=
  (List.range 25).map (fun i => lane a i ^^^ BitVec.ofNat 64 (fieldLe b (8 * i) 8))

/-- Blocks of `r` bytes absorbed. -/
def keccakAbsorb (r : Nat) : Nat → List Word → List Byte → List Word
  | 0, a, _ => a
  | n + 1, a, m => keccakAbsorb r n (keccakF (keccakXor a (m.take r))) (m.drop r)

/-- The bytes of a state. -/
def keccakBytes (a : List Word) : List Byte := a.flatMap (fun w => leBytes 8 w.toNat)

/-- `n` blocks of `r` bytes squeezed. -/
def keccakSqueeze (r : Nat) : Nat → List Word → List Byte
  | 0, _ => []
  | n + 1, a => (keccakBytes a).take r ++ keccakSqueeze r n (keccakF a)

/-- The padding of a message of `n` bytes at rate `r` with a domain byte. -/
def keccakPad (r dom n : Nat) : List Byte :=
  let z := r - n % r
  if z = 1 then [BitVec.ofNat 8 (dom + 0x80)]
  else BitVec.ofNat 8 dom :: zeros (z - 2) ++ [0x80]

/-- The sponge with rate `r` bytes: `n` bytes of output. -/
def sponge (r dom : Nat) (m : List Byte) (n : Nat) : List Byte :=
  let p := m ++ keccakPad r dom m.length
  (keccakSqueeze r (n / r + 1) (keccakAbsorb r (p.length / r) (List.replicate 25 0) p)).take n

/-- SHAKE128: `n` bytes. -/
def shake128 (m : List Byte) (n : Nat) : List Byte := sponge 168 0x1F m n
/-- SHAKE256: `n` bytes. -/
def shake256 (m : List Byte) (n : Nat) : List Byte := sponge 136 0x1F m n
/-- SHA3-256. -/
def sha3_256 (m : List Byte) : List Byte := sponge 136 0x06 m 32
/-- SHA3-384. -/
def sha3_384 (m : List Byte) : List Byte := sponge 104 0x06 m 48

/-! ## AES (FIPS 197) -/

/-- Multiplication by x in GF(2^8). -/
def gfDouble (a : Nat) : Nat := if a < 128 then 2 * a else (2 * a) ^^^ 0x11B

/-- Multiplication in GF(2^8), over the lowest `n` bits of `b`. -/
def gfMulN : Nat → Nat → Nat → Nat
  | 0, _, _ => 0
  | n + 1, a, b => (if b % 2 = 1 then a else 0) ^^^ gfMulN n (gfDouble a) (b / 2)

/-- Multiplication in GF(2^8). -/
def gfMul (a b : Nat) : Nat := gfMulN 8 a b

/-- The inverse in GF(2^8); 0 for 0. -/
def gfInv (a : Nat) : Nat :=
  let p2 := gfMul a a
  let p4 := gfMul p2 p2
  let p8 := gfMul p4 p4
  let p16 := gfMul p8 p8
  let p32 := gfMul p16 p16
  let p64 := gfMul p32 p32
  let p128 := gfMul p64 p64
  gfMul p2 (gfMul p4 (gfMul p8 (gfMul p16 (gfMul p32 (gfMul p64 p128)))))

/-- Rotation of a byte to the left. -/
def rotByte (a n : Nat) : Nat := (a * 2 ^ n + a / 2 ^ (8 - n)) % 256

/-- The S-box. -/
def aesS (a : Nat) : Nat :=
  let b := gfInv a
  b ^^^ rotByte b 1 ^^^ rotByte b 2 ^^^ rotByte b 3 ^^^ rotByte b 4 ^^^ 0x63

/-- The inverse S-box. -/
def aesSInv (a : Nat) : Nat := gfInv (rotByte a 1 ^^^ rotByte a 3 ^^^ rotByte a 6 ^^^ 0x05)

/-- Four bytes XORed. -/
def xorList (a b : List Nat) : List Nat := List.zipWith (fun x y => x ^^^ y) a b

/-- Round constant `i` (from 1) of the key schedule. -/
def aesRcon : Nat → Nat
  | 0 => 0x8D
  | n + 1 => gfDouble (aesRcon n)

/-- The key schedule: words after the first `nk`, most recent first. -/
def aesExpand (nk : Nat) : Nat → Nat → List (List Nat) → List (List Nat)
  | 0, _, w => w
  | n + 1, i, w =>
    let t := w.headD []
    let t := if i % nk = 0 then
        let r := (t.drop 1 ++ t.take 1).map aesS
        xorList r [aesRcon (i / nk), 0, 0, 0]
      else if nk > 6 && i % nk = 4 then t.map aesS else t
    aesExpand nk n (i + 1) (xorList (w.getD (nk - 1) []) t :: w)

/-- The words of a key, in order. -/
def aesWords : List Nat → List (List Nat)
  | a :: b :: c :: e :: r => [a, b, c, e] :: aesWords r
  | _ => []

/-- The round keys of a key, in order, 16 bytes each. -/
def aesRoundKeys (key : List Nat) : List (List Nat) :=
  let nk := key.length / 4
  let nr := nk + 6
  let w := (aesExpand nk (4 * (nr + 1) - nk) nk (aesWords key).reverse).reverse
  (List.range (nr + 1)).map (fun i => ((w.drop (4 * i)).take 4).flatten)

/-- Row shift: byte `r + 4 c` comes from column `c + r`. -/
def aesShift (s : List Nat) : List Nat :=
  (List.range 16).map (fun i => s.getD (i % 4 + 4 * ((i / 4 + i % 4) % 4)) 0)

/-- Inverse row shift. -/
def aesShiftInv (s : List Nat) : List Nat :=
  (List.range 16).map (fun i => s.getD (i % 4 + 4 * ((i / 4 + 4 - i % 4) % 4)) 0)

/-- Column mixing with the given first row. -/
def aesMix (m : List Nat) (s : List Nat) : List Nat :=
  (List.range 16).map (fun i =>
    (List.range 4).foldl (fun acc k =>
      acc ^^^ gfMul (s.getD (4 * (i / 4) + k) 0) (m.getD ((k + 4 - i % 4) % 4) 0)) 0)

/-- One block enciphered. -/
def aesEncN (key blk : List Nat) : List Nat :=
  let rk := aesRoundKeys key
  let nr := rk.length - 1
  let s := xorList blk (rk.getD 0 [])
  (List.range nr).foldl (fun s i =>
    let s := aesShift (s.map aesS)
    let s := if i + 1 = nr then s else aesMix [2, 3, 1, 1] s
    xorList s (rk.getD (i + 1) [])) s

/-- One block deciphered. -/
def aesDecN (key blk : List Nat) : List Nat :=
  let rk := aesRoundKeys key
  let nr := rk.length - 1
  let s := xorList blk (rk.getD nr [])
  (List.range nr).foldl (fun s i =>
    let s := xorList ((aesShiftInv s).map aesSInv) (rk.getD (nr - 1 - i) [])
    if i + 1 = nr then s else aesMix [14, 11, 13, 9] s) s

/-- Bytes as numbers. -/
def byteNats (l : List Byte) : List Nat := l.map (fun b => b.toNat)

/-- Numbers as bytes. -/
def natBytes (l : List Nat) : List Byte := l.map (fun n => BitVec.ofNat 8 n)

/-- AES encipherment of a 16-byte block. -/
def aesEnc (key blk : List Byte) : List Byte := natBytes (aesEncN (byteNats key) (byteNats blk))

/-- AES decipherment of a 16-byte block. -/
def aesDec (key blk : List Byte) : List Byte := natBytes (aesDecN (byteNats key) (byteNats blk))

/-- Bytes XORed. -/
def xorBytes (a b : List Byte) : List Byte := List.zipWith (fun x y => x ^^^ y) a b

/-! ## CMAC (SP 800-38B) -/

/-- A subkey doubled in GF(2^128). -/
def cmacDouble (k : List Byte) : List Byte :=
  let v := beNat k
  beBytes 16 ((2 * v) % 2 ^ 128 ^^^ (if 2 ^ 127 ≤ v then 0x87 else 0))

/-- Full blocks of a CMAC chained, `n` of them. -/
def cmacChain (key : List Byte) : Nat → List Byte → List Byte → List Byte
  | 0, c, _ => c
  | n + 1, c, m => cmacChain key n (aesEnc key (xorBytes c (m.take 16))) (m.drop 16)

/-- AES-CMAC, 16 bytes. -/
def aesCmac (key m : List Byte) : List Byte :=
  let k1 := cmacDouble (aesEnc key (zeros 16))
  let k2 := cmacDouble k1
  let n := if m.length = 0 then 1 else (m.length + 15) / 16
  let last := m.drop (16 * (n - 1))
  let tail := if last.length = 16 then xorBytes last k1 else xorBytes (padTo 16 (last ++ [0x80])) k2
  aesEnc key (xorBytes (cmacChain key (n - 1) (zeros 16) m) tail)

/-! ## Key wrap (SP 800-38F KW) -/

/-- Eight-byte blocks of a string. -/
def kwBlocks (m : List Byte) : List (List Byte) :=
  (List.range (m.length / 8)).map (fun i => (m.drop (8 * i)).take 8)

/-- The initial value of KW. -/
def kwIv : List Byte := List.replicate 8 0xA6

/-- KW of a string of at least two 8-byte blocks. -/
def kwWrap (kek m : List Byte) : List Byte :=
  let n := m.length / 8
  let r := (List.range (6 * n)).foldl (fun (st : List Byte × List (List Byte)) t =>
    let b := aesEnc kek (st.1 ++ st.2.getD (t % n) [])
    (xorBytes (b.take 8) (beBytes 8 (t + 1)), st.2.set (t % n) (b.drop 8))) (kwIv, kwBlocks m)
  r.1 ++ r.2.flatten

/-- The string that KW wrapped; none where the integrity check fails. -/
def kwUnwrap (kek c : List Byte) : Option (List Byte) :=
  let n := c.length / 8 - 1
  if n < 2 || c.length % 8 != 0 then none
  else
    let r := (List.range (6 * n)).foldl (fun (st : List Byte × List (List Byte)) u =>
      let t := 6 * n - 1 - u
      let b := aesDec kek (xorBytes st.1 (beBytes 8 (t + 1)) ++ st.2.getD (t % n) [])
      (b.take 8, st.2.set (t % n) (b.drop 8))) (c.take 8, kwBlocks (c.drop 8))
    if r.1 = kwIv then some r.2.flatten else none

/-! ## ECDSA verification (FIPS 186-5) -/

/-- A curve y² = x³ − 3x + b. -/
structure Curve where
  p  : Nat
  b  : Nat
  gx : Nat
  gy : Nat
  n  : Nat
  size : Nat
deriving DecidableEq, Repr

/-- P-256. -/
def p256 : Curve :=
  { p := 0xffffffff00000001000000000000000000000000ffffffffffffffffffffffff,
    b := 0x5ac635d8aa3a93e7b3ebbd55769886bc651d06b0cc53b0f63bce3c3e27d2604b,
    gx := 0x6b17d1f2e12c4247f8bce6e563a440f277037d812deb33a0f4a13945d898c296,
    gy := 0x4fe342e2fe1a7f9b8ee7eb4a7c0f9e162bce33576b315ececbb6406837bf51f5,
    n := 0xffffffff00000000ffffffffffffffffbce6faada7179e84f3b9cac2fc632551, size := 32 }

/-- P-384. -/
def p384 : Curve :=
  { p := 0xfffffffffffffffffffffffffffffffffffffffffffffffffffffffffffffffeffffffff0000000000000000ffffffff,
    b := 0xb3312fa7e23ee7e4988e056be3f82d19181d9c6efe8141120314088f5013875ac656398d8a2ed19d2a85c8edd3ec2aef,
    gx := 0xaa87ca22be8b05378eb1c71ef320ad746e1d3b628ba79b9859f741e082542a385502f25dbf55296c3a545e3872760ab7,
    gy := 0x3617de4a96262c6f5d9e98bf9292dc29f8f41dbd289a147ce9da3113b5f0b8c00a60b1ce1d7e819d7a431d7c90ea0e5f,
    n := 0xffffffffffffffffffffffffffffffffffffffffffffffffc7634d81f4372ddf581a0db248b0a77aecec196accc52973,
    size := 48 }

/-- `a` to the power of an exponent of `k` bits, modulo `m`. -/
def powModN : Nat → Nat → Nat → Nat → Nat
  | 0, _, _, m => 1 % m
  | k + 1, a, e, m => ((if e % 2 = 1 then a else 1) * powModN k (a * a % m) (e / 2) m) % m

/-- The inverse modulo a prime. -/
def invMod (a m : Nat) : Nat := powModN 384 (a % m) (m - 2) m

/-- Subtraction modulo `m`. -/
def subMod (a b m : Nat) : Nat := (a % m + m - b % m) % m

/-- A point; none is the point at infinity. -/
abbrev Point := Option (Nat × Nat)

/-- The sum of two points. -/
def pointAdd (c : Curve) : Point → Point → Point
  | none, q => q
  | p, none => p
  | some (x1, y1), some (x2, y2) =>
    if x1 = x2 && (y1 + y2) % c.p = 0 then none
    else
      let l := if x1 = x2 then (subMod (3 * x1 * x1) 3 c.p * invMod (2 * y1) c.p) % c.p
        else (subMod y2 y1 c.p * invMod (subMod x2 x1 c.p) c.p) % c.p
      let x3 := subMod (l * l) (x1 + x2) c.p
      some (x3, subMod (l * subMod x1 x3 c.p) y1 c.p)

/-- A point times a number of `k` bits. -/
def pointMulN (c : Curve) : Nat → Point → Nat → Point
  | 0, _, _ => none
  | k + 1, p, e => pointAdd c (if e % 2 = 1 then p else none) (pointMulN c k (pointAdd c p p) (e / 2))

/-- The point is on the curve. -/
def onCurve (c : Curve) (x y : Nat) : Bool :=
  x < c.p && y < c.p && (y * y) % c.p = (x * x * x + (c.p - 3) * x + c.b) % c.p

/-- An uncompressed SEC 1 point that lies on the curve (R112). -/
def decodePoint (c : Curve) (k : List Byte) : Option (Nat × Nat) :=
  let x := beNat ((k.drop 1).take c.size)
  let y := beNat (k.drop (1 + c.size))
  if k.length = 1 + 2 * c.size && byteAt k 0 = 4 && onCurve c x y then some (x, y) else none

/-- ECDSA: 0 where the signature verifies, else the detail of Table 04-5. -/
def ecdsaCheck (c : Curve) (q : Nat × Nat) (digest sig : List Byte) : Nat :=
  let r := beNat (sig.take c.size)
  let s := beNat (sig.drop c.size)
  if r = 0 || c.n ≤ r || s = 0 || c.n ≤ s then 4
  else
    let bits := 8 * c.size
    let e := if 8 * digest.length ≤ bits then beNat digest else beNat digest / 2 ^ (8 * digest.length - bits)
    let w := invMod s c.n
    match pointAdd c (pointMulN c 384 (some (c.gx, c.gy)) (e * w % c.n)) (pointMulN c 384 (some q) (r * w % c.n)) with
    | none => 5
    | some (x, _) => if x % c.n = r then 0 else 5

/-! ## CTR_DRBG with AES-256 and derivation function (SP 800-90A) -/

/-- `n` blocks of keystream after counter `v`. -/
def ctrBlocks (key : List Byte) : Nat → Nat → List Byte
  | 0, _ => []
  | n + 1, v => aesEnc key (beBytes 16 ((v + 1) % 2 ^ 128)) ++ ctrBlocks key n ((v + 1) % 2 ^ 128)

/-- The update of a key and a counter with 48 bytes of provided data. -/
def ctrUpdate (key : List Byte) (v : Nat) (data : List Byte) : List Byte × Nat :=
  let t := xorBytes (ctrBlocks key 3 v) data
  (t.take 32, beNat (t.drop 32))

/-- The block-cipher derivation function: 48 bytes of a string. -/
def ctrDerive (m : List Byte) : List Byte :=
  let s := beBytes 4 m.length ++ beBytes 4 48 ++ m ++ [0x80]
  let s := padTo ((s.length + 15) / 16 * 16) s
  let k := natBytes (List.range 32)
  let t := (List.range 3).flatMap (fun i => cmacChain k (s.length / 16 + 1) (zeros 16) (beBytes 4 i ++ zeros 12 ++ s))
  let x := aesEnc (t.take 32) (t.drop 32)
  let y := aesEnc (t.take 32) x
  x ++ y ++ aesEnc (t.take 32) y

/-- Key and counter after entropy has gone in: an instantiation starts from key and counter 0. -/
def ctrSeed (key : List Byte) (v : Nat) (entropy : List Byte) : List Byte × Nat := ctrUpdate key v (ctrDerive entropy)

/-- A generate call without additional input: `n` bytes, then key and counter after it. -/
def ctrGenerate (key : List Byte) (v n : Nat) : List Byte × List Byte × Nat :=
  let k := (n + 15) / 16
  let u := ctrUpdate key ((v + k) % 2 ^ 128) (zeros 48)
  ((ctrBlocks key k v).take n, u.1, u.2)

/-! ## Falcon verification (Falcon 1.2) -/

/-- The modulus of Falcon. -/
def falconQ : Nat := 12289

/-- The bits of bytes, most significant first. -/
def bitsOf (l : List Byte) : List Bool := l.flatMap (fun b => (List.range 8).map (fun i => b.toNat.testBit (7 - i)))

/-- The number that bits spell, most significant first. -/
def bitsNat (l : List Bool) : Nat := l.foldl (fun a b => 2 * a + boolNat b) 0

/-- Coefficients of 14 bits. -/
def falconCoeffs : Nat → List Bool → List Nat
  | 0, _ => []
  | n + 1, b => bitsNat (b.take 14) :: falconCoeffs n (b.drop 14)

/-- A public key of degree 2^`logn` that decodes (R112). -/
def falconKey (logn : Nat) (k : List Byte) : Option (List Nat) :=
  let c := falconCoeffs (2 ^ logn) (bitsOf (k.drop 1))
  if k.length = 1 + 2 ^ logn * 14 / 8 && byteAt k 0 = logn && c.all (fun x => x < falconQ) then some c else none

/-- Zero bits before a one, at most `n`; the rest after the one. -/
def falconUnary : Nat → Nat → List Bool → Option (Nat × List Bool)
  | 0, _, _ => none
  | _, _, [] => none
  | n + 1, k, b :: r => if b then some (k, r) else falconUnary n (k + 1) r

/-- `n` coefficients of the compressed encoding; what follows must be zero bits. -/
def falconDecompress : Nat → List Bool → Option (List Int)
  | 0, b => if b.all (fun x => !x) then some [] else none
  | n + 1, b =>
    match b with
    | [] => none
    | sign :: r =>
      if r.length < 7 then none
      else
        match falconUnary 16 0 (r.drop 7) with
        | none => none
        | some (h, r') =>
          let m := 128 * h + bitsNat (r.take 7)
          if (sign && m = 0) || 2047 < m then none
          else (falconDecompress n r').map (fun t => (if sign then -(m : Int) else m) :: t)

/-- Coefficients drawn from the hash stream: 16-bit samples below 61,445. -/
def hashSamples : List Byte → List Nat
  | a :: b :: r =>
    let t := 256 * a.toNat + b.toNat
    if t < 61445 then t % falconQ :: hashSamples r else hashSamples r
  | _ => []

/-- The hashed point of degree `n`. The stream is taken long enough that too few samples cannot be met. -/
def hashToPoint (n : Nat) (salt m : List Byte) : List Nat := (hashSamples (shake256 (salt ++ m) (8 * n))).take n

/-- Coefficient `k` of the product of `a` and `b` modulo xⁿ + 1 and q. -/
def polyCoeff (n : Nat) (a : List Int) (b : List Nat) (k : Nat) : Int :=
  ((List.range n).foldl (fun (acc : Int) i =>
    let x := a.getD i 0
    if i ≤ k then acc + x * (b.getD (k - i) 0) else acc - x * (b.getD (n + k - i) 0)) 0) % (falconQ : Int)

/-- The representative of least magnitude modulo q. -/
def centred (x : Int) : Int :=
  let r := x % (falconQ : Int)
  if 6144 < r then r - 12289 else r

/-- The squared norm of a list. -/
def sqNorm (l : List Int) : Nat := l.foldl (fun a x => a + (x * x).toNat) 0

/-- The bound on the squared norm. -/
def falconBound (logn : Nat) : Nat := if logn = 9 then 34034726 else 70265242

/-- Falcon: 0 where the signature verifies, else the detail of Table 04-5; the header byte and length first (R112). -/
def falconCheck (logn : Nat) (h : List Nat) (m sig : List Byte) : Nat :=
  let n := 2 ^ logn
  if byteAt sig 0 != 0x30 + logn || sig.length < 41 || (if logn = 9 then 666 else 1280) < sig.length then 1
  else
    match falconDecompress n (bitsOf (sig.drop 41)) with
    | none => 2
    | some s2 =>
      let c := hashToPoint n ((sig.drop 1).take 40) m
      let s1 := (List.range n).map (fun k => centred ((c.getD k 0 : Nat) - polyCoeff n s2 h k))
      if sqNorm s1 + sqNorm s2 ≤ falconBound logn then 0 else 3

/-! ## Falcon keys and signatures (Falcon 1.2) -/

/-- Bits, most significant first, as `n` bytes; missing bits are 0. -/
def bitsToBytes : Nat → List Bool → List Byte
  | 0, _ => []
  | n + 1, b => BitVec.ofNat 8 (bitsNat ((b ++ List.replicate 8 false).take 8)) :: bitsToBytes n (b.drop 8)

/-- The lowest `n` bits of a number, most significant first. -/
def natBits (n v : Nat) : List Bool := (List.range n).map (fun i => v.testBit (n - 1 - i))

/-- A public key of degree 2^`logn` in the encoding of R112: the header byte, then 14 bits a coefficient. -/
def falconPublicBytes (logn : Nat) (h : List Nat) : List Byte :=
  BitVec.ofNat 8 logn :: bitsToBytes (2 ^ logn * 14 / 8) ((List.range (2 ^ logn)).flatMap (fun i => natBits 14 (h.getD i 0 % falconQ)))

/-- The private and the public key that a key generation makes of its randomness. -/
def falconKeyPair (logn : Nat) (rand : List Byte) : List Byte × List Byte :=
  (padTo (if logn = 9 then 1281 else 2305) (Config.falconPrivate logn rand), falconPublicBytes logn (Config.falconPublic logn rand))

/-- One coefficient in the compressed encoding: its sign, seven bits, and the rest in unary. -/
def falconCompress (x : Int) : List Bool :=
  (if x < 0 then true else false) :: natBits 7 (x.natAbs % 128) ++ List.replicate (x.natAbs / 128) false ++ [true]

/-- Bytes of a padded signature. -/
def falconSigLen (logn : Nat) : Nat := if logn = 9 then 666 else 1280

/-- The squared norm of (s1, s2) for a hashed point under a public key. -/
def falconNorm (logn : Nat) (h c : List Nat) (s2 : List Int) : Nat :=
  sqNorm ((List.range (2 ^ logn)).map (fun k => centred ((c.getD k 0 : Nat) - polyCoeff (2 ^ logn) s2 h k))) + sqNorm s2

/-- Attempt `k` of a signing (R118): the padded signature, where the norm is within the bound and the encoding fits. -/
def falconAttempt (logn : Nat) (priv pub : List Byte) (rand m : List Byte) (k : Nat) : Option (List Byte) :=
  let c := hashToPoint (2 ^ logn) (rand.take 40) m
  let s2 := Config.falconSample logn priv c (rand.drop 40) k
  let bits := s2.flatMap falconCompress
  match falconKey logn pub with
  | none => none
  | some h =>
    if s2.length = 2 ^ logn && s2.all (fun x => x.natAbs ≤ 2047) && bits.length ≤ 8 * (falconSigLen logn - 41)
        && falconNorm logn h c s2 ≤ falconBound logn then
      some (BitVec.ofNat 8 (0x30 + logn) :: rand.take 40 ++ bitsToBytes (falconSigLen logn - 41) bits)
    else none

/-- A signing of three attempts (R118): the first success and its number. -/
def falconSign (logn : Nat) (priv pub : List Byte) (rand m : List Byte) : Option (List Byte × Nat) :=
  [1, 2, 3].findSome? (fun k => (falconAttempt logn priv pub rand m k).map (fun s => (s, k)))

end Sys2Proof.Machine
end

