-- ==== Sys2Proof/Machine/MemControl.lean ====
section
/-!
DEFINITION. The DDR5 and HBM3E controllers (chapter 15): device placement, page policy, reads with their
decoding, writes, replay, rate switches, row sparing and the check-bit test mode.
-/
namespace Sys2Proof.Machine

/-! ## Placement (R336, R337) -/

/-- Where a line stands: controller 0 to 11 DDR5, 12 to 19 HBM3E. -/
structure Placement where
  mc   : Nat
  sub  : Nat
  col  : Nat
  bg   : Nat
  bank : Nat
  row  : Nat
  rank : Nat
deriving DecidableEq, Repr, Inhabited

/-- Device row bits of the DIMMs, which agree (R335, Table 15-2). -/
def Dev.ddrRowBits (d : Dev) : Nat :=
  match d.dimms with
  | x :: _ => x.rowBits
  | [] => 0

/-- R336: channels of the population. -/
def Dev.ddrChannels (d : Dev) : Nat := if d.get rDdrPopulation = 1 then 6 else 12

/-- R336: the line number within a channel of a DDR5 offset, and the channel. -/
def Dev.ddrLine (d : Dev) (off : Nat) : Nat × Nat :=
  let g := off / 256
  let n := d.ddrChannels
  let c := if n = 12 then g % 12 else 2 * (g % 6)
  (c, ((g / n) * 256 + off % 256) / 64)

/-- Table 15-2, DDR5. -/
def ddrPlace (rowBits c m : Nat) : Placement :=
  { mc := c, sub := field m 0 1, col := field m 1 7, bg := field m 8 3 ^^^ field m 16 3,
    bank := field m 11 2, row := field m 13 rowBits, rank := m / 2 ^ (13 + rowBits) }

/-- R337: the stack-local address of an HBM offset. -/
def Dev.hbmLocal (d : Dev) (off : Nat) : Nat :=
  if d.get rHbmInterleave = 1 then off / 2 ^ 15 * 2 ^ 12 + off % 2 ^ 12
  else off - d.hbmStack off * 0x6_0000_0000

/-- Table 15-2, HBM3E. -/
def hbmPlace (stack n : Nat) : Placement :=
  { mc := 12 + stack, sub := field n 0 5 ^^^ field n 13 5, col := field n 5 4, bg := 0,
    bank := field n 9 4, row := field n 13 14, rank := field n 27 2 }

/-- The placement of a line; none where no controller of the package holds it. -/
def Dev.place (d : Dev) (a : Nat) : Option Placement :=
  match d.region a with
  | .hbm off => some (hbmPlace (d.hbmStack off) (d.hbmLocal off / 64))
  | .ddr off => let r := d.ddrLine off; some (ddrPlace d.ddrRowBits r.1 r.2)
  | _ => none

/-- The controller of a line. -/
def Dev.controllerOf (d : Dev) (a : Nat) : Option Nat := (d.place a).map (fun p => p.mc)

/-- The bank of a placement, as a key within its controller. -/
def bankKey (p : Placement) : Nat := ((p.rank * 32 + p.sub) * 8 + p.bg) * 16 + p.bank

/-- The row of a placement, as a key within its controller. -/
def rowKey (p : Placement) : Nat := bankKey p * 2 ^ 18 + p.row

/-- Fault source of a controller (Table 17-2). -/
def mcSource (m : Nat) : Nat := if m < 12 then 604 + m else 596 + (m - 12)

/-- Counter group of a controller (Table 20-1). -/
def mcGroup (m : Nat) : Nat := 152 + m

/-- The world of the request that a home serves on a line; normal where none is open (R351). -/
def Dev.lineWorld (d : Dev) (line : Nat) : World :=
  match (d.home (d.homeSlice line)).txns.find? (fun t => t.req.line = line) with
  | some t => t.req.world
  | none => .normal

/-! ## Page policy (R338) -/

/-- An access to a bank: the row and the hint of the last access; a hint of close leaves the bank closed.
Counts activates and row hits. -/
def Dev.touchRow (d : Dev) (p : Placement) (hint : Nat) (w : World) : Dev :=
  let m := d.mc p.mc
  let hit := (tabGet m.rows (bankKey p) (p.row + 1, 0, 0)).1 == p.row
  let rows := if hint = 2 then tabErase m.rows (bankKey p)
    else tabPut m.rows (bankKey p) (p.row, hint, d.now)
  (d.setMc p.mc { m with rows := rows }).countEvent (mcGroup p.mc) (if hit then 4 else 3) 1 (some w)

/-! ## Errors (R341 to R344) -/

/-- The 16-entry table with one entry appended; the oldest goes when it is full (R344). -/
def ceAppend (t : List Byte) (e : List Byte) : List Byte :=
  if t.length < 256 then t ++ e else t.drop 16 ++ e

/-- The entries of `mcCeTable` without the zero fill. -/
def Dev.ceEntries (d : Dev) (m : Nat) : List Byte := d.dom (domMcCeTable m) []

/-- Table 15-3: an entry of the correctable-error table. -/
def ceEntry (loc : Nat) (multi reread : Bool) (line time : Nat) : List Byte :=
  leBytes 8 (loc * 2 ^ 56 + boolNat multi * 2 ^ 53 + boolNat reread * 2 ^ 52 + line) ++ leBytes 8 time

/-- First line address of the row that holds a line (R344): the line of the row with column 0 and
subchannel 0 (DDR5), found among the lines of the package that share the row. -/
def Dev.rowFirstLine (d : Dev) (line : Nat) : Nat :=
  match d.region line with
  | .ddr off =>
    let r := d.ddrLine off
    let m0 := r.2 / 256 * 256
    let a := m0 * 64
    let g := a / 256 * d.ddrChannels + (if d.ddrChannels = 12 then r.1 else r.1 / 2)
    d.slotBase + 0x100_0000_0000 + g * 256 + a % 256
  | .hbm off =>
    let st := d.hbmStack off
    let n0 := bitsClear (d.hbmLocal off / 64) 0x1E0
    let l := n0 * 64
    d.slotBase + (if d.get rHbmInterleave = 1 then l / 2 ^ 12 * 2 ^ 15 + st * 2 ^ 12 + l % 2 ^ 12
      else st * 0x6_0000_0000 + l)
  | _ => line

/-- R344: a corrected event is counted and logged; at the row threshold ROW_DEGRADED is raised. -/
def Dev.logCorrected (d : Dev) (p : Placement) (line loc : Nat) (multi reread : Bool) : Dev :=
  let t := d.ceEntries p.mc
  let d := if t.length < 256 then d else d.addSat (rMcCeOverflows p.mc) 1
  let d := d.setDom (domMcCeTable p.mc) (ceAppend t (ceEntry loc multi reread line d.now))
  let d := d.add (rMcCorrected p.mc) 1
  let d := d.countEvent (mcGroup p.mc) 6 1 (some (d.lineWorld line))
  let d := d.raiseAt kMemoryCorrected (mcSource p.mc) line 0
  let m := d.mc p.mc
  let n := tabGet m.rowErrs (rowKey p) 0 + 1
  let d := d.setMc p.mc { m with rowErrs := tabPut m.rowErrs (rowKey p) n }
  if n = d.get (rMcRowThreshold p.mc) then d.raiseAt kRowDegraded (mcSource p.mc) (d.rowFirstLine line) 0
  else d

/-- R343: an uncorrectable event at a controller. -/
def Dev.logUncorrectable (d : Dev) (p : Placement) (line : Nat) : Dev :=
  ((d.addSat (rMcUncorrectable p.mc) 1).add rMemUncorrectable 1).raiseAt
    kMemoryUncorrectable (mcSource p.mc) line 0

/-- The test mode of a controller is on for a line (R346). -/
def Dev.testLine (d : Dev) (m line : Nat) : Bool :=
  d.flag (rMcTestMode m) && lineAddr (d.get (rMcTestLine m)) = line

/-- Number of check symbols of a controller (Table 15-1). -/
def checkBytes (m : Nat) : Nat := if m < 12 then 16 else 8

/-- The check symbols of a mark codeword: the computed ones, each XORed with 0xA5 (R342). -/
def markSymbols (m : Nat) (data : Line) : List Byte := (Config.checkSymbols (checkBytes m) data).map (fun b => b ^^^ 0xA5)

/-- The verdict code that `mcTestSyndrome` latches (Table 15-9). -/
def verdictCode (mark : Bool) : Decode → Nat
  | .clean => if mark then 3 else 0
  | .corrected _ _ => 1
  | .uncorrectable => 2

/-- The next message for a line at its controller, in the order of sending (R338). -/
def Dev.nextMcMessage (d : Dev) (line : Nat) : Option Instr :=
  d.fab.net.find? (fun m => match m with
    | .mcLineRead l _ _ _ => l = line
    | .mcLineWrite l _ _ _ => l = line
    | _ => false)

/-- No message for the line sent earlier is still on its way when this one arrives. -/
def Dev.mcInOrder (d : Dev) (line : Nat) (write : Bool) : Bool :=
  match d.nextMcMessage line with
  | some (.mcLineRead _ _ _ _) => !write
  | some (.mcLineWrite _ _ _ _) => write
  | _ => true

/-- The `mcCommand` of a controller reads RUNNING. -/
def Dev.mcRunning (d : Dev) (m : Nat) : Bool := d.get (rMcCommand m) = cmdRunning

/-- A controller takes a request for a line: it holds neither all requests (R347) nor those of the line's
bank (R349). -/
def Dev.mcTakes (d : Dev) (line : Nat) : Bool :=
  match d.place line with
  | none => false
  | some p =>
    !(d.mc p.mc).held &&
      !(d.mcRunning p.mc &&
        (match d.place (d.mc p.mc).spareAddr with
         | some q => bankKey q = bankKey p
         | none => false))

/-- The answer of a controller to the line's home. -/
def Dev.answerRead (d : Dev) (line : Nat) (data : Line) (mark : Bool) : Dev :=
  d.post (.memoryReadData line data mark)

/-- A read request for a line, on its way to its controller. -/
def isMcRead (line : Nat) : Instr → Bool
  | .mcLineRead l _ _ _ => l = line
  | _ => false

/-- A write request for a line, on its way to its controller. -/
def isMcWrite (line : Nat) : Instr → Bool
  | .mcLineWrite l _ _ _ => l = line
  | _ => false

/-- A read request for a line leaves the network. -/
def Dev.takeRead (d : Dev) (line : Nat) : Dev :=
  d.takeMsg (isMcRead line)

/-- A write request for a line leaves the network. -/
def Dev.takeWrite (d : Dev) (line : Nat) : Dev :=
  d.takeMsg (isMcWrite line)

/-- The line that a message carries to a memory controller. -/
def mcMessageLine : Instr → Option Nat
  | .mcLineRead l _ _ _ => some l
  | .mcLineWrite l _ _ _ => some l
  | _ => none

/-- A command enters the 64-entry retry buffer (R339); in a full buffer the window of the oldest command
has closed when the controller issues again (log 11). -/
def Dev.bufferCommand (d : Dev) (m line : Nat) (write : Bool) : Dev :=
  let c := d.mc m
  let b := c.retryBuf ++ [(line, write)]
  d.setMc m { c with retryBuf := b.drop (b.length - 64) }

/-- R341: what a read of a line does at its controller. -/
def Dev.readLine (d : Dev) (p : Placement) (line : Nat) (first second : Decode) : Dev :=
  let data := d.memLine line
  let mark := d.memMark line
  if d.get (rMcState p.mc) = stFailed then d.answerRead line data true
  else if d.testLine p.mc line then
    let syn := (d.takeBytes (checkBytes p.mc))
    (syn.2.setDom (domMcTestSyndrome p.mc) (syn.1 ++ leBytes 1 (verdictCode mark first))).answerRead
      line data false
  else if mark then
    ((d.add (rMcMarkedReads p.mc) 1).add rMemMarkedReads 1).answerRead line data true
  else match first with
    | .clean => d.answerRead line data false
    | .corrected loc multi => (d.logCorrected p line loc multi false).answerRead line data false
    | .uncorrectable =>
      match second with
      | .clean =>
        let loc := d.takeWord
        (loc.2.logCorrected p line (loc.1.toNat % (if p.mc < 12 then 20 else 72)) false true).answerRead line data false
      | .corrected loc multi => (d.logCorrected p line loc multi true).answerRead line data false
      | .uncorrectable =>
        let d := d.logUncorrectable p line
        ({ d with marks := tabPut d.marks line 1 }).answerRead line data true

/-- MC_LINE_READ (R338, R341, R343, R344, R346). -/
def execMcLineRead (line hint : Nat) (first second : Decode) (s : State) : Out :=
  occurs 341
    (fun d => line % 64 = 0 && d.mcTakes line && d.mcInOrder line false)
    (fun d =>
      match d.place line with
      | none => d
      | some p =>
        let w := d.lineWorld line
        let d := (d.takeRead line).countEvent (mcGroup p.mc) 1 1 (some w)
        let d := d.countBytes (mcGroup p.mc) 0 64 (some w)
        let d := d.touchRow p hint w
        let d := d.bufferCommand p.mc line false
        d.readLine p line first second) s

/-- R313: a write that a home loses enters the slice's 64-entry lost-line table, or overflows it. -/
def Dev.loseLine (d : Dev) (line : Nat) : Dev :=
  let s := d.homeSlice line
  let h := d.home s
  if h.lostLines.contains line then d
  else if h.lostLines.length < 64 then d.setHome s { h with lostLines := h.lostLines ++ [line] }
  else d.raiseAt kLostLineOverflow (500 + s) line 0

/-- MC_LINE_WRITE (R342, R346; R340 for a FAILED controller). -/
def execMcLineWrite (line hint : Nat) (data : Line) (mark : Bool) (s : State) : Out :=
  occurs 342
    (fun d => line % 64 = 0 && d.mcTakes line && d.mcInOrder line true)
    (fun d =>
      match d.place line with
      | none => d
      | some p =>
        let w := d.lineWorld line
        let d := (d.takeWrite line).countEvent (mcGroup p.mc) 2 1 (some w)
        let d := d.countBytes (mcGroup p.mc) 64 0 (some w)
        let d := d.touchRow p hint w
        if d.get (rMcState p.mc) = stFailed then
          (d.loseLine line).post (.memoryWriteComplete line)
        else
          let d := d.bufferCommand p.mc line true
          if d.testLine p.mc line then
            let chk := d.dom (domMcTestCheck p.mc) (zeros (checkBytes p.mc))
            let d := d.setMemLine line data (chk = markSymbols p.mc data)
            let m := d.mc p.mc
            (d.setMc p.mc { m with testCheck := tabPut m.testCheck line chk }).post (.memoryWriteComplete line)
          else
            let d := d.setMemLine line data mark
            let m := d.mc p.mc
            (d.setMc p.mc { m with testCheck := tabErase m.testCheck line }).post (.memoryWriteComplete line)) s

/-! ## Replay (R339, R340) -/

/-- The longest hold, in ns, of a controller's requests. -/
def Dev.noteHold (d : Dev) (m ns : Nat) : Dev :=
  if d.get (rMcHeldMax m) < ns then d.set (rMcHeldMax m) ns else d

/-- Requests were held for a time that the manual bounds and does not give: a free value within the bound (log 41). -/
def Dev.heldUpTo (d : Dev) (m ns : Nat) : Dev := let w := d.takeWord; w.2.noteHold m (w.1.toNat % (ns + 1))

/-- MC_ALERT (R339, R340): the controller replays the commands not yet confirmed, and holds requests for at most 2 µs. After 8 consecutive
replays of one command it is retrained, for at most 12 µs; when that fails it becomes FAILED. A replay belongs to no one request, so it is
counted as R421 counts such events. DEDUCED (log 77). -/
def execMcAlert (mc confirmed : Nat) (retrainOk : Passed) (s : State) : Out :=
  occursAt 339 (mc < 20) (fun d => d.get (rMcState mc) != stFailed)
    (fun d =>
      let m := d.mc mc
      let progress := confirmed != 0
      let run := (if progress then 0 else m.replayRun) + 1
      let d := (d.setMc mc { m with retryBuf := m.retryBuf.drop confirmed, replayRun := run }).add
        (rMcReplays mc) 1
      let d := d.countEvent (mcGroup mc) 5 1 none
      let d := (d.raise kMemoryReplay (mcSource mc) 0).heldUpTo mc 2000
      if run < 8 then d
      else
        let d := d.heldUpTo mc 12000
        let m := d.mc mc
        let d := d.setMc mc { m with replayRun := 0 }
        if retrainOk then d
        else (d.set (rMcState mc) stFailed).raise kMemoryChannelLost (mcSource mc) 0) s

/-- PAGE_IDLE_CLOSE (R338): a bank whose last access had hint auto has been idle for `mcPageIdle`. -/
def execPageIdleClose (mc bank : Nat) (s : State) : Out :=
  occursAt 338 (mc < 20)
    (fun d => match tabFind (d.mc mc).rows bank with
      | some r => r.2.1 = 0 && r.2.2 + d.get (rMcPageIdle mc) ≤ d.now
      | none => false)
    (fun d => let m := d.mc mc; d.setMc mc { m with rows := tabErase m.rows bank }) s

/-! ## Rate switch (R347, R348) -/

/-- Table 15-1: a rate of the controller's kind, with DDR5-6400 only where the package has it. -/
def Dev.rateOk (d : Dev) (m r : Nat) : Bool :=
  if m < 12 then r = 4800 || r = 5600 || (r = 6400 && bitAt (d.get rPkgFeatures) 18)
  else r = 4800 || r = 6400 || r = 8000

/-- R347: at most one DDR5 channel in the package, and one stack of each base die, is in a switch. -/
def Dev.switchLimit (d : Dev) (m : Nat) : Bool :=
  if m < 12 then (List.range 12).any (fun c => c != m && (d.mc c).held)
  else
    let other := if m % 2 = 0 then m + 1 else m - 1
    (d.mc other).held

/-- The effect of writing SWITCH to `mcCommand`. -/
def Dev.mcSwitch (d : Dev) (m : Nat) : Reply :=
  match firstStatus
    [(!d.rateOk m (d.get (rMcShadowRate m)) || byteAt (d.dom (domMcShadowTiming m) (1 :: zeros 63)) 0 != 1,
        .range),
     (d.mcRunning m || d.switchLimit m, .busy)] with
  | .ok =>
    let c := d.mc m
    (.ok, (d.set (rMcCommand m) cmdRunning).setMc m
      { c with held := true, holdStart := d.now, rows := [], retryBuf := [] })
  | st => (st, d)

/-- MC_SWITCH (R347, R348). -/
def execMcSwitch (p : Path) (mc : Nat) (s : State) : Out :=
  if mc < 20 then writeCommand p (controllerIndex mc) 0x05 1 (fun d _ => d.mcSwitch mc) s else .refused (.noSuchOperand 347)

/-- Requests held by a controller are released. -/
def Dev.releaseHold (d : Dev) (m : Nat) : Dev :=
  let c := d.mc m
  let d := d.noteHold m (d.now - c.holdStart)
  d.setMc m { c with held := false }

/-- The active and the shadow set change places, rate and timing (Table 15-4, step 3). -/
def Dev.swapSets (d : Dev) (m : Nat) : Dev :=
  let rate := d.get (rMcRate m)
  let c := d.mc m
  let d := (d.set (rMcRate m) (d.get (rMcShadowRate m))).set (rMcShadowRate m) rate
  (d.setMc m { c with timing := d.dom (domMcShadowTiming m) (1 :: zeros 63) }).setDom (domMcShadowTiming m) c.timing

/-- MC_SWITCH_DONE (R347, R348): the sets are swapped; a failure swaps them back and reads REFUSED, with both sets as before the switch:
DEDUCED (log 74). -/
def execMcSwitchDone (mc : Nat) (pass : Passed) (s : State) : Out :=
  occursAt 348 (mc < 20) (fun d => d.mcRunning mc && (d.mc mc).held)
    (fun d =>
      let d := d.releaseHold mc
      if pass then (d.swapSets mc).set (rMcCommand mc) cmdDone
      else (d.set (rMcCommand mc) cmdRefused).raise kMemoryRateChange (mcSource mc) 0) s

/-! ## Row sparing (R349, R350) -/

/-- A request is queued at a controller. -/
def Dev.mcQueued (d : Dev) (m : Nat) : Bool :=
  d.fab.net.any (fun i => match mcMessageLine i with
    | some l => d.controllerOf l = some m
    | none => false)

/-- R350: `mcSpareAddr` is a line of this controller. -/
def Dev.spareAddrOk (d : Dev) (m : Nat) : Bool := d.controllerOf (d.get (rMcSpareAddr m)) = some m

/-- The effect of writing SPARE_SOFT or SPARE_HARD. -/
def Dev.mcSpare (d : Dev) (m : Nat) (hard : Bool) : Reply :=
  match firstStatus
    [(!d.spareAddrOk m, .range),
     (d.mcRunning m || (hard && (!d.flag rMemPoisonMode || d.mcQueued m)), .busy)] with
  | .ok =>
    let c := d.mc m
    (.ok, (d.set (rMcCommand m) cmdRunning).setMc m { c with hard := hard, spareAddr := d.get (rMcSpareAddr m), holdStart := d.now })
  | st => (st, d)

/-- MC_SPARE_SOFT (R349, R350). -/
def execMcSpareSoft (p : Path) (mc : Nat) (s : State) : Out :=
  if mc < 20 then writeCommand p (controllerIndex mc) 0x05 2 (fun d _ => d.mcSpare mc false) s else .refused (.noSuchOperand 349)

/-- MC_SPARE_HARD (R349, R350). -/
def execMcSpareHard (p : Path) (mc : Nat) (s : State) : Out :=
  if mc < 20 then writeCommand p (controllerIndex mc) 0x05 3 (fun d _ => d.mcSpare mc true) s else .refused (.noSuchOperand 349)

/-- MC_SPARE_DONE (R349, R350): the row is replaced with its lines kept, or no spare is left. -/
def execMcSpareDone (mc : Nat) (spareLeft : Bool) (s : State) : Out :=
  occursAt 350 (mc < 20) (fun d => d.mcRunning mc && !(d.mc mc).held)
    (fun d =>
      let c := d.mc mc
      let d := d.noteHold mc (d.now - c.holdStart)
      if spareLeft then
        let d := d.set (rMcSpareError mc) 0
        match d.place c.spareAddr with
        | none => d.set (rMcCommand mc) cmdDone
        | some p =>
          (d.setMc mc { c with spares := tabPut c.spares (rowKey p) (if c.hard then 2 else 1) }).set
            (rMcCommand mc) cmdDone
      else (d.set (rMcSpareError mc) 1).set (rMcCommand mc) cmdRefused) s

/-! ## Test mode (R346) -/

/-- The effect of writing `mcTestMode`. -/
def Dev.mcTestMode (d : Dev) (m value : Nat) : Reply :=
  if value = 1 && !(d.flag rMemPoisonMode && d.get rPwState = stOff) then (.busy, d)
  else (.ok, d.set (rMcTestMode m) value)

/-- MC_TEST_MODE_WRITE (R346). -/
def execMcTestModeWrite (p : Path) (mc value : Nat) (s : State) : Out :=
  if mc < 20 then writeCommand p (controllerIndex mc) 0x10 value (fun d _ => d.mcTestMode mc value) s else .refused (.noSuchOperand 346)

end Sys2Proof.Machine
end

