-- ==== Sys2Proof/Machine/Pewter.lean ====
section
/-!
DEFINITION. Pewter, the memory-side cache (chapter 11): placement, reads and writes of the home, errors,
prefetch, locking, the Pewter commands, enabling and draining.
-/
namespace Sys2Proof.Machine

/-! ## Placement (R257, R258) -/

/-- R257: the Pewter index of a line. -/
def Dev.pewterIndex (d : Dev) (a : Nat) : Nat :=
  match d.localRegion a with
  | none => field a 11 19
  | some _ => field a 11 17 * 4 + homeHash a / 8

/-- R258: the segment of an index. -/
def segmentOf (index : Nat) : Nat := index / 8192

/-- Key of an entry: slice, then index. -/
def Dev.pewterKey (d : Dev) (a : Nat) : Nat := d.homeSlice a * 2 ^ 19 + d.pewterIndex a

/-- The entry of a line, if Pewter holds the line. -/
def Dev.pewterEntry (d : Dev) (line : Nat) : Option PwEntry :=
  match tabFind d.pewter (d.pewterKey line) with
  | some e => if e.line = line then some e else none
  | none => none

/-- The segment of a line is locked at its slice. -/
def Dev.segLocked (d : Dev) (line : Nat) : Bool :=
  bitAt (d.get (rPwSegLocked (d.homeSlice line))) (segmentOf (d.pewterIndex line))

/-- Pewter is ACTIVE. -/
def Dev.pewterActive (d : Dev) : Bool := d.get rPwState = stActive

/-- Pewter serves hits: it is ACTIVE or QUIESCING (R271). -/
def Dev.pewterServes (d : Dev) : Bool := d.get rPwState = stActive || d.get rPwState = stQuiescing

/-! ## Electrum bank images (R166) -/

/-- State of a bank side: 0 EMPTY, 1 LOADED, 2 ACTIVE, 3 DRAINING. -/
def Dev.sideState (d : Dev) (n s : Nat) : Nat :=
  d.get (if s = 0 then rElbSide0State n else rElbSide1State n)

/-- Image base of a bank side. -/
def Dev.sideBase (d : Dev) (n s : Nat) : Nat := d.get (if s = 0 then rElbSide0Base n else rElbSide1Base n)

/-- The bank sides of the package. -/
def allSides : List (Nat × Nat) := (List.range 64).flatMap (fun n => [(n, 0), (n, 1)])

/-- A line lies in an image that is LOADED, ACTIVE or DRAINING. -/
def Dev.bankLine (d : Dev) (line : Nat) : Bool :=
  allSides.any (fun x => d.sideState x.1 x.2 != 0 && d.sideBase x.1 x.2 ≤ line
    && line < d.sideBase x.1 x.2 + (d.side x.1 x.2).length)

/-- R270: the segment of a slice holds a line of such an image. -/
def Dev.bankInSegment (d : Dev) (slice seg : Nat) : Bool :=
  allSides.any (fun x => d.sideState x.1 x.2 != 0 &&
    (List.range (((d.side x.1 x.2).length + 63) / 64)).any (fun i =>
      let a := lineAddr (d.sideBase x.1 x.2) + 64 * i
      d.homeSlice a = slice && segmentOf (d.pewterIndex a) = seg))

/-! ## Reads and writes of memory by a home (R259) -/

/-- R267, R275: the side-buffer entry of a line is dropped, and a prefetch of it in flight fills nothing. -/
def Dev.dropSide (d : Dev) (line : Nat) : Dev :=
  let s := d.homeSlice line
  let h := d.home s
  d.setHome s { h with sideBuf := h.sideBuf.filter (fun e => e.1 != line),
                       prefetches := h.prefetches.map (fun e => if e.1 = line then (line, false) else e) }

/-- A line is sent to its memory controller to be written, with the page hint of the request that writes it (R91, R235); what Pewter writes
back carries auto. CXL memory takes it at its expander. -/
def Dev.sendWrite (d : Dev) (line hint : Nat) (data : Line) (mark : Bool) : Dev :=
  match d.place line with
  | some _ => d.post (.mcLineWrite line hint data mark)
  | none => d.setMemLine line data mark

/-- The dirty victim at a line's index is written back. -/
def Dev.evictVictim (d : Dev) (line : Nat) : Dev :=
  match tabFind d.pewter (d.pewterKey line) with
  | none => d
  | some e =>
    if e.line != line && e.dirty then
      (d.countEvent (32 + d.homeSlice line) 7 1 (some (d.lineWorld line))).sendWrite e.line 0 e.data e.mark
    else d

/-- An entry is filled or written; a dirty victim is written back first. -/
def Dev.pewterPut (d : Dev) (line : Nat) (data : Line) (mark dirty : Bool) : Dev :=
  let d := d.evictVictim line
  { d with pewter := tabPut d.pewter (d.pewterKey line) { line := line, dirty := dirty, mark := mark, data := data } }

/-- An entry is invalidated. -/
def Dev.pewterDrop (d : Dev) (line : Nat) : Dev :=
  match d.pewterEntry line with
  | none => d
  | some _ => { d with pewter := tabErase d.pewter (d.pewterKey line) }

/-- R313: a line in its slice's lost-line table reads marked. -/
def Dev.lineLost (d : Dev) (line : Nat) : Bool := (d.home (d.homeSlice line)).lostLines.contains line

/-- A full-line write without the mark makes a lost line whole. -/
def Dev.clearLost (d : Dev) (line : Nat) (mark : Bool) : Dev :=
  if mark then d
  else
    let s := d.homeSlice line
    let h := d.home s
    d.setHome s { h with lostLines := h.lostLines.filter (fun l => l != line) }

/-- R259, R267: a home's write of a whole line. True when Pewter has taken it; false when it is on its
way to memory. -/
def Dev.homeWrite (d : Dev) (line hint : Nat) (data : Line) (mark : Bool) : Bool × Dev :=
  let d := (d.dropSide line).clearLost line mark
  if d.pewterServes && (d.pewterEntry line).isSome then (true, d.pewterPut line data mark true)
  else if d.pewterActive && !d.segLocked line then (true, d.pewterPut line data mark true)
  else
    let d := if d.pewterServes then d.add (rPwBypasses (d.homeSlice line)) 1 else d
    (false, d.sendWrite line hint data mark)

/-- What memory holds of a line once the writes on their way to its controller are performed. -/
def Dev.memView (d : Dev) (line : Nat) : Line × Bool :=
  d.fab.net.foldl (fun v m => match m with
    | .mcLineWrite l _ data mark => if l = line then (data, mark) else v
    | _ => v) (d.memLine line, d.memMark line)

/-- R260: an error of an entry that is corrected or recovered is counted and raised. -/
def Dev.pewterCorrected (d : Dev) (slice line : Nat) : Dev :=
  ((d.add rPwCorrected 1).countEvent (32 + slice) 8 1 none).raiseAt kPewterCorrected (500 + slice) line 0

/-- R260, R261: an error met in the entry of a key: the line's own, or the victim that a fill reads. -/
def Dev.entryError (d : Dev) (key : Nat) (err : PwError) : Dev :=
  let slice := key / 2 ^ 19
  match tabFind d.pewter key, err with
  | none, _ => d
  | some _, .none => d
  | some e, .corrected => d.pewterCorrected slice e.line
  | some e, .uncorrectable =>
    let d := { d with pewter := tabErase d.pewter key }
    if e.dirty then
      ((d.sendWrite e.line 0 e.data true).addSat rPwUncorrectable 1).raiseAt kPewterUncorrectable (500 + slice) e.line 0
    else d.pewterCorrected slice e.line
  | some _, .oneTag => d.addSat rPwTagRepairs 1
  | some _, .bothTags => ({ d with pewter := tabErase d.pewter key }).raise kPewterTagLost (500 + slice) key

/-- R260, R261: an error met in the entry at a line's index. -/
def Dev.pewterError (d : Dev) (line : Nat) (err : PwError) : Dev := d.entryError (d.pewterKey line) err

/-- R260: a clean entry of a locked segment that is lost to an error is filled again. -/
def Dev.refills (d : Dev) (line : Nat) (err : PwError) : Bool :=
  err = .uncorrectable && d.segLocked line && (match d.pewterEntry line with
    | some e => !e.dirty
    | none => false)

/-- A hit of a demand read in the array. -/
def Dev.pewterHit (d : Dev) (line : Nat) (w : World) : Dev :=
  (d.add (rPwHits (d.homeSlice line)) 1).countEvent (32 + d.homeSlice line) 1 1 (some w)

/-- A miss of a demand read; a bypass where the segment is locked or Pewter drains, unless the entry is filled again. -/
def Dev.pewterMiss (d : Dev) (line : Nat) (w : World) (refill : Bool) : Dev :=
  let s := d.homeSlice line
  let d := (d.add (rPwMisses s) 1).countEvent (32 + s) 2 1 (some w)
  if (d.segLocked line && !refill) || d.get rPwState = stQuiescing then
    (d.add (rPwBypasses s) 1).countEvent (32 + s) 3 1 (some w)
  else d

/-- R265, R266: a demand read that hits the side buffer: the line moves into the array in an unlocked
segment, and is dropped in a locked one. -/
def Dev.sideHit (d : Dev) (line : Nat) (data : Line) (w : World) : Dev :=
  let s := d.homeSlice line
  let locked := d.segLocked line
  let d := d.dropSide line
  if locked || !d.pewterActive then d
  else ((d.add (rPwPfUsed s) 1).countEvent (32 + s) 5 1 (some w)).pewterPut line data false false

/-- R259: what a home's demand read of memory finds in Pewter; none when memory must be read. -/
def Dev.homeRead (d : Dev) (line : Nat) (w : World) (refill : Bool) : Option (Line × Bool) × Dev :=
  if !d.pewterServes then (none, d)
  else match d.pewterEntry line with
    | some e => (some (e.data, e.mark || d.lineLost line), d.pewterHit line w)
    | none =>
      match (d.home (d.homeSlice line)).sideBuf.find? (fun e => e.1 = line) with
      | some e => (some (e.2.1, d.lineLost line), d.sideHit line e.2.1 w)
      | none => (none, d.pewterMiss line w refill)

/-- R259, R278: memory data that reaches the home fills the entry in an unlocked segment, and in a locked one where an error emptied it (R260). -/
def Dev.pewterFillRead (d : Dev) (line : Nat) (data : Line) (mark refill : Bool) : Dev :=
  if d.pewterActive && (refill || !d.segLocked line) && (d.pewterEntry line).isNone
  then d.pewterPut line data mark false else d

/-- The home asks its controller for a line. -/
def Dev.sendRead (d : Dev) (line hint : Nat) : Dev := d.post (.mcLineRead line hint .clean .clean)

/-! ## Prefetch (R263 to R266) -/

/-- R264: the training of an entry by block `b`. -/
def trainStream (e : Stream) (b : Nat) : Stream :=
  let dlt : Int := Int.ofNat b - Int.ofNat e.block
  let same := dlt = e.stride && dlt != 0 && (-16 ≤ dlt && dlt ≤ 16)
  { e with block := b, stride := dlt, conf := same }

/-- R263: the stream entries of a slice after a training read, the entry trained first. -/
def trainStreams (l : List Stream) (w : World) (req hint b : Nat) : List Stream :=
  match l.find? (fun e => e.world = w && e.req = req && e.hint = hint) with
  | some e => trainStream e b :: l.erase e
  | none => { world := w, req := req, hint := hint, block := b, stride := 0, conf := false } :: l.take 63

/-- The lines of a 2 KiB block that are homed at a slice. -/
def Dev.blockLines (d : Dev) (slice blk : Nat) : List Nat :=
  ((List.range 32).map (fun i => blk * 2048 + 64 * i)).filter (fun a => d.homeSlice a = slice)

/-- Two addresses lie in one memory region of the package. -/
def Dev.sameRegion (d : Dev) (a b : Nat) : Bool :=
  match d.region a, d.region b with
  | .hbm _, .hbm _ => true
  | .ddr _, .ddr _ => true
  | .cxl _, .cxl _ => true
  | _, _ => false

/-- R264, R265: a line is prefetched unless a rule drops it. -/
def Dev.prefetchOne (d : Dev) (slice from_ line : Nat) (w : World) : Dev :=
  let h := d.home slice
  if (d.pewterEntry line).isSome || h.sideBuf.any (fun e => e.1 = line) || h.prefetches.any (fun e => e.1 = line)
    || !d.sameRegion from_ line || (d.refusedBy w line).isSome || d.segLocked line then d
  else
    let d := d.setHome slice { h with prefetches := h.prefetches ++ [(line, true)] }
    ((d.add (rPwPfIssued slice) 1).countEvent (32 + slice) 4 1 (some w)).inject (slicePoint slice) (500 + slice) 0 1
      (.prefetchDataReturn slice line true) none

/-- R264: the prefetches of a trained read of a confirmed entry. -/
def Dev.prefetchFrom (d : Dev) (slice line : Nat) (e : Stream) : Dev :=
  if !e.conf || !d.pewterActive then d
  else
    let blocks := (List.range (d.get rPwPfDepth)).map (fun (k : Nat) => Int.ofNat e.block + (Int.ofNat k + 1) * e.stride)
    let lines := blocks.flatMap (fun b => if b < 0 then [] else d.blockLines slice b.toNat)
    lines.foldl (fun d l => d.prefetchOne slice line l e.world) d

/-- A training read (R263): a demand read that missed the array. -/
def Dev.train (d : Dev) (line : Nat) (w : World) (req hint : Nat) : Dev :=
  let s := d.homeSlice line
  let h := d.home s
  let l := trainStreams h.streams w req hint (line / 2048)
  let d := d.setHome s { h with streams := l }
  match l with
  | e :: _ => d.prefetchFrom s line e
  | [] => d

/-- A side buffer of 128 entries takes a line; its oldest entry is discarded and counted (R266). -/
def Dev.sideInsert (d : Dev) (slice line : Nat) (data : Line) : Dev :=
  let h := d.home slice
  let full := 128 ≤ h.sideBuf.length
  let d := d.setHome slice
    { h with sideBuf := (if full then h.sideBuf.drop 1 else h.sideBuf) ++ [(line, data, .normal)] }
  if full then (d.add (rPwPfAged slice) 1).countEvent (32 + slice) 6 1 none else d

/-- The controller of a line reads it, under the page hint of the request and for its world (R335, R343). -/
def Dev.controllerRead (d : Dev) (line hint : Nat) (who : Option World) : Dev :=
  match d.place line with
  | none => d
  | some p =>
    let d := ((d.countEvent (mcGroup p.mc) 1 1 who).countBytes (mcGroup p.mc) 0 64 who).touchRow p hint (who.getD .normal)
    let d := d.bufferCommand p.mc line false
    if d.memMark line then (d.add (rMcMarkedReads p.mc) 1).add rMemMarkedReads 1 else d

/-- The controller's read for a prefetch, under the page hint auto; an uncorrectable error is logged there, and the line is marked (R265, R343). -/
def Dev.prefetchRead (d : Dev) (line : Nat) (ok : Bool) : Dev :=
  let d' := d.controllerRead line 0 none
  match d.place line with
  | none => d'
  | some p =>
    if ok || d.memMark line then d'
    else
      let d' := d'.logUncorrectable p line
      { d' with marks := tabPut d'.marks line 1 }

/-- PREFETCH_DATA_RETURN (R265, R266, R275): once its point has injected the read; `ok` is false where it met an uncorrectable error. -/
def execPrefetchDataReturn (slice line : Nat) (ok : Bool) (s : State) : Out :=
  occursAt 266 (slice < 32)
    (fun d => (d.home slice).prefetches.any (fun e => e.1 = line) && d.fab.net.contains (.prefetchDataReturn slice line true))
    (fun d =>
      let h := d.home slice
      let live := h.prefetches.any (fun e => e.1 = line && e.2)
      let d := d.setHome slice { h with prefetches := h.prefetches.filter (fun e => e.1 != line) }
      let d := (d.takeMsg (fun m => m = .prefetchDataReturn slice line true)).prefetchRead line ok
      if live && ok && !(d.memView line).2 && d.pewterActive
      then d.sideInsert slice line (d.memView line).1
      else d) s

/-! ## The patrol scrubber (R260 to R262) -/

/-- The entry at a slice's index. -/
def Dev.pewterSlot (d : Dev) (slice index : Nat) : Option PwEntry := tabFind d.pewter (slice * 2 ^ 19 + index)

/-- Tag copies that fail parity, as an error. -/
def tagError (bad : Nat) : PwError := if bad = 0 then .none else if bad = 1 then .oneTag else .bothTags

/-- A data error of an entry. -/
def dataError : ArrayError → PwError
  | .none => .none
  | .corrected => .corrected
  | .uncorrectable => .uncorrectable

/-- PATROL_SCRUB (R262): the next entry of the slice is read; it is not allocated and not counted as a hit
or miss. A clean entry of a locked segment that is lost to an error is filled again (R260). -/
def execPatrolScrub (slice : Nat) (err : ArrayError) (badTags : Nat) (s : State) : Out :=
  occursAt 262 (slice < 32) (fun d => d.get rPwScrubHours != 0)
    (fun d =>
      let h := d.home slice
      let i := h.scrubPos
      let d := d.setHome slice { h with scrubPos := (i + 1) % 2 ^ 19 }
      match d.pewterSlot slice i with
      | none => d
      | some e =>
        let again := d.refills e.line (dataError err)
        let d := d.entryError (slice * 2 ^ 19 + i) (dataError err)
        let d := if again then let m := d.memView e.line; d.pewterPut e.line m.1 m.2 false else d
        d.entryError (slice * 2 ^ 19 + i) (tagError badTags)) s

/-! ## Enabling and disabling (R271, R272) -/

/-- Any bank side is not EMPTY. -/
def Dev.anySide (d : Dev) : Bool := allSides.any (fun x => d.sideState x.1 x.2 != 0)

/-- Side buffers are emptied and prefetches stop. -/
def Dev.stopPrefetch (d : Dev) : Dev :=
  { d with homes := d.homes.map (fun e =>
      (e.1, { e.2 with sideBuf := [], prefetches := e.2.prefetches.map (fun x => (x.1, false)) })) }

/-- The effect of writing `pwEnable`. -/
def Dev.pwEnable (d : Dev) (value : Nat) : Reply :=
  let st := d.get rPwState
  if value = 0 then
    if d.anySide then (.busy, d)
    else if st = stActive then
      (.ok, ((d.set rPwEnable 0).set rPwState stQuiescing).stopPrefetch)
    else (.ok, d)
  else if st = stQuiescing then (.busy, d)
  else if st = stActive then (.ok, d)
  else (.ok, { (d.set rPwEnable 1).set rPwState stActive with pewter := [] })

/-- PW_ENABLE_WRITE (R271, R272). -/
def execPwEnableWrite (p : Path) (value : Nat) (s : State) : Out :=
  writeCommand p 0x5840 0x01 value (fun d _ => d.pwEnable value) s

/-- The error that the read of a line's entry meets. -/
def errorOf (errs : List (Nat × PwError)) (line : Nat) : PwError := ((errs.find? (fun x => x.1 = line)).map (fun x => x.2)).getD .none

/-- One entry is written to memory if it is dirty, and invalidated; the side-buffer entry of its line goes first (R267). -/
def Dev.flushEntry (errs : List (Nat × PwError)) (d : Dev) (key : Nat) : Dev :=
  match tabFind d.pewter key with
  | none => d
  | some e =>
    let d := (d.dropSide e.line).entryError key (errorOf errs e.line)
    match tabFind d.pewter key with
    | none => d
    | some e =>
      let d := { d with pewter := tabErase d.pewter key }
      if e.dirty then d.sendWrite e.line 0 e.data e.mark else d

/-- Every dirty entry that `f` names is written to memory and every such entry is invalidated. -/
def Dev.flushEntries (d : Dev) (errs : List (Nat × PwError)) (f : Nat → Bool) : Dev :=
  ((d.pewter.map (fun e => e.1)).filter f).foldl (Dev.flushEntry errs) d

/-- PW_DRAIN_DONE (R271): every slice has walked its array. -/
def execPwDrainDone (errs : List (Nat × PwError)) (s : State) : Out :=
  occurs 271 (fun d => d.get rPwState = stQuiescing)
    (fun d => (d.flushEntries errs (fun _ => true)).set rPwState stOff) s

/-! ## Commands (R268 to R270, Table 11-2) -/

/-- The slices and segments that a path has selected. -/
def Dev.selSlices (d : Dev) (p : Path) : List Nat :=
  (List.range 32).filter (fun s => bitAt (d.get (rPwCmdSlices p)) s)
def Dev.selSegments (d : Dev) (p : Path) : List Nat :=
  (List.range 64).filter (fun g => bitAt (d.get (rPwCmdSegments p)) g)

/-- R269: a selected segment is reserved to the Tantalum world in a selected slice. -/
def Dev.segWorldDenied (d : Dev) (p : Path) : Bool :=
  d.pathWorld p = .normal &&
    (d.selSlices p).any (fun s => (d.selSegments p).any (fun g => bitAt (d.get (rPwSegWorld s)) g))

/-- The lines of a PRELOAD range. -/
def rangeLines (base len : Nat) : List Nat := (List.range (len / 64)).map (fun i => base + 64 * i)

/-- Two intervals of bytes meet. -/
def overlaps (a la b lb : Nat) : Bool := a < b + lb && b < a + la

/-- An enabled Tantalum range meets the bytes from `a` on. -/
def Dev.overlapsTantalum (d : Dev) (a len : Nat) : Bool :=
  (List.range 32).any (fun n => d.flag (rWrEnable n) && d.get (rWrOwner n) = 1
    && overlaps a len (d.get (rWrBase n)) (d.wrLimit n + 1 - d.get (rWrBase n)))

/-- R269 for PRELOAD. -/
def Dev.preloadDenied (d : Dev) (p : Path) : Bool :=
  let base := d.get (rPwCmdBase p)
  let len := d.get (rPwCmdLength p)
  d.pathWorld p = .normal &&
    (d.overlapsTantalum base len ||
      (rangeLines base len).any (fun a => bitAt (d.get (rPwSegWorld (d.homeSlice a))) (segmentOf (d.pewterIndex a))))

/-- Table 11-2: PRELOAD returns RANGE. -/
def Dev.preloadRange (d : Dev) (p : Path) : Bool :=
  let base := d.get (rPwCmdBase p)
  let len := d.get (rPwCmdLength p)
  base % 64 != 0 || len % 64 != 0 || len = 0 || !d.sameRegion base (base + len - 1)

/-- R47, R269: a Pewter command cannot be taken now. -/
def Dev.pwBusy (d : Dev) : Bool := d.get rPwCommand = cmdRunning || d.get rPwState != stActive

/-- Lock bits of the selected segments in the selected slices. -/
def Dev.setLocks (d : Dev) (p : Path) (on : Bool) : Dev :=
  let m := d.get (rPwCmdSegments p)
  (d.selSlices p).foldl (fun d s =>
    let v := d.get (rPwSegLocked s)
    d.set (rPwSegLocked s) (if on then v ||| m else bitsClear v m)) d

/-- R270: a selected segment holds a line of a bank image in use. -/
def Dev.bankSelected (d : Dev) (p : Path) : Bool :=
  (d.selSlices p).any (fun s => (d.selSegments p).any (fun g => d.bankInSegment s g))

/-- The effect of writing `pwCommand`. -/
def Dev.pwCommand (d : Dev) (p : Path) (code : Nat) : Reply :=
  if code = 1 then
    match firstStatus [(d.preloadDenied p, .world), (d.preloadRange p, .range), (d.pwBusy, .busy)] with
    | .ok => (.ok, { (d.set rPwCommand cmdRunning).set rPwCmdSkipped 0 with
        pwJob := some (1, d.get (rPwCmdBase p), d.get (rPwCmdLength p)) })
    | .world => d.denyWorld p 0x5840 0x03
    | st => (st, d)
  else
    match firstStatus
      [(d.segWorldDenied p, .world),
       (d.pwBusy || ((code = 3 || code = 4) && d.bankSelected p), .busy)] with
    | .ok =>
      let d' := if code = 2 then d.setLocks p true else if code = 3 then d.setLocks p false else d
      (.ok, { d'.set rPwCommand cmdRunning with
        pwJob := some (code, d.get (rPwCmdSlices p), d.get (rPwCmdSegments p)) })
    | .world => d.denyWorld p 0x5840 0x03
    | st => (st, d)

/-- PW_PRELOAD (R269, Table 11-2). -/
def execPwPreload (p : Path) (s : State) : Out := writeCommand p 0x5840 0x03 1 (fun d _ => d.pwCommand p 1) s

/-- PW_LOCK (R269, Table 11-2). -/
def execPwLock (p : Path) (s : State) : Out := writeCommand p 0x5840 0x03 2 (fun d _ => d.pwCommand p 2) s

/-- PW_UNLOCK (R269, R270, Table 11-2). -/
def execPwUnlock (p : Path) (s : State) : Out := writeCommand p 0x5840 0x03 3 (fun d _ => d.pwCommand p 3) s

/-- PW_FLUSH (R269, R270, Table 11-2). -/
def execPwFlush (p : Path) (s : State) : Out := writeCommand p 0x5840 0x03 4 (fun d _ => d.pwCommand p 4) s

/-- Table 11-2: one line of a PRELOAD: nothing if present; filled in an unlocked segment, or into an
invalid entry of a locked one; else skipped and counted. -/
def Dev.preloadLine (d : Dev) (line : Nat) : Dev :=
  if (d.pewterEntry line).isSome then d
  else if !d.segLocked line || (tabFind d.pewter (d.pewterKey line)).isNone then
    let d := d.dropSide line
    let m := d.memView line
    d.pewterPut line m.1 (m.2 || d.lineLost line) false
  else d.add rPwCmdSkipped 1

/-- PW_COMMAND_DONE (R269): every selected slice has finished. -/
def execPwCommandDone (errs : List (Nat × PwError)) (s : State) : Out :=
  occurs 269 (fun d => d.get rPwCommand = cmdRunning && d.pwJob.isSome)
    (fun d =>
      let d' := match d.pwJob with
        | some (1, base, len) => (rangeLines base len).foldl Dev.preloadLine d
        | some (4, slices, segs) =>
          d.flushEntries errs (fun k => bitAt slices (k / 2 ^ 19) && bitAt segs (segmentOf (k % 2 ^ 19)))
        | _ => d
      { d'.set rPwCommand cmdDone with pwJob := none }) s

end Sys2Proof.Machine
end

