-- ==== Sys2Proof/Machine/Proxy.lean ====
section
/-!
DEFINITION. The Harfort proxy toward the other packages (R389 to R391): links in service, the choice of
link for a flit, the remote-line filter, and the flits that wait for the peer's acknowledgement (R392).
-/
namespace Sys2Proof.Machine

/-! ## Wiring and links in service (R385, Table 18-1) -/

/-- The peer of link `l` of package `p` in a system of `n` packages. -/
def hfPeerOf (n p l : Nat) : Option Nat :=
  if n = 2 then some (p ^^^ 1)
  else if n = 4 then some (p ^^^ (if l = 0 then 1 else if l = 1 then 2 else if l = 2 then 3 else 1))
  else none

/-- A link is in service: UP (Table 14-5). -/
def Dev.hfUp (d : Dev) (l : Nat) : Bool := d.get (rHfState l) = 5

/-- The in-service links to a peer, in ascending order. -/
def Dev.hfLinksTo (d : Dev) (peer : Nat) : List Nat :=
  (List.range 4).filter (fun l => d.hfUp l && hfPeerOf (d.get rPkgCount) d.pkg l = some peer)

/-- R391: the package by which flits to `peer` go first: the peer itself, or the lowest relay. -/
def Dev.hfNextHop (d : Dev) (peer : Nat) : Option Nat :=
  if (d.hfLinksTo peer).length != 0 then some peer
  else if d.get rPkgCount = 4 then
    (List.range 4).find? (fun q => q != peer && q != d.pkg && (d.hfLinksTo q).length != 0 && bitAt d.part.far (4 * q + peer))
  else none

/-- R391: the link that a flit for `peer` takes. -/
def Dev.hfPick (d : Dev) (peer vn addr : Nat) : Option Nat :=
  match d.hfNextHop peer with
  | none => none
  | some q =>
    let l := d.hfLinksTo q
    if vn = 5 || vn = 6 then l.head?
    else l[field addr 6 3 % l.length]?

/-- Counter group of a Harfort link. -/
def hfGroup (l : Nat) : Nat := 224 + l

/-- A flit enters a link and waits for the peer's acknowledgement (R392). -/
def Dev.hfEnter (d : Dev) (l peer : Nat) (f : Flit) (data : Bool) : Dev :=
  let x := d.hfLink l
  let d := d.setHfLink l { x with unacked := x.unacked ++ [(peer, f, data)] }
  let d := if data then d.countEvent (hfGroup l) 1 1 (some f.world) else d.countEvent (hfGroup l) 3 1 (some f.world)
  if data then d.countBytes (hfGroup l) 0 64 (some f.world) else d

/-- The hold of VN5 and VN6 flits for a package stands beside those of the edges (R307, R391). -/
def hfHold (peer : Nat) : Nat := 20 + peer

/-- R391: a flit goes to a package. While the link of VN5 and VN6 changes, their flits are held; without a path a flit is
discarded. -/
def Dev.hfSend (d : Dev) (peer : Nat) (f : Flit) (data : Bool) : Dev :=
  match if f.vn = 5 || f.vn = 6 then tabFind d.fab.held (hfHold peer) else none with
  | some h => { d with fab := { d.fab with held := tabPut d.fab.held (hfHold peer) { h with flits := h.flits ++ [(4, f)] } } }
  | none =>
    match d.hfPick peer f.vn f.addr with
    | none => d.addSat rHfFlitsLost 1
    | some l => d.hfEnter l peer f data

/-- A flit that waits at a link is VN5 or VN6 traffic for a package. -/
def orderedFor (peer : Nat) (u : Nat × Flit × Bool) : Bool := u.1 = peer && (u.2.1.vn = 5 || u.2.1.vn = 6)

/-- VN5 or VN6 flits for a package are unacknowledged. -/
def Dev.hfOrdered (d : Dev) (peer : Nat) : Bool := d.hf.any (fun e => e.2.unacked.any (orderedFor peer))

/-- The far proxy has acknowledged every VN5 and VN6 flit of the old link: the held ones go (R391). -/
def Dev.hfRelease (d : Dev) (peer : Nat) : Dev :=
  let l := match tabFind d.fab.held (hfHold peer) with
    | some h => h.flits.map Prod.snd
    | none => []
  let d := { d with fab := { d.fab with held := tabErase d.fab.held (hfHold peer) },
                    hf := d.hf.map (fun (e : Nat × HfLink) =>
                      (e.1, { e.2 with unacked := e.2.unacked.filter (fun u => !orderedFor peer u) })) }
  l.foldl (fun d f => d.hfSend peer f true) d

/-! ## Remote agents (R276, Table 12-1) -/

/-- The agent number of another package: 245 to 247 in ascending package number, this one excluded. -/
def Dev.remoteAgent (d : Dev) (q : Nat) : Nat := 245 + (if q < d.pkg then q else q - 1)

/-- The package of a remote agent number. -/
def Dev.agentPackage (d : Dev) (a : Nat) : Nat := let j := a - 245; if j < d.pkg then j else j + 1

/-- The remote agents of the system. -/
def Dev.remoteAgents (d : Dev) : List Nat :=
  ((List.range (d.get rPkgCount)).filter (fun q => q != d.pkg)).map d.remoteAgent

/-- The package that homes a line, if it is another one. -/
def Dev.remoteHome (d : Dev) (line : Nat) : Option Nat :=
  match d.region line with
  | .remote q => some q
  | _ => none

/-- R400: the line is homed in a package that this one has lost. -/
def Dev.fromLost (d : Dev) (line : Nat) : Bool :=
  match d.remoteHome line with
  | some q => bitAt (d.get rPartLost) q
  | none => false

/-! Message numbers of Table 12-2, in the table's order; a flit's MSG field. -/

def msgReadShared : Nat := 1
def msgReadOwn : Nat := 2
def msgUpgrade : Nat := 3
def msgInvWrite : Nat := 4
def msgPartialWrite : Nat := 5
def msgAtomic : Nat := 6
def msgLineMaintain : Nat := 7
def msgWriteBackFull : Nat := 8
def msgWriteBackClean : Nat := 9
def msgEvictClean : Nat := 10
def msgRecallAckData : Nat := 11
def msgRecallShare : Nat := 12
def msgRecallInv : Nat := 13
def msgInv : Nat := 14
def msgRecallAck : Nat := 15
def msgInvAck : Nat := 16
def msgGrantAck : Nat := 17
def msgCmpWrite : Nat := 18
def msgWbAck : Nat := 19
def msgRetry : Nat := 20
def msgRetryGrant : Nat := 21
def msgDataShared : Nat := 22
def msgDataExclusive : Nat := 23
def msgAtomicData : Nat := 24

/-- The flit of an I/O access to another package, in its hart's QoS class (R208). -/
def ioFlit (k tag pa vn cls : Nat) (w : World) : Flit :=
  { vn := vn, vc := 0, qos := cls, dest := ⟨16, 9⟩, src := ⟨16, 9⟩, agent := k, msg := 0, tag := tag, world := w, addr := pa, kind := 0 }

/-- A coherence flit for another package. -/
def coherenceFlit (vn msg agent line : Nat) (w : World) : Flit :=
  { vn := vn, vc := 0, qos := 0, dest := ⟨16, 9⟩, src := ⟨16, 9⟩, agent := agent, msg := msg, tag := 0,
    world := w, addr := line, kind := 0 }

/-- A coherence message for the remote agent or home of a package. -/
def Dev.sendRemote (d : Dev) (peer vn msg agent line : Nat) (w : World) (data : Bool) : Dev :=
  d.hfSend peer (coherenceFlit vn msg agent line w) data

/-! ## The remote-line filter (R389) -/

/-- The set of a line. -/
def remoteKey (line : Nat) : Nat := field line 6 14

/-- The entries of a set, most recently used first. -/
def Dev.remoteSet (d : Dev) (line : Nat) : List FilterEntry := tabGet d.remote (remoteKey line) []

/-- The device with a set of the remote-line filter. -/
def Dev.setRemote (d : Dev) (line : Nat) (l : List FilterEntry) : Dev :=
  { d with remote := if l.isEmpty then tabErase d.remote (remoteKey line)
                     else tabPut d.remote (remoteKey line) l }

/-- The entry of a line. -/
def Dev.remoteEntry (d : Dev) (line : Nat) : Option FilterEntry :=
  (d.remoteSet line).find? (fun e => e.line = line)

/-- A die obtains a remote-homed line. -/
def Dev.remoteGrant (d : Dev) (die line : Nat) (x : Bool) : Dev :=
  let set := d.remoteSet line
  let e := (d.remoteEntry line).getD { line := line, presence := 0, x := false, leaving := 0 }
  let e' := { e with presence := if x then 2 ^ die else bitSet e.presence die, x := x }
  d.setRemote line (e' :: set.filter (fun y => y.line != line))

/-- A die no longer holds a remote-homed line; the line is freed with its last die. -/
def Dev.remoteLeave (d : Dev) (die line : Nat) : Dev :=
  d.setRemote line (((d.remoteSet line).map (fun e => if e.line = line then
      { e with presence := bitClear e.presence die, leaving := bitClear e.leaving die, x := false } else e)).filter
    (fun e => e.presence != 0 || e.line != line))

/-- The line is no longer held exclusively. -/
def Dev.remoteShare (d : Dev) (line : Nat) : Dev :=
  d.setRemote line ((d.remoteSet line).map (fun e => if e.line = line then { e with x := false } else e))

end Sys2Proof.Machine
end

