-- ==== Sys2Proof/Machine/L2.lean ====
section
/-!
DEFINITION. The L2 of a hart (Table 12-3), its requests, evictions and error handling (R254), and the die
filter that stands before the L2s of a compute die (R282, R283).
-/
namespace Sys2Proof.Machine

/-! ## Lines of an L2 -/

/-- The line as an L2 holds it; I when it is not listed. -/
def Hart.line (h : Hart) (line : Nat) : L2Line :=
  tabGet h.l2 line { state := .i, data := 0, mark := false, req := none }

/-- The L2 with a line in a state; a line in I is not listed. -/
def Hart.setLine (h : Hart) (line : Nat) (l : L2Line) : Hart :=
  if l.state = .i then { h with l2 := tabErase h.l2 line, l1d := h.l1d.filter (fun x => x != line) }
  else { h with l2 := tabPut h.l2 line l }

/-- A hart's L2 line changes state. -/
def Dev.setL2 (d : Dev) (k line : Nat) (l : L2Line) : Dev := d.setHart k ((d.hart k).setLine line l)

/-- The data of a line may be read in this state (Table 12-3). -/
def L2State.readable : L2State → Bool
  | .s => true
  | .e => true
  | .m => true
  | .sm => true
  | _ => false

/-- The line is owned. -/
def L2State.owned : L2State → Bool
  | .e => true
  | .m => true
  | _ => false

/-- The line waits on its home. -/
def L2State.waits : L2State → Bool
  | .is => true
  | .im => true
  | .sm => true
  | _ => false

/-- A reservation of LR on the line is lost (R222). -/
def Dev.loseResv (d : Dev) (k line : Nat) : Dev :=
  let h := d.hart k
  if h.resv = some line then d.setHart k { h with resv := none } else d

/-! ## Requests -/

/-- The request of a state: ReadShared in IS, ReadOwn in IM, Upgrade in SM. -/
def requestFor (st : L2State) (r : HomeReq) : Option Instr :=
  match st with
  | .is => some (.readShared r false .none .none .none)
  | .im => some (.readOwn r .none .none .none)
  | .sm => some (.upgrade r .none .none .none)
  | _ => none

/-- A hart's L2 sends a request and its line waits in `st`; data held stays readable in SM. -/
def Dev.l2Request (d : Dev) (k line : Nat) (st : L2State) (w : World) (hint stream : Nat) (who : Asker) : Dev :=
  let r : HomeReq := { agent := k, line := line, world := w, hint := hint, stream := stream }
  let old := (d.hart k).line line
  let d := d.setL2 k line { old with state := st, req := some r, askers := [who] }
  match requestFor st r with
  | some m => d.inject (corePoint k) k (d.hartClass k) 1 m (some (.hartLine k line, d.coherentUs))
  | none => d

/-- Every earlier store of the hart to memory is visible: none waits in the store buffer or at the home of its line. -/
def Hart.memVisible (h : Hart) : Bool := !h.sbuf.any (fun e => !e.io) && !h.tracker.any (fun x => x.home)

/-- The store buffer has drained, and every store to memory is visible (R222). -/
def Hart.drained (h : Hart) : Bool := h.sbuf.isEmpty && h.memVisible

/-- Lines that an L2 misses: their requests are outstanding. -/
def Hart.missesOut (h : Hart) : Nat := (h.l2.filter (fun e => e.2.state = .is || e.2.state = .im)).length

/-- Another joins those who wait for a line's request. -/
def Dev.joinRequest (d : Dev) (k line : Nat) (who : Asker) : Dev :=
  let l := (d.hart k).line line
  if l.askers.contains who then d else d.setL2 k line { l with askers := l.askers ++ [who] }

/-- Table 08-3: a core has 48 L2 misses outstanding; a further one waits. -/
def Dev.missRoom (d : Dev) (k : Nat) : Bool := (d.hart k).missesOut < 48

/-- The L2 begins to obtain a line for reading, or `who` waits for the read under way. -/
def Dev.wantShared (d : Dev) (k line : Nat) (w : World) (hint stream : Nat) (who : Asker) : Dev :=
  match ((d.hart k).line line).state with
  | .i => if d.missRoom k then d.l2Request k line .is w hint stream who else d
  | .is => d.joinRequest k line who
  | _ => d

/-- The L2 begins to obtain a line for writing, or `who` waits for the request under way. -/
def Dev.wantOwned (d : Dev) (k line : Nat) (w : World) (hint stream : Nat) (who : Asker) : Dev :=
  match ((d.hart k).line line).state with
  | .i => if d.missRoom k then d.l2Request k line .im w hint stream who else d
  | .s => d.l2Request k line .sm w hint stream who
  | .im => d.joinRequest k line who
  | .sm => d.joinRequest k line who
  | _ => d

/-- A request for the line is on its way to the home. -/
def isRequest (k line : Nat) : Instr → Bool
  | .readShared r _ _ _ _ => r.agent = k && r.line = line
  | .readOwn r _ _ _ => r.agent = k && r.line = line
  | .upgrade r _ _ _ => r.agent = k && r.line = line
  | _ => false

/-! ## Evictions (R280, R287) -/

/-- A message on VN4 of an agent, by its kind and line: voluntary writebacks and evictions, or a recall's data. -/
def vn4Of (k : Nat) : Instr → Option (Bool × Nat)
  | .writeBackFull a l _ _ => if a = k then some (true, l) else none
  | .writeBackClean a l => if a = k then some (true, l) else none
  | .evictClean a l => if a = k then some (true, l) else none
  | .recallAckData a l _ _ => if a = k then some (false, l) else none
  | _ => none

/-- The message is of a kind, and for the slice of a line. -/
def Dev.sameEntry (d : Dev) (k : Nat) (kind : Bool) (line : Nat) (m : Instr) : Bool :=
  match vn4Of k m with
  | some x => x.1 = kind && d.homeSlice x.2 = d.homeSlice line
  | none => false

/-- R287: an agent keeps one message of each kind in flight to a slice; a further one waits in the victim buffer. -/
def Dev.sendVn4 (d : Dev) (k : Nat) (m : Instr) : Dev :=
  match vn4Of k m with
  | none => d.post m
  | some x =>
    let h := d.hart k
    if d.fab.net.any (d.sameEntry k x.1 x.2) || h.victims.any (d.sameEntry k x.1 x.2)
    then d.setHart k { h with victims := h.victims ++ [m] } else d.post m

/-- A message of a kind has been taken for a line: the next one for its slice is sent. -/
def Dev.nextVn4 (d : Dev) (k : Nat) (kind : Bool) (line : Nat) : Dev :=
  if 240 ≤ k || d.fab.net.any (d.sameEntry k kind line) then d
  else
    let h := d.hart k
    match h.victims.find? (d.sameEntry k kind line) with
    | none => d
    | some m => (d.setHart k { h with victims := h.victims.erase m }).post m

/-- An L2 evicts a line: WriteBackFull from M, WriteBackClean from E, EvictClean from S. -/
def Dev.evict (d : Dev) (k line : Nat) : Dev :=
  let l := (d.hart k).line line
  match l.state with
  | .m => ((d.setL2 k line { l with state := .mi }).sendVn4 k (.writeBackFull k line l.data l.mark)).loseResv k line
  | .e => ((d.setL2 k line { l with state := .ei }).sendVn4 k (.writeBackClean k line)).loseResv k line
  | .s => ((d.setL2 k line { l with state := .i }).sendVn4 k (.evictClean k line)).loseResv k line
  | _ => d

/-- The set of a line in the 1 MiB, 16-way L2. -/
def l2Set (line : Nat) : Nat := field line 6 10

/-- Lines of the set that a fill may evict: those in S, E or M. -/
def Hart.evictable (h : Hart) (set : Nat) : List Nat :=
  (h.l2.filter (fun e => l2Set e.1 = set && (e.2.state = .s || e.2.state = .e || e.2.state = .m))).map
    (fun e => e.1)

/-- Lines of the set that occupy a way. -/
def Hart.setCount (h : Hart) (set : Nat) : Nat :=
  (h.l2.filter (fun e => l2Set e.1 = set && e.2.state != .ei && e.2.state != .mi)).length

/-- A fill of `line` makes room in its set. The manual does not say which way leaves: a free value chooses. -/
def Dev.makeRoom (d : Dev) (k line : Nat) : Dev :=
  let h := d.hart k
  let c := (h.evictable (l2Set line)).filter (fun a => a != line)
  if h.setCount (l2Set line) ≤ 16 || c.length = 0 then d
  else
    let w := d.takeWord
    w.2.evict k (c.getD (w.1.toNat % c.length) 0)

/-! ## A core that drains (R198, R315, R414) -/

/-- The other core of a pair (R194). -/
def pairOf (k : Nat) : Nat := k ^^^ 1

/-- R194: the compute die of a core runs in pair mode. -/
def Dev.pairMode (d : Dev) (k : Nat) : Bool := d.get (rCoreModeActive (k / 20)) = 1

/-- The core is a shadow. -/
def Dev.isShadow (d : Dev) (k : Nat) : Bool := d.pairMode k && k % 2 = 1

/-- A core enters a state; a shadow is in the state of its lead. -/
def Dev.setCore (d : Dev) (k st : Nat) : Dev :=
  let d := d.setUnit (.core k) st
  if d.pairMode k then d.setUnit (.core (pairOf k)) st else d

/-- R290: an agent leaves service; its reservations and set-aside trackers are released. -/
def Dev.releaseAgent (d : Dev) (agent : Nat) : Dev :=
  { d with homes := d.homes.map (fun e => (e.1, { e.2 with resvs := tabErase e.2.resvs agent })) }

/-- A core has stopped and what it holds leaves: it is QUIESCING, or FENCED. -/
def Dev.coreDrains (d : Dev) (k : Nat) : Bool :=
  !(d.hart k).running && (d.unit (.core k) = stQuiescing || d.unit (.core k) = stFenced)

/-- A store still waits for the line. -/
def Hart.needsLine (h : Hart) (line : Nat) : Bool := h.sbuf.any (fun e => lineAddr e.pa = line)

/-- The lines of a core that no store waits for are written back or dropped. -/
def Dev.drainLines (d : Dev) (k : Nat) : Dev :=
  ((d.hart k).l2.map (fun e => e.1)).foldl (fun d a => if (d.hart k).needsLine a then d else d.evict k a) d

/-- Nothing of a core is outstanding: stores, requests and lines. -/
def Dev.coreDrained (d : Dev) (k : Nat) : Bool :=
  let h := d.hart k
  h.sbuf.isEmpty && h.tracker.isEmpty && h.ioLoad.isNone && h.l2.isEmpty && h.victims.isEmpty && !d.fab.ops.any (fun o => o.1 = k)

/-- A core has been reset (R198, R48): its hart and its objects are at their reset values. -/
def Dev.clearCore (d : Dev) (k : Nat) : Dev :=
  let d := d.resetRegs (fun i => 0x4000 + 0x10 * k < i && i < 0x4010 + 0x10 * k)
  (d.setHart k Hart.reset).releaseAgent k

/-- A core of a compute die still executes, drains, or waits under R415. -/
def Dev.dieBusy (d : Dev) (n : Nat) : Bool :=
  (List.range 20).any (fun c =>
    let k := 20 * n + c
    d.unit (.core k) = stActive || d.unit (.core k) = stQuiescing || (d.hart k).deferred)

/-- A core is held in the reset of its die; one that is FAILED shows so until its self-test (R9). -/
def Dev.holdCore (d : Dev) (k : Nat) : Dev := if d.unit (.core k) = stFailed then d else (d.clearCore k).setUnit (.core k) stReset

/-- A compute die that is QUIESCING has its last core stop: under RESET its cores are held in reset and it is bypassed (R414 step
2), under QUIESCE it is READY. -/
def Dev.dieDrained (d : Dev) (n : Nat) : Dev :=
  if d.unit (.die n) = stQuiescing && !d.dieBusy n then
    if d.resetting.contains n then
      let d := { d with resetting := d.resetting.filter (fun x => x != n) }
      ((List.range 20).foldl (fun d c => d.holdCore (20 * n + c)) d).setUnit (.die n) stBypassed
    else (d.setUnit (.die n) stReady).set (rUnitCommand (.die n)) cmdDone
  else d

/-- What becomes of a core that has drained in QUIESCING: READY by its own reset, held in reset by that of its die. -/
def Dev.coreReset (d : Dev) (k : Nat) : Dev :=
  let d := d.clearCore k
  let d := if d.get (rUnitCommand (.core k)) = cmdRunning then
      (d.setCore k stReady).set (rUnitCommand (.core k)) cmdDone
    else d.setCore k stReset
  d.dieDrained (k / 20)

/-- A drain goes on: lines that have become free to leave do, and a reset ends with the last of what was outstanding. -/
def Dev.coreSettle (d : Dev) (k : Nat) : Dev :=
  if k < 240 && d.coreDrains k then
    let d := d.drainLines k
    if d.unit (.core k) = stQuiescing && d.coreDrained k then d.coreReset k else d
  else d

/-! ## Errors in the L2 (R254) -/

/-- A corrected array error of a core, counted and raised (R252). -/
def Dev.cacheCorrected (d : Dev) (k src line : Nat) : Dev :=
  (d.addSat (rCoreArrayErrors k) 1).raiseAt kCacheCorrected src line 0

/-! ## The die filter (R282, R283) -/

/-- The set of a line in its die's filter. -/
def filterKey (die line : Nat) : Nat := die * 32768 + field line 6 15

/-- The entries of a set, most recently used first. -/
def Dev.filterSet (d : Dev) (die line : Nat) : List FilterEntry := tabGet d.filters (filterKey die line) []

/-- The device with a set of a die filter. -/
def Dev.setFilter (d : Dev) (die line : Nat) (l : List FilterEntry) : Dev :=
  { d with filters := if l.isEmpty then tabErase d.filters (filterKey die line)
                      else tabPut d.filters (filterKey die line) l }

/-- The entry of a line. -/
def Dev.filterEntry (d : Dev) (die line : Nat) : Option FilterEntry :=
  (d.filterSet die line).find? (fun e => e.line = line)

/-- The entry of a line changes; an entry with no bit set that no request waits for is freed (Table 12-4). -/
def Dev.updateFilter (d : Dev) (die line : Nat) (f : FilterEntry → FilterEntry) : Dev :=
  d.setFilter die line (((d.filterSet die line).map (fun e => if e.line = line then f e else e)).filter
    (fun e => e.presence != 0 || e.line != line))

/-- A core holds or waits for the line at its die: a transaction of the die holds the way. -/
def Dev.dieWaits (d : Dev) (die line : Nat) : Bool :=
  (List.range 20).any (fun c => ((d.hart (20 * die + c)).line line).state.waits)

/-- Cores of a presence vector, as hart numbers. -/
def presentCores (die presence : Nat) : List Nat :=
  ((List.range 20).filter (fun c => presence.testBit c)).map (fun c => 20 * die + c)

/-- A recall of a line from a core, sent by its filter: the core evicts. -/
def Dev.filterRecall (d : Dev) (k line : Nat) : Dev := d.post (.recallInv k line false .none)

/-- R282: an entry for the line, if the filter can allocate one now: true when it is there. Else the least
recently used way that no transaction of the die holds starts to leave. -/
def Dev.filterAllocate (d : Dev) (die line : Nat) : Bool × Dev :=
  let set := d.filterSet die line
  match set.find? (fun e => e.line = line) with
  | some e => (e.leaving = 0, if e.leaving = 0 then d.setFilter die line (e :: set.erase e) else d)
  | none =>
    if set.length < 12 then
      (true, d.setFilter die line ({ line := line, presence := 0, x := false, leaving := 0 } :: set))
    else if set.any (fun e => e.leaving != 0) then (false, d)
    else
      match set.reverse.find? (fun e => !d.dieWaits die e.line) with
      | none => (false, d)
      | some v =>
        let d := d.setFilter die line (set.map (fun e => if e.line = v.line then { e with leaving := e.presence } else e))
        let d := d.add (rFltBackInvals die) 1
        (false, (presentCores die v.presence).foldl (fun d k => d.filterRecall k v.line) d)

/-- A core has left a line: its bit, its place in a leaving entry, and the X flag of an owner go. A line
homed elsewhere leaves the proxy's filter with the die's last core (R389). -/
def Dev.filterLeave (d : Dev) (k line : Nat) (owner : Bool) : Dev :=
  let c := k % 20
  let d := d.updateFilter (k / 20) line (fun e =>
    { e with presence := bitClear e.presence c, leaving := bitClear e.leaving c,
             x := if owner then false else e.x })
  if (d.remoteHome line).isSome && (d.filterEntry (k / 20) line).isNone then d.remoteLeave (k / 20) line else d

/-- A data message for a core sets its bit, and X for DataExclusive. -/
def Dev.filterGrant (d : Dev) (k line : Nat) (x : Bool) : Dev :=
  let die := k / 20
  let set := d.filterSet die line
  let e := (d.filterEntry die line).getD { line := line, presence := 0, x := false, leaving := 0 }
  let e' := { e with presence := bitSet e.presence (k % 20), x := x || e.x }
  let d := d.setFilter die line (e' :: set.filter (fun y => y.line != line))
  if (d.remoteHome line).isSome then d.remoteGrant die line x else d

/-! ## Messages that reach an L2 -/

/-- A unit state in which the edge answers for the unit. -/
def stateGone (st : Nat) : Bool := st = stOff || st = stReset || st = stBypassed || st = stFailed

/-- A request that has been refused is injected again, in the hart's class (R208, R310); its timer runs on. -/
def Dev.sendAgain (d : Dev) (k : Nat) (m : Instr) : Dev := d.inject (corePoint k) k (d.hartClass k) 1 m none

/-- The outstanding request of an agent for a line, other than a cacheable read. -/
def Dev.opOf (d : Dev) (a line : Nat) : Option Instr :=
  (d.fab.ops.find? (fun o => o.1 = a && o.2.1 = line)).map (fun o => o.2.2)

/-- Such a request is outstanding no longer. -/
def Dev.dropOp (d : Dev) (a line : Nat) : Dev :=
  { d with fab := { d.fab with ops := d.fab.ops.filter (fun o => !(o.1 = a && o.2.1 = line)) } }

/-- Flits of a request (R299). -/
def flitsOf : Instr → Nat
  | .partialWrite _ _ _ _ _ => 2
  | .invWrite _ _ _ _ _ => 2
  | _ => 1

/-- A refused request other than a cacheable read is injected again. -/
def Dev.opAgain (d : Dev) (a line : Nat) : Dev :=
  match d.opOf a line with
  | none => d
  | some m => if a < 240 then d.inject (corePoint a) a (d.hartClass a) (flitsOf m) m none else d.inject iodPoint a 0 (flitsOf m) m none

/-- R289: an agent's reserved request has been served or has ended; what it held for the line's slice is sent again. -/
def Dev.served (d : Dev) (a line : Nat) : Dev :=
  if !d.fab.reserved.contains (a, line) then d
  else
    let same (l : Nat) : Bool := d.homeSlice l = d.homeSlice line
    let ops := d.fab.heldOps.filter (fun x => x.1 = a && same x.2)
    let lines := if a < 240 then (d.hart a).l2.filter (fun e => e.2.held && same e.1) else []
    let d := { d with fab := { d.fab with reserved := d.fab.reserved.erase (a, line), heldOps := d.fab.heldOps.filter (fun x => !ops.contains x) } }
    let d := ops.foldl (fun d x => d.opAgain a x.2) d
    lines.foldl (fun d e =>
      let d := d.setL2 a e.1 { e.2 with held := false }
      match e.2.req with
      | some r => (match requestFor e.2.state r with
          | some m => d.sendAgain a m
          | none => d)
      | none => d) d

/-- Data reaches an L2 that waits for it. -/
def Dev.fill (d : Dev) (k line : Nat) (data : Line) (mark excl : Bool) : Dev :=
  let d := d.filterGrant k line excl
  let d := d.setL2 k line { state := if excl then .e else .s, data := data, mark := mark, req := none }
  let d := (d.stopTimer (.hartLine k line)).post (.grantAck k line)
  (d.makeRoom k line).served k line

/-- A hart's L2 sends such a request; it is injected under R310. -/
def Dev.sendOp (d : Dev) (k line flits : Nat) (m : Instr) : Dev :=
  ({ d with fab := { d.fab with ops := d.fab.ops ++ [(k, line, m)] } }).inject (corePoint k) k (d.hartClass k)
    flits m (some (.hartLine k line, d.coherentUs))

/-- A request of a hart other than a cacheable read is that of a retired store. -/
def isStoreOp : Instr → Bool
  | .partialWrite _ _ _ _ _ => true
  | _ => false

/-- The answer of a home to a hart's request other than a cacheable read, for the store buffer or for the instruction that waits. -/
def Dev.homeAnswer (d : Dev) (k line : Nat) (ok : Bool) (v : Nat) : Dev :=
  let h := d.hart k
  let store : Bool := match d.opOf k line with
    | some m => isStoreOp m
    | none => false
  let mine (x : NonPosted) : Bool := x.home && lineAddr x.pa = line
  (if store && h.tracker.any mine then d.setHart k { h with tracker := h.tracker.filter (fun x => !mine x) }
   else d.setHart k { h with homeDone := h.homeDone ++ [⟨line, store, ok, v⟩] }).dropOp k line |>.served k line

/-- R314: the request has expired, so its data is discarded. -/
def Dev.discardData (d : Dev) (k line : Nat) : Dev := (d.lateResponse).post (.grantAck k line)

/-- A data message for a line. -/
def isData (excl : Bool) (k line : Nat) : Instr → Bool
  | .dataShared a l _ _ => !excl && a = k && l = line
  | .dataExclusive a l _ _ => excl && a = k && l = line
  | _ => false

/-! ## Answers to inbound requests (R35, R351) -/

/-- Agent number of the IOD, which makes inbound requests (Table 12-1). -/
def iodAgent : Nat := 244

/-- The counter group of a root port (Table 20-1). -/
def portRootGroup (n : Nat) : Nat := 228 + n

/-- The request was made by root port `n`. -/
def isInbound (n : Nat) : ReqOwner → Bool
  | .inbound p _ => p = n
  | _ => false

/-- The root port whose request of a line is oldest. -/
def Dev.inboundPort (d : Dev) (line : Nat) : Option Nat :=
  d.fab.reqs.findSome? (fun e => match e.2.owner with
    | .inbound p l => if l = line then some p else none
    | _ => none)

/-- A completion leaves a root port, with a line of data or with an error. -/
def Dev.sendCompletion (d : Dev) (n : Nat) (ok : Bool) : Dev :=
  let g := portRootGroup n
  let d := d.countEvent g 2 1 none
  if ok then (d.countEvent g 4 64 none).countBytes g 0 64 none else d.countEvent g 6 1 none

/-- R343: a consumer meets marked data; in poison mode that raises a fault naming it. -/
def Dev.consumed (d : Dev) (src a : Nat) : Dev :=
  if d.get rMemPoisonMode = 1 then d.raiseAt kPoisonConsumed src a 0 else d

/-- The answer to the oldest request of the IOD agent for a line. Marked data goes out poisoned (R343); a posted write has no
completion. -/
def Dev.inboundAnswer (d : Dev) (agent line : Nat) (ok read mark : Bool) : Dev :=
  if agent != iodAgent then (d.dropOp agent line).served agent line
  else
    match d.inboundPort line with
    | none => d.lateResponse
    | some n =>
      let asRead : Bool := match d.opOf agent line with
        | some (.readShared _ _ _ _ _) => true
        | _ => read
      let d : Dev := { d with fab := { d.fab with
        ops := dropFirst (fun o => o.1 = agent && o.2.1 = line) d.fab.ops,
        reqs := dropFirst (fun e => e.2.owner = .inbound n line) d.fab.reqs } }
      let d := d.served agent line
      if asRead then (if mark then d.consumed (696 + n) line else d).sendCompletion n ok else d

/-- DATA_SHARED (R280): IS becomes S. An agent that does not cache takes the data and answers GrantAck. -/
def execDataShared (agent line : Nat) (data : Line) (mark : Bool) (s : State) : Out :=
  occursAt 280 (agent < 248)
    (fun d => 240 ≤ agent || (d.opOf agent line).isSome
      || ((d.hart agent).line line).state = .is || ((d.hart agent).line line).state = .i || d.fab.net.any (isData false agent line))
    (fun d =>
      let d := d.takeMsg (isData false agent line)
      let mark := mark || d.fromLost line
      if 240 ≤ agent then (d.inboundAnswer agent line true true mark).post (.grantAck agent line)
      else if (d.opOf agent line).isSome then
        (((d.homeAnswer agent line (!mark) data.toNat).stopTimer (.hartLine agent line)).post (.grantAck agent line)).coreSettle
          agent
      else if ((d.hart agent).line line).state = .is then (d.fill agent line data mark false).coreSettle agent
      else d.discardData agent line) s

/-- DATA_EXCLUSIVE (R280, R281): IS, IM and SM become E. -/
def execDataExclusive (agent line : Nat) (data : Line) (mark : Bool) (s : State) : Out :=
  occursAt 280 (agent < 248)
    (fun d => 240 ≤ agent || ((d.hart agent).line line).state.waits || ((d.hart agent).line line).state = .i
      || d.fab.net.any (isData true agent line))
    (fun d =>
      let d := d.takeMsg (isData true agent line)
      let mark := mark || d.fromLost line
      if 240 ≤ agent then (d.inboundAnswer agent line true true mark).post (.grantAck agent line)
      else if ((d.hart agent).line line).state.waits then (d.fill agent line data mark true).coreSettle agent
      else d.discardData agent line) s

/-- A recall for a line of a core. -/
def isRecall (inv : Bool) (k line : Nat) : Instr → Bool
  | .recallShare a l _ => !inv && a = k && l = line
  | .recallInv a l _ _ => inv && a = k && l = line
  | _ => false

/-- A recall from the home of a remote line reaches this package's proxy, which recalls its own holders, or
answers at once where it has none (R390). -/
def Dev.proxyRecall (d : Dev) (agent line : Nat) (share discard : Bool) : Dev :=
  match d.remoteHome line, d.remoteEntry line with
  | some _, some e =>
    ((List.range 12).filter (fun n => e.presence.testBit n)).foldl (fun d n =>
      match d.filterEntry n line with
      | none => d
      | some f => (presentCores n f.presence).foldl (fun d k =>
          d.post (if share then .recallShare k line .none else .recallInv k line discard .none)) d) d
  | some q, none => d.sendRemote q 2 msgRecallAck agent line .normal false
  | none, _ => d

/-- An Inv from the home of a remote line reaches the proxy, which invalidates its holder dies (R390). -/
def Dev.proxyInv (d : Dev) (agent line : Nat) (excepted : Option Nat) : Dev :=
  match d.remoteHome line, d.remoteEntry line with
  | some _, some e =>
    ((List.range 12).filter (fun n => e.presence.testBit n)).foldl (fun d n => d.post (.inv n line excepted)) d
  | some q, none => d.sendRemote q 2 msgInvAck agent line .normal false
  | none, _ => d

/-- The number of a remote agent (Table 12-1); as a destination it stands for this package's proxy. -/
def isRemoteAgent (a : Nat) : Bool := 245 ≤ a && a < 248

/-- The filter of the core's die is making the line leave (R282, R295). -/
def Dev.filterLeaving (d : Dev) (k line : Nat) : Bool :=
  match d.filterEntry (k / 20) line with
  | some e => e.leaving.testBit (k % 20)
  | none => false

/-- An Inv takes a core's S copy: S becomes I, SM becomes IM. -/
def Dev.invCore (d : Dev) (k line : Nat) : Dev :=
  let l := (d.hart k).line line
  match l.state with
  | .s => (d.setL2 k line { l with state := .i }).loseResv k line
  | .sm => (d.setL2 k line { l with state := .im }).loseResv k line
  | _ => d

/-- An Inv for a die. -/
def isInv (die line : Nat) : Instr → Bool
  | .inv n l _ => n = die && l = line
  | _ => false

/-- INV (Table 12-4): every present core of the die but the excepted agent loses its copy; one InvAck. For a die that is gone the edge
answers (R296). -/
def execInv (die line : Nat) (excepted : Option Nat) (s : State) : Out :=
  occursAt 283 (die < 12 || isRemoteAgent die) (fun _ => true)
    (fun d =>
      let d := d.takeMsg (isInv die line)
      if isRemoteAgent die then d.proxyInv die line excepted
      else if stateGone (d.unit (.die die)) then (d.add rFabTargetOffline 1).post (.invAck die line)
      else
      match d.filterEntry die line with
      | none => d.post (.invAck die line)
      | some e =>
        let cores := (presentCores die e.presence).filter (fun k => some k != excepted)
        let d := cores.foldl (fun d k => d.invCore k line) d
        let d := cores.foldl (fun d k => d.filterLeave k line false) d
        d.post (.invAck die line)) s

/-- WB_ACK (Table 12-3): EI and MI become I. -/
def execWbAck (hart line : Nat) (s : State) : Out :=
  occursAt 280 (hart < 240)
    (fun d => ((d.hart hart).line line).state = .ei || ((d.hart hart).line line).state = .mi)
    (fun d =>
      let d := d.takeMsg (fun m => m = .wbAck hart line)
      (d.setL2 hart line { (d.hart hart).line line with state := .i }).coreSettle hart) s

/-- A request of the agent for the line is outstanding. -/
def Dev.asking (d : Dev) (a line : Nat) : Bool := (d.opOf a line).isSome || (a < 240 && ((d.hart a).line line).state.waits)

/-- RETRY (Table 12-3, R289): the line keeps its state; it waits for RetryGrant, or, with RES = 0, for the agent's reserved request at the
slice. One for a request that has expired is discarded (R314). -/
def execRetry (agent line : Nat) (res : Bool) (s : State) : Out :=
  occursAt 289 (agent < 248) (fun d => 240 ≤ agent || d.asking agent line || d.fab.net.contains (.retry agent line res))
    (fun d =>
      let d := d.takeMsg (fun m => m = .retry agent line res)
      if !d.asking agent line then d.lateResponse
      else if res then { d with fab := { d.fab with reserved := d.fab.reserved ++ [(agent, line)] } }
      else if (d.opOf agent line).isSome then { d with fab := { d.fab with heldOps := d.fab.heldOps ++ [(agent, line)] } }
      else d.setL2 agent line { (d.hart agent).line line with held := true }) s

/-- RETRY_GRANT (Table 12-3, R290): the request for the line's present state is sent again. -/
def execRetryGrant (agent line : Nat) (s : State) : Out :=
  occursAt 290 (agent < 248) (fun d => 240 ≤ agent || d.asking agent line || d.fab.net.contains (.retryGrant agent line))
    (fun d =>
      let d := d.takeMsg (fun m => m = .retryGrant agent line)
      if !d.asking agent line then d.lateResponse
      else if (d.opOf agent line).isSome then d.opAgain agent line
      else
        let l := (d.hart agent).line line
        match l.req with
        | some r => (match requestFor l.state r with
            | some m => d.sendAgain agent m
            | none => d)
        | none => d) s

end Sys2Proof.Machine
end

