-- ==== Sys2Proof/Machine/Home.lean ====
section
/-!
DEFINITION. The home slices (chapter 12): the directory (R284, R293, R294), requests and their refusal
(R288, R353, R449), open transactions (R279, R285, R286), writebacks (R287), reservations (R289, R290),
back-invalidation (R292) and lost dies (R296). Lines homed in another package go through the proxy.
-/
namespace Sys2Proof.Machine

/-! ## The directory (R284, Table 12-5) -/

/-- R284: the line key. -/
def Dev.lineKey (d : Dev) (line : Nat) : Nat :=
  match d.localRegion line with
  | none => field line 11 41
  | some _ => field line 11 41 * 4 + homeHash line / 8

/-- The directory set of a line. -/
def Dev.dirSetNo (d : Dev) (line : Nat) : Nat := d.lineKey line % 10240

/-- The tag of a line. -/
def Dev.dirTag (d : Dev) (line : Nat) : Nat := d.lineKey line / 10240

/-- The used ways of a line's set, most recently used first. -/
def Dev.dirSet (d : Dev) (line : Nat) : List DirEntry :=
  tabGet (d.home (d.homeSlice line)).dir (d.dirSetNo line) []

/-- The device with a set of a directory. -/
def Dev.setDirSet (d : Dev) (line : Nat) (l : List DirEntry) : Dev :=
  let s := d.homeSlice line
  let h := d.home s
  d.setHome s { h with dir := if l.isEmpty then tabErase h.dir (d.dirSetNo line)
                              else tabPut h.dir (d.dirSetNo line) l }

/-- The entry of a line; none is state I. -/
def Dev.dirEntry (d : Dev) (line : Nat) : Option DirEntry :=
  (d.dirSet line).find? (fun e => e.line = line)

/-- The line's way is freed. -/
def Dev.dirErase (d : Dev) (line : Nat) : Dev :=
  d.setDirSet line ((d.dirSet line).filter (fun e => e.line != line))

/-- The line's way holds an entry, used last. -/
def Dev.dirPut (d : Dev) (e : DirEntry) : Dev :=
  d.setDirSet e.line (e :: (d.dirSet e.line).filter (fun y => y.line != e.line))

/-- An entry in X with an owner. -/
def Dev.dirOwned (d : Dev) (line agent : Nat) : DirEntry :=
  { line := line, state := 2, remote := if 245 ≤ agent then 2 ^ (agent - 245) else 0,
    isLocal := (d.localRegion line).isSome, holders := if 245 ≤ agent then 0xFF else agent }

/-- The owner of an entry in X. -/
def DirEntry.owner (e : DirEntry) : Nat :=
  if e.holders = 0xFF then 245 + ((lowestBit 3 e.remote).getD 0) else e.holders

/-- A holder added to an entry in S: a die, or a remote agent. -/
def DirEntry.addHolder (e : DirEntry) (agent : Nat) : DirEntry :=
  if 245 ≤ agent then { e with remote := bitSet e.remote (agent - 245) }
  else { e with holders := bitSet e.holders (agent / 20) }

/-- An empty entry in S. -/
def Dev.dirShared (d : Dev) (line : Nat) : DirEntry :=
  { line := line, state := 1, remote := 0, isLocal := (d.localRegion line).isSome, holders := 0 }

/-- The compute dies and remote agents that hold an entry in S. -/
def DirEntry.sharers (e : DirEntry) : List Nat :=
  (List.range 12).filter (fun n => e.holders.testBit n) ++
    ((List.range 3).filter (fun j => e.remote.testBit j)).map (fun j => 245 + j)

/-! ## Transactions (R279) -/

/-- The open transaction of a line. -/
def Dev.txn (d : Dev) (line : Nat) : Option Txn :=
  (d.home (d.homeSlice line)).txns.find? (fun t => t.req.line = line)

/-- The open transaction of a line changes. -/
def Dev.updTxn (d : Dev) (line : Nat) (f : Txn → Txn) : Dev :=
  let s := d.homeSlice line
  let h := d.home s
  d.setHome s { h with txns := h.txns.map (fun t => if t.req.line = line then f t else t) }

/-- A transaction opens. -/
def Dev.addTxn (d : Dev) (t : Txn) : Dev :=
  let s := d.homeSlice t.req.line
  let h := d.home s
  d.setHome s { h with txns := h.txns ++ [t] }

/-- A transaction closes. -/
def Dev.dropTxn (d : Dev) (line : Nat) : Dev :=
  let s := d.homeSlice line
  let h := d.home s
  d.setHome s { h with txns := h.txns.filter (fun t => t.req.line != line) }

/-- A transaction with nothing awaited. -/
def newTxn (r : HomeReq) (k : TxnKind) : Txn :=
  { req := r, kind := k, recalls := [], acks := [], wbPend := false, memRead := false, memWrite := false,
    grantee := none, after := none, hold := false, wbSeen := false, old := 0 }

/-- The transaction is a back-invalidation, which uses the tracker of the request that waits for it (R292). -/
def Txn.isVictim (t : Txn) : Bool := t.kind = .victim

/-- Trackers open or set aside in a slice (`hsTrackersBusy`). -/
def Dev.trackersBusy (d : Dev) (s : Nat) : Nat :=
  let h := d.home s
  (h.txns.filter (fun t => !t.isVictim)).length + (h.resvs.filter (fun r => r.2.granted)).length

/-- The request needs a directory entry (R285). -/
def TxnKind.needsEntry : TxnKind → Bool
  | .shared nc => !nc
  | .own => true
  | _ => false

/-- Open requests of a set that will take a way of their own. -/
def Dev.pendingWays (d : Dev) (line : Nat) : Nat :=
  ((d.home (d.homeSlice line)).txns.filter (fun t => t.kind.needsEntry && t.req.line != line
    && d.dirSetNo t.req.line = d.dirSetNo line && (d.dirEntry t.req.line).isNone)).length

/-- No way of the line's set is free for a new entry. -/
def Dev.setFull (d : Dev) (line : Nat) : Bool := 16 ≤ (d.dirSet line).length + d.pendingWays line

/-- R291: the unpinned used ways of a line's set, least recently used first. -/
def Dev.unpinned (d : Dev) (line : Nat) : List DirEntry :=
  (d.dirSet line).reverse.filter (fun e => (d.txn e.line).isNone)

/-- R292: the victim that `dirVictimPolicy` chooses. -/
def Dev.victim (d : Dev) (line : Nat) : Option DirEntry :=
  let u := d.unpinned line
  if d.get rDirVictimPolicy = 1 then
    match u.find? (fun e => e.state = 1) with
    | some e => some e
    | none => u.head?
  else u.head?

/-! ## Answers to requesters -/

/-- A message of a home to an agent: over the network, or over Harfort to a remote agent. -/
def Dev.toAgent (d : Dev) (agent : Nat) (m : Instr) (vn msg line : Nat) (data : Bool) : Dev :=
  if 245 ≤ agent then d.sendRemote (d.agentPackage agent) vn msg agent line .normal data else d.post m

/-- CmpWrite to the requester. -/
def Dev.sendCmp (d : Dev) (agent line : Nat) (st : RspStatus) : Dev :=
  d.toAgent agent (.cmpWrite agent line st) 2 msgCmpWrite line false

/-! ## Lost dies (R296, Table 13-7) -/

/-- A caching agent of this package is answered for by the edge. -/
def Dev.agentGone (d : Dev) (agent : Nat) : Bool :=
  agent < 240 && (stateGone (d.unit (.core agent)) || stateGone (d.unit (.die (agent / 20))))

/-- The memory copy of a line as the home reads it: the Pewter entry under R259, else memory. -/
def Dev.lineView (d : Dev) (line : Nat) : Line × Bool :=
  match (if d.pewterServes then d.pewterEntry line else none) with
  | some e => (e.data, e.mark || d.lineLost line)
  | none => let v := d.memView line; (v.1, v.2 || d.lineLost line)

/-- R296: the memory copy of a line is marked. -/
def Dev.markLine (d : Dev) (line : Nat) : Dev := (d.homeWrite line 0 (d.lineView line).1 true).2

/-! ## Recalls and invalidations -/

/-- A recall of a line from an agent. A lost owner is answered for at once, and memory is marked. -/
def Dev.recallFrom (d : Dev) (line owner : Nat) (share discard : Bool) : Dev :=
  if d.agentGone owner then (if discard then d else d.markLine line)
  else
    let m := if share then Instr.recallShare owner line .none else .recallInv owner line discard .none
    let d := d.toAgent owner m 1 (if share then msgRecallShare else msgRecallInv) line false
    (d.updTxn line (fun t => { t with recalls := t.recalls ++ [owner] })).startTimer (.homeRecall owner line)
      d.coherentUs

/-- A home recalls a line from its owner. -/
def Dev.recall (d : Dev) (line owner : Nat) (share discard : Bool) (w : World) : Dev :=
  let s := d.homeSlice line
  ((d.add (rHsRecalls s) 1).countEvent s 4 1 (some w)).recallFrom line owner share discard

/-- A home invalidates the copies of a die or of a remote agent. -/
def Dev.sendInv (d : Dev) (line holder : Nat) (excepted : Option Nat) (w : World) : Dev :=
  let d := d.countEvent (d.homeSlice line) 4 1 (some w)
  if holder < 12 && stateGone (d.unit (.die holder)) then d
  else
    let d := d.toAgent holder (.inv holder line excepted) 1 msgInv line false
    (d.updTxn line (fun t => { t with acks := t.acks ++ [holder] })).startTimer (.homeInv holder line)
      d.coherentUs

/-- R285: the recalls and invalidations of a transaction, by the directory's state. -/
def Dev.probe (d : Dev) (line : Nat) (t : Txn) : Dev :=
  let w := t.req.world
  match d.dirEntry line with
  | none => d
  | some e =>
    if e.state = 1 then
      match t.kind with
      | .shared _ => d
      | .clean => d
      | .own => (e.sharers.filter (fun h => h < 12 || h != t.req.agent)).foldl
          (fun d h => d.sendInv line h (some t.req.agent) w) d
      | _ => e.sharers.foldl (fun d h => d.sendInv line h none w) d
    else if e.owner = t.req.agent && t.kind.needsEntry then d.updTxn line (fun t => { t with wbPend := true })
    else match t.kind with
      | .shared _ => d.recall line e.owner true false w
      | .clean => d.recall line e.owner true false w
      | .invWrite _ _ => d.recall line e.owner false true w
      | _ => d.recall line e.owner false false w

/-- R285: the directory once every recall and Inv of a transaction is answered. -/
def Dev.settle (d : Dev) (line : Nat) (t : Txn) : Dev :=
  match d.dirEntry line with
  | none => d
  | some e =>
    if e.state = 1 then
      match t.kind with
      | .shared _ => d
      | .clean => d
      | _ => d.dirErase line
    else if e.owner = t.req.agent && t.kind.needsEntry then d.dirErase line
    else match t.kind with
      | .shared _ => d.dirPut ((d.dirShared line).addHolder e.owner)
      | .clean => d.dirPut ((d.dirShared line).addHolder e.owner)
      | _ => d.dirErase line

/-! ## What a transaction does once its answers are in -/

/-- Bytes of `new` where the mask is set, of `old` elsewhere. -/
def mergeLine (mask : BitVec 64) (old new : Line) : Line :=
  lineOf ((List.range 64).map (fun i => if mask.getLsbD i then lineByte new i else lineByte old i))

/-- The operand of an atomic inside a line. -/
def lineField (l : Line) (off size : Nat) : Nat := fieldLe (lineBytes l) off size

/-- A line with an operand replaced. -/
def putLineField (l : Line) (off size v : Nat) : Line := lineOf (spliceBytes (lineBytes l) off (leBytes size v))

/-- Table 12-7: what an operation at home stores; none where it stores nothing. -/
def atomicResult (k : TxnKind) (old : Nat) : Option Nat :=
  match k with
  | .fetchAdd size _ v => some ((old + v) % 256 ^ size)
  | .swap _ _ v => some v
  | .cas _ _ c v => if old = c then some v else none
  | .fetchOr _ _ v => some (old ||| v)
  | _ => none

/-- Size and offset of an operation at home. -/
def atomicPlace : TxnKind → Option (Nat × Nat)
  | .fetchAdd size off _ => some (size, off)
  | .swap size off _ => some (size, off)
  | .cas size off _ _ => some (size, off)
  | .fetchOr size off _ => some (size, off)
  | _ => none

/-- R286: the operation is one of Table 12-7, naturally aligned within one line. -/
def atomicOk (k : TxnKind) : Bool :=
  match atomicPlace k with
  | none => true
  | some (size, off) =>
    (size = 4 || size = 8 || (size = 16 && (match k with
        | .cas _ _ _ _ => true
        | _ => false)))
      && off % size = 0 && off + size ≤ 64

/-- A transaction grants data: the directory after, the message, and the wait for GrantAck (Table 12-6). -/
def Dev.grant (d : Dev) (line : Nat) (t : Txn) (data : Line) (mark : Bool) : Dev :=
  let a := t.req.agent
  let share := (d.dirEntry line).isSome && t.kind != .own
  let d := match t.kind with
    | .shared true => d
    | .shared false =>
      (match d.dirEntry line with
       | some e => d.dirPut (e.addHolder a)
       | none => d.dirPut (d.dirOwned line a))
    | _ => d.dirPut (d.dirOwned line a)
  let shared := share || t.kind = .shared true
  let d := d.updTxn line (fun t => { t with grantee := some a, memRead := false })
  if shared then d.toAgent a (.dataShared a line data mark) 3 msgDataShared line true
  else d.toAgent a (.dataExclusive a line data mark) 3 msgDataExclusive line true

/-- The result of a transaction that grants nothing. -/
def Dev.finish (d : Dev) (line : Nat) (t : Txn) : Dev :=
  let a := t.req.agent
  let d := d.dropTxn line
  match t.kind with
  | .victim => d
  | .fetchAdd _ _ _ => d.toAgent a (.atomicData a line t.old) 3 msgAtomicData line true
  | .swap _ _ _ => d.toAgent a (.atomicData a line t.old) 3 msgAtomicData line true
  | .cas _ _ _ _ => d.toAgent a (.atomicData a line t.old) 3 msgAtomicData line true
  | .fetchOr _ _ _ => d.toAgent a (.atomicData a line t.old) 3 msgAtomicData line true
  | _ => d.sendCmp a line .ok

/-- The home's last write of a transaction: it closes when memory has accepted it (R279). -/
def Dev.finalWrite (d : Dev) (line hint : Nat) (data : Line) (mark : Bool) : Dev :=
  let r := d.homeWrite line hint data mark
  let d := r.2.updTxn line (fun t => { t with memRead := false, memWrite := !r.1 })
  if r.1 then (match d.txn line with
    | some t => d.finish line t
    | none => d)
  else d.startTimer (.homeWrite line) d.coherentUs

/-- A transaction has the line's data: it grants, merges or operates. -/
def Dev.withData (d : Dev) (line : Nat) (data : Line) (mark : Bool) : Dev :=
  match d.txn line with
  | none => d
  | some t =>
    match t.kind with
    | .shared _ => d.grant line t data mark
    | .own => d.grant line t data mark
    | .partialWrite mask new => d.finalWrite line t.req.hint (mergeLine mask data new) mark
    | k =>
      match atomicPlace k with
      | none => d
      | some (size, off) =>
        let old := lineField data off size
        let d := d.updTxn line (fun t => { t with old := old, memRead := false })
        match atomicResult k old with
        | some v => d.finalWrite line t.req.hint (putLineField data off size v) mark
        | none => d.finish line { t with old := old }

/-- A request that reads its line for its requester (R263): a merge and an operation at home train no stream. -/
def TxnKind.reads : TxnKind → Bool
  | .shared _ => true
  | .own => true
  | _ => false

/-- R278: the home's read of memory for a transaction; a read that misses Pewter's array trains (R263). -/
def Dev.readFor (d : Dev) (line : Nat) (t : Txn) : Dev :=
  let inArray := d.pewterServes && (d.pewterEntry line).isSome
  let r := d.homeRead line t.req.world t.refill
  let d := if r.2.pewterActive && !inArray && t.kind.reads then r.2.train line t.req.world t.req.agent t.req.stream else r.2
  match r.1 with
  | some v => d.withData line v.1 v.2
  | none =>
    let d := d.updTxn line (fun t => { t with memRead := true })
    let d := match d.place line with
      | some _ => d.sendRead line t.req.hint
      | none => d.post (.memoryReadData line (d.memView line).1 (d.memView line).2)
    d.startTimer (.homeRead line) d.coherentUs

/-- R273, R285: the per-line maintenance of the Pewter entry. True when memory has it all. -/
def Dev.maintain (d : Dev) (line : Nat) (flush : Bool) : Bool × Dev :=
  let d := d.dropSide line
  match (if d.pewterServes then d.pewterEntry line else none) with
  | none => (true, d)
  | some e =>
    let d' := if flush && !d.segLocked line then d.pewterDrop line
      else { d with pewter := tabPut d.pewter (d.pewterKey line) { e with dirty := false } }
    if e.dirty then
      ((d.place line).isNone, d'.sendWrite line 0 e.data e.mark)
    else (true, d')

/-- The request that waits for a way holds no longer. -/
def Dev.releaseHolder (d : Dev) (line : Nat) : Dev := d.updTxn line (fun t => { t with hold := false })

/-- A transaction whose answers are all in acts (R285). The count bounds the chain from a
back-invalidation to the request that waits for it. -/
def Dev.advance : Nat → Dev → Nat → Dev
  | 0, d, _ => d
  | n + 1, d, line =>
    match d.txn line with
    | none => d
    | some t =>
      if t.hold || t.recalls.length != 0 || t.acks.length != 0 || t.wbPend || t.memRead || t.memWrite
          || t.grantee.isSome then d
      else
        let d := d.settle line t
        match t.kind with
        | .victim =>
          let d := d.dropTxn line
          (match t.after with
           | none => d
           | some l => (d.releaseHolder l).advance n l)
        | .invWrite data mark => d.finalWrite line t.req.hint data mark
        | .clean =>
          let r := d.maintain line false
          if r.1 then r.2.finish line t
          else (r.2.updTxn line (fun t => { t with memWrite := true })).startTimer (.homeWrite line) d.coherentUs
        | .flush =>
          let r := d.maintain line true
          if r.1 then r.2.finish line t
          else (r.2.updTxn line (fun t => { t with memWrite := true })).startTimer (.homeWrite line) d.coherentUs
        | _ => d.readFor line t

/-- A transaction goes as far as it can. -/
def Dev.go (d : Dev) (line : Nat) : Dev := d.advance 3 line

/-- R292: a victim of the line's set is back-invalidated for the request that waits. -/
def Dev.backInvalidate (d : Dev) (line : Nat) (v : DirEntry) (w : World) : Dev :=
  let s := d.homeSlice line
  let d := (d.add (rHsBackInvals s) 1).countEvent s 5 1 (some w)
  let r : HomeReq := { agent := 255, line := v.line, world := w, hint := 0, stream := 0 }
  let t := { newTxn r .victim with after := some line }
  ((d.addTxn t).probe v.line t).go v.line

/-! ## Taking a request (R288, R289) -/

/-- R142: the address lies in a region of the started key store. -/
def Dev.inKeyStore (d : Dev) (a : Nat) : Bool :=
  d.ks.started &&
    ((d.get rKsDescBase ≤ a && a < d.get rKsDescBase + 0x400_0000)
      || (d.get rKsBlobBase ≤ a && a < d.get rKsBlobBase + d.get rKsBlobSize))

/-- The request seeks to write (R449). -/
def TxnKind.writes : TxnKind → Bool
  | .shared _ => false
  | .clean => false
  | .flush => false
  | .victim => false
  | _ => true

/-- The fault kind of a line that takes writes from its own unit alone: the key store's regions (R142), a bank's protected image (R166). -/
def Dev.guardedLine (d : Dev) (line : Nat) : Option Nat :=
  if d.inKeyStore line then some kKeystoreWrite else if d.bankLine line then some kElectrumBankWrite else none

/-- The fault of a write to such a line, from either world. -/
def Dev.raiseGuarded (d : Dev) (kept : Option Nat) (src a : Nat) : Dev :=
  match kept with
  | some k => d.raiseAt k src a 0
  | none => d

/-- The fault of the rule that refuses a request at its home; none where no rule refuses it. -/
def Dev.homeRefusal (d : Dev) (r : HomeReq) (k : TxnKind) : Option Dev :=
  let src := 500 + d.homeSlice r.line
  let kept := d.guardedLine r.line
  match d.refusedBy r.world r.line with
  | some n => some ((d.noteRefusal n src r.line).raiseGuarded (if k.writes then kept else none) src r.line)
  | none => if k.writes && kept.isSome then some (d.raiseGuarded kept src r.line) else none

/-- The reservation of an agent at a slice. -/
def Dev.resv (d : Dev) (s agent : Nat) : Option Resv := tabFind (d.home s).resvs agent

/-- The reservation of an agent at a slice goes. -/
def Dev.dropResv (d : Dev) (s agent : Nat) : Dev :=
  let h := d.home s
  d.setHome s { h with resvs := tabErase h.resvs agent }

/-- The line is open to every request but that of `agent`: a granted reservation of another (R290). -/
def Dev.lineReserved (d : Dev) (s line agent : Nat) : Bool :=
  (d.home s).resvs.any (fun r => r.2.granted && r.2.line = line && r.1 != agent)

/-- R288: every way that the request could take is pinned. -/
def Dev.allPinned (d : Dev) (line : Nat) (k : TxnKind) : Bool :=
  k.needsEntry && (d.dirEntry line).isNone && d.setFull line && (d.unpinned line).length = 0

/-- R289: Retry, with a reservation where the agent's slot is free. -/
def Dev.sendRetry (d : Dev) (r : HomeReq) (k : TxnKind) (pinned : Bool) : Dev :=
  let s := d.homeSlice r.line
  let d := (d.add (rHsRetries s) 1).countEvent s 2 1 (some r.world)
  let d := if pinned then d.add (rHsRetriesPinned s) 1 else d
  let res := (d.resv s r.agent).isNone
  let h := d.home s
  let d := if res then
      d.setHome s { h with resvs := tabPut h.resvs r.agent { line := r.line, needs := k.needsEntry, granted := false } }
    else d
  d.toAgent r.agent (.retry r.agent r.line res) 2 msgRetry r.line false

/-- R293, R294: an error in the directory entry of a line. After an uncorrectable one the transaction
recalls the line everywhere and the way reads I. -/
def Dev.dirError (d : Dev) (line : Nat) (err : ArrayError) : Dev :=
  let s := d.homeSlice line
  match err with
  | .none => d
  | .corrected =>
    (d.add (rHsDirCorrected s) 1).raiseAt kDirectoryCorrected (500 + s) line 0
  | .uncorrectable =>
    let d := (d.addSat (rHsBroadcastRecoveries s) 1).raiseAt kDirectoryRecovered (500 + s) line 0
    let d := d.dirErase line
    let dies := (List.range 12).filter (fun n => d.unit (.die n) = stActive)
    let sent := dies.length + d.remoteAgents.length
    let d := (d.add (rHsRecalls s) sent).countEvent s 4 sent (some .normal)
    let cores := dies.flatMap (fun n => match d.filterEntry n line with
      | some e => presentCores n e.presence
      | none => [])
    (cores ++ d.remoteAgents).foldl (fun d k => d.recallFrom line k false false) d

/-- A full-line write reads nothing of its own entry: an error in the entry's data is not met. -/
def Dev.skipsData (d : Dev) (line : Nat) (k : TxnKind) (err : PwError) : Bool :=
  (err = .corrected || err = .uncorrectable) && (d.pewterEntry line).isSome && (match k with
    | .invWrite _ _ => true
    | _ => false)

/-- R296: a compute die is BYPASSED or FAILED, and the purge takes its entries. -/
def Dev.dieOut (d : Dev) (n : Nat) : Bool := d.unit (.die n) = stBypassed || d.unit (.die n) = stFailed

/-- R296: a request that meets an entry of a die that is out applies the purge to it first. -/
def Dev.purgeFirst (d : Dev) (line : Nat) : Dev :=
  match d.dirEntry line with
  | none => d
  | some e =>
    if e.state = 2 then (if e.owner < 240 && d.dieOut (e.owner / 20) then (d.dirErase line).markLine line else d)
    else
      let gone := (List.range 12).filter (fun n => e.holders.testBit n && d.dieOut n)
      let e' := gone.foldl (fun (e : DirEntry) n => { e with holders := bitClear e.holders n }) e
      if gone.isEmpty then d
      else if e'.sharers.isEmpty then d.dirErase line
      else d.setDirSet line ((d.dirSet line).map (fun y => if y.line = line then e' else y))

/-- A granted request opens its transaction (R285, R292, R296). -/
def Dev.serve (d0 : Dev) (r : HomeReq) (k : TxnKind) (dirErr : ArrayError) (pwErr : PwError) : Dev :=
  let line := r.line
  let d := d0.purgeFirst line
  let wait := k.needsEntry && (d.dirEntry line).isNone && dirErr != .uncorrectable && d.setFull line
  let pwErr := if d.skipsData line k pwErr then .none else pwErr
  let t := { newTxn r k with hold := wait, refill := d.refills line pwErr }
  let d := (d.pewterError line pwErr).addTxn t
  let d := d.dirError line dirErr
  if wait then
    match d.victim line with
    | some v => d.backInvalidate line v r.world
    | none => d
  else (d.probe line t).go line

/-- R288: the port of a home's request arbiter by which an agent's requests come (R306, with every edge in service; log 53). -/
def Dev.homePort (d : Dev) (slice agent : Nat) : Nat :=
  if 244 ≤ agent then 3
  else
    let x := ((if agent < 240 then agent / 60 else agent - 240) + 4 - slice / 8) % 4
    if x = 0 then 0 else if x = 1 then 1 else if x = 3 then 2 else if d.get rFabOppositeRoute = 1 then 3 else 2

/-- R288: a request that a home's arbiter grants. -/
def Dev.homeTake (d : Dev) (r : HomeReq) (k : TxnKind) (dirErr : ArrayError) (pwErr : PwError) : Dev :=
  let s := d.homeSlice r.line
  let d := (d.grantPort (arbHome s) 4 (d.homePort s r.agent)).countEvent s 1 1 (some r.world)
  let mine := match d.resv s r.agent with
    | some x => x.granted && x.line = r.line
    | none => false
  match d.homeRefusal r k with
  | some d' => (if mine then d'.dropResv s r.agent else d').sendCmp r.agent r.line .error
  | none =>
    if !atomicOk k then (if mine then d.dropResv s r.agent else d).sendCmp r.agent r.line .error
    else if mine then (d.dropResv s r.agent).serve r k dirErr pwErr
    else
      let pinned := d.allPinned r.line k
      if (d.txn r.line).isSome || d.lineReserved s r.line r.agent || 192 ≤ d.trackersBusy s || pinned
      then d.sendRetry r k pinned
      else d.serve r k dirErr pwErr

/-! ## The filter and the proxy on the way to a home -/

/-- R295: an error in the die-filter entry of a line. -/
def Dev.filterError (d : Dev) (die line : Nat) (err : ArrayError) : Dev :=
  match err with
  | .none => d
  | .corrected => d.add (rFltCorrected die) 1
  | .uncorrectable =>
    let cores := (List.range 20).map (fun c => 20 * die + c)
    let d := cores.foldl (fun d k =>
      (((d.hart k).l2.map (fun e => e.1)).filter (fun a => filterKey die a = filterKey die line)).foldl
        (fun d a => d.evict k a) d) d
    ((d.setFilter die line []).addSat (rFltRecoveries die) 1).raiseAt kFilterRecovered (480 + die) line 0

/-- R389: an entry of the remote-line filter for a line, if it can be allocated now; else a victim leaves. -/
def Dev.remoteAllocate (d : Dev) (line : Nat) : Bool × Dev :=
  let set := d.remoteSet line
  if set.any (fun e => e.line = line) || set.length < 16 then (true, d)
  else if set.any (fun e => e.leaving != 0) then (false, d)
  else match set.getLast? with
    | none => (true, d)
    | some v =>
      let d := d.setRemote line (set.map (fun e => if e.line = v.line then { e with leaving := e.presence } else e))
      let d := d.add rHfBackInvals 1
      (false, ((List.range 12).filter (fun n => v.presence.testBit n)).foldl (fun d n =>
        match d.filterEntry n v.line with
        | none => d
        | some e =>
          let d := d.updateFilter n v.line (fun e => { e with leaving := e.presence })
          (presentCores n e.presence).foldl (fun d k => d.filterRecall k v.line) d) d)

/-- The message number and cacheability of a request. -/
def kindMsg : TxnKind → Nat
  | .shared _ => msgReadShared
  | .own => msgReadOwn
  | .invWrite _ _ => msgInvWrite
  | .partialWrite _ _ => msgPartialWrite
  | .clean => msgLineMaintain
  | .flush => msgLineMaintain
  | _ => msgAtomic

/-- R399: a fenced package answers another one with marked data or without data, and changes no line. -/
def Dev.fencedAnswer (d : Dev) (r : HomeReq) (k : TxnKind) : Dev :=
  match k with
  | .shared _ => d.toAgent r.agent (.dataShared r.agent r.line 0 true) 3 msgDataShared r.line true
  | .own => d.toAgent r.agent (.dataExclusive r.agent r.line 0 true) 3 msgDataExclusive r.line true
  | _ => d.sendCmp r.agent r.line .error

/-- A request reaches its home, or the proxy that stands for a home in another package. -/
def Dev.atHome (d : Dev) (r : HomeReq) (k : TxnKind) (dirErr : ArrayError) (pwErr : PwError) : Dev :=
  match d.remoteHome r.line with
  | none => if 245 ≤ r.agent && d.get rPartState = 3 then d.fencedAnswer r k else d.homeTake r k dirErr pwErr
  | some q => d.sendRemote q 0 (kindMsg k) r.agent r.line r.world (k.writes && k != .own)

/-- The message that carries a request. -/
def isReq (m : Instr) (r : HomeReq) : Bool :=
  match m with
  | .readShared x _ _ _ _ => x = r
  | .readOwn x _ _ _ => x = r
  | .upgrade x _ _ _ => x = r
  | .invWrite x _ _ _ _ => x = r
  | .partialWrite x _ _ _ _ => x = r
  | .homeFetchAdd x _ _ _ _ _ => x = r
  | .homeSwap x _ _ _ _ _ => x = r
  | .homeCas x _ _ _ _ _ _ => x = r
  | .homeFetchOr x _ _ _ _ _ => x = r
  | .lineMaintainClean x _ _ => x = r
  | .lineMaintainFlush x _ _ => x = r
  | _ => false

/-- A cacheable request of a core at its die filter: it goes on when its entry is allocated, and otherwise
waits there (R282). -/
def Dev.cacheable (d : Dev) (r : HomeReq) (k : TxnKind) (fltErr dirErr : ArrayError) (pwErr : PwError) : Dev :=
  if 240 ≤ r.agent then (d.takeMsg (fun m => isReq m r)).atHome r k dirErr pwErr
  else
    let d := d.filterError (r.agent / 20) r.line fltErr
    let f := d.filterAllocate (r.agent / 20) r.line
    if !f.1 then f.2
    else
      let g := if (f.2.remoteHome r.line).isSome then f.2.remoteAllocate r.line else (true, f.2)
      if !g.1 then g.2 else (g.2.takeMsg (fun m => isReq m r)).atHome r k dirErr pwErr

/-- The line of a request is a line of memory, and its agent exists (Table 12-1). -/
def Dev.reqOk (d : Dev) (r : HomeReq) : Bool :=
  r.line % 64 = 0 && r.agent < 248 && (d.region r.line).isMemory

/-- A request other than a cacheable one reaches its home. -/
def requestAt (r : HomeReq) (k : TxnKind) (dirErr : ArrayError) (pwErr : PwError) (s : State) : Out :=
  occurs 285 (fun d => d.reqOk r)
    (fun d => (d.takeMsg (fun m => isReq m r)).atHome r k dirErr pwErr) s

/-- READ_SHARED (R285, R288, R292 to R295, R353). -/
def execReadShared (r : HomeReq) (nc : Bool) (fltErr dirErr : ArrayError) (pwErr : PwError) (s : State) : Out :=
  occurs 285 (fun d => d.reqOk r)
    (fun d => if nc then (d.takeMsg (fun m => isReq m r)).atHome r (.shared true) dirErr pwErr
      else d.cacheable r (.shared false) fltErr dirErr pwErr) s

/-- READ_OWN (R285, R288, R292, R294, R449). -/
def execReadOwn (r : HomeReq) (fltErr dirErr : ArrayError) (pwErr : PwError) (s : State) : Out :=
  occurs 285 (fun d => d.reqOk r) (fun d => d.cacheable r .own fltErr dirErr pwErr) s

/-- UPGRADE (R281): treated exactly as ReadOwn. -/
def execUpgrade (r : HomeReq) (fltErr dirErr : ArrayError) (pwErr : PwError) (s : State) : Out :=
  occurs 281 (fun d => d.reqOk r) (fun d => d.cacheable r .own fltErr dirErr pwErr) s

/-- INV_WRITE (R285, R267, R449). -/
def execInvWrite (r : HomeReq) (data : Line) (mark : Bool) (dirErr : ArrayError) (pwErr : PwError) (s : State) : Out :=
  requestAt r (.invWrite data mark) dirErr pwErr s

/-- PARTIAL_WRITE (R285, R449). -/
def execPartialWrite (r : HomeReq) (mask : BitVec 64) (data : Line) (dirErr : ArrayError) (pwErr : PwError) (s : State) : Out :=
  requestAt r (.partialWrite mask data) dirErr pwErr s

/-- HOME_FETCH_ADD (R286). -/
def execHomeFetchAdd (r : HomeReq) (size offset operand : Nat) (dirErr : ArrayError) (pwErr : PwError) (s : State) : Out :=
  requestAt r (.fetchAdd size offset operand) dirErr pwErr s

/-- HOME_SWAP (R286). -/
def execHomeSwap (r : HomeReq) (size offset operand : Nat) (dirErr : ArrayError) (pwErr : PwError) (s : State) : Out :=
  requestAt r (.swap size offset operand) dirErr pwErr s

/-- HOME_CAS (R286). -/
def execHomeCas (r : HomeReq) (size offset compare swap : Nat) (dirErr : ArrayError) (pwErr : PwError) (s : State) : Out :=
  requestAt r (.cas size offset compare swap) dirErr pwErr s

/-- HOME_FETCH_OR (R286). -/
def execHomeFetchOr (r : HomeReq) (size offset operand : Nat) (dirErr : ArrayError) (pwErr : PwError) (s : State) : Out :=
  requestAt r (.fetchOr size offset operand) dirErr pwErr s

/-- LINE_MAINTAIN_CLEAN (R285, R273). -/
def execLineMaintainClean (r : HomeReq) (dirErr : ArrayError) (pwErr : PwError) (s : State) : Out := requestAt r .clean dirErr pwErr s

/-- LINE_MAINTAIN_FLUSH (R285, R273, R267). -/
def execLineMaintainFlush (r : HomeReq) (dirErr : ArrayError) (pwErr : PwError) (s : State) : Out := requestAt r .flush dirErr pwErr s

/-! ## Writebacks (R287, last rows of Table 12-6) -/

/-- An open transaction waits for this agent's recall answer or writeback. -/
def Dev.recalling (d : Dev) (line agent : Nat) : Bool :=
  match d.txn line with
  | some t => t.recalls.contains agent ||
      (t.wbPend && (match d.dirEntry line with
        | some e => e.state = 2 && e.owner = agent
        | none => true))
  | none => false

/-- A writeback from `agent` reaches the home of its line; `data` from an M line. -/
def Dev.homeWriteback (d : Dev) (agent line : Nat) (data : Option (Line × Bool)) : Dev :=
  let s := d.homeSlice line
  let d := d.countEvent s 6 1 none
  let owner := match d.dirEntry line with
    | some e => e.state = 2 && e.owner = agent
    | none => false
  let open_ := d.recalling line agent
  let d := match data with
    | some x => if owner || open_ then (d.homeWrite line 0 x.1 x.2).2 else d
    | none => d
  let d := d.toAgent agent (.wbAck agent line) 2 msgWbAck line false
  if open_ then
    match d.txn line with
    | some t =>
      if t.wbPend then (d.updTxn line (fun t => { t with wbPend := false })).go line
      else d.updTxn line (fun t => { t with wbSeen := true })
    | none => d
  else if owner then d.dirErase line
  else d

/-- The filter's part in a core's message that gives a line up, then the home's or the proxy's. -/
def Dev.giveUp (d : Dev) (agent line msg : Nat) (data : Option (Line × Bool)) : Dev :=
  let d := if agent < 240 then d.filterLeave agent line true else d
  match d.remoteHome line with
  | some q => d.sendRemote q 4 msg agent line .normal data.isSome
  | none => d.homeWriteback agent line data

/-- WRITE_BACK_FULL (R283, R285, R287). -/
def execWriteBackFull (agent line : Nat) (data : Line) (mark : Bool) (s : State) : Out :=
  occurs 287 (fun d => line % 64 = 0 && agent < 248 && (d.region line).isMemory)
    (fun d =>
      let d := d.takeMsg (fun m => m = .writeBackFull agent line data mark)
      (d.giveUp agent line msgWriteBackFull (some (data, mark))).nextVn4 agent true line) s

/-- WRITE_BACK_CLEAN (R283, R285, R287). -/
def execWriteBackClean (agent line : Nat) (s : State) : Out :=
  occurs 287 (fun d => line % 64 = 0 && agent < 248 && (d.region line).isMemory)
    (fun d =>
      let d := d.takeMsg (fun m => m = .writeBackClean agent line)
      (d.giveUp agent line msgWriteBackClean none).nextVn4 agent true line) s

/-- A home takes EvictClean from a die or a remote agent: its bit goes, and the way with the last one. -/
def Dev.homeEvict (d : Dev) (line holder : Nat) : Dev :=
  match d.dirEntry line with
  | none => d
  | some e =>
    if e.state != 1 then d
    else
      let e' := if 245 ≤ holder then { e with remote := bitClear e.remote (holder - 245) }
        else { e with holders := bitClear e.holders holder }
      if e'.sharers.length = 0 then d.dirErase line
      else d.setDirSet line ((d.dirSet line).map (fun y => if y.line = line then e' else y))

/-- EVICT_CLEAN (R283, R285, R287): forwarded to the home only when no core of the die is left. An agent
from 245 on is the proxy of another package. -/
def execEvictClean (core line : Nat) (s : State) : Out :=
  occurs 283 (fun d => line % 64 = 0 && (core < 240 || (245 ≤ core && core < 248)) && (d.region line).isMemory)
    (fun d =>
      let d := d.takeMsg (fun m => m = .evictClean core line)
      if 240 ≤ core then d.homeEvict line core
      else
        let d := (d.nextVn4 core true line).filterLeave core line false
        if (d.filterEntry (core / 20) line).isSome then d
        else match d.remoteHome line with
          | some q => if (d.remoteEntry line).isSome then d else d.sendRemote q 4 msgEvictClean core line .normal false
          | none => d.homeEvict line (core / 20)) s

/-! ## Answers to recalls and invalidations -/

/-- A recall's answer at the proxy goes to the line's home. -/
def Dev.proxyAnswer (d : Dev) (agent line : Nat) (data : Option (Line × Bool)) (wbpend : Bool) : Dev :=
  match d.remoteHome line with
  | none => d
  | some q =>
    if wbpend then d.sendRemote q 2 msgRecallAck agent line .normal false
    else
      let d := if ((d.hart agent).line line).state = .s then d.remoteShare line else d
      d.sendRemote q (if data.isSome then 4 else 2) (if data.isSome then msgRecallAckData else msgRecallAck)
        agent line .normal data.isSome

/-- A recall's answer at the home. -/
def Dev.recallAnswered (d : Dev) (agent line : Nat) (data : Option (Line × Bool)) (wbpend : Bool) : Dev :=
  match d.txn line with
  | none => d.lateResponse
  | some t =>
    if !t.recalls.contains agent then d.lateResponse
    else
      let d := d.stopTimer (.homeRecall agent line)
      let d := match data with
        | some x => (match t.kind with
            | .invWrite _ _ => d
            | _ => (d.homeWrite line 0 x.1 x.2).2)
        | none => d
      let d := d.updTxn line (fun t => { t with recalls := t.recalls.filter (fun a => a != agent) })
      if wbpend && !t.wbSeen then d.updTxn line (fun t => { t with wbPend := true })
      else d.go line

/-- The answer of an agent, at the home of its line or at the proxy. -/
def Dev.answerRecall (d : Dev) (agent line : Nat) (data : Option (Line × Bool)) (wbpend : Bool) : Dev :=
  match d.remoteHome line with
  | some _ => d.proxyAnswer agent line data wbpend
  | none => d.recallAnswered agent line data wbpend

/-- RECALL_ACK_DATA (R285, R287). -/
def execRecallAckData (agent line : Nat) (data : Line) (mark : Bool) (s : State) : Out :=
  occurs 285 (fun d => line % 64 = 0 && agent < 248 && (d.region line).isMemory)
    (fun d =>
      let d := d.takeMsg (fun m => m = .recallAckData agent line data mark)
      (d.answerRecall agent line (some (data, mark)) false).nextVn4 agent false line) s

/-- RECALL_ACK (R285). -/
def execRecallAck (agent line : Nat) (wbpend : Bool) (s : State) : Out :=
  occurs 285 (fun d => line % 64 = 0 && agent < 248 && (d.region line).isMemory)
    (fun d =>
      let d := d.takeMsg (fun m => m = .recallAck agent line wbpend)
      d.answerRecall agent line none wbpend) s

/-- A die's or remote agent's InvAck at the home. -/
def Dev.invAnswered (d : Dev) (holder line : Nat) : Dev :=
  match d.txn line with
  | none => d.lateResponse
  | some t =>
    if !t.acks.contains holder then d.lateResponse
    else
      let d := d.stopTimer (.homeInv holder line)
      (d.updTxn line (fun t => { t with acks := t.acks.filter (fun a => a != holder) })).go line

/-- INV_ACK (R285). At the proxy it is passed on to the line's home (R390). -/
def execInvAck (die line : Nat) (s : State) : Out :=
  occurs 285 (fun d => line % 64 = 0 && die < 248 && (d.region line).isMemory)
    (fun d =>
      let d := d.takeMsg (fun m => m = .invAck die line)
      match d.remoteHome line with
      | some q =>
        let d := if (d.filterEntry die line).isNone then d.remoteLeave die line else d
        if (d.remoteEntry line).isSome then d else d.sendRemote q 2 msgInvAck die line .normal false
      | none => d.invAnswered die line) s

/-! ## The end of a transaction -/

/-- GRANT_ACK (R279): the transaction closes. At the proxy it is passed on to the line's home. -/
def execGrantAck (agent line : Nat) (s : State) : Out :=
  occurs 279
    (fun d => line % 64 = 0 && agent < 248 && (match d.remoteHome line with
      | some _ => true
      | none => (match d.txn line with
          | some t => t.grantee = some agent || d.fab.net.contains (.grantAck agent line)
          | none => d.fab.net.contains (.grantAck agent line))))
    (fun d =>
      let d := d.takeMsg (fun m => m = .grantAck agent line)
      match d.remoteHome line with
      | some q => d.sendRemote q 2 msgGrantAck agent line .normal false
      | none =>
        match d.txn line with
        | some t => if t.grantee = some agent then d.dropTxn line else d.lateResponse
        | none => d.lateResponse) s

/-- MEMORY_READ_DATA (R278, R259, R277): the data fills Pewter and reaches the transaction. -/
def execMemoryReadData (line : Nat) (data : Line) (mark : Bool) (s : State) : Out :=
  occurs 278 (fun d => line % 64 = 0 && (d.region line).isMemory && (d.remoteHome line).isNone)
    (fun d =>
      let d := d.takeMsg (fun m => m = .memoryReadData line data mark)
      match d.txn line with
      | none => d.lateResponse
      | some t =>
        if !t.memRead then d.lateResponse
        else
          let d := d.stopTimer (.homeRead line)
          let m := mark || d.lineLost line
          (d.pewterFillRead line data m t.refill).withData line data m) s

/-- A write of the line is on its way to memory or on its way back. -/
def Dev.writeInFlight (d : Dev) (line : Nat) : Bool :=
  d.fab.net.any (fun m => match m with
    | .mcLineWrite l _ _ _ => l = line
    | .memoryWriteComplete l => l = line
    | _ => false)

/-- MEMORY_WRITE_COMPLETE (R279): memory has accepted the home's last write of the line. -/
def execMemoryWriteComplete (line : Nat) (s : State) : Out :=
  occurs 279 (fun d => line % 64 = 0 && (d.region line).isMemory && (d.remoteHome line).isNone)
    (fun d =>
      let d := d.takeMsg (fun m => m = .memoryWriteComplete line)
      match d.txn line with
      | none => d
      | some t =>
        if !t.memWrite || d.writeInFlight line then d
        else (d.stopTimer (.homeWrite line)).finish line t) s

/-! ## Completions at the requester -/

/-- A line of a hart whose cacheable request a home refused goes back to the state it had; each who waited for the request hears of it. -/
def Dev.refuseLine (d : Dev) (k line : Nat) : Dev :=
  let l := (d.hart k).line line
  let d := d.setL2 k line { l with state := if l.state = .sm then .s else .i, req := none, held := false, askers := [] }
  let h := d.hart k
  ((d.setHart k { h with lineErr := h.lineErr ++ l.askers.map (fun a => (line, a)) }).stopTimer (.hartLine k line)).updateFilter (k / 20) line id

/-- What a core has outstanding for a line is for a store that has retired: its refusal goes to Fusible (R228, R449). -/
def Dev.storeWaits (d : Dev) (k line : Nat) : Bool :=
  ((d.hart k).line line).askers.contains .store || (match d.opOf k line with
    | some m => isStoreOp m
    | none => false)

/-- CMP_WRITE (R285, R353, R449): the completion of a request that brings no data, or the refusal of any. -/
def execCmpWrite (agent line : Nat) (status : RspStatus) (s : State) : Out :=
  occurs 285
    (fun d => line % 64 = 0 && agent < 248 &&
      (240 ≤ agent || (d.opOf agent line).isSome
        || (((d.hart agent).line line).state.waits && status != .ok) || d.fab.net.contains (.cmpWrite agent line status)))
    (fun d =>
      let d := d.takeMsg (fun m => m = .cmpWrite agent line status)
      if 240 ≤ agent then d.inboundAnswer agent line (status = .ok) false false
      else
        let d := if status != .ok && d.storeWaits agent line then d.raiseAt kPostedError agent line 0 else d
        if (d.opOf agent line).isSome then
          ((d.homeAnswer agent line (status = .ok) 0).stopTimer (.hartLine agent line)).coreSettle agent
        else if ((d.hart agent).line line).state.waits && status != .ok
        then ((d.refuseLine agent line).served agent line).coreSettle agent
        else d.lateResponse) s

/-- ATOMIC_DATA (R286): the old value reaches the requester. -/
def execAtomicData (agent line : Nat) (old : Nat) (s : State) : Out :=
  occurs 286 (fun d => line % 64 = 0 && agent < 248 && (240 ≤ agent || (d.opOf agent line).isSome))
    (fun d =>
      let d := d.takeMsg (fun m => m = .atomicData agent line old)
      if 240 ≤ agent then (d.dropOp agent line).served agent line
      else ((d.homeAnswer agent line true old).stopTimer (.hartLine agent line)).coreSettle agent) s

/-! ## Reservations (R290) -/

/-- The blocking condition of an agent's reservation is clear. -/
def Dev.resvReady (d : Dev) (s agent : Nat) : Bool :=
  match d.resv s agent with
  | none => false
  | some r =>
    !r.granted && (d.txn r.line).isNone && !d.lineReserved s r.line agent && d.trackersBusy s < 192
      && !(r.needs && (d.dirEntry r.line).isNone && d.setFull r.line && (d.unpinned r.line).length = 0)

/-- RESERVATION_GRANT (R290): the reservation that the slice's round-robin arbiter over agent numbers grants
next. -/
def execReservationGrant (slice agent : Nat) (s : State) : Out :=
  occursAt 290 (slice < 32 && agent < 248)
    (fun d => (d.arbitrate (arbReservation slice) 256 (d.resvReady slice)).1 = some agent)
    (fun d =>
      let d := (d.arbitrate (arbReservation slice) 256 (d.resvReady slice)).2
      match d.resv slice agent with
      | none => d
      | some r =>
        let h := d.home slice
        let d := d.setHome slice { h with resvs := tabPut h.resvs agent { r with granted := true } }
        let d := (d.add (rHsReservationsGranted slice) 1).countEvent slice 3 1 none
        d.toAgent agent (.retryGrant agent r.line) 2 msgRetryGrant r.line false) s

/-! ## The purge of a die (R296) -/

/-- R296: a directory entry after the loss of a die; none where it is freed. -/
def purgeEntry (die : Nat) (e : DirEntry) : Option DirEntry :=
  if e.state = 2 then (if e.owner < 240 && e.owner / 20 = die then none else some e)
  else
    let e' := { e with holders := bitClear e.holders die }
    if e'.sharers.length = 0 then none else some e'

/-- The lines that a die owns. -/
def Dev.ownedBy (d : Dev) (die : Nat) : List Nat :=
  d.homes.flatMap (fun h => h.2.dir.flatMap (fun set =>
    (set.2.filter (fun e => e.state = 2 && e.owner < 240 && e.owner / 20 = die)).map (fun e => e.line)))

/-- R296: every home slice walks its directory: entries that the die owns are freed with the memory copy
marked, and the die's bit leaves every S vector. A grant to the die is received by nobody, so its transaction closes. -/
def Dev.purge (d : Dev) (die : Nat) : Dev :=
  let owned := d.ownedBy die
  let d := { d with homes := d.homes.map (fun h =>
      (h.1, { h.2 with
        dir := (h.2.dir.map (fun set => (set.1, set.2.filterMap (purgeEntry die)))).filter (fun set => !set.2.isEmpty),
        txns := h.2.txns.filter (fun t => match t.grantee with
          | some a => !(a < 240 && a / 20 = die)
          | none => true) })) }
  let d := owned.foldl Dev.markLine d
  ((List.range 20).map (fun c => 20 * die + c)).foldl Dev.releaseAgent d

/-- DIRECTORY_PURGE (R296): of a compute die that has become BYPASSED or FAILED. -/
def execDirectoryPurge (die : Nat) (s : State) : Out :=
  occursAt 296 (die < 12) (fun d => d.dieOut die) (fun d => d.purge die) s

end Sys2Proof.Machine
end

