-- ==== Sys2Proof/Machine/Hart.lean ====
section
/-!
DEFINITION. A hart's registers: general and floating-point registers, CSRs (Tables 08-2, 08-6 to 08-10; the
standard ones PRESUMED from the ratified privileged architecture that R188 names, log 20), the world of a hart
(R200), traps and their delegation (R366), interrupts (R209, R214) and what stops a core (R195, R198).
-/
namespace Sys2Proof.Machine

/-! ## General registers -/

/-- An integer register; x0 reads zero. -/
def Hart.x (h : Hart) (r : Nat) : Word := if r = 0 then 0 else tabGet h.xregs r 0

/-- An integer register written; x0 discards. -/
def Hart.setX (h : Hart) (r : Nat) (v : Word) : Hart := if r = 0 then h else { h with xregs := tabPut h.xregs r v }

/-- A vector register's 32 bytes (VLEN 256). -/
def Hart.vreg (h : Hart) (r : Nat) : List Byte := tabGet h.vregs r (zeros 32)

/-- The destination of a memory access: registers 0 to 31 are x, 32 to 63 f (a narrow value is NaN-boxed), and from 64
on byte `n % 32` of vector register `n / 32` for `n` = number − 64 (log 21). -/
def Hart.setReg (h : Hart) (r size : Nat) (v : Word) : Hart :=
  if r < 32 then h.setX r v
  else if r < 64 then
    let boxed := if size = 4 then v ||| 0xFFFF_FFFF_0000_0000 else if size = 2 then v ||| 0xFFFF_FFFF_FFFF_0000 else v
    { h with fregs := tabPut h.fregs (r - 32) boxed }
  else
    let n := r - 64
    { h with vregs := tabPut h.vregs (n / 32) ((spliceBytes (h.vreg (n / 32)) (n % 32) (leBytes size v.toNat)).take 32) }

/-- The source of a store, numbered in the same way. -/
def Hart.getReg (h : Hart) (r size : Nat) : Nat :=
  if r < 32 then (h.x r).toNat % 256 ^ size
  else if r < 64 then (tabGet h.fregs (r - 32) 0).toNat % 256 ^ size
  else fieldLe (h.vreg ((r - 64) / 32)) ((r - 64) % 32) size

/-- The stream hint of a hart's requests: bits [5:2] of its instruction's address. -/
def Hart.stream (h : Hart) : Nat := field h.pc.toNat 2 4

/-! ## CSRs -/

/-- Reset value of a stored CSR: Tables 08-7 and 08-9, and the read-only width fields of Table 08-2; zero elsewhere
(log 7). -/
def csrDefault (a : Nat) : Word :=
  if a = 0x7C0 then 3
  else if a = 0x7C8 then 4
  else if a = 0x300 then 0xA_0000_0000
  else if a = 0x303 then 0x1444
  else if a = 0x200 then 0x2_0000_0000
  else if a = 0x600 then 0x2_0000_0000
  else 0

/-- A stored CSR. -/
def Hart.csr (h : Hart) (a : Nat) : Nat := (tabGet h.csrs a (csrDefault a)).toNat

/-- A stored CSR written. -/
def Hart.setCsr (h : Hart) (a v : Nat) : Hart := { h with csrs := tabPut h.csrs a (BitVec.ofNat 64 v) }

/-- The bits of `m` in a stored CSR written. -/
def Hart.setCsrBits (h : Hart) (a m v : Nat) : Hart := h.setCsr a (bitsClear (h.csr a) m ||| (v &&& m))

/-- One bit of a stored CSR written. -/
def Hart.setCsrBit (h : Hart) (a i : Nat) (b : Bool) : Hart := h.setCsr a (bitPut (h.csr a) i b)

/-- R200: the world that a hart is in; M is always Tantalum. -/
def Hart.world (h : Hart) : World :=
  if h.priv = .m then .tantalum else bitWorld (h.csr 0x7C0 % 2)

/-- Privilege as `mstatus`.MPP and record fields code it. -/
def privCode : Priv → Nat
  | .u => 0
  | .s => 1
  | .m => 3

/-- The privilege of a code; 2 is reserved and read as U. -/
def codePriv (n : Nat) : Priv := if n = 3 then .m else if n = 1 then .s else .u

/-- R364: the secure side is unavailable. -/
def Dev.secureDown (d : Dev) : Bool := d.get rTkState != 1

/-- A hart executes: its core is ACTIVE and it has been started (R198). -/
def Dev.hartRuns (d : Dev) (k : Nat) : Bool := (d.hart k).running && d.unit (.core k) = stActive

/-- The bus-error log of the world that a hart is in (R210). -/
def Hart.log (h : Hart) : BusLog :=
  match h.world with
  | .normal => h.logN
  | .tantalum => h.logT

/-! ## Counters of a hart (R205, R207, R430) -/

/-- R205, R207, R358: the counters of a hart count now. -/
def Dev.hartCounts (d : Dev) (k : Nat) : Bool :=
  let h := d.hart k
  let c := h.csr 0x7C8
  !(bitAt c 0 || (bitAt c 2 && d.flag rPcFrozen)) && d.nonInvasive h.world

/-- Sscofpmf: the bit of an event selector that inhibits counting in the hart's mode. -/
def Hart.inhibitBit (h : Hart) : Nat :=
  match h.priv with
  | .m => 62
  | .s => if h.v then 59 else 61
  | .u => if h.v then 58 else 60

/-- Sampling is on for a counter (R206): its overflows are sampled, and set no OF bit until sampling stops. -/
def Hart.sampled (h : Hart) (j : Nat) : Bool := bitAt (h.csr 0x7C9) 0 && field (h.csr 0x7C9) 1 4 = j

/-- The OF bit of a counter is set: the counter-overflow interrupt becomes pending, and FRZOF freezes (Table 08-9). -/
def Hart.setOverflow (h : Hart) (j : Nat) : Hart :=
  let h := (h.setCsrBit (0x320 + j) 63 true).setCsrBit 0x344 13 true
  if bitAt (h.csr 0x7C8) 1 then h.setCsrBit 0x7C8 0 true else h

/-- A hart event (Table 20-5) is counted by the counters 3 to 10 that select it. A wrap sets the counter's OF bit; of the sampled counter, a record is
due instead (R206). -/
def Dev.hartEvent (d : Dev) (k code : Nat) : Dev :=
  if !d.hartCounts k then d
  else ((List.range 8).map (fun j => j + 3)).foldl (fun d j =>
    let h := d.hart k
    let e := h.csr (0x320 + j)
    if e % 0x1_0000 = code && !bitAt e h.inhibitBit && !bitAt (h.csr 0x320) j then
      let v := h.csr (0xB00 + j) + 1
      let h := h.setCsr (0xB00 + j) (v % 2 ^ 64)
      d.setHart k (if v != 2 ^ 64 || bitAt e 63 then h
        else if h.sampled j then { h with sampleDue := h.sampleDue ++ [(j, h.world)] } else h.setOverflow j)
    else d) d

/-- An instruction is done: the program counter moves on, and `minstret` counts it. -/
def Dev.retire (d : Dev) (k ilen : Nat) : Dev :=
  let h := d.hart k
  let h := { h with pc := h.pc + BitVec.ofNat 64 ilen, returned := false }
  let d' := d.setHart k h
  if ilen != 0 && d.hartCounts k && !bitAt (h.csr 0x320) 2
  then (d'.setHart k (h.setCsr 0xB02 (wrapAdd 64 (h.csr 0xB02) 1))).hartEvent k 2
  else d'

/-! ## Traps -/

/-- A trap: cause, whether it is an interrupt, the trap value, the guest-physical address shifted right by 2, the
transformed instruction, and whether the value is a guest-virtual address. -/
structure Trap where
  cause     : Nat
  interrupt : Bool
  tval      : Nat
  tval2     : Nat
  tinst     : Nat
  gva       : Bool
deriving DecidableEq, Repr, Inhabited

/-- An exception with a trap value. -/
def exception (cause tval : Nat) : Trap := ⟨cause, false, tval, 0, 0, false⟩

/-- Where a trap goes. -/
inductive TrapTo where
  | m
  | hs
  | vs
deriving DecidableEq, Repr

/-- The bit of a cause in a delegation register. -/
def delegates (reg cause : Nat) : Bool := bitAt reg cause

/-- R366 with the delegation of the privileged architecture: where a trap goes. -/
def Dev.trapTarget (d : Dev) (h : Hart) (t : Trap) : TrapTo :=
  let md := h.csr (if t.interrupt then 0x303 else 0x302)
  let hd := h.csr (if t.interrupt then 0x603 else 0x602)
  if h.priv = .m then .m
  else if !delegates md t.cause then (if d.secureDown then .hs else .m)
  else if h.v && delegates hd t.cause then .vs
  else .hs

/-- The address of a handler: vectored interrupts go to the base plus four times the cause. -/
def vectorTo (tvec cause : Nat) (interrupt : Bool) : Nat :=
  let base := tvec / 4 * 4
  if interrupt && tvec % 4 = 1 then base + 4 * cause else base

/-- The cause register's value. -/
def causeWord (cause : Nat) (interrupt : Bool) : Nat := cause + (if interrupt then 2 ^ 63 else 0)

/-- A trap into M (R200): `mworld`.MPW takes WORLD and WORLD becomes 1. -/
def Hart.trapM (h : Hart) (t : Trap) : Hart :=
  let st := h.csr 0x300
  let st := bitPut (bitPut st 7 (bitAt st 3)) 3 false
  let st := fieldPut st 11 2 (privCode h.priv)
  let st := bitPut (bitPut st 39 h.v) 38 t.gva
  let w := worldBit h.world
  let h := (((h.setCsr 0x300 st).setCsr 0x341 h.pc.toNat).setCsr 0x342 (causeWord t.cause t.interrupt)).setCsr 0x343 t.tval
  let h := ((h.setCsr 0x34B t.tval2).setCsr 0x34A t.tinst).setCsr 0x7C0 (2 * w + 1)
  { h with priv := .m, v := false, inWcall := false,
           pc := BitVec.ofNat 64 (vectorTo (h.csr 0x305) t.cause t.interrupt) }

/-- A trap into HS. -/
def Hart.trapHs (h : Hart) (t : Trap) : Hart :=
  let st := h.csr 0x300
  let st := bitPut (bitPut st 5 (bitAt st 1)) 1 false
  let st := bitPut st 8 (h.priv = .s)
  let hs := bitPut (bitPut (h.csr 0x600) 7 h.v) 6 t.gva
  let hs := if h.v then bitPut hs 8 (h.priv = .s) else hs
  let h := ((h.setCsr 0x300 st).setCsr 0x600 hs).setCsr 0x141 h.pc.toNat
  let h := (h.setCsr 0x142 (causeWord t.cause t.interrupt)).setCsr 0x143 t.tval
  let h := (h.setCsr 0x643 t.tval2).setCsr 0x64A t.tinst
  { h with priv := .s, v := false, pc := BitVec.ofNat 64 (vectorTo (h.csr 0x105) t.cause t.interrupt) }

/-- A trap into VS; a VS-level interrupt shows there under its supervisor number. -/
def Hart.trapVs (h : Hart) (t : Trap) : Hart :=
  let c := if t.interrupt && (t.cause = 2 || t.cause = 6 || t.cause = 10) then t.cause - 1 else t.cause
  let st := h.csr 0x200
  let st := bitPut (bitPut st 5 (bitAt st 1)) 1 false
  let st := bitPut st 8 (h.priv = .s)
  let h := ((h.setCsr 0x200 st).setCsr 0x241 h.pc.toNat).setCsr 0x242 (causeWord c t.interrupt)
  let h := h.setCsr 0x243 t.tval
  { h with priv := .s, v := true, pc := BitVec.ofNat 64 (vectorTo (h.csr 0x205) c t.interrupt) }

/-- What an instruction of the hart waits for is given up; what its retired stores wait for stays. -/
def Hart.abandon (h : Hart) : Hart :=
  { h with wait := .none, half := none, lineErr := h.lineErr.filter (fun x => x.2 != .inst), homeDone := h.homeDone.filter (fun x => x.store),
           l2 := h.l2.map (fun (e : Nat × L2Line) => (e.1, { e.2 with askers := e.2.askers.filter (fun a => a != .inst) })), returned := false }

/-- A hart takes a trap. What it waited for is given up: the instruction restarts (R228), and a walk made for it is from
now on one for an instruction not known to execute (R239). -/
def Dev.takeTrap (d : Dev) (k : Nat) (t : Trap) : Dev :=
  let h := d.hart k
  let h := { h.abandon with walks := h.walks.map (fun w => { w with spec := true }) }
  d.setHart k (match d.trapTarget h t with
    | .m => h.trapM t
    | .hs => h.trapHs t
    | .vs => h.trapVs t)

/-- The word of an instruction that an exception writes to its trap value (Sstvala, PRESUMED: log 20): a free value where the command does not
name the instruction's registers. -/
def Dev.instWord (d : Dev) (word : Option Nat) : Nat × Dev :=
  match word with
  | some w => (w, d)
  | none => let x := d.takeWord; (x.1.toNat % 2 ^ 32, x.2)

/-- An illegal-instruction exception. -/
def Dev.illegal (d : Dev) (k : Nat) (word : Option Nat) : Dev := let w := d.instWord word; w.2.takeTrap k (exception 2 w.1)

/-- A virtual-instruction exception. -/
def Dev.virtualInst (d : Dev) (k : Nat) (word : Option Nat) : Dev := let w := d.instWord word; w.2.takeTrap k (exception 22 w.1)

/-! ## Pending interrupts -/

/-- R33, R394, Table 08-2: `time` at 100 MHz, from the root by a fixed divisor, whatever Invar is adjusted by. -/
def Dev.timeCsr (d : Dev) : Nat := d.clock.root / 120

/-- Key of a register of an IMSIC file beyond the CSR numbers: `select` from 0x70 on. -/
def imsicKey (file sel : Nat) : Nat := 0x1_0000 + 0x100 * file + sel

/-- The identity that an IMSIC file presents: the lowest pending and enabled one below its threshold, while
delivery is on. -/
def Hart.imsicTop (h : Hart) (file : Nat) : Option Nat :=
  let thr := h.csr (imsicKey file 0x72)
  if h.csr (imsicKey file 0x70) != 1 then none
  else (List.range 2048).find? (fun i => i != 0 && (tabGet h.imsic file []).contains i
    && bitAt (h.csr (imsicKey file (0xC0 + i / 64 * 2))) (i % 64) && (thr = 0 || i < thr))

/-- A source of the Tantalum world is pending and enabled for a hart, below the threshold of its delivery structure. -/
def Dev.aplicOffers (d : Dev) (k n : Nat) : Bool :=
  let t := tabGet d.aplic.target n 0
  let thr := tabGet d.aplic.idc (4 * k + 2) 0
  tabGet d.aplic.pending n 0 != 0 && tabGet d.aplic.enabled n 0 != 0 && d.irqWorldOf n = .tantalum && t / 2 ^ 18 = k
    && (thr = 0 || t % 256 < thr)

/-- The source that the delivery structure of a hart presents: of the least priority number, then the least source. -/
def Dev.aplicTop (d : Dev) (k : Nat) : Option Nat :=
  (d.aplic.pending.filter (fun (e : Nat × Nat) => d.aplicOffers k e.1)).foldl (fun (best : Option Nat) (e : Nat × Nat) =>
    match best with
    | none => some e.1
    | some b => if tabGet d.aplic.target e.1 0 % 256 < tabGet d.aplic.target b 0 % 256 then some e.1 else some b) none

/-- R214: a machine-level external interrupt comes from the APLIC's machine domain, through the delivery structure of the hart. -/
def Dev.machineExternal (d : Dev) (k : Nat) : Bool :=
  d.aplic.mmode && tabGet d.aplic.idc (4 * k) 0 != 0 && (tabGet d.aplic.idc (4 * k + 1) 0 != 0 || (d.aplicTop k).isSome)

/-- `mip` (Table 08-2, R209, R214): MTIP is 0. -/
def Dev.mip (d : Dev) (k : Nat) : Nat :=
  let h := d.hart k
  let sw := h.csr 0x344
  let hv := h.csr 0x645
  let stce := bitAt (h.csr 0x30A) 63
  let vgein := field (h.csr 0x600) 12 6
  let st := if stce then h.csr 0x14D ≤ d.timeCsr else bitAt sw 5
  let vst := bitAt hv 6 || (stce && bitAt (h.csr 0x60A) 63
    && h.csr 0x24D ≤ wrapAdd 64 d.timeCsr (h.csr 0x605))
  let vse := bitAt hv 10 || (vgein != 0 && (h.imsicTop vgein).isSome)
  let sge := ((List.range 7).any (fun j => bitAt (h.csr 0x607) (j + 1) && (h.imsicTop (j + 1)).isSome))
  boolNat (bitAt sw 1) * 2 + boolNat (bitAt hv 2) * 4 + boolNat st * 2 ^ 5 + boolNat vst * 2 ^ 6
    + boolNat (bitAt sw 9 || (h.imsicTop 0).isSome) * 2 ^ 9 + boolNat vse * 2 ^ 10
    + boolNat (d.machineExternal k) * 2 ^ 11 + boolNat sge * 2 ^ 12 + boolNat (bitAt sw 13) * 2 ^ 13
    + boolNat (h.log.info.toNat.testBit 63) * 2 ^ 16

/-- AIA's default priority order of the major interrupts that this hart has. -/
def interruptOrder : List Nat := [11, 3, 7, 9, 1, 5, 12, 10, 2, 6, 13, 16]

/-- Machine-level interrupts, which R366 keeps pending. -/
def isMachineInterrupt (c : Nat) : Bool := c = 3 || c = 7 || c = 11

/-- An interrupt is pending and enabled, and its target privilege takes it now. -/
def Dev.interruptReady (d : Dev) (k c : Nat) : Bool :=
  let h := d.hart k
  bitAt (d.mip k) c && bitAt (h.csr 0x304) c &&
    (match d.trapTarget { h with priv := if h.priv = .m then .s else h.priv } ⟨c, true, 0, 0, 0, false⟩ with
     | .m => h.priv != .m || bitAt (h.csr 0x300) 3
     | .hs => !(d.secureDown && isMachineInterrupt c)
        && h.priv != .m && (h.v || h.priv = .u || bitAt (h.csr 0x300) 1)
     | .vs => h.priv != .m && h.v && (h.priv = .u || bitAt (h.csr 0x200) 1))

/-- Rank of a target: M before HS before VS. -/
def Dev.targetRank (d : Dev) (k c : Nat) : Nat :=
  let h := d.hart k
  match d.trapTarget { h with priv := if h.priv = .m then .s else h.priv } ⟨c, true, 0, 0, 0, false⟩ with
  | .m => 0
  | .hs => 1
  | .vs => 2

/-- The interrupt that a hart takes: of those it would take, the first of the highest target. -/
def Dev.nextInterrupt (d : Dev) (k : Nat) : Option Nat :=
  let l := interruptOrder.filter (d.interruptReady k)
  match l.filter (fun c => d.targetRank k c = 0) with
  | c :: _ => some c
  | [] => match l.filter (fun c => d.targetRank k c = 1) with
    | c :: _ => some c
    | [] => l.head?

/-- A request that an instruction of a hart, not a retired store, has sent to a home, which answers it without the L2 (R234, R273). -/
def isInstOp (k : Nat) (o : Nat × Nat × Instr) : Bool := o.1 = k && !isStoreOp o.2.2

/-- A hart may take an interrupt: it runs, no access that it has sent is outstanding, and it is not between a WRET and the first
instruction after it (R204). -/
def Dev.interruptible (d : Dev) (k : Nat) : Bool :=
  d.hartRuns k && (d.hart k).ioLoad.isNone && !d.fab.ops.any (isInstOp k) && (d.hart k).wait != .wret && !(d.hart k).returned

/-- The trap of an interrupt. -/
def interruptTrap (c : Nat) : Trap := ⟨c, true, 0, 0, 0, false⟩

/-- INTERRUPT_TAKEN (R209, R214, R228, R366, R200): also at a stalled fence, which restarts after the handler. -/
def execInterruptTaken (hart cause : Nat) (s : State) : Out :=
  occursAt 209 (hart < 240) (fun d => d.interruptible hart && d.nextInterrupt hart = some cause)
    (fun d => d.takeTrap hart (interruptTrap cause)) s

/-! ## What stops a core -/

/-- A core stops executing and what it had in flight is lost (R197); its caches are not touched here. -/
def Dev.haltCore (d : Dev) (k : Nat) : Dev :=
  let h := d.hart k
  let d := d.setHart k { h with
    running := false, resv := none, sbuf := [], tracker := [], ioLoad := none, accepts := [], wait := .none,
    l1d := [], l1i := [], lineErr := [], homeDone := [], half := none, walks := [], fetched := [], inWcall := false, returned := false,
    sampleDue := [] }
  { d with fab := { d.fab with ops := d.fab.ops.filter (fun o => o.1 != k),
                               injQ := d.fab.injQ.map (fun q => (q.1, q.2.filter (fun r => r.initiator != k))),
                               reqs := d.fab.reqs.filter (fun r => match r.2.owner with
                                 | .hartStore a _ => a != k
                                 | .hartLoad a _ => a != k
                                 | .hartLine a _ => a != k
                                 | _ => true) } }

/-- R195: every modified line that a core holds is written back with the mark, and every clean line is dropped. -/
def Dev.flushMarked (d : Dev) (k : Nat) : Dev :=
  ((d.hart k).l2.map (fun e => e.1)).foldl (fun d a =>
    let l := (d.hart k).line a
    if l.state = .m then (d.setL2 k a { l with mark := true }).evict k a
    else if l.state.waits then d.setL2 k a { l with state := .i, req := none }
    else d.evict k a) d

/-- A core is fenced (R195, R196, R198): it stops, its lines leave marked, and it leaves service at the homes (R290). -/
def Dev.fenceCore (d : Dev) (k : Nat) : Dev := (((d.haltCore k).flushMarked k).releaseAgent k).setUnit (.core k) stFenced

/-- A core, or its pair, is fenced; a command that runs ends. -/
def Dev.fencePair (d : Dev) (k : Nat) : Dev :=
  let k := if d.pairMode k then k / 2 * 2 else k
  let st := d.unit (.core k)
  if st = stReset || st = stReady || st = stActive || st = stQuiescing then
    let d := (d.fenceCore k).setCore k stFenced
    let d := if d.get (rUnitCommand (.core k)) = cmdRunning then d.set (rUnitCommand (.core k)) cmdRefused else d
    d.dieDrained (k / 20)
  else d

/-- The core's state discards its MSIs (R215): a pair that R195 fences reads FAILED. -/
def stateDropsMsi (st : Nat) : Bool := st = stFenced || st = stBypassed || st = stOff || st = stFailed

/-- A core starts in M and in the Tantalum world at `coreResetVector` (R198). Interrupt files keep what they took while it was READY; they start
empty where the core leaves a state that discards MSIs (R215). -/
def Dev.startCore (d : Dev) (k : Nat) : Dev :=
  let files := if stateDropsMsi (d.unit (.core k)) then [] else (d.hart k).imsic
  (d.setHart k { Hart.reset with running := true, imsic := files, pc := BitVec.ofNat 64 (d.get (rCoreResetVector k)) }).setCore k stActive

/-- The cores of a compute die. -/
def dieCores (n : Nat) : List Nat := (List.range 20).map (fun c => 20 * n + c)

/-- The cores of a compute die that act as harts. -/
def Dev.leadCores (d : Dev) (n : Nat) : List Nat := (dieCores n).filter (fun k => !d.isShadow k)

/-- A compute die is fenced with its cores. -/
def Dev.fenceDie (d : Dev) (n : Nat) : Dev := (d.leadCores n).foldl Dev.fencePair (d.setUnit (.die n) stFenced)

/-- R30, R382, R373: a compute die is fenced, then bypassed, and reads FAILED; a command that runs ends. -/
def Dev.dieLost (d : Dev) (n : Nat) : Dev :=
  if d.unit (.die n) = stFailed || d.unit (.die n) = stOff then d
  else
    let d := (d.fenceDie n).setUnit (.die n) stFailed
    let d := { d with power := { d.power with changes := tabErase d.power.changes n },
                      resetting := d.resetting.filter (fun x => x != n) }
    if d.get (rUnitCommand (.die n)) = cmdRunning then d.set (rUnitCommand (.die n)) cmdRefused else d

/-- The cores of a pair differ: both fence and read FAILED (R195). -/
def Dev.mismatch (d : Dev) (lead : Nat) : Dev :=
  let d := (d.fencePair lead).setCore lead stFailed
  let d := (d.addSat (rCoreLockstepFails lead) 1).addSat (rCoreLockstepFails (pairOf lead)) 1
  d.raise kCoreLockstep lead 0

/-- The lead of a core's pair; the core itself in split mode. -/
def Dev.leadOf (d : Dev) (k : Nat) : Nat := if d.pairMode k then k / 2 * 2 else k

/-- A core in a state in which its arrays hold live state. -/
def stateLive (st : Nat) : Bool := st = stReady || st = stActive || st = stQuiescing

/-- LOCKSTEP_MISMATCH (R195): also while the pair drains. -/
def execLockstepMismatch (lead : Nat) (s : State) : Out :=
  occursAt 195 (lead < 240 && lead % 2 = 0)
    (fun d => d.pairMode lead && (d.unit (.core lead) = stActive || d.unit (.core lead) = stQuiescing))
    (fun d => d.mismatch lead) s

/-! ## Errors in the arrays of a core (R196, R252, R254, R256) -/

/-- R256: an uncorrectable error in an array of a pair's core is a mismatch. -/
def Dev.pairError (d : Dev) (k : Nat) (err : ArrayError) : Bool := d.pairMode k && err = .uncorrectable

/-- R254: an error met in a line of an L2. A clean line with an uncorrectable error is dropped and announced as a clean eviction, and one that
waits for its Upgrade then waits as a miss; a modified one is written back marked and dropped. -/
def Dev.l2Error (d : Dev) (k line : Nat) (err : ArrayError) : Dev :=
  let l := (d.hart k).line line
  match err with
  | .none => d
  | .corrected => d.cacheCorrected k (240 + k) line
  | .uncorrectable =>
    match l.state with
    | .m => ((d.setL2 k line { l with mark := true }).evict k line).raiseAt kCacheUncorrectable (240 + k) line 0
    | .e => (d.evict k line).cacheCorrected k (240 + k) line
    | .s => (d.evict k line).cacheCorrected k (240 + k) line
    | .sm => (((d.setL2 k line { l with state := .im }).sendVn4 k (.evictClean k line)).loseResv k line).cacheCorrected k (240 + k) line
    | _ => d

/-- The set of a line in the 64 KiB, 4-way L1I. -/
def l1iSet (line : Nat) : Nat := field line 6 8

/-- The L1I takes a line; the oldest of a full set leaves. -/
def Hart.fillL1i (h : Hart) (line : Nat) : Hart :=
  let old := h.l1i.filter (fun x => x != line)
  let same := old.filter (fun x => l1iSet x = l1iSet line)
  { h with l1i := (if 4 ≤ same.length then old.erase (same.headD 0) else old) ++ [line] }

/-- R252: the line leaves the L1I and is fetched again from the L2, which obtains it where it does not hold it. -/
def Dev.refetch (d : Dev) (k line : Nat) : Dev :=
  let h := d.hart k
  let d := (d.setHart k { h with l1i := h.l1i.filter (fun x => x != line) }).cacheCorrected k k line
  if (h.line line).state.readable then d.setHart k ((d.hart k).fillL1i line)
  else d.wantShared k line h.world 0 h.stream .inst

/-- The state in which an array of a core can show the error. -/
def Dev.arrayHolds (d : Dev) (k : Nat) : CoreArray → Bool
  | .own => stateLive (d.unit (.core k))
  | .l1i _ => d.hartRuns k
  | .l2 line err => err != .none && (((d.hart k).line line).state.readable)

/-- CORE_ARRAY_ERROR (R196, R252, R254, R256): an uncorrectable error in a core's own state fences it; one in the L1I is a refetch; one in an L2 line
that leaves is corrected, or the line leaves as R254 says. In pair mode what cannot be corrected is a mismatch; a parity error of the L1I, which
a refetch corrects, is not (DEDUCED, log 73). -/
def execCoreArrayError (core : Nat) (array : CoreArray) (s : State) : Out :=
  occursAt 196 (core < 240)
    (fun d => d.arrayHolds core array)
    (fun d =>
      match array with
      | .own => if d.pairMode core then d.mismatch (d.leadOf core) else (d.fencePair core).raise kCoreArray core 0
      | .l1i line => d.refetch core (lineAddr line)
      | .l2 line err =>
        if d.pairError core err then d.mismatch (d.leadOf core)
        else (if err = .corrected then (d.l2Error core line err).evict core line else d.l2Error core line err).coreSettle core) s

/-! ## Recalls that reach an L2 -/

/-- An error met in a line that a recall takes (R254): a modified line takes the mark, a clean one is counted and does not stay; with the truth of
whether the line is dropped. -/
def Dev.recallError (d : Dev) (k line : Nat) (err : ArrayError) : Bool × Dev :=
  let l := (d.hart k).line line
  match err with
  | .none => (false, d)
  | .corrected => (false, if l.state.readable then d.cacheCorrected k (240 + k) line else d)
  | .uncorrectable =>
    match l.state with
    | .m => (false, (d.setL2 k line { l with mark := true }).raiseAt kCacheUncorrectable (240 + k) line 0)
    | .e => (true, d.cacheCorrected k (240 + k) line)
    | .s => (true, d.cacheCorrected k (240 + k) line)
    | .sm => (true, d.cacheCorrected k (240 + k) line)
    | _ => (false, d)

/-- A core's answer to RecallShare: an owner becomes S, or gives a clean line with an error up. -/
def Dev.recallShareAt (d : Dev) (k line : Nat) (err : ArrayError) : Dev :=
  let r := d.recallError k line err
  let d := r.2
  let l := (d.hart k).line line
  let shared := (d.setL2 k line { l with state := .s }).updateFilter (k / 20) line (fun e => { e with x := false })
  match l.state with
  | .m => shared.sendVn4 k (.recallAckData k line l.data l.mark)
  | .e => let d := shared.post (.recallAck k line false); if r.1 then d.evict k line else d
  | .ei => d.post (.recallAck k line true)
  | .mi => d.post (.recallAck k line true)
  | _ => d.post (.recallAck k line false)

/-- R296: the edge answers for a core that is gone; the memory copy of a line that it owned is marked. -/
def Dev.recallGone (d : Dev) (k line : Nat) (discard : Bool) : Dev :=
  let owner := match d.dirEntry line with
    | some e => e.state = 2 && e.owner = k
    | none => false
  let d := d.add rFabTargetOffline 1
  (if owner && !discard then d.markLine line else d).recallAnswered k line none false

/-- RECALL_SHARE (Table 12-3). -/
def execRecallShare (hart line : Nat) (err : ArrayError) (s : State) : Out :=
  occursAt 280 (hart < 240 || isRemoteAgent hart)
    (fun _ => true)
    (fun d =>
      let d := d.takeMsg (isRecall false hart line)
      if isRemoteAgent hart then d.proxyRecall hart line true false
      else if d.agentGone hart && (d.remoteHome line).isNone then d.recallGone hart line false
      else if d.pairError hart err then d.mismatch (d.leadOf hart)
      else d.recallShareAt hart line err) s

/-- A core's answer to RecallInv: the line leaves. A recall of the die's own filter makes the core evict (R282). -/
def Dev.recallInvAt (d : Dev) (k line : Nat) (discard : Bool) (err : ArrayError) : Dev :=
  let d := (d.recallError k line err).2
  let l := (d.hart k).line line
  if d.filterLeaving k line then
    if l.state = .s || l.state = .e || l.state = .m then d.evict k line
    else if l.state = .i then d.filterLeave k line false
    else d
  else
    let gone := ((d.setL2 k line { l with state := .i }).loseResv k line).filterLeave k line true
    match l.state with
    | .m => gone.sendVn4 k (if discard then .recallAck k line false else .recallAckData k line l.data l.mark)
    | .ei => d.post (.recallAck k line true)
    | .mi => d.post (.recallAck k line true)
    | .is => d.post (.recallAck k line false)
    | .im => d.post (.recallAck k line false)
    | .sm => (((d.setL2 k line { l with state := .im }).loseResv k line).filterLeave k line true).post (.recallAck k line false)
    | _ => gone.post (.recallAck k line false)

/-- RECALL_INV (Table 12-3). -/
def execRecallInv (hart line : Nat) (discard : Bool) (err : ArrayError) (s : State) : Out :=
  occursAt 280 (hart < 240 || isRemoteAgent hart)
    (fun _ => true)
    (fun d =>
      let d := d.takeMsg (isRecall true hart line)
      if isRemoteAgent hart then d.proxyRecall hart line false discard
      else if d.agentGone hart && (d.remoteHome line).isNone then d.recallGone hart line discard
      else if d.pairError hart err then d.mismatch (d.leadOf hart)
      else d.recallInvAt hart line discard err) s

/-! ## Message-signalled interrupts (R214, R215) -/

/-- An MSI at a file of a hart. -/
def Dev.receiveMsi (d : Dev) (k file identity : Nat) : Dev :=
  if stateDropsMsi (d.unit (.core k)) then d.addSat (rCoreMsiDropped k) 1
  else if identity = 0 || 2048 ≤ identity then d
  else
    let h := d.hart k
    let l := tabGet h.imsic file []
    d.setHart k { h with imsic := tabPut h.imsic file (if l.contains identity then l else l ++ [identity]) }

/-- MSI_RECEIVE (R214, R215). The files of a shadow core are unmapped (R194). -/
def execMsiReceive (hart file identity : Nat) (s : State) : Out :=
  occursAt 215 (hart < 240 && file < 8) (fun d => !d.isShadow hart)
    (fun d => (d.takeMsg (fun m => m = .msiReceive hart file identity)).receiveMsi hart file identity) s

/-! ## World calls (R202 to R204) and returns from M -/

/-- a0 of a call that the secure side does not serve: SECURE_UNAVAILABLE, −16. -/
def secureUnavailable : Word := 0xFFFF_FFFF_FFFF_FFF0

/-- Every earlier access of the hart has completed or timed out (R202 step 1). -/
def Hart.idle (h : Hart) : Bool := h.sbuf.isEmpty && h.tracker.isEmpty && h.ioLoad.isNone

/-- The hart is free to execute an instruction. -/
def Dev.ready (d : Dev) (k : Nat) : Bool :=
  d.hartRuns k && (d.hart k).wait = .none && (d.hart k).ioLoad.isNone

/-! Table 08-8: the instruction words. -/

def wcallWord : Nat := 0x0000_000B
def wretWord : Nat := 0x0010_000B

/-- R202: where WCALL is permitted. -/
def Hart.wcallOk (h : Hart) : Bool := h.priv = .s && !h.v && h.world = .normal

/-- WCALL ends at step 2: a0 tells that the secure side is unavailable. -/
def Dev.wcallRefused (d : Dev) (k : Nat) : Dev :=
  (d.setHart k ({ (d.hart k) with wait := .none }.setX 10 secureUnavailable)).retire k 4

/-- R202 step 3. -/
def Hart.wcallEnter (h : Hart) : Hart :=
  let st := h.csr 0x300
  let h := ((h.setCsr 0x7C2 ((h.pc + 4).toNat)).setCsr 0x7C3 (h.x 17).toNat).setCsr 0x7C4 (boolNat (bitAt st 3) * 8)
  let h := (h.setCsr 0x300 (bitPut st 3 false)).setCsrBit 0x7C0 0 true
  { h with priv := .m, inWcall := true, wait := .none, pc := BitVec.ofNat 64 (h.csr 0x7C1) }

/-- Steps 2 and 3 of R202, once the wait has ended. -/
def Dev.wcallStep (d : Dev) (k : Nat) : Dev :=
  if d.secureDown then d.wcallRefused k else (d.hartEvent k 0x0E).setHart k ((d.hartEvent k 0x0E).hart k).wcallEnter

/-- WCALL_ENTRY (R202). -/
def execWcallEntry (hart : Nat) (s : State) : Out :=
  occursAt 202 (hart < 240) (fun d => d.hartRuns hart && (d.hart hart).wait = .wcall && (d.hart hart).idle)
    (fun d => d.wcallStep hart) s

/-- R204: the registers that a scrub clears; `keepA1` is false for a forced return (R365). FS and VS become Dirty unless
they were Off. -/
def Hart.scrub (h : Hart) (keepA1 : Bool) : Hart :=
  let st := h.csr 0x300
  let dirty (st lo : Nat) : Nat := if field st lo 2 = 0 then st else fieldPut st lo 2 3
  let keep := (tabFind h.xregs 10).toList.map (fun v => (10, v))
    ++ (if keepA1 then (tabFind h.xregs 11).toList.map (fun v => (11, v)) else [])
  let h := { h with xregs := keep, fregs := [], vregs := [] }
  let h := [0x001, 0x002, 0x008, 0x009, 0x00A, 0xC20].foldl (fun h a => h.setCsr a 0) h
  (h.setCsr 0xC21 (2 ^ 63)).setCsr 0x300 (dirty (dirty st 13) 9)

/-- R357: `mwcfid` equals a scrub-list entry that takes part. -/
def Dev.scrubs (d : Dev) (fid : Nat) : Bool :=
  (List.range 16).any (fun j => bitAt (d.get rScrubValid) j && d.get (rScrubFid j) = fid)

/-- The step of WRET (R203). -/
def Hart.wretLeave (h : Hart) : Hart :=
  let h := (h.setCsrBit 0x300 3 (bitAt (h.csr 0x7C4) 3)).setCsrBit 0x7C0 0 false
  { h with priv := .s, v := false, inWcall := false, wait := .none, pc := BitVec.ofNat 64 (h.csr 0x7C2) }

/-- WCALL (R202): it begins to wait; with the secure side down and nothing to wait for it is done. -/
def Dev.wcall (d : Dev) (k : Nat) : Dev :=
  let h := d.hart k
  if h.v then d.virtualInst k (some wcallWord)
  else if !h.wcallOk then d.illegal k (some wcallWord)
  else if h.idle && d.secureDown then d.wcallRefused k
  else d.setHart k { h with wait := .wcall }

/-- WRET (R203): it begins to wait. -/
def Dev.wret (d : Dev) (k : Nat) : Dev :=
  let h := d.hart k
  if h.priv = .m then d.setHart k { h with wait := .wret } else d.illegal k (some wretWord)

/-- R201: an instruction of the custom-0 opcode. -/
def Dev.custom0 (d : Dev) (k word : Nat) : Dev :=
  if word = wcallWord then d.wcall k else if word = wretWord then d.wret k else d.illegal k (some word)

/-- WCALL (R201, R202), by its instruction word: every other word of its opcode but WRET's is illegal. -/
def execWcall (hart word : Nat) (s : State) : Out :=
  occursAt 201 (hart < 240 && word < 2 ^ 32 && word % 128 = 0x0B) (fun d => d.ready hart) (fun d => d.custom0 hart word) s

/-- WRET (R203). -/
def execWret (hart : Nat) (s : State) : Out :=
  occursAt 203 (hart < 240) (fun d => d.ready hart) (fun d => d.wret hart) s

/-- WRET_RETURN (R203, R204, R357). -/
def execWretReturn (hart : Nat) (s : State) : Out :=
  occursAt 203 (hart < 240) (fun d => d.hartRuns hart && (d.hart hart).wait = .wret && (d.hart hart).idle)
    (fun d =>
      let h := d.hart hart
      let h := if d.scrubs (h.csr 0x7C3) then h.scrub true else h
      d.setHart hart { h.wretLeave with returned := true }) s

/-- R365: the call of a hart in M returns by force; an answer to an access that it had sent comes to nobody. -/
def Dev.forcedReturn (d : Dev) (k : Nat) : Dev :=
  let h := (((d.hart k).abandon.scrub false).setX 10 secureUnavailable).wretLeave
  let d := { d with fab := { d.fab with ops := d.fab.ops.filter (fun o => !isInstOp k o) } }
  (d.setHart k { h with ioLoad := none }).addWrap32 rTkForcedReturns

/-- The cause of an ECALL from the hart's mode. -/
def Hart.ecallCause (h : Hart) : Nat :=
  match h.priv with
  | .u => 8
  | .s => if h.v then 10 else 9
  | .m => 11

/-- ECALL (R366). While the secure side is unavailable, one from HS, and one from VS or VU that is not delegated,
returns −16; otherwise it traps. -/
def execEcall (hart : Nat) (s : State) : Out :=
  occursAt 366 (hart < 240) (fun d => d.ready hart)
    (fun d =>
      let h := d.hart hart
      if d.secureDown && ((h.priv = .s && !h.v) || (h.v && !delegates (h.csr 0x302) h.ecallCause))
      then (d.setHart hart (h.setX 10 secureUnavailable)).retire hart 4
      else d.takeTrap hart (exception h.ecallCause 0)) s

/-- The return from M: `mstatus` as the privileged architecture has it, `mworld` as R200. -/
def Hart.mretLeave (h : Hart) : Hart :=
  let st := h.csr 0x300
  let p := codePriv (field st 11 2)
  let v := bitAt st 39 && p != .m
  let st := bitPut (bitPut st 3 (bitAt st 7)) 7 true
  let st := bitPut (fieldPut st 11 2 0) 39 false
  let st := if p = .m then st else bitPut st 17 false
  let w := h.csr 0x7C0
  let h := (h.setCsr 0x300 st).setCsr 0x7C0 (if p = .m then bitPut w 0 true else bitPut w 0 (bitAt w 1))
  { h with priv := p, v := v, inWcall := h.inWcall && p = .m, pc := BitVec.ofNat 64 (h.csr 0x341) }

/-- MRET (R200): legal in M only. -/
def execMret (hart : Nat) (s : State) : Out :=
  occursAt 200 (hart < 240) (fun d => d.ready hart)
    (fun d => if (d.hart hart).priv = .m then d.setHart hart { (d.hart hart).mretLeave with returned := false } else d.illegal hart (some 0x3020_0073)) s

/-! ## Bus-error logs (R210 to R213, Table 08-10) -/

/-- R212: an error reaches a log. -/
def BusLog.note (l : BusLog) (cause pa size : Nat) (w : World) : BusLog :=
  let i := l.info.toNat
  if bitAt i 63 then { l with info := BitVec.ofNat 64 (fieldPut (bitSet i 62) 16 8 (min 255 (field i 16 8 + 1))) }
  else ⟨BitVec.ofNat 64 (2 ^ 63 + cause * 2 ^ 8 + worldBit w * 2 ^ 4 + Nat.log2 size), BitVec.ofNat 64 (pa % 2 ^ 52)⟩

/-- R210: a hart logs an error of a store in the log of the store's world, and sends a record. -/
def Dev.logBusError (d : Dev) (k cause pa size : Nat) (w : World) : Dev :=
  let h := d.hart k
  let d := d.setHart k (match w with
    | .normal => { h with logN := h.logN.note cause pa size w }
    | .tantalum => { h with logT := h.logT.note cause pa size w })
  (d.addSat (rCoreBusErrors k) 1).raiseAt kBusError k pa 0

/-- The log of the current world changes. -/
def Hart.setLog (h : Hart) (l : BusLog) : Hart :=
  match h.world with
  | .normal => { h with logN := l }
  | .tantalum => { h with logT := l }

/-- R212: a write of `mbeinfo`. -/
def Hart.writeBeinfo (h : Hart) (v : Nat) : Hart :=
  if bitAt v 63 then h
  else h.setLog { h.log with info := BitVec.ofNat 64 (fieldPut (bitPut (bitPut h.log.info.toNat 63 false) 62 false) 16 8 0) }

end Sys2Proof.Machine
end

