-- ==== Sys2Proof/Machine/Csr.lean ====
section
/-!
DEFINITION. CSR writes: which are legal (R189, R190, R199, R202), what each register takes (Tables 08-2, 08-6 to 08-10,
R233, R273; standard registers PRESUMED from the ratified specifications of R188, log 20), the sampling buffer (R206)
and the bus-error log.
-/
namespace Sys2Proof.Machine

/-! ## Which write is legal -/

/-- How a CSR access ends. -/
inductive CsrLegal where
  | ok
  | illegal
  | virtual_
deriving DecidableEq, Repr

/-- The vendor addresses that R199 leaves without a register. -/
def vendorHole (a : Nat) : Bool :=
  (0x7C5 ≤ a && a ≤ 0x7C7) || (0x7CD ≤ a && a ≤ 0x7CF) || (0x7D2 ≤ a && a ≤ 0x7FF)
  || (0x5C0 ≤ a && a ≤ 0x5C7) || (0x5CD ≤ a && a ≤ 0x5CF) || (0x5D2 ≤ a && a ≤ 0x5FF)
  || (0x6C1 ≤ a && a ≤ 0x6FF)

/-- Writable CSRs of the standard specifications that the cores implement. -/
def standardCsrs : List Nat :=
  [0x001, 0x002, 0x003, 0x008, 0x009, 0x00A, 0x00F,
   0x100, 0x104, 0x105, 0x106, 0x10A, 0x10C, 0x10D, 0x10E, 0x10F, 0x140, 0x141, 0x142, 0x143, 0x144, 0x14D, 0x150,
   0x151, 0x15C, 0x180,
   0x200, 0x204, 0x205, 0x240, 0x241, 0x242, 0x243, 0x244, 0x24D, 0x250, 0x251, 0x25C, 0x280,
   0x300, 0x301, 0x302, 0x303, 0x304, 0x305, 0x306, 0x308, 0x309, 0x30A, 0x30C, 0x30D, 0x30E, 0x30F, 0x320,
   0x340, 0x341, 0x342, 0x343, 0x344, 0x34A, 0x34B, 0x350, 0x351, 0x35C, 0x747,
   0x600, 0x602, 0x603, 0x604, 0x605, 0x606, 0x607, 0x608, 0x609, 0x60A, 0x60C, 0x60D, 0x60E, 0x60F, 0x643, 0x644,
   0x645, 0x646, 0x647, 0x64A, 0x680]

/-- Vendor CSRs (Table 08-6). -/
def vendorCsrs : List Nat :=
  [0x7C0, 0x7C1, 0x7C2, 0x7C3, 0x7C4, 0x7C8, 0x7C9, 0x7CA, 0x7CB, 0x7CC, 0x5C8, 0x5C9, 0x5CA, 0x5CB, 0x5CC, 0x6C0,
   0x7D0, 0x7D1, 0x5D0, 0x5D1]

/-- A writable CSR exists at the address. `seed` (0x015) does not (R189). -/
def csrExists (a : Nat) : Bool :=
  standardCsrs.contains a || vendorCsrs.contains a
  || (0xB00 ≤ a && a < 0xB20 && a != 0xB01) || (0x323 ≤ a && a < 0x340)
  || (0x3A0 ≤ a && a < 0x3B0 && a % 2 = 0) || (0x3B0 ≤ a && a < 0x3F0)

/-- R199: the S aliases that M has not opened. -/
def Hart.aliasClosed (h : Hart) (a : Nat) : Bool :=
  (0x5C8 ≤ a && a ≤ 0x5CC && !bitAt (h.csr 0x7C8) 3) || ((a = 0x5D0 || a = 0x5D1) && !bitAt (h.csr 0x303) 16)

/-- Vector state is off for the hart. -/
def Hart.unitOff (h : Hart) (lo : Nat) : Bool :=
  field (h.csr 0x300) lo 2 = 0 || (h.v && field (h.csr 0x200) lo 2 = 0)

/-- Legality of a write of a CSR from the hart's mode (R199). -/
def Hart.csrLegal (h : Hart) (a : Nat) : CsrLegal :=
  let lvl := field a 8 2
  if !csrExists a || field a 10 2 = 3 then .illegal
  else if vendorCsrs.contains a && h.priv != .m && (lvl = 3 || h.aliasClosed a) then .illegal
  else if (1 ≤ a && a ≤ 3 && h.unitOff 13) || ((a = 8 || a = 9 || a = 0x0A || a = 0x0F) && h.unitOff 9) then .illegal
  else
    match h.priv with
    | .m => .ok
    | .s =>
      if lvl = 3 then .illegal
      else if h.v then
        (if lvl = 2 || vendorCsrs.contains a then .virtual_
         else if a = 0x180 && bitAt (h.csr 0x600) 20 then .virtual_ else .ok)
      else if (a = 0x180 || a = 0x680) && bitAt (h.csr 0x300) 20 then .illegal
      else if (a = 0x14D || a = 0x24D) && !bitAt (h.csr 0x30A) 63 then .illegal
      else .ok
    | .u =>
      if lvl = 0 then .ok
      else if lvl = 3 then .illegal
      else if h.v then .virtual_ else .illegal

/-! ## What a register takes -/

/-- While V = 1 the S-level numbers name the VS registers. -/
def vsAlias (a : Nat) : Nat :=
  if a = 0x100 || a = 0x104 || a = 0x105 || a = 0x180 || (0x140 ≤ a && a ≤ 0x144) || a = 0x14D || a = 0x150 || a = 0x151
    || a = 0x15C then a + 0x100 else a

/-- R273: CBIE does not hold 0b11; a write of 0b11 leaves 0b01. -/
def envValue (v m : Nat) : Nat :=
  let w := v &&& m
  if field w 4 2 = 3 then fieldPut w 4 2 1 else w

/-- The pointer-masking field PMM of `senvcfg` and `henvcfg` (Ssnpm, mandatory in RVA23S64; log 20): 0, or 2 for a PMLEN of 7; another value leaves
the field as it was. -/
def pmmValue (old v w : Nat) : Nat :=
  let p := field v 32 2
  fieldPut w 32 2 (if p = 0 || p = 2 then p else field old 32 2)

/-- R190, R233: an address-translation root; a mode outside Table 10-1 leaves the register as it was. -/
def atpValue (old v asidBits : Nat) : Nat :=
  let m := field v 60 4
  if m = 0 || m = 8 || m = 9 || m = 10 then m * 2 ^ 60 + field v 44 asidBits * 2 ^ 44 + field v 0 40 else old

/-- The configuration byte of a PMP entry after a write (granularity 4 KiB: NA4 cannot be chosen). -/
def pmpByte (old v : Nat) : Nat :=
  if bitAt old 7 || (bitAt v 1 && !bitAt v 0) then old
  else
    let v := v &&& 0x9F
    if field v 3 2 = 2 then fieldPut v 3 2 (field old 3 2) else v

/-- A PMP configuration register after a write. -/
def pmpCfgValue (old v : Nat) : Nat :=
  (List.range 8).foldl (fun acc i => acc + pmpByte (field old (8 * i) 8) (field v (8 * i) 8) * 2 ^ (8 * i)) 0

/-- The configuration byte of PMP entry `i`. -/
def Hart.pmpCfg (h : Hart) (i : Nat) : Nat := field (h.csr (0x3A0 + i / 8 * 2)) (8 * (i % 8)) 8

/-- The address register of a PMP entry is locked, by its own entry or by a locked TOR entry above. -/
def Hart.pmpLocked (h : Hart) (i : Nat) : Bool :=
  bitAt (h.pmpCfg i) 7 || (i < 63 && bitAt (h.pmpCfg (i + 1)) 7 && field (h.pmpCfg (i + 1)) 3 2 = 1)

/-- Bits of `mstatus` that software writes, and of its S view. -/
def mstatusMask : Nat := 0xC0_007E_7FAA
def sstatusMask : Nat := 0xC_6722

/-- Interrupts whose pending or enable bits exist (R209: bit 16). -/
def mieMask : Nat := 0x1_3EEE
def sLevelMask : Nat := 0x1_2222

/-- `mstatus` after a write: MPP = 2 is not taken. -/
def mstatusValue (old v : Nat) : Nat :=
  let w := bitsClear old mstatusMask ||| (v &&& mstatusMask)
  if field w 11 2 = 2 then fieldPut w 11 2 (field old 11 2) else w

/-- A register of an IMSIC file written through its select and data registers: delivery, threshold, pending and
enable arrays. -/
def Hart.writeImsic (h : Hart) (file sel v : Nat) : Hart :=
  if sel = 0x70 then h.setCsr (imsicKey file sel) (v % 2)
  else if sel = 0x72 then h.setCsr (imsicKey file sel) (v % 2048)
  else if 0x80 ≤ sel && sel < 0xC0 && sel % 2 = 0 then
    let base := (sel - 0x80) / 2 * 64
    let ids := (List.range 64).filterMap (fun i => if bitAt v i && base + i != 0 then some (base + i) else none)
    { h with imsic := tabPut h.imsic file (((tabGet h.imsic file []).filter (fun i => i < base || base + 64 ≤ i)) ++ ids) }
  else if 0xC0 ≤ sel && sel < 0x100 && sel % 2 = 0 then h.setCsr (imsicKey file sel) (if sel = 0xC0 then bitClear v 0 else v)
  else h

/-- A claim: the top identity of a file is no longer pending. -/
def Hart.claim (h : Hart) (file : Nat) : Hart :=
  match h.imsicTop file with
  | none => h
  | some i => { h with imsic := tabPut h.imsic file ((tabGet h.imsic file []).filter (fun j => j != i)) }

/-- The guest file that `hstatus`.VGEIN selects. -/
def Hart.vgein (h : Hart) : Nat := field (h.csr 0x600) 12 6

/-- `mworld` in M reads WORLD 1; MPW alone is written. R206: arming, and the other fields of `mpsctl`, which hardware sets. -/
def samplingValue (old v : Nat) : Nat :=
  let sel := field v 1 4
  if bitAt v 0 && 3 ≤ sel && sel ≤ 10 then sel * 2 + 1 else fieldPut (bitPut old 0 false) 1 4 sel

/-- A write of a vendor CSR (Tables 08-7, 08-9, 08-10). -/
def Hart.writeVendor (h : Hart) (a v : Nat) : Hart :=
  if a = 0x7C0 then h.setCsrBits a 2 v
  else if a = 0x7C1 then h.setCsr a (v / 4 * 4)
  else if a = 0x7C2 || a = 0x7C3 then h.setCsr a v
  else if a = 0x7C4 then h.setCsr a (v &&& 8)
  else if a = 0x7C8 then h.setCsr a (v % 16)
  else if a = 0x5C8 then h.setCsrBits 0x7C8 3 v
  else if a = 0x7C9 || a = 0x5C9 then h.setCsr 0x7C9 (samplingValue (h.csr 0x7C9) v)
  else if (0x7CA ≤ a && a ≤ 0x7CC) || (0x5CA ≤ a && a ≤ 0x5CC) then
    h.setCsr (0x7C0 + a % 16) (v % 2 ^ 52 / 64 * 64)
  else if a = 0x6C0 then h.setCsr a (v &&& 0x3F3F)
  else if a = 0x7D0 || a = 0x5D0 then h.writeBeinfo v
  else h

/-- A write of a supervisor, VS or hypervisor CSR. -/
def Hart.writeS (h : Hart) (a v : Nat) : Hart :=
  if a = 0x100 then h.setCsrBits 0x300 sstatusMask v
  else if a = 0x104 then h.setCsrBits 0x304 (h.csr 0x303 &&& sLevelMask) v
  else if a = 0x144 then h.setCsrBits 0x344 (h.csr 0x303 &&& 0x2002) v
  else if a = 0x200 then h.setCsrBits a sstatusMask v
  else if a = 0x204 then h.setCsrBits 0x304 (h.csr 0x603 &&& 0x444) (2 * v)
  else if a = 0x244 then h.setCsrBits 0x645 (h.csr 0x603 &&& 4) (2 * v)
  else if a = 0x604 then h.setCsrBits 0x304 0x1444 v
  else if a = 0x644 then h.setCsrBits 0x645 4 v
  else if a = 0x645 then h.setCsr a (v &&& 0x444)
  else if a = 0x105 || a = 0x205 then h.setCsr a (bitPut v 1 false)
  else if a = 0x141 || a = 0x241 then h.setCsr a (bitPut v 0 false)
  else if a = 0x106 || a = 0x606 then h.setCsr a (v % 2048)
  else if a = 0x10A then h.setCsr a (pmmValue (h.csr a) v (envValue v 0xF1))
  else if a = 0x60A then h.setCsr a (pmmValue (h.csr a) v (envValue v (0xF1 ||| (h.csr 0x30A &&& 0xC000_0000_0000_0000))))
  else if a = 0x180 || a = 0x280 then h.setCsr a (atpValue (h.csr a) v 16)
  else if a = 0x680 then h.setCsr a (let w := atpValue (h.csr a) v 14; if w = h.csr a then w else w / 4 * 4)
  else if a = 0x600 then
    h.setCsrBits a (if field v 12 6 ≤ 7 then 0x73_F3C0 else 0x70_03C0) v
  else if a = 0x602 then h.setCsr a (v &&& 0xB1FF)
  else if a = 0x603 then h.setCsr a (v &&& 0x444)
  else if a = 0x607 then h.setCsr a (v &&& 0xFE)
  else if a = 0x151 then h.writeImsic 0 (h.csr 0x150) v
  else if a = 0x251 then (if h.vgein = 0 then h else h.writeImsic h.vgein (h.csr 0x250) v)
  else if a = 0x15C then h.claim 0
  else if a = 0x25C then (if h.vgein = 0 then h else h.claim h.vgein)
  else if (0x10C ≤ a && a ≤ 0x10F) || (0x60C ≤ a && a ≤ 0x60F) || a = 0x608 || a = 0x609 || a = 0x646 || a = 0x647 then h
  else h.setCsr a v

/-- A write of a machine CSR. -/
def Hart.writeM (h : Hart) (a v : Nat) : Hart :=
  if a = 0x300 then h.setCsr a (mstatusValue (h.csr a) v)
  else if a = 0x302 then h.setCsr a (v &&& 0xF0_B7FF)
  else if a = 0x303 then h.setCsr a ((v &&& sLevelMask) ||| 0x1444)
  else if a = 0x304 then h.setCsr a (v &&& mieMask)
  else if a = 0x344 then
    (h.setCsrBits a (if bitAt (h.csr 0x30A) 63 then 0x2202 else 0x2222) v).setCsrBits 0x645 4 v
  else if a = 0x305 then h.setCsr a (bitPut v 1 false)
  else if a = 0x341 then h.setCsr a (bitPut v 0 false)
  else if a = 0x306 then h.setCsr a (v % 2048)
  else if a = 0x30A then h.setCsr a (envValue v 0xC000_0000_0000_00F1)
  else if a = 0x320 then h.setCsr a (v &&& 0x7FD)
  else if 0x323 ≤ a && a < 0x340 then (if a < 0x32B then h.setCsr a (v &&& 0xFC00_0000_FFFF_FFFF) else h)
  else if 0xB00 ≤ a && a < 0xB20 then (if a < 0xB0B then h.setCsr a v else h)
  else if 0x3A0 ≤ a && a < 0x3B0 then h.setCsr a (pmpCfgValue (h.csr a) v)
  else if 0x3B0 ≤ a && a < 0x3F0 then (if h.pmpLocked (a - 0x3B0) then h else h.setCsr a (v % 2 ^ 50))
  else if a = 0x301 || (0x30C ≤ a && a ≤ 0x30F) || a = 0x308 || a = 0x309 || a = 0x350 || a = 0x351 || a = 0x35C || a = 0x747
  then h
  else h.setCsr a v

/-- A write of a floating-point or vector CSR; the unit's state becomes Dirty. -/
def Hart.writeU (h : Hart) (a v : Nat) : Hart :=
  let fp := a ≤ 3
  let h := if a = 1 then h.setCsr 1 (v % 32)
    else if a = 2 then h.setCsr 2 (v % 8)
    else if a = 3 then (h.setCsr 1 (v % 32)).setCsr 2 (v / 32 % 8)
    else if a = 8 then h.setCsr 8 (v % 256)
    else if a = 9 then h.setCsr 9 (v % 2)
    else if a = 0x0A then h.setCsr 0x0A (v % 4)
    else (h.setCsr 9 (v % 2)).setCsr 0x0A (v / 2 % 4)
  let h := h.setCsr 0x300 (fieldPut (h.csr 0x300) (if fp then 13 else 9) 2 3)
  if h.v then h.setCsr 0x200 (fieldPut (h.csr 0x200) (if fp then 13 else 9) 2 3) else h

/-- A legal CSR write. -/
def Hart.writeCsr (h : Hart) (a v : Nat) : Hart :=
  let a := if h.v then vsAlias a else a
  if vendorCsrs.contains a then h.writeVendor a v
  else if field a 8 2 = 0 && a < 0x100 then h.writeU a v
  else if field a 8 2 = 3 then h.writeM a v
  else h.writeS a v

/-! ## What a register reads -/

/-- Read-only identity and shadow registers: `mvendorid`, `marchid`, `mimpid`, `mhartid`, `vlenb` (Table 08-2), and the unprivileged views of the
counters and of `time`. -/
def Dev.csrFixed (d : Dev) (k a : Nat) : Option Nat :=
  if a = 0xF11 || a = 0xF15 then some 0
  else if a = 0xF12 then some 0x8000_0000_0000_0124
  else if a = 0xF13 then some (d.get (rDieStepping (k / 20)))
  else if a = 0xF14 then some k
  else if a = 0xC22 then some 32
  else if a = 0xC01 then some d.timeCsr
  else if 0xC00 ≤ a && a < 0xC20 then some ((d.hart k).csr (a - 0x100))
  else none

/-- The views of machine registers at S and VS numbers, and the vendor registers that hardware keeps (Tables 08-7, 08-9, 08-10). -/
def Dev.csrView (d : Dev) (k a : Nat) : Option Nat :=
  let h := d.hart k
  if a = 0x100 then some (h.csr 0x300 &&& 0x3_000D_E762)
  else if a = 0x104 then some (h.csr 0x304 &&& h.csr 0x303 &&& sLevelMask)
  else if a = 0x144 then some (d.mip k &&& h.csr 0x303 &&& sLevelMask)
  else if a = 0x344 then some (d.mip k)
  else if a = 0x204 then some ((h.csr 0x304 &&& h.csr 0x603 &&& 0x444) / 2)
  else if a = 0x244 then some ((d.mip k &&& h.csr 0x603 &&& 0x444) / 2)
  else if a = 0x604 then some (h.csr 0x304 &&& 0x1444)
  else if a = 0x644 then some (d.mip k &&& 0x1444)
  else if a = 0x7C0 then some (bitPut (h.csr 0x7C0) 0 (h.world = .tantalum))
  else if a = 0x5C8 then some (h.csr 0x7C8 % 4)
  else if 0x5C9 ≤ a && a ≤ 0x5CC then some (h.csr (a + 0x200))
  else if a = 0x7D0 || a = 0x5D0 then some h.log.info.toNat
  else if a = 0x7D1 || a = 0x5D1 then some h.log.addr.toNat
  else none

/-- The value that a legal CSR read of a hart gives. No command of the table reads a CSR; the operation says what each register holds. -/
def Dev.csrRead (d : Dev) (k a : Nat) : Nat :=
  let a := if (d.hart k).v then vsAlias a else a
  (d.csrFixed k a).getD ((d.csrView k a).getD ((d.hart k).csr a))

/-- A CSR instruction of a hart that writes: the write, or the exception that R199 names. -/
def Dev.csrInstruction (d : Dev) (k a v : Nat) : Dev :=
  match (d.hart k).csrLegal a with
  | .illegal => d.illegal k none
  | .virtual_ => d.virtualInst k none
  | .ok => (d.setHart k ((d.hart k).writeCsr a v)).retire k 4

/-- MBEINFO_WRITE (R212, R199): `mbeinfo`, or `sbeinfo`. -/
def execMbeinfoWrite (hart : Nat) (alias_ : Bool) (value : Word) (s : State) : Out :=
  occursAt 212 (hart < 240) (fun d => d.ready hart)
    (fun d => d.csrInstruction hart (if alias_ then 0x5D0 else 0x7D0) value.toNat) s

/-- SAMPLING_ARM (R206, R199): a write of `mpsctl`, or of `spsctl`. -/
def execSamplingArm (hart : Nat) (alias_ : Bool) (value : Word) (s : State) : Out :=
  occursAt 206 (hart < 240) (fun d => d.ready hart)
    (fun d => d.csrInstruction hart (if alias_ then 0x5C9 else 0x7C9) value.toNat) s

end Sys2Proof.Machine
end

