-- ==== Sys2Proof/Machine/Translate.lean ====
section
/-!
DEFINITION. Address translation of a hart (chapter 10): TLBs and partial-walk caches (R242, R243), page walks and their
checks in the order of Table 10-4 (R234 to R241), PMP, the checks of a final address (R35, R353) and invalidation (R244
to R246).
-/
namespace Sys2Proof.Machine

/-! ## Modes (Table 10-1) -/

/-- The top level of a mode: 8, 9, 10. -/
def topLevel (mode : Nat) : Nat := if mode = 8 then 2 else if mode = 9 then 3 else 4

/-- Width of a virtual address. -/
def vaBits (mode : Nat) : Nat := 12 + 9 * (topLevel mode + 1)

/-- Table 10-4 row 1: a virtual address is canonical. -/
def canonical (mode va : Nat) : Bool :=
  va / 2 ^ (vaBits mode - 1) = 0 || va / 2 ^ (vaBits mode - 1) = 2 ^ (65 - vaBits mode) - 1

/-- R233: guest-physical addresses are 41, 50 and 59 bits wide. -/
def gpaFits (gmode gpa : Nat) : Bool := gpa < 2 ^ (vaBits gmode + 2)

/-- Index of a virtual address at a level. -/
def vpn (va level : Nat) : Nat := field va (12 + 9 * level) 9

/-- Index of a guest-physical address at a level; the root table is four times as large. -/
def gvpn (gmode gpa level : Nat) : Nat := field gpa (12 + 9 * level) (if level = topLevel gmode then 11 else 9)

/-- log2 of the bytes that a leaf at a level maps; 64 KiB where N is set (Svnapot). -/
def leafLog (level : Nat) (n : Bool) : Nat := if level = 0 && n then 16 else 12 + 9 * level

/-! ## Causes -/

/-- The exception codes of an access type: page fault, guest-page fault, access fault, address misaligned. -/
def pageFault : AccessType → Nat
  | .fetch => 12
  | .load => 13
  | .store => 15

def guestPageFault : AccessType → Nat
  | .fetch => 20
  | .load => 21
  | .store => 23

def accessFault : AccessType → Nat
  | .fetch => 1
  | .load => 5
  | .store => 7

def misaligned : AccessType → Nat
  | .fetch => 0
  | .load => 4
  | .store => 6

/-! ## PMP (Table 08-2: 64 entries, 4 KiB granularity) -/

/-- A PMP address register with the bits below the granularity cleared. -/
def Hart.pmpTop (h : Hart) (i : Nat) : Nat := h.csr (0x3B0 + i) / 1024 * 1024 * 4

/-- Entry `i` covers an address. -/
def Hart.pmpCovers (h : Hart) (i a : Nat) : Bool :=
  let m := field (h.pmpCfg i) 3 2
  if m = 1 then (i = 0 || h.pmpTop (i - 1) ≤ a) && a < h.pmpTop i
  else if m = 3 then
    let p := h.csr (0x3B0 + i) ||| 0x1FF
    match (List.range 54).find? (fun j => !bitAt p j) with
    | some t => a / 2 ^ (t + 3) = p / 2 ^ (t + 1)
    | none => true
  else false

/-- PMP permits an access of a privilege to a byte: the lowest covering entry decides. -/
def Hart.pmpPermits (h : Hart) (p : Priv) (t : AccessType) (a : Nat) : Bool :=
  match (List.range 64).find? (fun i => h.pmpCovers i a) with
  | none => p = .m
  | some i =>
    let c := h.pmpCfg i
    (p = .m && !bitAt c 7) || bitAt c (match t with
      | .load => 0
      | .store => 1
      | .fetch => 2)

/-! ## Leaf permissions -/

/-- Table 10-3: the hint source of the region of an address, in this package or another one. -/
def Dev.hintSource (d : Dev) (pa : Nat) : Bool :=
  let off := pa % 0x1000_0000_0000
  (d.region pa).isMemory &&
    (if off < 0x30_0000_0000 then d.flag rHintSrcHbm else if off < 0x800_0000_0000 then d.flag rHintSrcDdr else d.flag rHintSrcCxl)

/-- R235: the hint that a leaf's RSW gives for an address, where the region's source is the RSW. -/
def Dev.leafHint (d : Dev) (pa rsw : Nat) : Nat := if d.hintSource pa then (if rsw = 1 then 1 else if rsw = 2 then 2 else 0) else 0

/-- Row 8 and row 10 on a cached leaf. -/
def Hart.leafPermits (h : Hart) (e : TlbEntry) (t : AccessType) (p : Priv) (v : Bool) : Bool :=
  let hs := h.csr 0x300
  let st := if v then h.csr 0x200 else hs
  let mxr := bitAt st 19 || bitAt hs 19
  let user := match p with
    | .u => e.u
    | _ => !e.u || (t != .fetch && bitAt st 18)
  user && (match t with
    | .fetch => e.x && e.gx
    | .load => (e.r || (mxr && e.x)) && (e.gr || (bitAt hs 19 && e.gx))
    | .store => e.w && e.d)

/-! ## The translation caches (Table 10-5, R242, R243) -/

/-- A cached leaf covers an address. -/
def TlbEntry.covers (e : TlbEntry) (a : Nat) : Bool := a / 2 ^ e.log = e.va / 2 ^ e.log

/-- R243: a leaf matches V, VMID and the address, and the ASID or G. -/
def TlbEntry.hit (e : TlbEntry) (v : Bool) (vmid asid a : Nat) : Bool :=
  !e.gstage && e.v = v && e.vmid = vmid && e.covers a && (e.g || e.asid = asid)

/-- The list without `e`, and `e` in front, cut to `n`. -/
def lruPut {α : Type} [DecidableEq α] (n : Nat) (e : α) (l : List α) : List α := (e :: l.filter (fun x => x != e)).take n

/-- The set of a leaf in the L2 TLB (256 sets; the manual does not give the set function, log 22). -/
def tlbSet (e : TlbEntry) : Nat := e.va / 2 ^ e.log % 256

/-- A leaf enters the L2 TLB: 12 ways to a set, LRU. -/
def tlbFill (e : TlbEntry) (l : List TlbEntry) : List TlbEntry :=
  let rest := l.filter (fun x => x != e)
  let same := rest.filter (fun x => tlbSet x = tlbSet e)
  if same.length < 12 then e :: rest
  else match same.getLast? with
    | some o => e :: rest.filter (fun x => x != o)
    | none => e :: rest

/-- A leaf enters the L1 TLB of its access type. -/
def Hart.fillL1 (h : Hart) (t : AccessType) (e : TlbEntry) : Hart :=
  match t with
  | .fetch => { h with itlb := lruPut 64 e h.itlb }
  | _ => { h with dtlb := lruPut 96 e h.dtlb }

/-- A walk fills the L1 TLB of its access type and the L2 TLB. -/
def Hart.fillLeaf (h : Hart) (t : AccessType) (e : TlbEntry) : Hart :=
  { h.fillL1 t e with tlb := tlbFill e h.tlb }

/-- A non-leaf entry enters its partial-walk cache: 32 entries for each level and stage. -/
def pwcFill (e : PwcEntry) (l : List PwcEntry) : List PwcEntry :=
  let rest := l.filter (fun x => x != e)
  let same := rest.filter (fun x => x.gstage = e.gstage && x.level = e.level)
  if same.length < 32 then e :: rest
  else match same.getLast? with
    | some o => e :: rest.filter (fun x => x != o)
    | none => e :: rest

/-- The lookup of a leaf: the L1 TLB of the access type, then the L2 TLB, whose hit fills the L1. -/
def Dev.lookup (d : Dev) (k : Nat) (t : AccessType) (v : Bool) (vmid asid a : Nat) : Option TlbEntry × Dev :=
  let h := d.hart k
  let l1 := match t with
    | .fetch => h.itlb
    | _ => h.dtlb
  match l1.find? (fun e => e.hit v vmid asid a) with
  | some e => (some e, d.setHart k (h.fillL1 t e))
  | none =>
    match h.tlb.find? (fun e => e.hit v vmid asid a) with
    | some e =>
      let d := d.setHart k (({ h with tlb := tlbFill e h.tlb } : Hart).fillL1 t e)
      (some e, if t = .fetch then d else d.hartEvent k 6)
    | none => (none, d)

/-- R241: a leaf goes from every TLB of the hart. -/
def Hart.dropLeaf (h : Hart) (e : TlbEntry) : Hart :=
  { h with tlb := h.tlb.filter (fun x => x != e), itlb := h.itlb.filter (fun x => x != e),
           dtlb := h.dtlb.filter (fun x => x != e) }

/-! ## Walks (R236) -/

/-- A trap of an access at a virtual address; an implicit read for a VS-stage PTE sets the transformed instruction. -/
def walkTrap (cause va : Nat) (v impl : Bool) (tval2 : Nat) : Trap :=
  ⟨cause, false, va, tval2, if impl then 0x3000 else 0, v⟩

/-- Where a walk stands after a step; a fault with the non-leaf entries read before it (R238). -/
inductive WalkStep where
  | go (w : Walk)
  | fault (t : Trap) (access : Bool) (read : List PwcEntry)
  | done (e : TlbEntry)
deriving DecidableEq, Repr

/-- The deepest partial-walk entry that a first-stage walk starts from. -/
def Hart.pwcStart (h : Hart) (w : Walk) : Option PwcEntry :=
  (List.range 4).findSome? (fun i => h.pwc.find? (fun e => !e.gstage && e.level = i + 1 && e.level ≤ topLevel w.mode
    && e.v = w.v && e.vmid = w.vmid && (e.g || e.asid = w.asid) && e.prefix_ = w.va % 2 ^ vaBits w.mode / 2 ^ (12 + 9 * e.level)))

/-- The deepest partial-walk entry that a G-stage walk starts from. -/
def Hart.gpwcStart (h : Hart) (w : Walk) (gpa : Nat) : Option PwcEntry :=
  (List.range 4).findSome? (fun i => h.pwc.find? (fun e => e.gstage && e.level = i + 1 && e.level ≤ topLevel w.gmode
    && e.vmid = w.vmid && e.prefix_ = gpa / 2 ^ (12 + 9 * e.level)))

/-- The root table of the G-stage. -/
def Hart.gRoot (h : Hart) : Nat := field (h.csr 0x680) 0 40 * 4096

/-- A walk counts as started (`trWalks`, `trWalkCacheHits`). -/
def Dev.countWalk (d : Dev) (k : Nat) (hit : Bool) : Dev :=
  let d := (d.add (rTrWalks k) 1).hartEvent k 8
  if hit then d.add (rTrWalkCacheHits k) 1 else d

/-- A partial-walk entry is used: it is the most recent of its array (R242). -/
def Dev.usePwc (d : Dev) (k : Nat) (e : PwcEntry) : Dev := d.setHart k { d.hart k with pwc := pwcFill e (d.hart k).pwc }

/-- The G-stage translation of a guest-physical address begins; `last` when it is the final one. -/
def Dev.startG (d : Dev) (k : Nat) (w : Walk) (gpa : Nat) (last : Bool) : WalkStep × Dev :=
  let h := d.hart k
  if !gpaFits w.gmode gpa then
    (.fault (walkTrap (guestPageFault w.access) w.va w.v (!last) (gpa / 4)) false w.read, d)
  else
    match (if last then none else h.tlb.find? (fun e => e.gstage && e.vmid = w.vmid && e.covers gpa && e.r && e.u)) with
    | some e => (.go { w with ptePa := some (e.pa / 2 ^ e.log * 2 ^ e.log + gpa % 2 ^ e.log) }, d.setHart k { h with tlb := tlbFill e h.tlb })
    | none =>
      match h.gpwcStart w gpa with
      | some e => (.go { w with gw := some ⟨gpa, e.level - 1, e.table, last⟩ }, (d.usePwc k e).countWalk k true)
      | none => (.go { w with gw := some ⟨gpa, topLevel w.gmode, h.gRoot, last⟩ }, d.countWalk k false)

/-- The address of the first-stage PTE that a walk reads next is known: a physical address, or one that the G-stage
translates first. -/
def Dev.aimPte (d : Dev) (k : Nat) (w : Walk) : WalkStep × Dev :=
  let a := w.table + 8 * vpn w.va w.level
  if w.v && w.gmode != 0 then d.startG k w a false else (.go { w with ptePa := some a }, d)

/-- A walk begins for an access that misses the TLBs: rows 1 and the start from the partial-walk caches. -/
def Dev.beginWalk (d : Dev) (k : Nat) (w : Walk) : WalkStep × Dev :=
  let h := d.hart k
  if w.mode = 0 then
    let id : TlbEntry := { gstage := false, v := w.v, vmid := w.vmid, asid := w.asid, g := false, va := w.va, log := 52,
                           pa := w.va, r := true, w := true, x := true, u := w.priv = .u, d := true, gr := true,
                           gx := true, pbmt := 0, hint := 0 }
    d.startG k { w with leaf := some id } w.va true
  else if !canonical w.mode w.va then (.fault (walkTrap (pageFault w.access) w.va w.v false 0) false [], d)
  else
    match h.pwcStart w with
    | some e => ((d.usePwc k e).countWalk k true).aimPte k { w with level := e.level - 1, table := e.table, global := e.g }
    | none => (d.countWalk k false).aimPte k w

/-- Table 10-2 on a PTE at a level: true where a rule is broken (row 6). -/
def pteBroken (pte level : Nat) : Bool :=
  let leaf := field pte 1 3 != 0
  !bitAt pte 0 || (bitAt pte 2 && !bitAt pte 1) || field pte 54 7 != 0 || field pte 61 2 = 3
  || (bitAt pte 63 && !(leaf && level = 0 && field pte 10 4 = 8))
  || (!leaf && (level = 0 || bitAt pte 4 || bitAt pte 6 || bitAt pte 7 || field pte 61 2 != 0))
  || (leaf && level = 4)

/-- Row 7: a PPN bit below a superpage's size is set. -/
def pteMisaligned (pte level : Nat) : Bool := field pte 10 (9 * level) != 0

/-- The physical address that a PTE's PPN names. -/
def ptePpn (pte : Nat) : Nat := field pte 10 44 * 4096

/-- The base of what a leaf maps. -/
def leafBase (pte level : Nat) : Nat :=
  let l := leafLog level (bitAt pte 63)
  ptePpn pte / 2 ^ l * 2 ^ l

/-- Rows 8 to 10 on a first-stage leaf. -/
def Hart.ptePermits (h : Hart) (w : Walk) (pte : Nat) : Bool :=
  let e : TlbEntry := { gstage := false, v := w.v, vmid := 0, asid := 0, g := false, va := 0, log := 12, pa := 0,
                        r := bitAt pte 1, w := bitAt pte 2, x := bitAt pte 3, u := bitAt pte 4, d := bitAt pte 7,
                        gr := true, gx := true, pbmt := 0, hint := 0 }
  h.leafPermits e w.access w.priv w.v && bitAt pte 6

/-- Rows 8 to 10 on a G-stage leaf: of the final address, or of a VS-stage PTE's address. -/
def Hart.gPermits (h : Hart) (w : Walk) (last : Bool) (pte : Nat) : Bool :=
  bitAt pte 4 && bitAt pte 6 &&
    (if last then match w.access with
      | .fetch => bitAt pte 3
      | .load => bitAt pte 1 || (bitAt (h.csr 0x300) 19 && bitAt pte 3)
      | .store => bitAt pte 2 && bitAt pte 7
     else bitAt pte 1)

/-- A first-stage PTE of a walk is read (R237 rows 6 to 10, R238). While V = 1 its RSW gives no hint (R235). -/
def Dev.firstStage (d : Dev) (k : Nat) (w : Walk) (pte : Nat) : WalkStep × Dev :=
  let h := d.hart k
  let bad := WalkStep.fault (walkTrap (pageFault w.access) w.va w.v false 0) false w.read
  if pteBroken pte w.level then (bad, d)
  else if field pte 1 3 = 0 then
    let g := w.global || bitAt pte 5
    let e : PwcEntry := { gstage := false, v := w.v, vmid := w.vmid, asid := w.asid, g := g, level := w.level,
                          prefix_ := w.va % 2 ^ vaBits w.mode / 2 ^ (12 + 9 * w.level), table := ptePpn pte }
    d.aimPte k { w with level := w.level - 1, table := ptePpn pte, global := g, ptePa := none, read := w.read ++ [e] }
  else if pteMisaligned pte w.level || !h.ptePermits w pte then (bad, d)
  else
    let log := leafLog w.level (bitAt pte 63)
    let pa := leafBase pte w.level
    let e : TlbEntry := { gstage := false, v := w.v, vmid := w.vmid, asid := w.asid, g := w.global || bitAt pte 5,
                          va := w.va / 2 ^ log * 2 ^ log, log := log, pa := pa, r := bitAt pte 1, w := bitAt pte 2,
                          x := bitAt pte 3, u := bitAt pte 4, d := bitAt pte 7, gr := true, gx := true,
                          pbmt := field pte 61 2, hint := if w.v then 0 else d.leafHint pa (field pte 8 2) }
    if w.v && w.gmode != 0 then
      d.startG k { w with ptePa := none, leaf := some e } (pa + w.va % 2 ^ log) true
    else (.done e, d)

/-- A G-stage PTE of a walk is read (row 11, R238). The combined leaf has the smaller of the two sizes; the G-stage's
PBMT wins where it is not zero (R234), and its RSW gives the hint (R235). -/
def Dev.secondStage (d : Dev) (k : Nat) (w : Walk) (g : GWalk) (pte : Nat) : WalkStep × Dev :=
  let h := d.hart k
  let bad := WalkStep.fault (walkTrap (guestPageFault w.access) w.va w.v (!g.last) (g.gpa / 4)) false w.read
  if pteBroken pte g.level then (bad, d)
  else if field pte 1 3 = 0 then
    let e : PwcEntry := { gstage := true, v := true, vmid := w.vmid, asid := 0, g := false, level := g.level,
                          prefix_ := g.gpa / 2 ^ (12 + 9 * g.level), table := ptePpn pte }
    (.go { w with gw := some { g with level := g.level - 1, table := ptePpn pte }, read := w.read ++ [e] }, d)
  else if pteMisaligned pte g.level || !h.gPermits w g.last pte then (bad, d)
  else
    let log := leafLog g.level (bitAt pte 63)
    let pa := leafBase pte g.level
    if !g.last then
      let e : TlbEntry := { gstage := true, v := true, vmid := w.vmid, asid := 0, g := false,
                            va := g.gpa / 2 ^ log * 2 ^ log, log := log, pa := pa, r := bitAt pte 1, w := bitAt pte 2,
                            x := bitAt pte 3, u := bitAt pte 4, d := bitAt pte 7, gr := true, gx := true,
                            pbmt := field pte 61 2, hint := 0 }
      (.go { w with gw := none, ptePa := some (pa + g.gpa % 2 ^ log), gleaves := w.gleaves ++ [e] }, d)
    else
      match w.leaf with
      | none => (bad, d)
      | some e =>
        let l := min e.log log
        let target := pa + g.gpa % 2 ^ log
        (.done { e with va := w.va / 2 ^ l * 2 ^ l, log := l, pa := target / 2 ^ l * 2 ^ l,
                        w := e.w && bitAt pte 2, d := e.d && bitAt pte 7, gr := bitAt pte 1, gx := bitAt pte 3,
                        pbmt := if field pte 61 2 = 0 then e.pbmt else field pte 61 2,
                        hint := d.leafHint target (field pte 8 2) }, d)

/-- The walks of a hart without number `n`. -/
def dropAt {α : Type} (l : List α) (n : Nat) : List α := l.take n ++ l.drop (n + 1)

/-- A walk ends or goes on (R238, R239). -/
def Dev.walkOutcome (_d : Dev) (k n : Nat) (w : Walk) (r : WalkStep × Dev) : Dev :=
  let d := r.2
  let h := d.hart k
  match r.1 with
  | .go w' => d.setHart k { h with walks := h.walks.set n w' }
  | .done e =>
    let h := { h with walks := dropAt h.walks n, pwc := w.read.foldl (fun l x => pwcFill x l) h.pwc,
                      tlb := w.gleaves.foldl (fun l x => tlbFill x l) h.tlb }
    d.setHart k (h.fillLeaf w.access e)
  | .fault t access read =>
    let h := { h with walks := dropAt h.walks n,
                      pwc := if access then h.pwc else read.foldl (fun l x => pwcFill x l) h.pwc }
    let d := d.setHart k h
    let d := if access then d.addSat (rTrWalkAccessFaults k) 1 else d
    if w.spec then d else d.takeTrap k t

/-- The address of the PTE that a walk reads now. -/
def Walk.pteAt (w : Walk) : Nat :=
  match w.gw with
  | some g => g.table + 8 * gvpn w.gmode g.gpa g.level
  | none => w.ptePa.getD 0

/-- The walk reads for a VS-stage PTE. -/
def Walk.implicit (w : Walk) : Bool :=
  w.v && (match w.gw with
    | some g => !g.last
    | none => true)

/-- The request that `who` of a hart waited for on a line was answered with an error. -/
def Hart.refused (h : Hart) (line : Nat) (who : Asker) : Bool := h.lineErr.contains (line, who)

/-- The error of a refused line is taken by the one who waited. -/
def Dev.takeLineErr (d : Dev) (k line : Nat) (who : Asker) : Dev :=
  let h := d.hart k
  d.setHart k { h with lineErr := h.lineErr.erase (line, who) }

/-- The Fusible record of row 5; a walk for an instruction not known to execute raises nothing (R239). -/
def Dev.walkError (d : Dev) (k : Nat) (w : Walk) (a : Nat) (consumed : Bool) : Dev :=
  if w.spec then d else let d := d.raiseAt kWalkError k a 0; if consumed then d.consumed k a else d

/-- PAGE_WALK_STEP (R236 to R240): the next PTE read of walk `n` returns; while the L2 does not hold the line, the read
obtains it and the walk stands. -/
def execPageWalkStep (hart n : Nat) (err : ArrayError) (s : State) : Out :=
  occursAt 237 (hart < 240) (fun d => d.hartRuns hart && n < (d.hart hart).walks.length)
    (fun d =>
      match (d.hart hart).walks[n]? with
      | none => d
      | some w =>
        let a := w.pteAt
        let line := lineAddr a
        let refused := WalkStep.fault (walkTrap (accessFault w.access) w.va w.v w.implicit 0) true []
        if !(d.region a).isMemory then d.walkOutcome hart n w (refused, d)
        else if !(d.hart hart).pmpPermits .s .load a then d.walkOutcome hart n w (refused, d)
        else match d.refusedBy w.world a with
          | some r => d.walkOutcome hart n w (refused, if w.spec then d else d.noteRefusal r hart a)
          | none =>
            if (d.hart hart).refused line .walk then
              d.walkOutcome hart n w (refused, (d.takeLineErr hart line .walk).walkError hart w a false)
            else if !((d.hart hart).line line).state.readable then d.wantShared hart line w.world 0 0 .walk
            else if d.pairError hart err then d.mismatch (d.leadOf hart)
            else
              let l := (d.hart hart).line line
              let d := d.l2Error hart line err
              if l.mark || (err = .uncorrectable && l.state = .m) then d.walkOutcome hart n w (refused, d.walkError hart w a true)
              else if err = .uncorrectable then d.wantShared hart line w.world 0 0 .walk
              else
                let pte := fieldLe (lineBytes l.data) (a % 64) 8
                d.walkOutcome hart n w (match w.gw with
                  | some g => d.secondStage hart w g pte
                  | none => d.firstStage hart w pte)) s

/-! ## An access -/

/-- How the translation of an access ends. -/
inductive Xlat where
  | ok (pa pbmt hint : Nat)
  | fault (t : Trap)
  | wait
deriving DecidableEq, Repr

/-- The privilege and V at which a load or store is made (`mstatus`.MPRV). -/
def Hart.accessMode (h : Hart) : Priv × Bool :=
  let st := h.csr 0x300
  if h.priv = .m && bitAt st 17 then
    let p := codePriv (field st 11 2)
    (p, bitAt st 39 && p != .m)
  else (h.priv, h.v)

/-- Pointer masking (Ssnpm, log 20): the bits that an access ignores; U takes `senvcfg`, VS takes `henvcfg`, and MXR turns it off. -/
def Hart.pmLen (h : Hart) : Nat :=
  let m := h.accessMode
  let pmm := match m.1 with
    | .m => 0
    | .s => if m.2 then field (h.csr 0x60A) 32 2 else 0
    | .u => field (h.csr 0x10A) 32 2
  if bitAt (h.csr 0x300) 19 || (m.2 && bitAt (h.csr 0x200) 19) then 0 else if pmm = 2 then 7 else 0

/-- The address that an access makes of its pointer: the ignored bits take the sign of the rest, or zero where the access is not translated. -/
def Hart.effective (h : Hart) (va : Nat) : Nat :=
  let n := h.pmLen
  let m := h.accessMode
  let low := va % 2 ^ (64 - n)
  let bare := field (h.csr (if m.2 then 0x280 else 0x180)) 60 4 = 0
  if n != 0 && !bare && bitAt low (63 - n) then low + (2 ^ 64 - 2 ^ (64 - n)) else low

/-- The walk that an access at a virtual address needs; none in bare mode. -/
def Hart.walkFor (h : Hart) (va : Nat) (t : AccessType) (amo : Bool) : Option Walk :=
  let m := h.accessMode
  if m.1 = .m then none
  else
    let root := h.csr (if m.2 then 0x280 else 0x180)
    let gmode := if m.2 then field (h.csr 0x680) 60 4 else 0
    let mode := field root 60 4
    if mode = 0 && gmode = 0 then none
    else some { va := va, access := t, amo := amo, priv := m.1, v := m.2,
                vmid := if m.2 then field (h.csr 0x680) 44 14 else 0, asid := field root 44 16, world := h.world,
                spec := false, mode := mode, gmode := gmode, level := topLevel mode, table := field root 0 40 * 4096,
                global := false, gw := none, ptePa := none, leaf := none, read := [], gleaves := [] }

/-- A walk in flight covers the page of an access, of whatever type (R236). -/
def Walk.covers (w x : Walk) : Bool := w.va / 4096 = x.va / 4096 && w.v = x.v && w.vmid = x.vmid && w.asid = x.asid

/-- The walk that an access waits for: one in flight, whose result it then finds cached, or a new one where fewer than four are. A walk that was
begun for another access raises nothing for this one, which then walks itself (R239). -/
def Dev.needWalk (d : Dev) (k : Nat) (w : Walk) : Xlat × Dev :=
  let h := d.hart k
  if h.walks.any (fun x => x.covers w) then (.wait, d)
  else if 4 ≤ h.walks.length then (.wait, d)
  else
    let d := if w.access = .fetch then d.hartEvent k 7 else (d.hartEvent k 6).hartEvent k 7
    let r := d.beginWalk k w
    match r.1 with
    | .go w' => (.wait, r.2.setHart k { (r.2.hart k) with walks := (r.2.hart k).walks ++ [w'] })
    | .fault t _ _ => (.fault t, r.2)
    | .done e => (.wait, r.2.setHart k ((r.2.hart k).fillLeaf w.access e))

/-- The translation of an access (R241: a leaf that would fault goes from every TLB and the walk is made again). -/
def Dev.translate (d : Dev) (k va : Nat) (t : AccessType) (amo : Bool) : Xlat × Dev :=
  match (d.hart k).walkFor va t amo with
  | none => (.ok va 0 0, d)
  | some w =>
    let r := d.lookup k t w.v w.vmid w.asid va
    match r.1 with
    | none => r.2.needWalk k w
    | some e =>
      if (r.2.hart k).leafPermits e t w.priv w.v then
        (.ok (e.pa / 2 ^ e.log * 2 ^ e.log + va % 2 ^ e.log) e.pbmt e.hint, r.2)
      else
        let d := r.2.setHart k ((r.2.hart k).dropLeaf e)
        (d.add (rTrRewalks k) 1).needWalk k w

/-- The IMSIC file of a shadow core: unmapped (R194). -/
def Dev.shadowFile (d : Dev) (a : Nat) : Bool :=
  match d.region a with
  | .mmio off =>
    0x0200_0000 ≤ off && off < 0x0200_0000 + 240 * 0x8000 && d.isShadow ((off - 0x0200_0000) / 0x8000)
  | _ => false

/-- Row 12: the check of a final address; the device after the refusal's own effects where it fails. -/
def Dev.finalCheck (d : Dev) (k pa : Nat) (t : AccessType) : Bool × Dev :=
  match d.refusedBy (d.hart k).world pa with
  | some r => (false, d.noteRefusal r k pa)
  | none =>
    if !(d.region pa).isMapped || d.shadowFile pa then (false, d.raiseAt kUnmappedAccess k pa 0)
    else ((d.hart k).pmpPermits (d.hart k).accessMode.1 t pa, d)

/-! ## Invalidation (R244 to R246) -/

/-- Table 10-7: a leaf of the context is in the scope. -/
def inScope (e : TlbEntry) (rs1 rs2 : Option Word) : Bool :=
  (match rs1 with
   | none => true
   | some a => e.covers a.toNat) &&
  (match rs2 with
   | none => true
   | some s => e.asid = s.toNat % 2 ^ 16 && !e.g)

/-- R244: SFENCE.VMA in a context. -/
def Hart.invalVma (h : Hart) (v : Bool) (rs1 rs2 : Option Word) : Hart :=
  let vmid := if v then field (h.csr 0x680) 44 14 else 0
  let keep := fun (e : TlbEntry) => e.gstage || e.v != v || e.vmid != vmid || !inScope e rs1 rs2
  let keepP := fun (e : PwcEntry) => e.gstage || e.v != v || e.vmid != vmid || rs1.isSome
    || (match rs2 with
        | none => false
        | some s => e.asid != s.toNat % 2 ^ 16 || e.g)
  { h with tlb := h.tlb.filter keep, itlb := h.itlb.filter keep, dtlb := h.dtlb.filter keep, pwc := h.pwc.filter keepP }

/-- R245: HFENCE.GVMA. -/
def Hart.invalGvma (h : Hart) (rs1 rs2 : Option Word) : Hart :=
  let sel := fun (vmid : Nat) => match rs2 with
    | none => true
    | some s => vmid = s.toNat % 2 ^ 14
  let keep := fun (e : TlbEntry) =>
    if e.gstage then !(sel e.vmid && (match rs1 with
        | none => true
        | some a => e.covers (a.toNat * 4)))
    else !(e.v && sel e.vmid)
  let keepP := fun (e : PwcEntry) => rs1.isSome || !(e.v && sel e.vmid)
  { h with tlb := h.tlb.filter keep, itlb := h.itlb.filter keep, dtlb := h.dtlb.filter keep, pwc := h.pwc.filter keepP }

/-- An invalidation. -/
def Hart.inval (h : Hart) (k : InvalKind) (rs1 rs2 : Option Word) : Hart :=
  match k with
  | .vma v => h.invalVma v rs1 rs2
  | .gvma => h.invalGvma rs1 rs2

/-- Legality of SFENCE.VMA, SINVAL.VMA and their companions in the hart's mode. -/
def Hart.sfenceLegal (h : Hart) : CsrLegal :=
  match h.priv with
  | .m => .ok
  | .s =>
    if h.v then (if bitAt (h.csr 0x600) 20 then .virtual_ else .ok)
    else if bitAt (h.csr 0x300) 20 then .illegal else .ok
  | .u => if h.v then .virtual_ else .illegal

/-- Legality of the hypervisor fences. -/
def Hart.hfenceLegal (h : Hart) (gvma : Bool) : CsrLegal :=
  match h.priv with
  | .m => .ok
  | .s => if h.v then .virtual_ else if gvma && bitAt (h.csr 0x300) 20 then .illegal else .ok
  | .u => if h.v then .virtual_ else .illegal

/-- An instruction of this family, by its word where it has no register: its effect where it is legal, else the exception. -/
def Dev.fenced (d : Dev) (k : Nat) (l : CsrLegal) (word : Option Nat) (f : Dev → Dev) : Dev :=
  match l with
  | .ok => f d
  | .illegal => d.illegal k word
  | .virtual_ => d.virtualInst k word

/-- A translation fence begins (R246). -/
def fenceBegin (rule hart : Nat) (l : Hart → CsrLegal) (k : Hart → InvalKind) (rs1 rs2 : Option Word) (s : State) : Out :=
  occursAt rule (hart < 240) (fun d => d.ready hart)
    (fun d => d.fenced hart (l (d.hart hart)) none (fun d =>
      d.setHart hart { (d.hart hart) with wait := .inval (k (d.hart hart)) rs1 rs2 })) s

/-- An invalidation without a fence (R245): local and at once. -/
def invalNow (rule hart : Nat) (l : Hart → CsrLegal) (k : Hart → InvalKind) (rs1 rs2 : Option Word) (s : State) : Out :=
  occursAt rule (hart < 240) (fun d => d.ready hart)
    (fun d => d.fenced hart (l (d.hart hart)) none (fun d =>
      (d.setHart hart ((d.hart hart).inval (k (d.hart hart)) rs1 rs2)).retire hart 4)) s

/-- SFENCE_VMA (R244, R246). -/
def execSfenceVma (hart : Nat) (rs1 rs2 : Option Word) (s : State) : Out :=
  fenceBegin 244 hart Hart.sfenceLegal (fun h => .vma h.v) rs1 rs2 s

/-- SINVAL_VMA (R245). -/
def execSinvalVma (hart : Nat) (rs1 rs2 : Option Word) (s : State) : Out :=
  invalNow 245 hart Hart.sfenceLegal (fun h => .vma h.v) rs1 rs2 s

/-- HFENCE_VVMA (R245). -/
def execHfenceVvma (hart : Nat) (rs1 rs2 : Option Word) (s : State) : Out :=
  fenceBegin 245 hart (fun h => h.hfenceLegal false) (fun _ => .vma true) rs1 rs2 s

/-- HFENCE_GVMA (R245). -/
def execHfenceGvma (hart : Nat) (rs1 rs2 : Option Word) (s : State) : Out :=
  fenceBegin 245 hart (fun h => h.hfenceLegal true) (fun _ => .gvma) rs1 rs2 s

/-- HINVAL_VVMA (R245). -/
def execHinvalVvma (hart : Nat) (rs1 rs2 : Option Word) (s : State) : Out :=
  invalNow 245 hart (fun h => h.hfenceLegal false) (fun _ => .vma true) rs1 rs2 s

/-- HINVAL_GVMA (R245). -/
def execHinvalGvma (hart : Nat) (rs1 rs2 : Option Word) (s : State) : Out :=
  invalNow 245 hart (fun h => h.hfenceLegal true) (fun _ => .gvma) rs1 rs2 s

/-- Legality of SFENCE.W.INVAL and SFENCE.INVAL.IR: S or M. -/
def Hart.svinvalLegal (h : Hart) : CsrLegal :=
  if h.priv = .u then (if h.v then .virtual_ else .illegal) else .ok

/-- SFENCE_W_INVAL (R245): waits until every earlier store is visible; FENCE_RELEASE ends the wait. -/
def execSfenceWInval (hart : Nat) (s : State) : Out :=
  occursAt 245 (hart < 240) (fun d => d.ready hart)
    (fun d => d.fenced hart (d.hart hart).svinvalLegal (some 0x1800_0073) (fun d =>
      if (d.hart hart).drained then d.retire hart 4
      else d.setHart hart { (d.hart hart) with wait := .invalW })) s

/-- SFENCE_INVAL_IR (R245): every earlier invalidation has completed; instructions already fetched are discarded. -/
def execSfenceInvalIr (hart : Nat) (s : State) : Out :=
  occursAt 245 (hart < 240) (fun d => d.ready hart)
    (fun d => d.fenced hart (d.hart hart).svinvalLegal (some 0x1810_0073) (fun d =>
      (d.setHart hart { (d.hart hart) with fetched := [] }).retire hart 4)) s

/-- FENCE_VMA_COMPLETE (R246): stores are visible and walks have filled; the fence invalidates and discards what was
fetched. -/
def execFenceVmaComplete (hart : Nat) (s : State) : Out :=
  occursAt 246 (hart < 240)
    (fun d => d.hartRuns hart && (d.hart hart).drained && (d.hart hart).walks.isEmpty
      && (match (d.hart hart).wait with
          | .inval _ _ _ => true
          | _ => false))
    (fun d =>
      match (d.hart hart).wait with
      | .inval k rs1 rs2 =>
        let h := (d.hart hart).inval k rs1 rs2
        (d.setHart hart { h with fetched := [], wait := .none }).retire hart 4
      | _ => d) s

end Sys2Proof.Machine
end

