-- ==== Sys2Proof/Machine/Coherent.lean ====
section
/-!
DEFINITION. Accesses to memory that engines, the IOMMU, the management complex and the harts' record writers make
through the homes, placed at one point of the store order (R220, R229 to R231): the read sees the newest value, the write
invalidates every copy (R285). That they take one instant is the model's choice (log 23).
-/
namespace Sys2Proof.Machine

/-- The hart whose L2 holds the newest data of a line: in M, or in MI until its writeback is taken. -/
def Dev.dirtyHolder (d : Dev) (line : Nat) : Option Nat :=
  (d.harts.find? (fun e =>
    let st := (e.2.line line).state
    st = .m || st = .mi)).map (fun e => e.1)

/-- Data of a line that is on its way to its home in a recall's answer. -/
def Dev.answerInFlight (d : Dev) (line : Nat) : Option (Line × Bool) :=
  (d.fab.net ++ d.harts.flatMap (fun e => e.2.victims)).findSome? (fun m => match m with
    | .recallAckData _ l data mark => if l = line then some (data, mark) else none
    | _ => none)

/-- The present value of a line of this package, and whether it carries the mark. -/
def Dev.coherentLine (d : Dev) (line : Nat) : Line × Bool :=
  match d.dirtyHolder line with
  | some k => let l := (d.hart k).line line; (l.data, l.mark)
  | none =>
    match d.answerInFlight line with
    | some v => v
    | none => d.lineView line

/-- Messages in flight that carry a line's data carry the new data. -/
def renewMessage (line : Nat) (data : Line) (mark : Bool) : Instr → Instr
  | .recallAckData a l x m => if l = line then .recallAckData a l data mark else .recallAckData a l x m
  | .dataShared a l x m => if l = line then .dataShared a l data mark else .dataShared a l x m
  | .dataExclusive a l x m => if l = line then .dataExclusive a l data mark else .dataExclusive a l x m
  | m => m

/-- A copy of a line leaves an L2 whose home has invalidated it; a line that waits goes on waiting. -/
def Dev.takeCopy (d : Dev) (k line : Nat) : Dev :=
  let l := (d.hart k).line line
  match l.state with
  | .s => ((d.setL2 k line { l with state := .i }).loseResv k line).filterLeave k line true
  | .e => ((d.setL2 k line { l with state := .i }).loseResv k line).filterLeave k line true
  | .m => ((d.setL2 k line { l with state := .i }).loseResv k line).filterLeave k line true
  | .sm => (d.setL2 k line { l with state := .im }).loseResv k line
  | _ => d

/-! ## Who makes an access -/

/-- What the request of an agent carries (R91, R263, R310): its world, its number in the stream entries, its injection point and QoS class where
it is regulated, its page hint and its stream hint. -/
structure MemUse where
  world  : World
  req    : Nat
  point  : Option (Nat × Nat)
  hint   : Nat
  stream : Nat
deriving DecidableEq, Repr

/-- The key store and the journal unit of a base die, and boot: requests that no injection point regulates (R310). -/
def unitUse (b : Nat) : MemUse := ⟨.tantalum, 240 + b, none, 0, 0⟩

/-- The IOD agent for itself: the IOMMU's walks, the management complex, the tool. -/
def iodUse (w : World) : MemUse := ⟨w, 244, some (iodPoint, 0), 0, 0⟩

/-- An engine instance, under `instQos` and `instPageHint` (R91); its number in the stream entries is its own, apart from the harts'. `stream`
tells the fetch of descriptors, of inputs and the writes apart (log 72). -/
def Dev.instUse (d : Dev) (i stream : Nat) : MemUse :=
  ⟨if d.get (rInstWorld i) = 1 then .tantalum else .normal, 256 + i, some (iodPoint, d.get (rInstQos i)), d.get (rInstPageHint i), stream⟩

/-- A request takes its tokens and reaches the home of its line. -/
def Dev.request64 (d : Dev) (u : MemUse) (line flits : Nat) : Dev :=
  let d := match u.point with
    | some p => d.injectNow p.1 p.2 flits
    | none => d
  let s := d.homeSlice line
  (d.grantPort (arbHome s) 4 (d.homePort s (if u.req < 256 then u.req else iodAgent))).countEvent s 1 1 (some u.world)

/-! ## Reads -/

/-- A read of a line that a core owns: the owner becomes S, and what it had modified is written to memory (Table 12-3). -/
def Dev.shareOwner (d : Dev) (line : Nat) (w : World) : Dev :=
  match d.dirEntry line with
  | none => d
  | some e =>
    if e.state = 1 || 240 ≤ e.owner || (d.txn line).isSome then d
    else
      let k := e.owner
      let l := (d.hart k).line line
      let s := d.homeSlice line
      let d := (d.add (rHsRecalls s) 1).countEvent s 4 1 (some w)
      let shared := ((d.setL2 k line { l with state := .s }).updateFilter (k / 20) line (fun x => { x with x := false })).dirPut
        ((d.dirShared line).addHolder k)
      match l.state with
      | .m => (shared.homeWrite line 0 l.data l.mark).2
      | .e => shared
      | _ => d

/-- What a read of a line leaves at its home: Pewter serves it or takes it from memory, and a miss trains its stream (R259, R263 to R266). -/
def Dev.touchRead (u : MemUse) (train : Bool) (d : Dev) (line : Nat) : Dev :=
  let inArray := d.pewterServes && (d.pewterEntry line).isSome
  let r := d.homeRead line u.world false
  let d := if r.2.pewterActive && !inArray && train then r.2.train line u.world u.req u.stream else r.2
  match r.1 with
  | some _ => d
  | none =>
    let m := d.memView line
    (d.controllerRead line u.hint (some u.world)).pewterFillRead line m.1 (m.2 || d.lineLost line) false

/-- A read of a line by an agent whose accesses take one instant. -/
def Dev.readLine64 (u : MemUse) (d : Dev) (line : Nat) : Dev := ((d.request64 u line 1).shareOwner line u.world).touchRead u true line

/-! ## Writes -/

/-- The recall or the invalidations that a write makes. -/
def Dev.countProbes (d : Dev) (line : Nat) (w : World) : Dev :=
  let s := d.homeSlice line
  match d.dirEntry line with
  | none => d
  | some e =>
    if e.state = 1 then d.countEvent s 4 e.sharers.length (some w) else (d.add (rHsRecalls s) 1).countEvent s 4 1 (some w)

/-- A line of this package takes a value, and every cached copy goes. -/
def Dev.coherentPut (d : Dev) (line hint : Nat) (data : Line) (mark : Bool) : Dev :=
  let d := d.harts.foldl (fun d e => d.takeCopy e.1 line) d
  let d := { d with fab := { d.fab with net := d.fab.net.map (renewMessage line data mark) } }
  let d := if (d.txn line).isSome then d else d.dirErase line
  (d.homeWrite line hint data mark).2

/-- A write of a whole line, or of a part of it: the part is merged into what the home reads. -/
def Dev.writeLine64 (d : Dev) (u : MemUse) (line : Nat) (data : Line) (mark whole : Bool) : Dev :=
  let d := (d.request64 u line (if whole then 1 else 2)).countProbes line u.world
  let d := if whole then d else d.touchRead u false line
  d.coherentPut line u.hint data mark

/-! ## Runs of bytes -/

/-- The lines that a run of bytes touches. -/
def linesOf (a n : Nat) : List Nat :=
  if n = 0 then [] else (List.range ((a + n - 1) / 64 - a / 64 + 1)).map (fun i => (a / 64 + i) * 64)

/-- Bytes of this package's memory, and whether any line carries the mark; the reads that bring them are `touch`. -/
def Dev.cohRead (d : Dev) (a n : Nat) : List Byte × Bool :=
  let l := (linesOf a n).map (fun x => d.coherentLine x)
  ((((l.flatMap (fun v => lineBytes v.1)).drop (a % 64)).take n), l.any (fun v => v.2))

/-- The reads of a run of bytes. -/
def Dev.touch (d : Dev) (u : MemUse) (a n : Nat) : Dev := (linesOf a n).foldl (Dev.readLine64 u) d

/-- Bytes written to this package's memory. A whole line clears the mark; a part of one leaves it (R255, R268). -/
def Dev.cohWrite (d : Dev) (u : MemUse) (a : Nat) (b : List Byte) : Dev :=
  (linesOf a b.length).foldl (fun d x =>
    let v := d.coherentLine x
    let from_ := max a x
    let to_ := min (a + b.length) (x + 64)
    let part := (b.drop (from_ - a)).take (to_ - from_)
    if part.length = 64 then d.writeLine64 u x (lineOf part) false true
    else d.writeLine64 u x (lineOf (spliceBytes (lineBytes v.1) (from_ - x) part)) v.2 false) d

/-- The first marked line of a run of bytes. -/
def Dev.firstMarked (d : Dev) (a n : Nat) : Option Nat := (linesOf a n).find? (fun x => (d.coherentLine x).2)

end Sys2Proof.Machine
end

