-- ==== Sys2Proof/Machine/Iommu.lean ====
section
/-!
DEFINITION. The IOMMU (R248 to R251): its directories and page tables after the RISC-V IOMMU specification 1.0 that R248
names (PRESUMED, log 24), its caches and their invalidation, its fault queue, and inbound PCIe and CXL requests (R35).
-/
namespace Sys2Proof.Machine

/-! ## Reads of tables (R249) -/

/-- How one table read ends. -/
inductive IoRead where
  | value (v : Nat)
  | fails
deriving DecidableEq, Repr

/-- An 8-byte read of a table: rows 2, 4 and 5 of Table 10-4. -/
def Dev.ioRead8 (d : Dev) (w : World) (a : Nat) : IoRead × Dev :=
  if !(d.region a).isMemory then (.fails, d)
  else match d.refusedBy w a with
    | some n => (.fails, d.noteRefusal n 883 a)
    | none =>
      match d.region a with
      | .remote _ => let x := d.takeWord; (.value x.1.toNat, x.2)
      | _ =>
        let r := d.cohRead a 8
        let d := d.touch (iodUse w) a 8
        if r.2 then (.fails, (d.raiseAt kWalkError 883 a 0).consumed 883 a) else (.value (leNat r.1), d)

/-! ## What a translation answers -/

/-- A translation: the address, the guest-physical address it came from, the log2 of the page it lies in, whether it
may be written and whether it is global; or the cause of a fault and its second value (log 24). -/
inductive IoRes where
  | ok (pa gpa log : Nat) (w g : Bool)
  | fault (cause val2 : Nat)
deriving DecidableEq, Repr

/-- The context that the device directory and the process directory give. -/
structure IoCtx where
  mode   : Nat
  root   : Nat
  pscid  : Nat
  gmode  : Nat
  groot  : Nat
  gscid  : Nat
  world  : World
  write  : Bool
deriving DecidableEq, Repr

/-- Causes by transaction type: access fault, page fault, guest-page fault. -/
def ioAccess (w : Bool) : Nat := if w then 7 else 5
def ioPage (w : Bool) : Nat := if w then 15 else 13
def ioGuest (w : Bool) : Nat := if w then 23 else 21

/-- A result with the non-leaf entries read on the way (R238). -/
structure IoWalk where
  res  : IoRes
  read : List PwcEntry
  dev  : Dev

/-- The second value of a guest-page fault's record. -/
def guestVal (gpa : Nat) (impl : Bool) : Nat := gpa / 4 * 4 + boolNat impl

/-- The G-stage walk of a guest-physical address from a table of level `lvl` on. `impl`: for a VS-stage PTE, which needs
only read permission. -/
def Dev.ioWalkG : Nat → Dev → IoCtx → Nat → Bool → Nat → List PwcEntry → IoWalk
  | lvl, d, c, gpa, impl, table, acc =>
    let r := d.ioRead8 c.world (table + 8 * gvpn c.gmode gpa lvl)
    match r.1 with
    | .fails => ⟨.fault (ioAccess c.write) 0, [], r.2⟩
    | .value pte =>
      if pteBroken pte lvl then ⟨.fault (ioGuest c.write) (guestVal gpa impl), acc, r.2⟩
      else if field pte 1 3 = 0 then
        match lvl with
        | 0 => ⟨.fault (ioGuest c.write) (guestVal gpa impl), acc, r.2⟩
        | n + 1 =>
          Dev.ioWalkG n r.2 c gpa impl (ptePpn pte)
            (acc ++ [{ gstage := true, v := true, vmid := c.gscid, asid := 0, g := false, level := n + 1,
                       prefix_ := gpa / 2 ^ (12 + 9 * (n + 1)), table := ptePpn pte }])
      else if pteMisaligned pte lvl || !bitAt pte 4 || !bitAt pte 6 || !bitAt pte 1
          || (!impl && c.write && !(bitAt pte 2 && bitAt pte 7)) then ⟨.fault (ioGuest c.write) (guestVal gpa impl), acc, r.2⟩
      else
        let log := leafLog lvl (bitAt pte 63)
        ⟨.ok (leafBase pte lvl + gpa % 2 ^ log) gpa log (bitAt pte 2 && bitAt pte 7) false, acc, r.2⟩

/-- A partial-walk entry that serves becomes the most recent one. -/
def Dev.usedPwc (d : Dev) (e : PwcEntry) : Dev := { d with iommu := { d.iommu with pwc := pwcFill e d.iommu.pwc } }

/-- The G-stage translation, from the deepest partial-walk entry. -/
def Dev.ioG (d : Dev) (c : IoCtx) (gpa : Nat) (impl : Bool) : IoWalk :=
  if c.gmode = 0 then ⟨.ok gpa gpa 52 true false, [], d⟩
  else if !gpaFits c.gmode gpa then ⟨.fault (ioGuest c.write) (guestVal gpa impl), [], d⟩
  else
    match (List.range 4).findSome? (fun i => d.iommu.pwc.find? (fun e => e.gstage && e.level = i + 1
        && e.level ≤ topLevel c.gmode && e.vmid = c.gscid && e.prefix_ = gpa / 2 ^ (12 + 9 * e.level))) with
    | some e => (d.usedPwc e).ioWalkG (e.level - 1) c gpa impl e.table []
    | none => d.ioWalkG (topLevel c.gmode) c gpa impl c.groot []

/-- The first-stage walk from a table of level `lvl` on; the answer is the guest-physical address. -/
def Dev.ioWalkS : Nat → Dev → IoCtx → Nat → Nat → Bool → List PwcEntry → IoWalk
  | lvl, d, c, va, table, glob, acc =>
    let at_ := d.ioG c (table + 8 * vpn va lvl) true
    match at_.res with
    | .fault x v => ⟨.fault x v, if x = ioAccess c.write then [] else acc ++ at_.read, at_.dev⟩
    | .ok a _ _ _ _ =>
      let r := at_.dev.ioRead8 c.world a
      match r.1 with
      | .fails => ⟨.fault (ioAccess c.write) 0, [], r.2⟩
      | .value pte =>
        if pteBroken pte lvl then ⟨.fault (ioPage c.write) 0, acc ++ at_.read, r.2⟩
        else if field pte 1 3 = 0 then
          match lvl with
          | 0 => ⟨.fault (ioPage c.write) 0, acc ++ at_.read, r.2⟩
          | n + 1 =>
            Dev.ioWalkS n r.2 c va (ptePpn pte) (glob || bitAt pte 5)
              (acc ++ at_.read ++ [{ gstage := false, v := c.gmode != 0, vmid := c.gscid, asid := c.pscid,
                                     g := glob || bitAt pte 5, level := n + 1,
                                     prefix_ := va % 2 ^ vaBits c.mode / 2 ^ (12 + 9 * (n + 1)), table := ptePpn pte }])
        else if pteMisaligned pte lvl || !bitAt pte 4 || !bitAt pte 6 || !bitAt pte 1
            || (c.write && !(bitAt pte 2 && bitAt pte 7)) then ⟨.fault (ioPage c.write) 0, acc ++ at_.read, r.2⟩
        else
          let log := leafLog lvl (bitAt pte 63)
          ⟨.ok (leafBase pte lvl + va % 2 ^ log) va log (bitAt pte 2 && bitAt pte 7) (glob || bitAt pte 5),
            acc ++ at_.read, r.2⟩

/-- The first stage, from the deepest partial-walk entry. -/
def Dev.ioS (d : Dev) (c : IoCtx) (va : Nat) : IoWalk :=
  if c.mode = 0 then ⟨.ok va va 52 true false, [], d⟩
  else if !canonical c.mode va then ⟨.fault (ioPage c.write) 0, [], d⟩
  else
    match (List.range 4).findSome? (fun i => d.iommu.pwc.find? (fun e => !e.gstage && e.level = i + 1
        && e.level ≤ topLevel c.mode && e.v = (c.gmode != 0) && e.vmid = c.gscid && (e.g || e.asid = c.pscid)
        && e.prefix_ = va % 2 ^ vaBits c.mode / 2 ^ (12 + 9 * e.level))) with
    | some e => (d.usedPwc e).ioWalkS (e.level - 1) c va e.table e.g []
    | none => d.ioWalkS (topLevel c.mode) c va c.root false []

/-! ## Directories -/

/-- The part of a device ID that indexes level `lvl` of the device directory (contexts of 64 bytes). -/
def ddiOf (dev lvl : Nat) : Nat := if lvl = 0 then field dev 0 6 else if lvl = 1 then field dev 6 9 else field dev 15 9

/-- Reserved bits of a non-leaf directory entry. -/
def reservedLeaf (v : Nat) : Bool := field v 1 9 != 0 || field v 54 10 != 0

/-- A mode that a translation register may hold: Bare, or one of Table 10-9. -/
def stageMode (m : Nat) : Bool := m = 0 || m = 8 || m = 9 || m = 10

/-- The device context's address: down the non-leaf levels from `lvl`. -/
def Dev.ddtWalk : Nat → Dev → World → Nat → Nat → (Nat ⊕ Nat) × Dev
  | 0, d, _, dev, table => (.inr (table + 64 * ddiOf dev 0), d)
  | n + 1, d, w, dev, table =>
    let r := d.ioRead8 w (table + 8 * ddiOf dev (n + 1))
    match r.1 with
    | .fails => (.inl 257, r.2)
    | .value v =>
      if !bitAt v 0 then (.inl 258, r.2)
      else if reservedLeaf v then (.inl 259, r.2)
      else Dev.ddtWalk n r.2 w dev (ptePpn v)

/-- `n` consecutive 8-byte reads. -/
def Dev.ioReadWords : Nat → Dev → World → Nat → List Word → Option (List Word) × Dev
  | 0, d, _, _, acc => (some acc, d)
  | n + 1, d, w, a, acc =>
    let r := d.ioRead8 w a
    match r.1 with
    | .fails => (none, r.2)
    | .value v => Dev.ioReadWords n r.2 w (a + 8) (acc ++ [BitVec.ofNat 64 v])

/-- A directory cache of `n` entries takes an entry; a full one first gives up its lowest key (log 24). -/
def dirCache (n : Nat) (t : Tab (List Word)) (k : Nat) (v : List Word) : Tab (List Word) :=
  tabPut (if (tabFind t k).isNone && n ≤ t.length then t.drop 1 else t) k v

/-- Word `i` of a directory entry. -/
def wordAt (l : List Word) (i : Nat) : Nat := ((l.drop i).headD 0).toNat

/-- A device context is misconfigured (cause 259): SADE or GADE is set, it asks for PRI, a mode is not one of Table 10-9, or a reserved field is not 0. -/
def contextBad (l : List Word) : Bool :=
  let tc := wordAt l 0
  let gat := wordAt l 1
  let fsc := wordAt l 3
  bitAt tc 7 || bitAt tc 8 || bitAt tc 2 || bitAt tc 3 || bitAt tc 6 || bitAt tc 10 || bitAt tc 11 || field tc 12 12 != 0
    || !stageMode (field gat 60 4) || (field gat 60 4 != 0 && field gat 0 2 != 0)
    || field (wordAt l 2) 0 12 != 0 || field (wordAt l 2) 32 32 != 0 || field fsc 44 16 != 0
    || (if bitAt tc 5 then 3 < field fsc 60 4 else bitAt tc 9 || !stageMode (field fsc 60 4))
    || 1 < field (wordAt l 4) 60 4 || field (wordAt l 4) 44 16 != 0 || field (wordAt l 5) 52 12 != 0 || field (wordAt l 6) 52 12 != 0
    || wordAt l 7 != 0

/-- The device context of a device: 8 words, or the cause of a fault. -/
def Dev.deviceContext (d : Dev) (dev : Nat) (w : World) : (Nat ⊕ List Word) × Dev :=
  match tabFind d.iommu.ddtCache dev with
  | some c => (.inr c, d)
  | none =>
    let lv := d.iommu.ddtMode - 2
    if (lv = 0 && 64 ≤ dev) || (lv = 1 && 2 ^ 15 ≤ dev) then (.inl 260, d)
    else
      let a := d.ddtWalk lv w dev d.iommu.ddtRoot
      match a.1 with
      | .inl c => (.inl c, a.2)
      | .inr addr =>
        let r := a.2.ioReadWords 8 w addr []
        match r.1 with
        | none => (.inl 257, r.2)
        | some l =>
          let tc := wordAt l 0
          if !bitAt tc 0 then (.inl 258, r.2)
          else if contextBad l then (.inl 259, r.2)
          else (.inr l, { r.2 with iommu := { r.2.iommu with ddtCache := dirCache 256 r.2.iommu.ddtCache dev l } })

/-- The part of a process ID that indexes level `lvl` of the process directory (contexts of 16 bytes). -/
def pdiOf (pid lvl : Nat) : Nat := if lvl = 0 then field pid 0 8 else if lvl = 1 then field pid 8 9 else field pid 17 3

/-- A read of a process-directory entry, whose address the G-stage translates. -/
def Dev.pdtRead (d : Dev) (c : IoCtx) (gpa : Nat) : (Nat ⊕ Nat) × Dev :=
  let x := d.ioG c gpa true
  match x.res with
  | .fault f _ => (.inl f, x.dev)
  | .ok a _ _ _ _ =>
    let r := x.dev.ioRead8 c.world a
    match r.1 with
    | .fails => (.inl 265, r.2)
    | .value v => (.inr v, r.2)

/-- Down the process directory. -/
def Dev.pdtWalk : Nat → Dev → IoCtx → Nat → Nat → (Nat ⊕ Nat) × Dev
  | 0, d, _, pid, table => (.inr (table + 16 * pdiOf pid 0), d)
  | n + 1, d, c, pid, table =>
    let r := d.pdtRead c (table + 8 * pdiOf pid (n + 1))
    match r.1 with
    | .inl x => (.inl x, r.2)
    | .inr v => if !bitAt v 0 then (.inl 266, r.2) else if reservedLeaf v then (.inl 267, r.2) else Dev.pdtWalk n r.2 c pid (ptePpn v)

/-- The process context: two words. -/
def Dev.processContext (d : Dev) (dev pid : Nat) (c : IoCtx) (fsc : Nat) : (Nat ⊕ List Word) × Dev :=
  let key := dev * 2 ^ 20 + pid
  match tabFind d.iommu.pdtCache key with
  | some l => (.inr l, d)
  | none =>
    let lv := field fsc 60 4 - 1
    if (lv = 0 && 2 ^ 8 ≤ pid) || (lv = 1 && 2 ^ 17 ≤ pid) then (.inl 260, d)
    else
      let a := d.pdtWalk lv c pid (field fsc 0 44 * 4096)
      match a.1 with
      | .inl x => (.inl x, a.2)
      | .inr gpa =>
        let r0 := a.2.pdtRead c gpa
        match r0.1 with
        | .inl x => (.inl x, r0.2)
        | .inr ta =>
          let r1 := r0.2.pdtRead c (gpa + 8)
          match r1.1 with
          | .inl x => (.inl x, r1.2)
          | .inr fs =>
            if !bitAt ta 0 then (.inl 266, r1.2)
            else if field ta 3 9 != 0 || field ta 32 32 != 0 || field fs 44 16 != 0 || !stageMode (field fs 60 4) then (.inl 267, r1.2)
            else
              let l := [BitVec.ofNat 64 ta, BitVec.ofNat 64 fs]
              (.inr l, { r1.2 with iommu := { r1.2.iommu with pdtCache := dirCache 1024 r1.2.iommu.pdtCache key l } })

/-! ## A translation -/

/-- The guest interrupt-file number: the bits of the page number that the mask selects. -/
def extractBits (n mask : Nat) : Nat :=
  ((List.range 52).filter (fun i => bitAt mask i)).zipIdx.foldl (fun acc x => acc + boolNat (bitAt n x.1) * 2 ^ x.2) 0

/-- MSI flat mode (Table 10-9): an address of the pattern goes where its MSI page-table entry says; MRIF mode is not
supported. -/
def Dev.msiTranslate (d : Dev) (dc : List Word) (w : World) (gpa : Nat) : Option (IoRes × Dev) :=
  let mask := wordAt dc 5
  if field (wordAt dc 4) 60 4 = 1 && bitsClear (gpa / 4096) mask = bitsClear (wordAt dc 6) mask then
    let r := d.ioReadWords 2 w (field (wordAt dc 4) 0 44 * 4096 + 16 * extractBits (gpa / 4096) mask) []
    match r.1 with
    | none => some (.fault 261 0, r.2)
    | some l =>
      let pte := wordAt l 0
      if !bitAt pte 0 then some (.fault 262 0, r.2)
      else if field pte 1 2 != 3 || field pte 3 7 != 0 || field pte 54 10 != 0 then some (.fault 263 0, r.2)
      else some (.ok (ptePpn pte + gpa % 4096) gpa 12 true false, r.2)
  else none

/-- The set of a cached translation (512 sets of 16 ways; the set function is the model's, log 24). -/
def atcSet (e : IotlbEntry) : Nat := e.iova / 2 ^ e.log % 512

/-- The address translation cache takes an entry. -/
def atcFill (e : IotlbEntry) (l : List IotlbEntry) : List IotlbEntry :=
  let rest := l.filter (fun x => x != e)
  let same := rest.filter (fun x => atcSet x = atcSet e)
  if same.length < 16 then e :: rest
  else match same.getLast? with
    | some o => e :: rest.filter (fun x => x != o)
    | none => e :: rest

/-- A walk's non-leaf entries are cached. -/
def Dev.ioCache (d : Dev) (l : List PwcEntry) : Dev :=
  { d with iommu := { d.iommu with pwc := l.foldl (fun c e => pwcFill e c) d.iommu.pwc } }

/-- A translation is cached (R238, R250); `proc` is the process whose context translated. -/
def Dev.ioFill (d : Dev) (c : IoCtx) (dev : Nat) (pasid proc : Option Nat) (iova log pa gpa : Nat) (w g : Bool) : Dev :=
  let e : IotlbEntry := { device := dev, pasid := pasid, proc := proc, v := c.gmode != 0, gscid := c.gscid, pscid := c.pscid,
                          iova := iova / 2 ^ log * 2 ^ log, log := log, pa := pa / 2 ^ log * 2 ^ log, gpa := gpa / 2 ^ log * 2 ^ log,
                          w := w, g := g }
  if c.mode = 0 && c.gmode = 0 then d else { d with iommu := { d.iommu with atc := atcFill e d.iommu.atc } }

/-- The two stages under a context, and the caches after. -/
def Dev.ioStages (d : Dev) (dc : List Word) (dev : Nat) (pasid proc : Option Nat) (c : IoCtx) (iova : Nat) : IoRes × Dev :=
  let s := d.ioS c iova
  match s.res with
  | .fault x v => (.fault x v, s.dev.ioCache s.read)
  | .ok gpa _ l1 w1 g1 =>
    match s.dev.msiTranslate dc c.world gpa with
    | some (.ok pa _ l2 w2 _, d) =>
      let l := min l1 l2
      (.ok pa gpa l (w1 && w2) g1, (d.ioCache s.read).ioFill c dev pasid proc iova l pa gpa (w1 && w2) g1)
    | some (.fault x v, d) => (.fault x v, if x = 261 then d else d.ioCache s.read)
    | none =>
      let g := s.dev.ioG c gpa false
      let d := g.dev.ioCache (match g.res with
        | .fault x _ => if x = ioAccess c.write then [] else s.read ++ g.read
        | _ => s.read ++ g.read)
      match g.res with
      | .fault x v => (.fault x v, d)
      | .ok pa _ l2 w2 _ =>
        let l := min l1 l2
        (.ok pa gpa l (w1 && w2) g1, d.ioFill c dev pasid proc iova l pa gpa (w1 && w2) g1)

/-- The translation of an address for a device and, where given, a process (R249). A request that an endpoint has translated before, or asks to
have translated, needs ATS enabled in its context. -/
def Dev.ioTranslateRaw (d : Dev) (dev : Nat) (pasid : Option Nat) (iova : Nat) (w : World) (write : Bool) (ats : AtsKind) : IoRes × Dev :=
  if d.iommu.ddtMode = 0 then (.fault 256 0, d)
  else if d.iommu.ddtMode = 1 then (if ats = .untranslated then .ok iova iova 52 true false else .fault 260 0, d)
  else
    match (if ats = .untranslated then d.iommu.atc.find? (fun e => e.device = dev && e.pasid = pasid
        && iova / 2 ^ e.log = e.iova / 2 ^ e.log && (!write || e.w)) else none) with
    | some e => (.ok (e.pa + iova % 2 ^ e.log) (e.gpa + iova % 2 ^ e.log) e.log e.w e.g,
        { d with iommu := { d.iommu with atc := atcFill e d.iommu.atc } })
    | none =>
      let r := d.deviceContext dev w
      match r.1 with
      | .inl c => (.fault c 0, r.2)
      | .inr dc =>
        let tc := wordAt dc 0
        let gat := wordAt dc 1
        let fsc := wordAt dc 3
        let c0 : IoCtx := { mode := 0, root := 0, pscid := field (wordAt dc 2) 12 20, gmode := field gat 60 4,
                            groot := field gat 0 44 * 4096, gscid := field gat 44 16, world := w, write := write }
        if ats != .untranslated && !bitAt tc 1 then (.fault 260 0, r.2)
        else if ats = .translated then (.ok iova iova 52 true false, r.2)
        else if !bitAt tc 5 then
          if pasid.isSome then (.fault 260 0, r.2)
          else r.2.ioStages dc dev pasid none { c0 with mode := field fsc 60 4, root := field fsc 0 44 * 4096 } iova
        else
          match (if pasid.isNone && bitAt tc 9 then some 0 else pasid) with
          | none => r.2.ioStages dc dev pasid none c0 iova
          | some pid =>
            if field fsc 60 4 = 0 then r.2.ioStages dc dev pasid none c0 iova
            else
              let p := r.2.processContext dev pid c0 fsc
              match p.1 with
              | .inl x => (.fault x 0, p.2)
              | .inr pc =>
                let fs := wordAt pc 1
                p.2.ioStages dc dev pasid (some pid) { c0 with mode := field fs 60 4, root := field fs 0 44 * 4096,
                                                               pscid := field (wordAt pc 0) 12 20 } iova

/-! ## Registers (R248, Table 10-9; their places and fields are the specification's, log 24) -/

/-- A word of a register. -/
def Iommu.reg (x : Iommu) (off : Nat) : Nat := tabGet x.regs off 0

/-- A register of 8 bytes. -/
def Iommu.reg64 (x : Iommu) (off : Nat) : Nat := x.reg off + x.reg (off + 4) * 2 ^ 32

/-- A word of a register takes a value. -/
def Dev.iommuSet (d : Dev) (off v : Nat) : Dev := { d with iommu := { d.iommu with regs := tabPut d.iommu.regs off (v % 2 ^ 32) } }

/-- `capabilities`: version 1.0, Sv39, Sv48 and Sv57 with Svpbmt and their G-stage forms, MSI flat mode, ATS, 52-bit addresses, PD8, PD17 and PD20. -/
def iommuCapabilities : Nat :=
  0x10 + 7 * 2 ^ 9 + 2 ^ 15 + 7 * 2 ^ 17 + 2 ^ 22 + 2 ^ 25 + 52 * 2 ^ 32 + 7 * 2 ^ 38

def ioCqb : Nat := 0x18
def ioCqh : Nat := 0x20
def ioCqt : Nat := 0x24
def ioFqb : Nat := 0x28
def ioFqh : Nat := 0x30
def ioFqt : Nat := 0x34
def ioCqcsr : Nat := 0x48
def ioFqcsr : Nat := 0x4C
def ioIpsr : Nat := 0x54
def ioIcvec : Nat := 0x2F8

/-- The entries of a queue, by its base register, and the address of entry `i` of `n` bytes. -/
def Iommu.queueSize (x : Iommu) (base : Nat) : Nat := 2 ^ (field (x.reg base) 0 5 + 1)
def Iommu.queueAt (x : Iommu) (base i n : Nat) : Nat := field (x.reg64 base) 10 44 * 4096 + n * i

/-- A queue is on, by its control register. -/
def Iommu.queueOn (x : Iommu) (csr : Nat) : Bool := bitAt (x.reg csr) 16

/-- The hart and file of an IMSIC file at an offset of the window. -/
def imsicFile (off : Nat) : Option (Nat × Nat) :=
  if 0x0200_0000 ≤ off && off < 0x0200_0000 + 240 * 0x8000 then
    some ((off - 0x0200_0000) / 0x8000, (off - 0x0200_0000) % 0x8000 / 0x1000)
  else none

/-- A message that interrupts: a posted write of `v` to an address, in QoS class `cls`; an IMSIC file of this package takes it, and one for another
package goes over Harfort. -/
def Dev.postMsi (d : Dev) (w : World) (cls a v : Nat) : Dev :=
  match d.region a with
  | .mmio off => (match imsicFile off with
      | some f => d.post (.msiReceive f.1 f.2 v)
      | none => d)
  | .remoteMmio q => d.hfSend q (ioFlit iodAgent 0 a 5 cls w) true
  | _ => d

/-- An interrupt of the IOMMU's source `b` where its queue enables it: it becomes pending, and its vector's message is sent. -/
def Dev.iommuInterrupt (d : Dev) (csr b : Nat) : Dev :=
  if !bitAt (d.iommu.reg csr) 1 || bitAt (d.iommu.reg ioIpsr) b then d
  else
    let e := 0x300 + 16 * field (d.iommu.reg ioIcvec) (4 * b) 4
    let d := d.iommuSet ioIpsr (bitSet (d.iommu.reg ioIpsr) b)
    if bitAt (d.iommu.reg (e + 12)) 0 then d else d.postMsi .normal 0 (d.iommu.reg64 e) (d.iommu.reg (e + 8))

/-- The record of a fault as the queue holds it. -/
def faultRecord (f : IommuFault) : List Byte :=
  leBytes 8 (f.cause + f.pasid.getD 0 * 2 ^ 12 + boolNat f.pasid.isSome * 2 ^ 32 + f.ttyp * 2 ^ 34 + f.device * 2 ^ 40)
    ++ zeros 8 ++ leBytes 8 f.iova ++ leBytes 8 f.val2

/-- A record enters the fault queue in memory: a full queue overflows, and a queue that memory refuses has failed. -/
def Dev.queueRecord (d : Dev) (w : World) (f : IommuFault) : Dev :=
  let x := d.iommu
  let next := (x.reg ioFqt + 1) % x.queueSize ioFqb
  let a := x.queueAt ioFqb (x.reg ioFqt) 32
  if !x.queueOn ioFqcsr || bitAt (x.reg ioFqcsr) 8 || bitAt (x.reg ioFqcsr) 9 then d
  else if next = x.reg ioFqh then (d.iommuSet ioFqcsr (bitSet (x.reg ioFqcsr) 9)).iommuInterrupt ioFqcsr 1
  else if !(d.region a).isMemory || (d.remoteHome a).isSome || (d.refusedBy w a).isSome || (d.guardedLine (lineAddr a)).isSome then
    (d.iommuSet ioFqcsr (bitSet (x.reg ioFqcsr) 8)).iommuInterrupt ioFqcsr 1
  else ((d.cohWrite (iodUse w) a (faultRecord f)).iommuSet ioFqt next).iommuInterrupt ioFqcsr 1

/-- A write of a queue's control register: the index that the IOMMU moves starts at 0 when the queue is enabled, and errors are cleared by writing 1. -/
def Dev.queueControl (d : Dev) (csr index v : Nat) : Dev :=
  let old := d.iommu.reg csr
  let errs := bitsClear (field old 8 4) (field v 8 4)
  if bitAt v 0 && !bitAt old 16 then ((d.iommuSet index 0).iommuSet csr (v % 4 + 2 ^ 16))
  else d.iommuSet csr (v % 4 + errs * 2 ^ 8 + boolNat (bitAt v 0) * 2 ^ 16)

/-- `ddtp` as a register. -/
def Iommu.ddtp (x : Iommu) : Nat := x.ddtMode + x.ddtRoot / 4096 * 2 ^ 10

/-- A word of an 8-byte register. -/
def halfWord (v off : Nat) : Nat := if off % 8 = 0 then v % 2 ^ 32 else v / 2 ^ 32 % 2 ^ 32

/-- An 8-byte register with a word written. -/
def putHalf (v off x : Nat) : Nat := if off % 8 = 0 then v / 2 ^ 32 * 2 ^ 32 + x % 2 ^ 32 else x % 2 ^ 32 * 2 ^ 32 + v % 2 ^ 32

/-- A write of a queue's base register, while the queue is off. -/
def Dev.queueBase (d : Dev) (csr off v : Nat) : Dev :=
  if d.iommu.queueOn csr then d else d.iommuSet off (if off % 8 = 0 then field v 10 22 * 2 ^ 10 + v % 32 else v % 2 ^ 22)

/-- A write of the MSI table: an address, a value and a mask bit for each vector. -/
def msiTableWord (off v : Nat) : Nat :=
  if off % 16 = 0 then v % 2 ^ 32 / 4 * 4 else if off % 16 = 4 then v % 2 ^ 24 else if off % 16 = 8 then v else v % 2

/-- A write of the register set: `ddtp` takes a mode that exists, with its root; `fctl` has no field that this IOMMU lets change. -/
def Dev.iommuRegWrite (d : Dev) (off v : Nat) : Dev :=
  if off = 0x10 || off = 0x14 then
    let x := putHalf d.iommu.ddtp off v
    if x % 16 < 5 then { d with iommu := { d.iommu with ddtMode := x % 16, ddtRoot := field x 10 44 * 4096 } } else d
  else if off = ioCqb || off = ioCqb + 4 then d.queueBase ioCqcsr off v
  else if off = ioFqb || off = ioFqb + 4 then d.queueBase ioFqcsr off v
  else if off = ioCqt then d.iommuSet ioCqt (v % d.iommu.queueSize ioCqb)
  else if off = ioFqh then d.iommuSet ioFqh (v % d.iommu.queueSize ioFqb)
  else if off = ioCqcsr then d.queueControl ioCqcsr ioCqh v
  else if off = ioFqcsr then d.queueControl ioFqcsr ioFqt v
  else if off = ioIpsr then d.iommuSet ioIpsr (bitsClear (d.iommu.reg ioIpsr) v)
  else if off = ioIcvec then d.iommuSet ioIcvec (v % 2 ^ 8)
  else if 0x300 ≤ off && off < 0x400 then d.iommuSet off (msiTableWord off v)
  else d

/-- A read of the register set. -/
def Iommu.regRead (x : Iommu) (off : Nat) : Nat :=
  if off = 0x00 || off = 0x04 then halfWord iommuCapabilities off
  else if off = 0x10 || off = 0x14 then halfWord x.ddtp off
  else x.reg off

/-- A command of the command queue has been taken: the queue's head moves on. -/
def Dev.commandTaken (d : Dev) : Dev :=
  let x := d.iommu
  if x.queueOn ioCqcsr && x.reg ioCqh != x.reg ioCqt then d.iommuSet ioCqh ((x.reg ioCqh + 1) % x.queueSize ioCqb) else d

/-! ## Accesses -/

/-- The transaction type that a fault record names. -/
def ioTtyp (ats : AtsKind) (write : Bool) : Nat :=
  match ats with
  | .untranslated => if write then 3 else 2
  | .translated => if write then 7 else 6
  | .request => 8

/-- A fault goes to the fault queue (R249). -/
def Dev.ioFault (d : Dev) (w : World) (f : IommuFault) : Dev :=
  ({ d with iommu := { d.iommu with faultq := d.iommu.faultq ++ [f] } }).queueRecord w f

/-- How an access through the IOMMU ends: the physical and the guest-physical address; a translation fault; an unmapped address (R35, R353). -/
inductive IoAccess where
  | ok (pa gpa : Nat)
  | fault
  | unmapped (pa : Nat)
deriving DecidableEq, Repr

/-- A page fault of a request for a translation is the endpoint's answer, and no fault of the queue (ATS, log 24). -/
def atsAnswers (ats : AtsKind) (cause : Nat) : Bool := ats = .request && (cause = 13 || cause = 15 || cause = 21 || cause = 23)

/-- An access through the IOMMU: translation, then the world range, then mapping. The IMSIC file of a shadow core is unmapped (R194). -/
def Dev.ioAccessOf (d : Dev) (dev : Nat) (pasid : Option Nat) (iova : Nat) (w : World) (write : Bool) (ats : AtsKind) : IoAccess × Dev :=
  let r := d.ioTranslateRaw dev pasid iova w write ats
  let t := ioTtyp ats write
  match r.1 with
  | .fault c v => (.fault, if atsAnswers ats c then r.2 else r.2.ioFault w ⟨c, dev, pasid, iova, t, v⟩)
  | .ok pa gpa _ _ _ =>
    match r.2.refusedBy w pa with
    | some n => (.fault, (r.2.noteRefusal n 883 pa).ioFault w ⟨ioAccess write, dev, pasid, iova, t, 0⟩)
    | none =>
      if (r.2.region pa).isMapped && !r.2.shadowFile pa then (.ok pa gpa, r.2)
      else (.unmapped pa, r.2.raiseAt kUnmappedAccess 883 pa 0)

/-- An access of an instance, which is never translated before. -/
def Dev.ioAccessAt (d : Dev) (dev : Nat) (pasid : Option Nat) (iova : Nat) (w : World) (write : Bool) : IoAccess × Dev :=
  d.ioAccessOf dev pasid iova w write .untranslated

/-- The world, device and process of a request: of its instance, or of its root port (Table 16-1, R88). -/
def Dev.ioSource (d : Dev) (r : IommuReq) : World × Nat × Option Nat :=
  match r.inst with
  | some i =>
    (bitWorld (d.get (rInstWorld i)), d.get (rInstDeviceId i),
      if bitAt (d.get (rInstPasid i)) 31 then some (d.get (rInstPasid i) % 2 ^ 20) else none)
  | none => (d.blockWorld (8 + r.port), r.device, r.pasid)

/-- The request is of an instance, or of a root port that exists, with the world that Table 16-1 gives it. -/
def Dev.ioReqOk (d : Dev) (r : IommuReq) : Bool :=
  (match r.inst with
   | some i => i < 4096 && r.ats = .untranslated
   | none => d.rootPort r.port && !d.blockFenced (8 + r.port)) && r.world = (d.ioSource r).1

/-- IOMMU_TRANSLATE (R249, R35, R353): the translation with its caches, faults and records. -/
def execIommuTranslate (r : IommuReq) (s : State) : Out :=
  occurs 249 (fun d => d.ioReqOk r)
    (fun d =>
      let x := d.ioSource r
      (d.ioAccessOf x.2.1 x.2.2 r.iova x.1 r.write r.ats).2) s

/-! ## Invalidation (R250) -/

/-- IOTINVAL_VMA: the scope of Table 10-7, with AV for the address and PSCID for the ASID; without a GSCID it acts on the entries made without a
G-stage, and with one on those of that GSCID (R244). -/
def execIotinvalVma (av gscid pscid : Option Nat) (s : State) : Out :=
  perform s (fun d =>
    let mine (v : Bool) (g : Nat) : Bool := match gscid with
      | some x => v && g = x
      | none => !v
    let keep := fun (e : IotlbEntry) =>
      !mine e.v e.gscid || (match av with
        | some a => a / 2 ^ e.log != e.iova / 2 ^ e.log
        | none => false) || (match pscid with
        | some p => e.pscid != p || e.g
        | none => false)
    let keepP := fun (e : PwcEntry) =>
      e.gstage || !mine e.v e.vmid || av.isSome || (match pscid with
        | some p => e.asid != p || e.g
        | none => false)
    ({ d with iommu := { d.iommu with atc := d.iommu.atc.filter keep, pwc := d.iommu.pwc.filter keepP } }).commandTaken)

/-- IOTINVAL_GVMA (R250 with R245): every combined leaf of the selected GSCIDs; partial-walk entries of both stages only
without an address. Entries made without a G-stage stay. -/
def execIotinvalGvma (av gscid : Option Nat) (s : State) : Out :=
  perform s (fun d =>
    let sel := fun (v : Bool) (g : Nat) => v && (match gscid with
      | some x => g = x
      | none => true)
    ({ d with iommu := { d.iommu with
        atc := d.iommu.atc.filter (fun e => !sel e.v e.gscid),
        pwc := d.iommu.pwc.filter (fun e => av.isSome || !sel e.v e.vmid) } }).commandTaken)

/-- IODIR_INVAL_DDT (R250): directory entries and every translation made through them. -/
def execIodirInvalDdt (device : Option Nat) (s : State) : Out :=
  perform s (fun d =>
    (match device with
     | none => { d with iommu := { d.iommu with ddtCache := [], pdtCache := [], atc := [] } }
     | some x => { d with iommu := { d.iommu with
         ddtCache := tabErase d.iommu.ddtCache x,
         pdtCache := tabDrop d.iommu.pdtCache (fun k => k / 2 ^ 20 = x),
         atc := d.iommu.atc.filter (fun e => e.device != x) } }).commandTaken)

/-- IODIR_INVAL_PDT (R250): the process entry, and every translation made through it, also those that name no process and took process 0. -/
def execIodirInvalPdt (device pasid : Nat) (s : State) : Out :=
  perform s (fun d =>
    ({ d with iommu := { d.iommu with
        pdtCache := tabErase d.iommu.pdtCache (device * 2 ^ 20 + pasid),
        atc := d.iommu.atc.filter (fun e => !(e.device = device && e.proc = some pasid)) } }).commandTaken)

/-- A request of the IOD agent is on its way. -/
def Dev.inboundOpen (d : Dev) : Bool :=
  d.fab.reqs.any (fun e => match e.2.owner with
    | .inbound _ _ => true
    | _ => false)

/-- IOFENCE_C (R250): it completes once no request that used an invalidated entry is left; invalidations themselves are
complete at once. -/
def execIofenceC (s : State) : Out := occurs 250 (fun d => !d.inboundOpen) (fun d => d.commandTaken) s

/-! ## Inbound requests (R35, R449, R351) -/

/-- A request of the IOD agent goes to its home. -/
def Dev.sendInbound (d : Dev) (port line flits : Nat) (m : Instr) (pa : Nat) : Dev :=
  ({ d with fab := { d.fab with ops := d.fab.ops ++ [(iodAgent, line, m)] } }).inject iodPoint iodAgent 0 flits m
    (some (.inbound port line, d.timeoutOf pa))

/-- What a root port counts of a request that it receives. -/
def Dev.countInbound (d : Dev) (n : Nat) (write : Bool) : Dev :=
  let g := portRootGroup n
  let d := d.countEvent g 1 1 none
  if write then (d.countEvent g 3 64 none).countBytes g 64 0 none else d

/-- INBOUND_PCIE_REQUEST: one line of an inbound request. A fault, or an unmapped address, completes with Unsupported
Request and goes no further; memory is reached through the homes, and a write to an IMSIC file is an MSI. -/
def execInboundPcieRequest (r : IommuReq) (data : Option Line) (s : State) : Out :=
  occurs 35 (fun d => r.inst.isNone && d.ioReqOk r && r.write = data.isSome && r.iova % 64 = 0 && r.ats != .request)
    (fun d =>
      let d := d.countInbound r.port r.write
      let x := d.ioSource r
      let a := d.ioAccessOf x.2.1 x.2.2 r.iova x.1 r.write r.ats
      match a.1 with
      | .ok pa _ =>
        let d := a.2
        let q : HomeReq := { agent := iodAgent, line := lineAddr pa, world := x.1, hint := 0, stream := 0 }
        if (d.region pa).isMemory then
          match data with
          | some v => d.sendInbound r.port q.line 2 (.invWrite q v false .none .none) pa
          | none => d.sendInbound r.port q.line 1 (.readShared q true .none .none .none) pa
        else
          match data with
          | some v => d.postMsi x.1 0 pa (v.toNat % 2 ^ 32)
          | none => d
      | _ => if r.write then a.2 else a.2.sendCompletion r.port false) s

end Sys2Proof.Machine
end

