-- ==== Sys2Proof/Machine/Inst.lean ====
section
/-!
DEFINITION. Engine instances (chapter 03): their states, the accesses made for them through the IOMMU (R88), dirty logging
(R97, R98), halts (R89), their pages (R77, R82), and what the jobs of all classes share.
-/
namespace Sys2Proof.Machine

/-! ## Codes -/

/-! Instance states (Table 03-6). -/

def instFree : Nat := 0
def instReady : Nat := 1
def instActive : Nat := 2
def instQuiescing : Nat := 3
def instHalted : Nat := 4

/-! Common status codes (Table 03-11). -/

def jsOk : Nat := 0x00
def jsSquashed : Nat := 0x01
def jsBadOpcode : Nat := 0x02
def jsBadDescriptor : Nat := 0x03
def jsTranslation : Nat := 0x04
def jsAddress : Nat := 0x05
def jsMemory : Nat := 0x06
def jsKeyRange : Nat := 0x07
def jsEngineFailed : Nat := 0x08

/-! The phases of a job as the model numbers them: those of Table 04-3. -/

def phKey : Nat := 2
def phDispatch : Nat := 3
def phStage : Nat := 4
def phExecute : Nat := 5
def phJournal : Nat := 6
def phOutput : Nat := 7
def phComplete : Nat := 8

/-! ## Fields of a descriptor (Table 03-9) -/

def descOpcode (b : List Byte) : Nat := byteAt b 0
def descFlags (b : List Byte) : Nat := byteAt b 1
def descTag (b : List Byte) : Nat := fieldLe b 2 2
def descInLen (b : List Byte) : Nat := fieldLe b 4 4
def descIn (b : List Byte) : Nat := fieldLe b 8 8
def descOut (b : List Byte) : Nat := fieldLe b 16 8
def descCap (b : List Byte) : Nat := fieldLe b 24 4
def descFence (b : List Byte) : Bool := bitAt (descFlags b) 1
def descIrq (b : List Byte) : Bool := bitAt (descFlags b) 0

/-! ## The binding of an instance -/

/-- `instClass`. -/
def Dev.instClass (d : Dev) (i : Nat) : Nat := d.get (rInstClass i)

/-- The world of an instance. -/
def Dev.instWorld (d : Dev) (i : Nat) : World := bitWorld (d.get (rInstWorld i))

/-- The process ID of an instance, when valid. -/
def Dev.instPid (d : Dev) (i : Nat) : Option Nat :=
  let v := d.get (rInstPasid i)
  if bitAt v 31 then some (v % 2 ^ 20) else none

/-- Entries of the submission ring. -/
def Dev.sqSize (d : Dev) (i : Nat) : Nat := 2 ^ d.get (rSqLog2 i)

/-- Entries of the completion ring. -/
def Dev.cqSize (d : Dev) (i : Nat) : Nat := 2 ^ d.get (rCqLog2 i)

/-- Jobs in flight (R83): from the fetch of the descriptor to the record. -/
def Inst.inFlight (x : Inst) : Nat := x.queue.length + boolNat x.fetching

/-! ## Halts (R89) -/

/-- The instance halts: an instance in a reset stays QUIESCING, since the reset decides its state. One that is HALTED already keeps what its
first halt recorded, and a further record goes to Fusible: the manual says nothing of a second error. DESIGN CHOICE (log 63). -/
def Dev.haltInst (d : Dev) (i status addr tag : Nat) : Dev :=
  let d := d.raiseAt kInstanceHalt 883 addr 0
  if d.get (rInstState i) = instReady || d.get (rInstState i) = instActive then
    (((d.set (rInstState i) instHalted).set (rHaltStatus i) status).set (rHaltAddress i) addr).set (rHaltTag i) tag
  else d

/-! ## Accesses of an instance (R88) -/

/-- How an access of an instance ends. -/
inductive InstIo where
  | ok (b : List Byte)
  /-- refused by the IOMMU -/
  | fault (iova : Nat)
  /-- unmapped after translation, or refused at a home -/
  | address (iova : Nat)
  /-- uncorrectable -/
  | memory (iova : Nat)
deriving DecidableEq, Repr, Inhabited

/-- The status of an access. -/
def InstIo.status : InstIo → Nat
  | .ok _ => jsOk
  | .fault _ => jsTranslation
  | .address _ => jsAddress
  | .memory _ => jsMemory

/-- The failing IOVA of an access. -/
def InstIo.addr : InstIo → Nat
  | .ok _ => 0
  | .fault a => a
  | .address a => a
  | .memory a => a

/-- The bytes that an access read. -/
def InstIo.data : InstIo → List Byte
  | .ok b => b
  | _ => []

/-- The status halts the instance wherever it is met (R89). -/
def haltsAlways (st : Nat) : Bool := st = jsAddress || st = jsMemory

/-- The requests of an instance for lines that another package homes go to that package (R388). -/
def Dev.instRemote (d : Dev) (u : MemUse) (pa n msg : Nat) : Dev :=
  (linesOf pa n).foldl (fun d l => match d.remoteHome l with
    | some q => (match u.point with
        | some p => d.injectNow p.1 p.2 (if msg = msgPartialWrite then 2 else 1)
        | none => d).sendRemote q 0 msg iodAgent l u.world (msg != msgReadShared)
    | none => d) d

/-- A read inside one page, on `stream`. Marked data that it meets is consumed by the instance (R343), from source 883 (R450). What another package or a device answers lies outside this package: free bytes (log 23). -/
def Dev.instReadPage (d : Dev) (i stream iova n : Nat) : InstIo × Dev :=
  match d.ioAccessAt (d.get (rInstDeviceId i)) (d.instPid i) iova (d.instWorld i) false with
  | (.fault, d) => (.fault iova, d)
  | (.unmapped _, d) => (.address iova, d)
  | (.ok pa _, d) =>
    match d.region pa with
    | .hbm _ | .ddr _ | .cxl _ =>
      let d' := d.touch (d.instUse i stream) pa n
      (match d.firstMarked pa n with
       | some l => (.memory (if l < pa then iova else iova + (l - pa)), d'.consumed 883 l)
       | none => (.ok (d.cohRead pa n).1, d'))
    | _ => let r := (d.instRemote (d.instUse i stream) pa n msgReadShared).takeBytes n; (.ok r.1, r.2)

/-- A read page by page; `f` bounds the number of pages. -/
def Dev.instReadN (i stream : Nat) : Nat → Dev → Nat → Nat → InstIo × Dev
  | 0, d, _, _ => (.ok [], d)
  | f + 1, d, a, n =>
    if n = 0 then (.ok [], d)
    else
      let k := min n (4096 - a % 4096)
      match d.instReadPage i stream a k with
      | (.ok b, d) =>
        (match Dev.instReadN i stream f d ((a + k) % 2 ^ 64) (n - k) with
         | (.ok r, d) => (.ok (b ++ r), d)
         | x => x)
      | x => x

/-- `n` bytes of a job's operands read for an instance. -/
def Dev.instRead (d : Dev) (i iova n : Nat) : InstIo × Dev := Dev.instReadN i 1 (n / 4096 + 2) d iova n

/-- A descriptor read for an instance. -/
def Dev.instFetch (d : Dev) (i iova : Nat) : InstIo × Dev := Dev.instReadN i 0 2 d iova 64

/-- A write at a home that some rule refuses (R142, R166, R353, R449): the fault is raised and nothing changes. -/
def Dev.storeRefused (d : Dev) (u : MemUse) (pa n : Nat) : Option Dev :=
  (linesOf pa n).findSome? (fun l =>
    d.homeRefusal { agent := iodAgent, line := l, world := u.world, hint := u.hint, stream := u.stream } (.partialWrite 0 0))

/-- R98: the bit of one page in the dirty bitmap, set in the world of the instance. An error on the bitmap is a memory error of the write that
it stands for, and a refusal at its home an address error. DEDUCED (log 64). -/
def Dev.dirtyMark (d : Dev) (i gpa : Nat) : InstIo × Dev :=
  if !(d.inst i).dlOn then (.ok [], d)
  else
    let base := d.get (rDlGpaBase i)
    let n := (gpa - base) / 4096
    if gpa < base || d.get (rDlPages i) ≤ n then
      (.ok [], d.set (rDlStatus i) (bitSet (d.get (rDlStatus i)) 0))
    else
      let a := d.get (rDlBitmap i) + n / 8
      let d := d.add (rDlBitsSet i) 1
      match d.storeRefused (d.instUse i 2) a 1 with
      | some d => (.address a, d)
      | none =>
        if (d.firstMarked a 1).isSome then (.memory a, (d.set (rDlStatus i) (bitSet (d.get (rDlStatus i)) 1)).consumed 883 (lineAddr a))
        else (.ok [], d.cohWrite (d.instUse i 2) a [BitVec.ofNat 8 (bitSet (byteAt (d.cohRead a 1).1 0) (n % 8))])

/-- A write inside one page; `log` where dirty logging applies to it. -/
def Dev.instWritePage (d : Dev) (i iova : Nat) (b : List Byte) (log : Bool) : InstIo × Dev :=
  match d.ioAccessAt (d.get (rInstDeviceId i)) (d.instPid i) iova (d.instWorld i) true with
  | (.fault, d) => (.fault iova, d)
  | (.unmapped _, d) => (.address iova, d)
  | (.ok pa gpa, d) =>
    match if log then d.dirtyMark i gpa else (.ok [], d) with
    | (.fault _, d) => (.fault iova, d)
    | (.memory _, d) => (.memory iova, d)
    | (.address _, d) => (.address iova, d)
    | (.ok _, d) =>
      match d.region pa with
      | .hbm _ | .ddr _ | .cxl _ =>
        (match d.storeRefused (d.instUse i 2) pa b.length with
         | some d => (.address iova, d)
         | none => (.ok [], d.cohWrite (d.instUse i 2) pa b))
      | .remote _ => (.ok [], d.instRemote (d.instUse i 2) pa b.length (if b.length = 64 && pa % 64 = 0 then msgInvWrite else msgPartialWrite))
      | _ => (.ok [], (d.injectNow iodPoint (d.get (rInstQos i)) 1).postMsi (d.instWorld i) (d.get (rInstQos i)) pa (fieldLe b 0 4))

/-- A write page by page: how it ends and how many bytes reached memory. -/
def Dev.instWriteN (i : Nat) (log : Bool) : Nat → Dev → Nat → List Byte → (InstIo × Nat) × Dev
  | 0, d, _, _ => ((.ok [], 0), d)
  | f + 1, d, a, b =>
    if b.isEmpty then ((.ok [], 0), d)
    else
      let k := min b.length (4096 - a % 4096)
      match d.instWritePage i a (b.take k) log with
      | (.ok _, d) =>
        let r := Dev.instWriteN i log f d ((a + k) % 2 ^ 64) (b.drop k)
        ((r.1.1, r.1.2 + k), r.2)
      | (x, d) => ((x, 0), d)

/-- Bytes written for an instance. -/
def Dev.instWrite (d : Dev) (i iova : Nat) (b : List Byte) (log : Bool) : (InstIo × Nat) × Dev :=
  Dev.instWriteN i log (b.length / 4096 + 2) d iova b

/-! ## Jobs -/

/-- A job that has just been fetched. -/
def newJob (i : Nat) (desc : List Byte) : Job :=
  { inst := i, desc := desc, phase := phKey, slot := none, partner := none, avoid := [], keyOk := false,
    holds := [], target := none, genA := 0, input := [], aux := [], rand := [], opDone := false,
    status := 0, detail := 0, out := [], written := 0, attempts := 0, result := 0, journal := none,
    deadline := 0, bank := none, version := 0, restarted := false, selfFails := 0, ctxOut := [],
    copied := 0, failAddr := 0, blobA := [], blobB := [], seen := [] }

/-- A change to a job that is in flight. -/
def Dev.modJob (d : Dev) (j : Nat) (f : Job → Job) : Dev :=
  match d.job j with
  | some x => d.setJob j (f x)
  | none => d

/-- The job is in flight and `f` holds of it. -/
def Dev.jobIs (d : Dev) (j : Nat) (f : Job → Bool) : Bool :=
  match d.job j with
  | some x => f x
  | none => false

/-- The first job of an instance, in fetch order, that has not started (R84). -/
def Dev.headJob (d : Dev) (i : Nat) : Option Nat :=
  (d.inst i).queue.find? (fun j => d.jobIs j (fun x => x.phase ≤ phDispatch))

/-- R84: the job may start: it is at the head of its slot queue, its checks are done, and a fence waits for no earlier job. -/
def Dev.jobReady (d : Dev) (i j : Nat) : Bool :=
  d.headJob i = some j &&
    d.jobIs j (fun x => x.phase = phDispatch && (!descFence x.desc || (d.inst i).queue.head? = some j))

/-- A job of an instance occupies an engine slot: from its start to the end of its execute phase, or of its wait in phase 6
(log 25). -/
def Job.holdsSlot (x : Job) (e s : Nat) : Bool :=
  (x.slot = some (e, s) || x.partner = some (e, s)) && phStage ≤ x.phase && x.phase ≤ phJournal

/-- The jobs at a slot. -/
def Dev.slotJobs (d : Dev) (e s : Nat) : List Job := (d.jobs.map (fun x => x.2)).filter (fun x => x.holdsSlot e s)

/-- R149: a staged journal record holds the slot. -/
def Dev.slotStaged (d : Dev) (e s : Nat) : Bool :=
  d.jns.any (fun n => n.2.staged.any (fun r => r.slots.contains (e, s)))

/-- The slot can take a job. An Electrum slot takes one as soon as its parser is free, three jobs at most (R158). -/
def Dev.slotIdle (d : Dev) (e s : Nat) : Bool :=
  let l := d.slotJobs e s
  !d.slotStaged e s &&
    (if engClass e = 2 then l.all (fun x => x.opDone) && l.length < 3 else l.isEmpty)

/-- None of these messages is still on its way. -/
def Dev.delivered (d : Dev) (l : List Instr) : Bool := l.all (fun m => !d.fab.net.contains m)

/-- The engine is in service. -/
def Dev.engUp (d : Dev) (e : Nat) : Bool := d.get (rEngState e) = stActive && d.unit (.cluster (engCluster e)) = stActive

/-! ## Pages (R77) -/

/-- INST_STATUS (Table 03-2). -/
def Dev.instStatusWord (d : Dev) (i : Nat) : Nat :=
  d.get (rHaltStatus i) * 2 ^ 24 + (d.inst i).inFlight % 2 ^ 16 * 2 ^ 8 + d.get (rInstState i)

/-- The access is of the normal world to a Tantalum instance. -/
def Dev.pageMismatch (d : Dev) (i : Nat) (w : World) : Bool := w = .normal && d.instWorld i = .tantalum

/-- WORLD_VIOLATION of an instance page, from the management complex (R450). -/
def Dev.raisePage (d : Dev) (i off : Nat) : Dev :=
  d.raiseAt kWorldViolation 881 (mmioBase d.pkg + i * 0x1000 + off) 0

/-- A read of a page register. -/
def Dev.instPageRead (d : Dev) (i off : Nat) (w : World) : Nat × Dev :=
  if d.get (rInstState i) = instFree then (0, d)
  else if d.pageMismatch i w then (0, d.raisePage i off)
  else
    let x := d.inst i
    (if off = 0x000 then x.sqTail
     else if off = 0x004 then x.sqHead
     else if off = 0x008 then x.cqHead
     else if off = 0x00C then boolNat x.phase * 2 ^ 16 + x.cqTail
     else if off = 0x010 then d.instStatusWord i
     else if off = 0x014 then x.dbErrors
     else 0, d)

/-- A discarded doorbell write is counted; DB_ERRORS saturates. -/
def Dev.doorbellError (d : Dev) (i : Nat) : Dev :=
  let x := d.inst i
  (d.setInst i { x with dbErrors := satAdd32 x.dbErrors 1 }).addSat (rDoorbellErrors i) 1

/-- A write of SQ_TAIL that reaches the instance (R82, R15). -/
def Dev.sqTailWrite (d : Dev) (i value : Nat) : Dev :=
  let v := value % 2 ^ 16
  let st := d.get (rInstState i)
  if (st = instReady || st = instActive) && v < d.sqSize i then d.setInst i { d.inst i with sqTail := v }
  else d.doorbellError i

/-- A write of CQ_HEAD that reaches the instance. On a full ring the head's own index, which is also the tail's,
releases every record. -/
def Dev.cqHeadSet (d : Dev) (i value : Nat) : Dev :=
  let v := value % 2 ^ 16
  let x := d.inst i
  let n := d.cqSize i
  let k := if v = x.cqHead && x.unreleased = n then n else (v + n - x.cqHead) % n
  if v < n && k ≤ x.unreleased then d.setInst i { x with cqHead := v, unreleased := x.unreleased - k }
  else d.doorbellError i

/-- A write of a page register. A doorbell of a FREE instance is discarded (R77) without a count in DB_ERRORS, though R82 counts what it
discards. DESIGN CHOICE (log 61). -/
def Dev.instPageWrite (d : Dev) (i off : Nat) (w : World) (value : Nat) : Dev :=
  if d.get (rInstState i) = instFree then d
  else if d.pageMismatch i w then d.raisePage i off
  else if off = 0x000 then d.sqTailWrite i value
  else if off = 0x008 then d.cqHeadSet i value
  else d

/-- SQ_TAIL_DOORBELL (R82, R77). -/
def execSqTailDoorbell (inst : Nat) (w : World) (value : Nat) (s : State) : Out :=
  occursAt 82 (inst < 4096) (fun _ => true)
    (fun d => (d.takeMsg (fun m => m = .sqTailDoorbell inst w value)).instPageWrite inst 0x000 w value) s

/-- CQ_HEAD_WRITE (R82, R77). -/
def execCqHeadWrite (inst : Nat) (w : World) (value : Nat) (s : State) : Out :=
  occursAt 82 (inst < 4096) (fun _ => true)
    (fun d => (d.takeMsg (fun m => m = .cqHeadWrite inst w value)).instPageWrite inst 0x008 w value) s

end Sys2Proof.Machine
end

