-- ==== Sys2Proof/Machine/Keys.lean ====
section
/-!
DEFINITION. The key store (chapter 05, R127 to R146): slot descriptors in memory, their cache, the checks and claims of phase 2,
blobs, and the key-slot administration window.
-/
namespace Sys2Proof.Machine

/-! ## Slot descriptors (Table 05-1) -/

/-- A slot descriptor. -/
structure KeyDesc where
  state     : Nat
  type      : Nat
  gen       : Nat
  usage     : Nat
  usageMask : Nat
  typeMask  : Nat
  owner     : Nat
  aesLen    : Nat
  comps     : Nat
  tenant    : Nat
  count     : Nat
  limit     : Nat
  blobLen   : Nat
  blobCap   : Nat
  blobOff   : Nat
  created   : Nat
deriving DecidableEq, Repr, Inhabited

/-! Slot states (Table 05-4). -/

def ksEmpty : Nat := 0
def ksActive : Nat := 1
def ksSuspended : Nat := 2
def ksPartial : Nat := 3
def ksErasing : Nat := 4
def ksCorrupt : Nat := 5
def ksPending : Nat := 6

/-- The descriptor that 64 bytes spell. -/
def parseKey (b : List Byte) : KeyDesc :=
  { state := byteAt b 0, type := byteAt b 1, gen := fieldLe b 2 2, usage := byteAt b 4, usageMask := byteAt b 5,
    typeMask := fieldLe b 6 2, owner := fieldLe b 8 2, aesLen := byteAt b 10, comps := byteAt b 11,
    tenant := fieldLe b 12 4, count := fieldLe b 16 8, limit := fieldLe b 24 4, blobLen := fieldLe b 28 2,
    blobCap := fieldLe b 30 2, blobOff := fieldLe b 32 4, created := fieldLe b 40 8 }

/-- Bytes 0 to 59 of a descriptor. -/
def keyBody (k : KeyDesc) : List Byte :=
  leBytes 1 k.state ++ leBytes 1 k.type ++ leBytes 2 k.gen ++ leBytes 1 k.usage ++ leBytes 1 k.usageMask
    ++ leBytes 2 k.typeMask ++ leBytes 2 k.owner ++ leBytes 1 k.aesLen ++ leBytes 1 k.comps ++ leBytes 4 k.tenant
    ++ leBytes 8 k.count ++ leBytes 4 k.limit ++ leBytes 2 k.blobLen ++ leBytes 2 k.blobCap ++ leBytes 4 k.blobOff
    ++ zeros 4 ++ leBytes 8 k.created ++ zeros 12

/-- The 64 bytes of a descriptor, with its Check field. -/
def packKey (k : KeyDesc) : List Byte := keyBody k ++ leBytes 4 (crc32c (keyBody k))

/-- The caching die of a handle (R127). -/
def keyDie (h : Nat) : Nat := h % 4

/-- Address of a descriptor. -/
def Dev.keyAddr (d : Dev) (h : Nat) : Nat := d.get rKsDescBase + 64 * h

/-- A descriptor as it is stored. -/
def Dev.keyRaw (d : Dev) (h : Nat) : List Byte := (d.cohRead (d.keyAddr h) 64).1

/-- A descriptor as it is stored, read as fields. -/
def Dev.keyAt (d : Dev) (h : Nat) : KeyDesc := parseKey (d.keyRaw h)

/-- A descriptor written through to memory (R143). -/
def Dev.keyPut (d : Dev) (h : Nat) (k : KeyDesc) : Dev := d.cohWrite (unitUse (keyDie h)) (d.keyAddr h) (packKey k)

/-- The cache set of a handle, within its die (R143). -/
def keySet (h : Nat) : Nat := keyDie h * 512 + field h 4 9

/-- A check meets the descriptor cache: 512 sets of 16 ways, LRU (R143). -/
def Dev.keyTouch (d : Dev) (h : Nat) : Dev :=
  let l := tabGet d.ks.cache (keySet h) []
  let d := if l.contains h then d.add rKsCacheHits 1 else (d.add rKsCacheMisses 1).touch (unitUse (keyDie h)) (d.keyAddr h) 64
  { d with ks := { d.ks with cache := tabPut d.ks.cache (keySet h) ((h :: l.filter (fun x => x != h)).take 16) } }

/-- The stored descriptor passes R128: it is all zero, or its Check field matches. A line that reads with the mark does not match. -/
def Dev.keyIntact (d : Dev) (h : Nat) : Bool :=
  let b := d.keyRaw h
  (d.firstMarked (d.keyAddr h) 64).isNone &&
    (b.all (fun x => x = 0) || crc32c (b.take 60) = fieldLe b 60 4)

/-- R128, R140: a slot becomes CORRUPT. A DESTROY of it that runs goes on to its end (R131). -/
def Dev.corruptKey (d : Dev) (h : Nat) : Dev :=
  ((d.keyPut h { d.keyAt h with state := ksCorrupt }).addSat rKsIntegrityErrors 1).raise kKeystoreIntegrity (492 + keyDie h) h

/-- A descriptor as the key-store unit of its die sees it, the Check field examined once the store is started. -/
def Dev.keyLoad (d : Dev) (h : Nat) : KeyDesc × Dev :=
  if !d.ks.started || d.keyIntact h then (d.keyAt h, d)
  else let d := d.corruptKey h; (d.keyAt h, d)

/-! ## Types and usages (Tables 05-2 and 05-3) -/

/-- The code is a key type. -/
def keyTypeOk (t : Nat) : Bool := (1 ≤ t && t ≤ 6) || (8 ≤ t && t ≤ 10)

/-- The type is an AES type. -/
def keyAes (t : Nat) : Bool := 8 ≤ t && t ≤ 10

/-- Bytes of material of a type; an AES key has its own length. -/
def materialLen (t aes : Nat) : Nat :=
  if t = 1 then 2178 else if t = 2 then 4098 else if t = 3 then 897 else if t = 4 then 1793
  else if t = 5 then 65 else if t = 6 then 97 else if keyAes t then aes else 0

/-- Bytes of the public key within a type. -/
def publicLen (t : Nat) : Nat :=
  if t = 1 || t = 3 then 897 else if t = 2 || t = 4 then 1793 else if t = 5 then 65 else if t = 6 then 97 else 0

/-- Bytes rounded up to a multiple of 8. -/
def roundUp8 (n : Nat) : Nat := (n + 7) / 8 * 8

/-- Wrapped length of a blob. -/
def wrappedLen (t aes : Nat) : Nat := roundUp8 (16 + materialLen t aes) + 8

/-- Usage bits allowed for a type. -/
def usageAllowed (t : Nat) : Nat :=
  if t = 1 || t = 2 then 0x41 else if 3 ≤ t && t ≤ 6 then 0x42
  else if t = 8 then 0x0C else if t = 9 then 0x30 else if t = 10 then 0x80 else 0

/-! ## Blobs (R138 to R140) -/

/-- What an engine derives as the package KEK at its reset (R138). -/
def Dev.packageKek (d : Dev) : List Byte := shake256 (asciiBytes [0x58, 0x53, 0x4B, 0x53] ++ d.fuses.ksSeed) 32

/-- An engine derives the package KEK into its register. -/
def Dev.deriveKek (d : Dev) (e : Nat) : Dev := d.setEng e { d.eng e with kek := d.packageKek }

/-- Blob header (Table 05-6). -/
def blobHeader (h gen t tenant owner : Nat) : List Byte :=
  leBytes 4 h ++ leBytes 2 gen ++ leBytes 1 t ++ zeros 1 ++ leBytes 4 tenant ++ leBytes 2 owner ++ zeros 2

/-- A blob: header and material, filled to a multiple of 8 and wrapped under the package KEK of engine `e` (R139). -/
def Dev.makeBlob (d : Dev) (e h gen t : Nat) (k : KeyDesc) (m : List Byte) : List Byte :=
  let p := blobHeader h gen t k.tenant k.owner ++ m
  kwWrap (d.eng e).kek (padTo (roundUp8 p.length) p)

/-- Address of a slot's blob area. -/
def Dev.blobAddr (d : Dev) (k : KeyDesc) : Nat := d.get rKsBlobBase + 16 * k.blobOff

/-- The material of a blob that unwraps on engine `e` and whose header agrees with the descriptor (R140); `gen` is the generation that
the key has when ACTIVE. -/
def Dev.openBlob (d : Dev) (e h gen : Nat) (k : KeyDesc) (blob : List Byte) : Option (List Byte) :=
  match kwUnwrap (d.eng e).kek blob with
  | none => none
  | some p =>
    if p.take 16 = blobHeader h gen k.type k.tenant k.owner then some ((p.drop 16).take (materialLen k.type k.aesLen))
    else none

/-- The wrapped blob of a slot as it is stored. -/
def Dev.blobOf (d : Dev) (k : KeyDesc) : List Byte := (d.cohRead (d.blobAddr k) k.blobLen).1

/-- R135: a PENDING slot becomes ACTIVE with a key of this type, usage, limit and material, wrapped on engine `e`. A slot that has become
CORRUPT meanwhile stays so (R128). -/
def Dev.activateKey (d : Dev) (e h t usage limit aes : Nat) (m : List Byte) : Dev :=
  let r := d.keyLoad h
  let k := r.1
  let d := r.2
  if k.state != ksPending then d
  else
    let gen := (k.gen + 1) % 2 ^ 16
    let d := d.cohWrite (unitUse (keyDie h)) (d.blobAddr k) (d.makeBlob e h gen t k m)
    d.keyPut h { k with state := ksActive, type := t, gen := gen, usage := usage, aesLen := aes, limit := limit, count := 0,
                        blobLen := wrappedLen t aes, created := d.now }

/-! ## What Sterling opcodes ask of keys (Tables 04-2 and 05-3) -/

/-- The opcode is defined. -/
def stOpcodeOk (op : Nat) : Bool :=
  [0x00, 0x10, 0x11, 0x12, 0x13, 0x14, 0x15, 0x20, 0x21, 0x30, 0x31, 0x40, 0x41, 0x50, 0x60, 0x61, 0x62, 0x63, 0x68].contains op

/-- Opcodes that appear in the journal. -/
def stJournaled (op : Nat) : Bool := [0x10, 0x11, 0x12, 0x13, 0x40, 0x41, 0x50].contains op

/-- The type that an opcode creates in its target slot. -/
def stTarget (op : Nat) : Option Nat :=
  if op = 0x10 then some 1 else if op = 0x11 then some 2 else if op = 0x60 then some 3 else if op = 0x61 then some 4
  else if op = 0x62 then some 5 else if op = 0x63 then some 6 else none

/-- The opcode may take its public key from the input. -/
def stInlineOk (op : Nat) : Bool := op = 0x14 || op = 0x15 || op = 0x20 || op = 0x21

/-- The INLINE flag. -/
def descInline (b : List Byte) : Bool := stInlineOk (descOpcode b) && bitAt (byteAt b 34) 0

/-- Type and usage bit that the opcode requires of key A; type 0 is any type with a public key. -/
def stUseA (op : Nat) : Option (Nat × Nat) :=
  if op = 0x12 then some (1, 0) else if op = 0x13 then some (2, 0) else if op = 0x14 then some (3, 1)
  else if op = 0x15 then some (4, 1) else if op = 0x20 then some (5, 1) else if op = 0x21 then some (6, 1)
  else if op = 0x40 then some (8, 2) else if op = 0x41 then some (8, 3) else if op = 0x50 then some (9, 4)
  else if op = 0x68 then some (0, 6) else none

def descKeyA (b : List Byte) : Nat := fieldLe b 28 4
def descGenA (b : List Byte) : Nat := fieldLe b 32 2
def descKeyB (b : List Byte) : Nat := fieldLe b 36 4
def descGenB (b : List Byte) : Nat := fieldLe b 40 2
def descAux (b : List Byte) : Nat := fieldLe b 44 8
def descAuxLen (b : List Byte) : Nat := fieldLe b 52 4
def descOpData (b : List Byte) : Nat := fieldLe b 56 8

/-- The job names a key in slot A. -/
def stNamesA (b : List Byte) : Bool :=
  (stTarget (descOpcode b)).isSome || ((stUseA (descOpcode b)).isSome && !descInline b)

/-- The job names a key in slot B. -/
def stNamesB (b : List Byte) : Bool := descOpcode b = 0x50

/-! Sterling status codes (Table 04-4). -/

def jsVerifyFailed : Nat := 0x40
def jsMacMismatch : Nat := 0x41
def jsPinFormat : Nat := 0x42
def jsBadKey : Nat := 0x43
def jsKeyType : Nat := 0x44
def jsKeyUsage : Nat := 0x45
def jsKeyOwner : Nat := 0x46
def jsKeyState : Nat := 0x47
def jsKeyGen : Nat := 0x48
def jsUseLimit : Nat := 0x49
def jsJournalFull : Nat := 0x4A
def jsSignExhausted : Nat := 0x4B
def jsSelfCheck : Nat := 0x4C
def jsGuardMismatch : Nat := 0x4D
def jsEntropyFailed : Nat := 0x4E
def jsSecureDown : Nat := 0x4F

/-- The first condition that holds gives the status; 0 where none does. -/
def firstFail : List (Bool × Nat) → Nat
  | [] => 0
  | (c, st) :: r => if c then st else firstFail r

/-- R133: the owner check. -/
def Dev.keyOwned (d : Dev) (i : Nat) (k : KeyDesc) : Bool :=
  k.tenant = d.get (rInstTenant i) && (bitAt k.owner 15 || k.owner % 2 ^ 12 = i)

/-- R133: the checks of a key that the job uses. -/
def Dev.useCheck (d : Dev) (i : Nat) (k : KeyDesc) (t bit gen : Nat) : Nat :=
  firstFail
    [(k.state = ksCorrupt, jsKeyState),
     (!d.keyOwned i k, jsKeyOwner),
     (k.state != ksActive, jsKeyState),
     (if t = 0 then publicLen k.type = 0 else k.type != t, jsKeyType),
     (!bitAt k.usage bit, jsKeyUsage),
     (k.gen != gen, jsKeyGen),
     (k.limit != 0 && k.limit ≤ k.count, jsUseLimit)]

/-- R133: the checks of a target slot. -/
def Dev.targetCheck (d : Dev) (i : Nat) (k : KeyDesc) (t usage gen : Nat) : Nat :=
  firstFail
    [(k.state = ksCorrupt, jsKeyState),
     (!d.keyOwned i k, jsKeyOwner),
     (k.state != ksEmpty, jsKeyState),
     (!bitAt k.typeMask t || 16 * k.blobCap < wrappedLen t 0, jsKeyType),
     (bitsClear usage k.usageMask != 0, jsKeyUsage),
     (k.gen != gen, jsKeyGen)]

/-- R92: the handle is in the instance's key range. -/
def Dev.keyInRange (d : Dev) (i h : Nat) : Bool :=
  d.get (rInstKeyBase i) ≤ h && h < d.get (rInstKeyBase i) + d.get (rInstKeyCount i)

/-- A use of a key is consumed. -/
def Dev.consumeUse (d : Dev) (h : Nat) : Dev := let k := d.keyAt h; d.keyPut h { k with count := wrapAdd 64 k.count 1 }

/-- What phase 2 answers for slot A: the status, the generation found, the handles then held. -/
structure KeyAnswer where
  status : Nat
  gen    : Nat
  holds  : List Nat
  target : Option Nat
deriving DecidableEq, Repr, Inhabited

/-- Phase 2 for slot A (R133, R134, R111). -/
def Dev.checkA (d : Dev) (i : Nat) (b : List Byte) : KeyAnswer × Dev :=
  let h := descKeyA b
  let d := d.keyTouch h
  let r := d.keyLoad h
  let k := r.1
  let d := r.2
  match stTarget (descOpcode b) with
  | some t =>
    let st := d.targetCheck i k t (descOpData b % 2 ^ 32) (descGenA b)
    if st = 0 then (⟨0, k.gen, [h], some h⟩, d.keyPut h { k with state := ksPending }) else (⟨st, k.gen, [], none⟩, d)
  | none =>
    let u := (stUseA (descOpcode b)).getD (0, 0)
    let st := d.useCheck i k u.1 u.2 (descGenA b)
    let st := if st = 0 && descOpcode b = 0x68 && descCap b < publicLen k.type then jsBadDescriptor else st
    if st = 0 then (⟨0, k.gen, [h], none⟩, d.consumeUse h) else (⟨st, k.gen, [], none⟩, d)

/-- Phase 2 for slot B of PIN_TRANSLATE: a failure returns the provisional use of slot A (R134). -/
def Dev.checkB (d : Dev) (i : Nat) (b : List Byte) : Nat × Dev :=
  let h := descKeyB b
  let d := d.keyTouch h
  let r := d.keyLoad h
  let d := r.2
  let st := d.useCheck i r.1 9 5 (descGenB b)
  if st = 0 then (0, d.consumeUse h)
  else
    let a := d.keyAt (descKeyA b)
    (st, d.keyPut (descKeyA b) { a with count := a.count - 1 })

/-- The base die whose engines present an instance's key checks: that of its first slot, and BD0 for an instance of the pool. The manual
places the check ahead of the choice of an engine. DEDUCED (log 53). -/
def Dev.keyPort (d : Dev) (i : Nat) : Nat :=
  match (d.inst i).slotMap.find? (fun x => x.isSome) with
  | some (some p) => p.1 / 16
  | _ => 0

/-- A request for a slot reaches the key-store unit of its caching die on a port (R134). -/
def Dev.ksGrant (d : Dev) (h port : Nat) : Dev := d.grantPort (arbKeyStore (keyDie h)) 5 port

/-- Phase 2 of a Sterling job: key range, slot A, slot B. Before the start the slot is found as memory holds it. DEDUCED (log 115). -/
def Dev.keyPhase (d : Dev) (i : Nat) (b : List Byte) : KeyAnswer × Dev :=
  let names := stNamesA b
  if (names && !d.keyInRange i (descKeyA b)) || (stNamesB b && !d.keyInRange i (descKeyB b)) then
    (⟨jsKeyRange, 0, [], none⟩, d)
  else if !names then (⟨0, 0, [], none⟩, d)
  else if !d.ks.started then (⟨jsKeyState, (d.keyAt (descKeyA b)).gen, [], none⟩, d)
  else
    match (d.ksGrant (descKeyA b) (d.keyPort i)).checkA i b with
    | (a, d) =>
      if a.status != 0 || !stNamesB b then (a, d)
      else
        match (d.ksGrant (descKeyB b) (d.keyPort i)).checkB i b with
        | (0, d) => ({ a with holds := [descKeyA b, descKeyB b] }, d)
        | (st, d) => (⟨st, a.gen, [], none⟩, d)

/-! ## Ends of jobs -/

/-- R130: a slot that a job claimed and that has not become ACTIVE is EMPTY again. -/
def Dev.releaseTarget (d : Dev) (x : Job) : Dev :=
  match x.target with
  | none => d
  | some h => let k := d.keyAt h; if k.state = ksPending then d.keyPut h { k with state := ksEmpty } else d

/-- The phases of a job end with a status: its record is due, and nothing of it is left but its output so far. -/
def Dev.endJob (d : Dev) (j status detail : Nat) : Dev :=
  match d.job j with
  | none => d
  | some x =>
    (d.releaseTarget x).setJob j { x with phase := phComplete, status := status, detail := detail, target := none }

/-- An access of a job fails: the job ends, and the instance halts where R89 says so. -/
def Dev.failJob (d : Dev) (j : Nat) (r : InstIo) : Dev :=
  match d.job j with
  | none => d
  | some x =>
    let d := if haltsAlways r.status then d.haltInst x.inst r.status r.addr (descTag x.desc) else d
    (d.endJob j r.status r.addr).modJob j (fun x => { x with failAddr := r.addr })

/-- KEY_CHECK (R133, R134, R128, R92): phase 2 of a Sterling job. -/
def execKeyCheck (job : Nat) (s : State) : Out :=
  occurs 133 (fun d => d.jobIs job (fun x => x.phase = phKey && d.instClass x.inst = 1))
    (fun d =>
      match d.job job with
      | none => d
      | some x =>
        match d.keyPhase x.inst x.desc with
        | (a, d) =>
          let d := d.setJob job { x with keyOk := a.status = 0, genA := a.gen, holds := a.holds, target := a.target,
                                         phase := phDispatch }
          if a.status = 0 then d else d.endJob job a.status 0) s

/-! ## The administration window (R130, R131, R137, R144, R146) -/

/-- The handle that a path has selected. -/
def Dev.keySelected (d : Dev) (p : Path) : Nat := d.selected 0x7100 p

/-- A write of the window meets R146. -/
def Dev.keyWindowBusy (d : Dev) : Bool := !d.ks.started

/-- A request of the window for a slot: port 4 of the key-store unit of its caching die (R134). -/
def Dev.keyFetch (d : Dev) (h : Nat) : KeyDesc × Dev := (d.ksGrant h 4).keyLoad h

/-- The effect of SUSPEND (true) or RESUME. -/
def Dev.ksToggle (d : Dev) (h : Nat) (suspend : Bool) : Reply :=
  let r := d.keyFetch h
  let from_ := if suspend then ksActive else ksSuspended
  let to_ := if suspend then ksSuspended else ksActive
  if d.keyWindowBusy || d.get (rKsCommand h) = cmdRunning || r.1.state != from_ then (.busy, if d.keyWindowBusy then d else r.2)
  else (.ok, (r.2.keyPut h { r.1 with state := to_ }).set (rKsCommand h) cmdDone)

/-- The effect of DESTROY. -/
def Dev.ksDestroy (d : Dev) (h : Nat) : Reply :=
  if d.keyWindowBusy || d.get (rKsCommand h) = cmdRunning then (.busy, d)
  else
    let r := d.keyFetch h
    let st := r.1.state
    if st = ksEmpty then (.ok, r.2.set (rKsCommand h) cmdDone)
    else if st = ksActive || st = ksSuspended || st = ksPartial || st = ksCorrupt then
      (.ok, (r.2.keyPut h { r.1 with state := ksErasing }).set (rKsCommand h) cmdRunning)
    else (.busy, r.2)

/-- KS_SUSPEND (R130, R131). -/
def execKsSuspend (p : Path) (s : State) : Out :=
  writeCommand p 0x7101 0x0D 1 (fun d _ => d.ksToggle (d.keySelected p) true) s

/-- KS_RESUME (R130). -/
def execKsResume (p : Path) (s : State) : Out :=
  writeCommand p 0x7101 0x0D 2 (fun d _ => d.ksToggle (d.keySelected p) false) s

/-- KS_DESTROY (R130, R131). -/
def execKsDestroy (p : Path) (s : State) : Out :=
  writeCommand p 0x7101 0x0D 3 (fun d _ => d.ksDestroy (d.keySelected p)) s

/-- A job in flight holds the slot (R131). -/
def Dev.keyHeld (d : Dev) (h : Nat) : Bool := d.jobs.any (fun x => x.2.holds.contains h)

/-- A DESTROY of the slot runs: it is ERASING, or has become CORRUPT since. -/
def Dev.erasing (d : Dev) (h : Nat) : Bool :=
  let st := (d.keyAt h).state
  st = ksErasing || (st = ksCorrupt && d.get (rKsCommand h) = cmdRunning && !d.ks.claims.any (fun c => c.1 = h))

/-- KS_ERASE_COMPLETE (R131). -/
def execKsEraseComplete (handle : Nat) (s : State) : Out :=
  occursAt 131 (handle < 1048576) (fun d => d.ks.started && d.erasing handle && !d.keyHeld handle)
    (fun d =>
      let k := d.keyAt handle
      let d := d.cohWrite (unitUse (keyDie handle)) (d.blobAddr k) (zeros (16 * k.blobCap))
      (d.keyPut handle { k with state := ksEmpty, type := 0, usage := 0, aesLen := 0, comps := 0, count := 0, limit := 0,
                                blobLen := 0, created := 0 }).set (rKsCommand handle) cmdDone) s

/-- The effect of writing `ksUseLimit` (R137). -/
def Dev.ksUseLimit (d : Dev) (h v : Nat) : Reply :=
  if d.keyWindowBusy then (.busy, d)
  else let r := d.keyFetch h; (.ok, r.2.keyPut h { r.1 with limit := v })

/-- KS_USE_LIMIT_WRITE (R137). -/
def execKsUseLimitWrite (p : Path) (value : Nat) (s : State) : Out :=
  writeCommand p 0x7101 0x06 value (fun d _ => d.ksUseLimit (d.keySelected p) value) s

/-- R144: the blob area of a slot overlaps that of another provisioned slot, or lies outside the region. -/
def Dev.blobAreaBad (d : Dev) (h : Nat) (k : KeyDesc) : Bool :=
  k.blobCap != 0 &&
    (d.get rKsBlobSize < 16 * (k.blobOff + k.blobCap) ||
     (List.range 1048576).any (fun g =>
       let o := d.keyAt g
       g != h && o.blobCap != 0 && k.blobOff < o.blobOff + o.blobCap && o.blobOff < k.blobOff + k.blobCap))

/-- A descriptor with a provisioning field written. -/
def provisioned (k : KeyDesc) (sub v : Nat) : KeyDesc :=
  if sub = 0x07 then { k with tenant := v }
  else if sub = 0x08 then { k with owner := v }
  else if sub = 0x09 then { k with usageMask := v }
  else if sub = 0x0A then { k with typeMask := v }
  else if sub = 0x0B then { k with blobOff := v }
  else if sub = 0x0C then { k with blobCap := v }
  else k

/-- The value sets a res0 bit of a provisioning field (Table 05-1, R15). -/
def provisionRes0 (sub v : Nat) : Bool :=
  (sub = 0x08 && v &&& 0x7000 != 0) || (sub = 0x0A && v &&& 0xF801 != 0)

/-- The effect of writing a provisioning sub-entry (R144): RANGE before BUSY. -/
def Dev.ksProvision (d : Dev) (h sub v : Nat) : Reply :=
  let k := provisioned (d.keyAt h) sub v
  if provisionRes0 sub v || ((sub = 0x0B || sub = 0x0C) && d.blobAreaBad h k) then (.range, d)
  else if d.keyWindowBusy then (.busy, d)
  else
    let r := d.keyFetch h
    if r.1.state != ksEmpty then (.busy, r.2) else (.ok, r.2.keyPut h (provisioned r.1 sub v))

/-- KS_PROVISION_WRITE (R144): the sub-entries 0x07 to 0x0C. -/
def execKsProvisionWrite (p : Path) (sub value : Nat) (s : State) : Out :=
  if 0x07 ≤ sub && sub ≤ 0x0C then
    writeCommand p 0x7101 sub value (fun d _ => d.ksProvision (d.keySelected p) sub value) s
  else .refused (.noSuchOperand 144)

/-- A read of the administration window; once the store is started the Check field is examined (R128). -/
def Dev.ksRead (d : Dev) (h sub : Nat) : Nat × Dev :=
  let r := if d.ks.started then d.keyFetch h else d.keyLoad h
  let k := r.1
  (if sub = 0x01 then k.state else if sub = 0x02 then k.type else if sub = 0x03 then k.gen
   else if sub = 0x04 then k.usage else if sub = 0x05 then k.count else if sub = 0x06 then k.limit
   else if sub = 0x07 then k.tenant else if sub = 0x08 then k.owner else if sub = 0x09 then k.usageMask
   else if sub = 0x0A then k.typeMask else if sub = 0x0B then k.blobOff else if sub = 0x0C then k.blobCap
   else if sub = 0x0F then k.created else d.get ⟨regKey 0x7101 h sub, 0⟩, r.2)

/-- `ksActiveKeys`: slots in ACTIVE or SUSPENDED. -/
def Dev.activeKeys (d : Dev) : Nat :=
  ((List.range 1048576).filter (fun h => let st := (d.keyAt h).state; st = ksActive || st = ksSuspended)).length

end Sys2Proof.Machine
end

