-- ==== Sys2Proof/Machine/Paths.lean ====
section
/-!
DEFINITION. How a path receives the status of a transaction that ends: the response frame of a ring request (R57, R61) and the
end of a mailbox transaction (R74); the measurement log (R409).
-/
namespace Sys2Proof.Machine

/-- The response to a request (Table 02-6): RSP set, LAST, command and sequence of the request. -/
def responseTo (f : Frame) (st : Status) (data : List Byte) : Frame :=
  { f with dest := f.src, src := f.dest, rsp := true, status := statusCode st, len := data.length, payload := data }

/-- The key of a request that a node has executing. -/
def execKey (n tag : Nat) : Nat := 512 * n + tag

/-- The response to a request is sent and remembered (R61). -/
def Dev.ringReply (d : Dev) (f : Frame) (st : Status) (data : List Byte) : Dev :=
  let r := responseTo f st data
  ({ d with ring := { d.ring with remembered := tabPut d.ring.remembered f.src r } }).sendFrame r

/-- The request that a node has executing ends. -/
def Dev.ringAnswer (d : Dev) (n tag : Nat) (st : Status) (data : List Byte) : Dev :=
  match tabFind d.ring.executing (execKey n tag) with
  | none => d
  | some f =>
    ({ d with ring := { d.ring with executing := tabErase d.ring.executing (execKey n tag) } }).ringReply f st data

/-- The transaction of a mailbox page ends (R74). -/
def Dev.mailboxEnd (d : Dev) (w : World) (st : Status) (data : List Byte) : Dev :=
  let m := d.mailbox w
  if !m.busy then d
  else
    let c := m.cmd % 8
    let got := st = .ok && (c = 1 || c = 3)
    let d := d.setMailbox w { m with
      busy := false, code := statusCode st,
      xfer := if got then m.xfer / 2 ^ 16 * 2 ^ 16 + data.length else m.xfer,
      data := if got then spliceBytes m.data 0 data else m.data }
    if bitAt m.irqen 0 then d.pendWired (1 + worldBit w) else d

/-- A transaction of a path that did not end at once ends. -/
def Dev.answerPath (d : Dev) (p : Path) (tag : Nat) (st : Status) (data : List Byte) : Dev :=
  let d := d.respond p st data
  match p with
  | .ring n => d.ringAnswer n tag st data
  | .mailbox w => d.mailboxEnd w st data

/-! ## Measurement log (R409, R410) -/

/-- The head before the first entry. -/
def Dev.measGenesis (d : Dev) : List Byte :=
  shake256 (asciiBytes [0x58, 0x53, 0x4D, 0x4C] ++ leBytes 8 (d.get (rDieSerial 16))) 32

/-- The head of the log. -/
def Dev.measHead (d : Dev) : List Byte := d.dom domMeasHead d.measGenesis

/-- The log has room for an entry. -/
def Dev.measRoom (d : Dev) : Bool := d.get rMeasCount < 1024

/-- An entry joins the log. -/
def Dev.measAppend (d : Dev) (kind slot version : Nat) (digest : List Byte) : Dev :=
  let e := measEntry (d.get rMeasCount) kind slot version d.now digest
  let head := shake256 (d.measHead ++ e) 32
  ((d.setDom domMeasLog (d.dom domMeasLog [] ++ e)).setDom domMeasHead head).set rMeasCount (d.get rMeasCount + 1)

/-! ## Management work (R102, R451) -/

/-- The journal state of a base die. -/
def Dev.jnRunning (d : Dev) (b : Nat) : Bool := d.get (rJnState b) = 1

/-- The engine that holds the management slot of a base die. -/
def Dev.mgmtEngine (d : Dev) (b : Nat) : Option Nat :=
  ((List.range 16).map (fun j => 16 * b + j)).find? (fun e => d.slot e 15 = .mgmt)

/-- The work is journaled. -/
def MgmtKind.journaled : MgmtKind → Bool
  | .session _ _ => false
  | .import_ _ => true
  | .checkpoint _ => true
  | .attest _ => true
  | .bootSlot => false
  | .ucode _ => false

/-- The management slot of a base die may take work. -/
def Dev.mgmtUsable (d : Dev) (b : Nat) (journaled : Bool) : Bool :=
  match d.mgmtEngine b with
  | none => false
  | some e => d.engUp e && (tabFind d.attKeys e).isSome && (!journaled || d.jnRunning b)

/-- Pieces queued or running on a base die's management slot. -/
def Dev.mgmtLoad (d : Dev) (b : Nat) : Nat := (d.mgmt.filter (fun w => w.die = b)).length

/-- The usable slot with the fewest pieces; ties go to the lowest base die. -/
def Dev.mgmtChoose (d : Dev) (journaled : Bool) : Option Nat :=
  ((List.range 4).filter (fun b => d.mgmtUsable b journaled)).foldl (fun best b =>
    match best with
    | none => some b
    | some c => if d.mgmtLoad b < d.mgmtLoad c then some b else some c) none

/-- A piece of work goes to the slot that R451 chooses. -/
def Dev.mgmtAdd (d : Dev) (kind : MgmtKind) (data : List Byte) (restarted : Bool) (fails : Nat) : Option Dev :=
  (d.mgmtChoose kind.journaled).map (fun b =>
    { d with mgmt := d.mgmt ++ [{ kind := kind, die := b, data := data, restarted := restarted, seq := none,
                                  deadline := 0, out := [], status := 0, fails := fails }] })

/-- The piece that runs on a base die's slot. -/
def Dev.mgmtFront (d : Dev) (b : Nat) : Option MgmtWork := d.mgmt.find? (fun w => w.die = b)

/-- The running piece of a base die leaves its slot. -/
def Dev.mgmtPop (d : Dev) (b : Nat) : Dev := { d with mgmt := dropFirst (fun w => w.die = b) d.mgmt }

/-- The running piece of a base die changes. -/
def modFirst (b : Nat) (f : MgmtWork → MgmtWork) : List MgmtWork → List MgmtWork
  | [] => []
  | w :: r => if w.die = b then f w :: r else w :: modFirst b f r

/-- The path of a path number. -/
def numPath (n : Nat) : Path := if n < 16 then .ring n else if n = 16 then .mailbox .normal else .mailbox .tantalum

/-- An import is refused after its claim: the slot has the state it had before (Table 05-5, R145), but for one
that has become CORRUPT meanwhile (R128). -/
def Dev.importRefused (d : Dev) (h err : Nat) : Dev :=
  let d := match d.ks.claims.find? (fun c => c.1 = h) with
    | some c => if (d.keyAt h).state = ksPending then d.keyPut h { d.keyAt h with state := c.2 } else d
    | none => d
  let d := { d with ks := { d.ks with claims := d.ks.claims.filter (fun c => c.1 != h) } }
  (d.set (rKsImportError h) err).set (rKsCommand h) cmdRefused

/-- A checkpoint is not taken: its number stays unused and its trigger is tried again (R151, R152). -/
def Dev.ckMissed (d : Dev) (trigger : Nat) : Dev :=
  let d := d.addSat rCkMissed 1
  let d := if d.get rCkCommand = cmdRunning then d.set rCkCommand cmdRefused else d
  { d with ck := { d.ck with retry := true, retryTrigger := trigger, lastTime := d.now } }

/-- The commit of `sessionOpen` under a number. -/
def Dev.openingOf (d : Dev) (id : Nat) : Option Opening := d.ring.opening.find? (fun o => o.id = id)

/-- The commit of `sessionOpen` in verification under a number ends with a status. -/
def Dev.endOpening (d : Dev) (id : Nat) (st : Status) : Dev :=
  match d.openingOf id with
  | none => d
  | some o =>
    ({ d with ring := { d.ring with opening := d.ring.opening.filter (fun o => o.id != id) } }).answerPath (.ring o.node) o.tag st []

/-- Work that no slot can finish ends (R451). -/
def Dev.mgmtFail (d : Dev) (w : MgmtWork) : Dev :=
  match w.kind with
  | .session _ id => d.endOpening id .busy
  | .import_ h => d.importRefused h 8
  | .checkpoint t => d.ckMissed t
  | .attest _ => d.set rAttCommand cmdRefused
  | .bootSlot => { d.set rBootCommand cmdRefused with boot := { d.boot with activating := false } }
  | .ucode e => (d.setEng e { d.eng e with task := .none, command := false }).set (rEngCommand e) cmdRefused

/-- The verification for an engine's UPDATE is dropped. -/
def Dev.dropUcode (d : Dev) (e : Nat) : Dev := { d with mgmt := d.mgmt.filter (fun w => w.kind != MgmtKind.ucode e) }

/-- The running piece of a base die's slot is in execution, and `f` holds of its kind. -/
def Dev.mgmtRuns (d : Dev) (b : Nat) (f : MgmtKind → Bool) : Bool :=
  match d.mgmtFront b with
  | some w => f w.kind && w.seq.isNone && d.mgmtUsable b w.kind.journaled
  | none => false

/-- The work of a base die whose slot leaves service: what has its journal record finishes; the rest starts again elsewhere. -/
def Dev.mgmtRehome (d : Dev) (b : Nat) : Dev :=
  let moved := d.mgmt.filter (fun w => w.die = b && w.seq.isNone)
  let running := d.mgmtFront b
  let d := { d with mgmt := d.mgmt.filter (fun w => !(w.die = b && w.seq.isNone)) }
  moved.foldl (fun d w =>
    match d.mgmtAdd w.kind w.data (w.restarted || running = some w) w.fails with
    | some d => d
    | none => d.mgmtFail w) d

end Sys2Proof.Machine
end

