-- ==== Sys2Proof/Machine/Slots.lean ====
section
/-!
DEFINITION. Engine slots: placement (R103, R108), moves when an engine leaves service (R105), management slots (R102), and what
becomes of the jobs of an engine that leaves (R93, R106).
-/
namespace Sys2Proof.Machine

/-! ## Placement (R103, R108, R360) -/

/-- The free slots of an engine, lowest first. -/
def Dev.freeSlots (d : Dev) (e : Nat) : List Nat :=
  (List.range (classSlots (engClass e))).filter (fun s => d.slot e s = .free)

/-- The engines of an instance's class in clusters of its world. -/
def Dev.worldEngines (d : Dev) (i : Nat) : List Nat :=
  (classEngines (d.instClass i)).filter (fun e => d.blockWorld (engCluster e) = d.instWorld i)

/-- The engine with the most free slots; ties go to the lowest number. -/
def Dev.mostFree (d : Dev) (l : List Nat) : Option Nat :=
  l.foldl (fun best e =>
    match best with
    | none => some e
    | some b => if (d.freeSlots b).length < (d.freeSlots e).length then some e else some b) none

/-- R103: the place of one slot among the candidates, for an instance whose slots stand at `mine`. -/
def Dev.placeSlot (d : Dev) (cands : List Nat) (mine : List (Nat × Nat)) : Option (Nat × Nat) :=
  let c := cands.filter (fun e => d.get (rEngState e) = stActive && !(d.freeSlots e).isEmpty)
  let fresh := c.filter (fun e => !(mine.any (fun m => m.1 = e)))
  match d.mostFree (if fresh.isEmpty then c else fresh) with
  | none => none
  | some e => ((d.freeSlots e).head?).map (fun s => (e, s))

/-- The engines of a base die's Sterling cluster. -/
def dieEngines (b : Nat) : List Nat := (List.range 16).map (fun j => 16 * b + j)

/-- `n` slots placed one at a time; none where one finds no place. -/
def Dev.placeMany (i : Nat) : Nat → Dev → List (Nat × Nat) → Option (List (Nat × Nat) × Dev)
  | 0, d, mine => some (mine, d)
  | n + 1, d, mine =>
    match d.placeSlot (d.worldEngines i) mine with
    | none => none
    | some p => Dev.placeMany i n (d.setSlot p.1 p.2 (.inst i)) (mine ++ [p])

/-- `n` guarded pairs placed, the partner on the base die of the primary's number XOR 1 (R108). -/
def Dev.placePairs (i : Nat) : Nat → Dev → List (Nat × Nat) → Option (List (Nat × Nat) × Dev)
  | 0, d, mine => some (mine, d)
  | n + 1, d, mine =>
    match d.placeSlot (d.worldEngines i) mine with
    | none => none
    | some p =>
      let d := d.setSlot p.1 p.2 (.inst i)
      let near := (d.worldEngines i).filter (fun e => (dieEngines ((p.1 / 16) ^^^ 1)).contains e)
      match d.placeSlot near (mine ++ [p]) with
      | none => none
      | some q => Dev.placePairs i n (d.setSlot q.1 q.2 (.inst i)) (mine ++ [p, q])

/-- The instance runs guarded (R107). -/
def Dev.guarded (d : Dev) (i : Nat) : Bool := d.instClass i = 1 && d.flag (rStGuarded i)

/-- The slots of an instance placed at CREATE. -/
def Dev.placeInst (d : Dev) (i : Nat) : Option (List (Nat × Nat) × Dev) :=
  let n := d.get (rInstSlots i)
  if d.guarded i then Dev.placePairs i (n / 2) d [] else Dev.placeMany i n d []

/-! ## Moves (R105) -/

/-- A move of an instance's position has not completed. -/
def Dev.moving (d : Dev) (i pos : Nat) : Bool := d.moves.any (fun m => m.inst = i && m.pos = pos)

/-- The slot waits to become a management slot. -/
def Dev.slotPromised (d : Dev) (e s : Nat) : Bool := d.moves.any (fun m => m.inst = 0xFFFE && m.place = (e, s))

/-- The position of an instance's slot: that of a pending move to it, else that of the slot map. -/
def Dev.slotPos (d : Dev) (i e s : Nat) : Option Nat :=
  match d.moves.find? (fun m => m.inst = i && m.place = (e, s)) with
  | some m => some m.pos
  | none => (d.inst i).slotMap.findIdx? (fun x => x = some (e, s))

/-- The places that an instance's slots hold or move to. -/
def Dev.placesOf (d : Dev) (i : Nat) : List (Nat × Nat) :=
  ((d.inst i).slotMap.mapIdx (fun pos x =>
    match d.moves.find? (fun m => m.inst = i && m.pos = pos) with
    | some m => some m.place
    | none => x)).filterMap (fun x => x)

/-- The partner's position in a guarded pair: positions 2k and 2k + 1. -/
def partnerPos (pos : Nat) : Nat := pos ^^^ 1

/-- Where the partner of a guarded position is placed. -/
def Dev.partnerPlace (d : Dev) (i pos : Nat) : Option (Nat × Nat) :=
  match d.moves.find? (fun m => m.inst = i && m.pos = partnerPos pos) with
  | some m => some m.place
  | none => ((d.inst i).slotMap.getD (partnerPos pos) none)

/-- R105: a reserved slot leaves its engine: a new place is decided, or the slot stays unplaced. -/
def Dev.moveSlot (d : Dev) (i e s : Nat) : Dev :=
  match d.slotPos i e s with
  | none => d.setSlot e s .free
  | some pos =>
    let d := { d.setSlot e s .free with moves := d.moves.filter (fun m => !(m.inst = i && m.pos = pos)) }
    let all := (d.worldEngines i).filter (fun x => x != e)
    let cands := if d.guarded i then
        match d.partnerPlace i pos with
        | some q => all.filter (fun x => (dieEngines ((q.1 / 16) ^^^ 1)).contains x)
        | none => all
      else all
    match d.placeSlot cands (d.placesOf i) with
    | some p =>
      let d := d.setSlot p.1 p.2 (.inst i)
      { d with moves := d.moves ++ [{ eng := e, inst := i, pos := pos, place := p }] }
    | none =>
      let x := d.inst i
      let d := d.setInst i { x with slotMap := x.slotMap.set pos none }
      d.set rStSlotsUnplaced (d.get rStSlotsUnplaced + 1)

/-- A die's management slot takes slot 15 of an engine; an instance that held it moves. The attestation key is derived again
there (R411). -/
def Dev.takeMgmtSlot (d : Dev) (e : Nat) : Dev :=
  let d := match d.slot e 15 with
    | .inst i => d.moveSlot i e 15
    | _ => d
  let d := d.setSlot e 15 .mgmt
  { d with attKeys := tabErase d.attKeys e }

/-- The lowest-numbered ACTIVE engine of a base die, other than `e`. -/
def Dev.lowestActive (d : Dev) (b e : Nat) : Option Nat :=
  (dieEngines b).find? (fun x => x != e && d.get (rEngState x) = stActive)

/-- A die without a management slot takes one on engine `e`: at once where slot 15 holds no job, else when its job ends. -/
def Dev.giveMgmtSlot (d : Dev) (b e : Nat) : Dev :=
  if d.slotIdle e 15 then d.takeMgmtSlot e
  else { d with moves := d.moves ++ [{ eng := e, inst := 0xFFFE, pos := b, place := (e, 15) }] }

/-- The base die of a Sterling engine has a management slot, or waits for one. -/
def Dev.hasMgmtSlot (d : Dev) (b : Nat) : Bool :=
  (d.mgmtEngine b).isSome || d.moves.any (fun m => m.inst = 0xFFFE && m.pos = b)

/-- R105: the slots of an engine that leaves service move. -/
def Dev.moveSlots (d : Dev) (e : Nat) : Dev :=
  let d := { d with moves := d.moves.filter (fun m => !(m.inst = 0xFFFE && m.place.1 = e)) }
  let had := e < 64 && d.slot e 15 = .mgmt
  let d := if had then
      let d := d.setSlot e 15 .free
      { d with attKeys := tabErase d.attKeys e }
    else d
  let d := (List.range (classSlots (engClass e))).foldl (fun d s =>
    match d.slot e s with
    | .inst i => d.moveSlot i e s
    | _ => d) d
  if e < 64 && !d.hasMgmtSlot (e / 16) then
    let d := match d.lowestActive (e / 16) e with
      | some x => d.giveMgmtSlot (e / 16) x
      | none => d
    if had then d.mgmtRehome (e / 16) else d
  else d

/-! ## Jobs of an engine that leaves (R93, R106) -/

/-- The job is on an engine. -/
def Job.onEngine (x : Job) (e : Nat) : Bool :=
  (match x.slot with
   | some p => p.1 = e
   | none => false) ||
  (match x.partner with
   | some p => p.1 = e
   | none => false)

/-- A job goes back to dispatch, to restart from its beginning; what its key checks gave it stays (R134). -/
def Job.restart (x : Job) : Job :=
  { x with phase := phDispatch, slot := none, partner := none, input := [], aux := [], rand := [], opDone := false,
           status := 0, detail := 0, out := [], written := 0, attempts := 0, result := 0, ctxOut := [],
           blobA := [], blobB := [], seen := [] }

/-- R93: the jobs on an engine in their execute phase or before it restart elsewhere. -/
def Dev.restartJobs (d : Dev) (e : Nat) : Dev :=
  d.jobs.foldl (fun d p =>
    let x := p.2
    if x.onEngine e && (x.phase = phStage || x.phase = phExecute) then
      ((d.setJob p.1 { x.restart with avoid := if x.avoid.contains e then x.avoid else x.avoid ++ [e] }).addWrap32
        (rEngRestarts e)).countEvent (engGroup e) 6 1 (some (d.instWorld x.inst))
    else d) d

/-- An engine leaves service at once: its jobs restart, its slots move, nothing of it goes on (R105, R106). -/
def Dev.engineOut (d : Dev) (e st : Nat) : Dev :=
  let d := d.set (rEngState e) st
  let d := d.setEng e { d.eng e with task := .none, newVer := 0 }
  let d := if (d.eng e).command then (d.set (rEngCommand e) cmdRefused).setEng e { d.eng e with command := false } else d
  ((d.dropUcode e).restartJobs e).moveSlots e

/-- A self-test of an engine begins (R106, R110). -/
def Dev.startSelfTest (d : Dev) (e : Nat) : Dev := d.setEng e { d.eng e with task := .selfTest }

/-- R110, R119: an engine is fenced and self-tested. -/
def Dev.fenceAndTest (d : Dev) (e : Nat) : Dev := (d.engineOut e stFenced).startSelfTest e

/-- The counts and the test result of an engine's object stand at their defaults after its reset (R48). -/
def Dev.engObjectReset (d : Dev) (e : Nat) : Dev :=
  let d := (d.set (rEngJobs e) 0).set (rEngRestarts e) 0
  if e < 64 then d.set (rStEngSelfTest e) 0 else d

/-- An engine is reset and self-tested (R93, R106, Table 19-7): its slot registers, keys and tables are cleared, its jobs restart
elsewhere, and it derives the package KEK (R138); it keeps its slots, and a management slot derives its key again (R411). -/
def Dev.engineReset (d : Dev) (e : Nat) : Dev :=
  let d := ((((d.dropUcode e).set (rEngState e) stReset).restartJobs e).engObjectReset e).deriveKek e
  let d := { d with attKeys := tabErase d.attKeys e, tcache := d.tcache.filter (fun p => p.1 != e) }.clearGroup (engGroup e)
  let d := if (d.eng e).command then d.set (rEngCommand e) cmdRefused else d
  let d := d.setEng e { d.eng e with task := .none, command := false, newVer := 0 }
  let d := if e < 64 && d.slot e 15 = .mgmt then d.mgmtRehome (e / 16) else d
  d.startSelfTest e

/-- ENGINE_FAILURE (R93): the engine has failed or is in reset, and what it held restarts. -/
def execEngineFailure (eng : Nat) (why : EngineLoss) (s : State) : Out :=
  occursAt 93 (eng < 88) (fun d => d.get (rEngState eng) != stOff)
    (fun d =>
      match why with
      | .failed => (d.engineOut eng stFailed).raise kEngineSelfTest (engSource eng) 0
      | .reset => d.engineReset eng) s

/-- SLOT_MOVE_COMPLETE (R105): the moves decided when an engine left complete. A management slot takes its slot 15 when the
job there has ended. -/
def execSlotMoveComplete (eng : Nat) (s : State) : Out :=
  occursAt 105 (eng < 88)
    (fun d => d.moves.any (fun m => m.eng = eng) &&
      (d.moves.filter (fun m => m.eng = eng && m.inst = 0xFFFE)).all (fun m => d.slotIdle m.place.1 m.place.2))
    (fun d =>
      let l := d.moves.filter (fun m => m.eng = eng)
      let d := { d with moves := d.moves.filter (fun m => m.eng != eng) }
      l.foldl (fun d m =>
        if m.inst = 0xFFFE then d.takeMgmtSlot m.place.1
        else
          let x := d.inst m.inst
          d.setInst m.inst { x with slotMap := x.slotMap.set m.pos (some m.place) }) d) s

end Sys2Proof.Machine
end

