-- ==== Sys2Proof/Machine/Journal.lean ====
section
/-!
DEFINITION. The DRBGs (R122 to R124), the four journals (R147 to R150), checkpoints (R151, R152), imports (R145, R452), the
start of the key store (R146), and the read-out instances (R153, R154).
-/
namespace Sys2Proof.Machine

/-! ## DRBGs (R123, R124) -/

/-- The source of a base die is HEALTHY. -/
def Dev.esHealthy (d : Dev) (b : Nat) : Bool := d.get (rEsState b) = 1

/-- The base die whose DRBG serves the engines of base die `b`. -/
def Dev.drbgServing (d : Dev) (b : Nat) : Option Nat :=
  ((List.range 4).map (fun k => (b + k) % 4)).find? (fun k => (d.drbg k).serving)

/-- `drbgSource` (Table 04-9). -/
def Dev.drbgSourceNow (d : Dev) (b : Nat) : Nat := (d.drbgServing b).getD 4

/-- 512 bits of conditioned entropy go into a DRBG; what a source gives is a free value. -/
def Dev.drbgSeed (d : Dev) (b : Nat) : Dev :=
  let x := d.drbg b
  let r := d.takeBytes 64
  let k := ctrSeed x.key x.v r.1
  r.2.setDrbg b { ready := true, serving := true, calls := 0, lastSeed := d.now, key := k.1, v := k.2 }

/-- The reseed point of a DRBG: it reseeds while its source is HEALTHY, else it stops serving (R123). -/
def Dev.drbgPoint (d : Dev) (b : Nat) : Dev :=
  if d.esHealthy b then (d.drbgSeed b).add (rDrbgReseeds b) 1 else d.setDrbg b { d.drbg b with serving := false }

/-- One generate call for an engine of base die `b`; none where no DRBG serves. -/
def Dev.drbgDraw (d : Dev) (b n : Nat) : Option (List Byte × Dev) :=
  match d.drbgServing b with
  | none => none
  | some k =>
    let x := d.drbg k
    let g := ctrGenerate x.key x.v n
    let d := d.setDrbg k { x with calls := x.calls + 1, key := g.2.1, v := g.2.2 }
    some (g.1, if d.get (rDrbgReseedCalls k) ≤ x.calls + 1 then d.drbgPoint k else d)

/-! ## Records (Table 05-12) -/

/-- The fields of a journal record that do not come from the journal itself. -/
structure JnFields where
  inst    : Nat
  op      : Nat
  status  : Nat
  tenant  : Nat
  keyA    : Nat
  genA    : Nat
  genB    : Nat
  keyB    : Nat
  /-- RESTARTED, GUARDED and the signing attempts -/
  restarted : Bool
  guarded : Bool
  attempts : Nat
  input   : List Byte
  /-- what would be released; empty where the status is not OK -/
  output  : List Byte
deriving DecidableEq, Repr, Inhabited

/-- Bytes 0 to 95 of a record of journal `b`. -/
def jnBody (b seq time : Nat) (f : JnFields) : List Byte :=
  let flags := boolNat f.restarted * 32 + boolNat f.guarded * 16 + f.attempts % 4 * 4 + b % 4
  leBytes 8 seq ++ leBytes 8 time ++ leBytes 2 f.inst ++ leBytes 1 f.op ++ leBytes 1 f.status ++ leBytes 4 f.tenant
    ++ leBytes 4 f.keyA ++ leBytes 2 f.genA ++ leBytes 2 f.genB ++ leBytes 4 f.keyB ++ leBytes 1 flags ++ zeros 3
    ++ leBytes 4 f.input.length ++ leBytes 4 f.output.length ++ shake256 f.input 24 ++ shake256 f.output 24

/-- R147: the chain value before record 0. -/
def Dev.jnGenesis (d : Dev) (b start : Nat) : List Byte :=
  shake256 (asciiBytes [0x58, 0x53, 0x4A, 0x4E] ++ leBytes 8 (d.get (rDieSerial 16)) ++ leBytes 1 b ++ leBytes 8 start) 32

/-- The chain value of the last record appended, or the genesis value. -/
def Dev.jnHead (d : Dev) (b : Nat) : List Byte :=
  if d.get (rJnNextSeq b) = 0 then (d.journal b).genesis else d.dom (domJnHead b) (zeros 32)

/-- Entries of a journal ring. -/
def Dev.jnSize (d : Dev) (b : Nat) : Nat := 2 ^ d.get (rJnRingLog2 b)

/-- Records in the ring, read out or not. -/
def Journal.visible (x : Journal) : Nat :=
  match x.ringSeq with
  | some n => n + 1
  | none => 0

/-- `jnFill`: records in the ring not yet read out. -/
def Journal.fill (x : Journal) : Nat := x.visible - x.freed

/-! ## Checkpoints (R151, R152) -/

/-- Entries of the checkpoint ring. -/
def Dev.ckSize (d : Dev) : Nat := 2 ^ d.get rCkRingLog2

/-- A checkpoint is being signed, or its record is not yet in its ring. -/
def Dev.ckBusy (d : Dev) : Bool :=
  d.mgmt.any (fun w => match w.kind with
    | .checkpoint _ => true
    | _ => false)

/-- The last sequence of a journal as a checkpoint latches it: that of the last record written where the journal is CLOSED. -/
def Dev.jnLast (d : Dev) (b : Nat) : Option Nat :=
  if d.get (rJnState b) = 2 then (d.journal b).ringSeq
  else if d.get (rJnNextSeq b) = 0 then none else some (d.get (rJnNextSeq b) - 1)

/-- The 48 bytes of journal `b` in a checkpoint (Table 05-14). -/
def Dev.ckPart (d : Dev) (b : Nat) : List Byte :=
  let x := d.journal b
  match d.jnLast b with
  | none => leBytes 8 0xFFFF_FFFF_FFFF_FFFF ++ leBytes 8 0 ++ x.genesis
  | some n =>
    leBytes 8 n ++ leBytes 8 (n + 1 - tabGet d.ck.covered b 0) ++ (if d.get (rJnState b) = 2 then x.ringHead else d.jnHead b)

/-- Bit *j* is set where journal *j* is CLOSED. -/
def Dev.ckClosed (d : Dev) : Nat := (List.range 4).foldl (fun v b => if d.get (rJnState b) = 2 then bitSet v b else v) 0

/-- Bytes 0 to 255 of a checkpoint. -/
def Dev.ckBody (d : Dev) (trigger time : Nat) : List Byte :=
  leBytes 8 (d.get rCkNumber) ++ leBytes 8 time ++ leBytes 1 trigger ++ leBytes 1 d.ckClosed ++ zeros 6
    ++ leBytes 8 (d.get (rDieSerial 16)) ++ (if d.get rCkNumber = 0 then zeros 32 else d.ck.prevHash)
    ++ (List.range 4).flatMap d.ckPart

/-- Bytes 0 to 255 of checkpoint 0, as latched at the start: no journal has a record (R146, R147); one CLOSED since is shown as such
(R150). -/
def Dev.ckZero (d : Dev) : List Byte :=
  leBytes 8 0 ++ leBytes 8 d.ck.startTime ++ leBytes 1 0 ++ leBytes 1 d.ckClosed ++ zeros 6 ++ leBytes 8 (d.get (rDieSerial 16)) ++ zeros 32
    ++ (List.range 4).flatMap (fun b => if d.get (rJnState b) = 2 then d.ckPart b
      else leBytes 8 0xFFFF_FFFF_FFFF_FFFF ++ leBytes 8 0 ++ (d.journal b).genesis)

/-- The records since the last checkpoint are counted afresh. -/
def Dev.ckLatched (d : Dev) : Dev :=
  (List.range 4).foldl (fun d b => d.setJournal b { d.journal b with sinceCk := 0 }) d

/-- A trigger (R151): the checkpoint is latched and goes to a management slot, or is not taken (R152, R451). Checkpoint 0
keeps the trigger START and the latch of the start; the first after a time without the secure side has RESUMED. -/
def Dev.ckTrigger (d : Dev) (trigger : Nat) : Dev :=
  if !d.ks.started || d.ckBusy then d
  else if d.secureDown then
    let d := if d.get rCkCommand = cmdRunning then d.set rCkCommand cmdRefused else d
    { d with ck := { d.ck with wasDown := true, lastTime := d.now } }
  else if d.ckSize ≤ d.get rCkNumber - d.ck.freed then d.ckMissed trigger
  else
    let zero := d.get rCkNumber = 0
    let trigger := if zero then 0 else if d.ck.wasDown then 4 else trigger
    let body := if zero then d.ckZero else d.ckBody trigger d.now
    let d := d.ckLatched
    match d.mgmtAdd (.checkpoint trigger) body false 0 with
    | none => d.ckMissed trigger
    | some d => { d with ck := { d.ck with lastTime := fieldLe body 8 8, retry := false } }

/-- R151: a journal has reached `ckRecordInterval` records since the last checkpoint. A missed trigger waits for its time. -/
def Dev.ckCount (d : Dev) : Dev :=
  if !d.ck.retry && !d.ckBusy && (List.range 4).any (fun b => d.get rCkRecordInterval ≤ (d.journal b).sinceCk) then
    d.ckTrigger 1
  else d

/-- The checkpoint of a recorded signature is written (R151). -/
def Dev.ckWrite (d : Dev) (body sig : List Byte) : Dev :=
  let ck := body ++ sig
  let n := d.get rCkNumber
  let d := d.cohWrite (unitUse 0) (d.get rCkRingBase + 2048 * (n % d.ckSize)) (padTo 2048 ck)
  let d := (d.setDom domCkLast ck).set rCkNumber (n + 1)
  let d := if d.get rCkCommand = cmdRunning then d.set rCkCommand cmdDone else d
  let cov := (List.range 4).foldl (fun t b => tabPut t b ((fieldLe body (64 + 48 * b) 8 + 1) % 2 ^ 64)) d.ck.covered
  let d := { d with ck := { d.ck with prevHash := shake256 ck 32, covered := cov, wasDown := false } }
  d.ckCount

/-! ## Append (R147, R148) -/

/-- A record joins journal `b`: its sequence number, and the device. -/
def Dev.jnAppend (d : Dev) (b : Nat) (f : JnFields) (slots : List (Nat × Nat)) : Nat × Dev :=
  let n := d.get (rJnNextSeq b)
  let body := jnBody b n d.now f
  let chain := shake256 (d.jnHead b ++ body) 32
  let x := d.journal b
  let d := d.setJournal b { x with
    staged := x.staged ++ [{ seq := n, bytes := body ++ chain, issued := false, slots := slots }], sinceCk := x.sinceCk + 1 }
  (n, (d.setDom (domJnHead b) chain).set (rJnNextSeq b) (n + 1))

/-- The time at which a record appended now has stalled (R149). -/
def Dev.jnDeadline (d : Dev) (b : Nat) : Nat := d.inUs (d.get (rJnStallTime b))

/-- The record that the staging buffer writes next: the oldest not issued, into an entry that read-out has freed (R148). -/
def Dev.jnNext (d : Dev) (b : Nat) : Option StagedRec :=
  match (d.journal b).staged.find? (fun r => !r.issued) with
  | some r => if r.seq < (d.journal b).freed + d.jnSize b then some r else none
  | none => none

/-- JOURNAL_RING_WRITE (R148): the write of the next record is issued. -/
def execJournalRingWrite (b : Nat) (s : State) : Out :=
  occursAt 148 (b < 4) (fun d => (d.jnNext b).isSome)
    (fun d =>
      match d.jnNext b with
      | none => d
      | some r =>
        let x := d.journal b
        d.setJournal b { x with staged := x.staged.map (fun y => if y.seq = r.seq then { y with issued := true } else y) }) s

/-! ## What a record releases (R5) -/

/-- The type of key that a key-generation opcode creates. -/
def keygenType (op : Nat) : Option Nat := if op = 0x10 then some 1 else if op = 0x11 then some 2 else none

/-- The record of a job is in its ring: a generated key becomes ACTIVE (Table 05-5), and the output may be written. -/
def Dev.jobRecorded (d : Dev) (j : Nat) (x : Job) : Dev :=
  let d := d.modJob j (fun y => { y with result := match x.journal with
    | some p => p.1 + 1
    | none => 0 })
  if x.status != jsOk then d.endJob j x.status x.detail
  else
    let d := match keygenType (descOpcode x.desc), x.target with
      | some t, some h =>
        d.activateKey (x.slot.getD (0, 0)).1 h t (descOpData x.desc % 2 ^ 8) (descOpData x.desc / 2 ^ 32 % 2 ^ 32) 0 x.blobA
      | _, _ => d
    d.modJob j (fun y => { y with phase := phOutput, target := none })

/-- The result of an accepted import (Table 05-8): the image's fields and the material go into the slot, wrapped on engine `e`. -/
def Dev.importPut (d : Dev) (e h : Nat) (img m : List Byte) : Dev :=
  let t := byteAt img 1
  let usage := byteAt img 2
  let limit := fieldLe img 4 4
  let comp := byteAt img 0 = 2
  let k := d.keyAt h
  let n := if comp then k.comps + 1 else 0
  let aes := if keyAes t then m.length else 0
  let d := if comp && !bitAt (byteAt img 3) 0 then
      let d := d.cohWrite (unitUse (keyDie h)) (d.blobAddr k) (d.makeBlob e h ((k.gen + 1) % 2 ^ 16) t k m)
      d.keyPut h { k with state := ksPartial, type := t, usage := usage, limit := limit, aesLen := aes, comps := n,
                          blobLen := wrappedLen t aes }
    else (d.keyPut h { k with comps := n }).activateKey e h t usage limit aes m
  let d := { d with ks := { d.ks with claims := d.ks.claims.filter (fun c => c.1 != h) } }
  (d.set (rKsImportError h) 0).set (rKsCommand h) cmdDone

/-- An import ends well where its slot is still PENDING. One that has become CORRUPT meanwhile stays so, and the import reads REFUSED
with error 2, for a state that allows none (R128). DEDUCED (log 65). -/
def Dev.importApply (d : Dev) (e h : Nat) (img m : List Byte) : Dev :=
  let r := d.keyLoad h
  if r.1.state = ksPending then r.2.importPut e h img m else r.2.importRefused h 2

/-- The record of a piece of management work is in its ring. -/
def Dev.mgmtRecorded (d : Dev) (w : MgmtWork) : Dev :=
  match w.kind with
  | .import_ h => if w.status = jsOk then d.importApply ((d.mgmtEngine w.die).getD (16 * w.die)) h w.data w.out else d.importRefused h 6
  | .checkpoint t => if w.status = jsOk then d.ckWrite w.data w.out else d.ckMissed t
  | .attest p =>
    if w.status = jsOk then (d.setDom (domAttReport (numPath p)) (w.data ++ w.out)).set rAttCommand cmdDone
    else d.set rAttCommand cmdRefused
  | _ => d

/-- The record of a piece of management work has stalled (R145, R151, R412). -/
def Dev.mgmtStalled (d : Dev) (w : MgmtWork) : Dev :=
  match w.kind with
  | .import_ h => d.importRefused h 8
  | .checkpoint t => d.ckMissed t
  | .attest _ => d.set rAttCommand cmdRefused
  | _ => d

/-- The job waits in phase 6 for a record. -/
def Job.awaits (x : Job) (b seq : Nat) : Bool := x.phase = phJournal && x.journal = some (b, seq)

/-- The job that waits for a record. -/
def Dev.jobOf (d : Dev) (b seq : Nat) : Option (Nat × Job) := d.jobs.find? (fun p => p.2.awaits b seq)

/-- The management work that waits for a record. -/
def Dev.mgmtOf (d : Dev) (b seq : Nat) : Option MgmtWork := d.mgmt.find? (fun w => w.die = b && w.seq = some seq)

/-- The work on a base die that waits for a record leaves its slot. -/
def Dev.mgmtDone (d : Dev) (b seq : Nat) : Dev := { d with mgmt := d.mgmt.filter (fun w => !(w.die = b && w.seq = some seq)) }

/-- Whoever waits for a record is released. -/
def Dev.recordVisible (d : Dev) (b seq : Nat) : Dev :=
  match d.jobOf b seq with
  | some p => d.jobRecorded p.1 p.2
  | none =>
    match d.mgmtOf b seq with
    | some w => (d.mgmtDone b seq).mgmtRecorded w
    | none => d

/-- JOURNAL_RECORD_VISIBLE (R148, R149, R130, R145, R151, R412). -/
def execJournalRecordVisible (b : Nat) (s : State) : Out :=
  occursAt 148 (b < 4) (fun d => match (d.journal b).staged with
      | r :: _ => r.issued
      | [] => false)
    (fun d =>
      match (d.journal b).staged with
      | [] => d
      | r :: rest =>
        let d := d.cohWrite (unitUse b) (d.get (rJnRingBase b) + 128 * (r.seq % d.jnSize b)) r.bytes
        let x := { d.journal b with staged := rest, ringSeq := some r.seq, ringHead := r.bytes.drop 96 }
        let d := d.setJournal b x
        let d := if x.fill = d.jnSize b then (d.addSat (rJnFullEvents b) 1).raise kJournalFullEvent (492 + b) 0 else d
        d.recordVisible b r.seq) s

/-- JOURNAL_STALL_EXPIRY (R149, R145, R151, R412): the record is not visible in time, and its result is withheld. The record
stays in the chain. -/
def execJournalStallExpiry (b seq : Nat) (s : State) : Out :=
  occursAt 149 (b < 4)
    (fun d =>
      match d.jobOf b seq with
      | some p => p.2.deadline ≤ d.now
      | none =>
        match d.mgmtOf b seq with
        | some w => w.deadline ≤ d.now
        | none => false)
    (fun d =>
      match d.jobOf b seq with
      | some p => d.endJob p.1 jsJournalFull p.2.detail
      | none =>
        match d.mgmtOf b seq with
        | some w => (d.mgmtDone b seq).mgmtStalled w
        | none => d) s

/-- A base die becomes FAILED: its engines with it, whose jobs restart on other dies (R93, R150). -/
def Dev.baseDieFailed (d : Dev) (b : Nat) : Dev :=
  let d := (d.setUnit (.die (12 + b)) stFailed).setUnit (.cluster b) stFailed
  (dieEngines b).foldl (fun d e => if d.get (rEngState e) = stOff then d else d.engineOut e stFailed) d

/-- The work of a slot waits for a record of its journal that is lost: it starts again elsewhere (R113, R451). -/
def Dev.mgmtLost (d : Dev) (b : Nat) : Dev :=
  { d with mgmt := d.mgmt.map (fun (w : MgmtWork) =>
      if w.die = b && w.seq.isSome then { w with seq := none, restarted := true, out := [], status := 0 } else w) }

/-- A job waits in phase 6 for a record of a journal that is lost: it restarts on another die (R93, R150). -/
def Dev.journalLost (d : Dev) (b : Nat) : Dev :=
  d.jobs.foldl (fun d p =>
    let x := p.2
    let e := (x.slot.getD (0, 0)).1
    if x.phase = phJournal && (x.journal.any (fun q => q.1 = b)) then
      ((d.setJob p.1 { x.restart with journal := none, avoid := if x.avoid.contains e then x.avoid else x.avoid ++ [e] }).addWrap32
        (rEngRestarts e)).countEvent (engGroup e) 6 1 (some (d.instWorld x.inst))
    else d) d

/-- JOURNAL_CLOSE (R150): the base die becomes FAILED and its journal CLOSED; its staged records are lost, and what waits for one
restarts on another die. -/
def execJournalClose (b : Nat) (s : State) : Out :=
  occursAt 150 (b < 4) (fun d => d.get (rJnState b) != 2)
    (fun d => ((((d.setJournal b { d.journal b with staged := [] }).set (rJnState b) 2).journalLost b).mgmtLost b).baseDieFailed b) s

/-! ## Start (R146) -/

/-- The regions that `ksStart` examines: start and length. -/
def Dev.ksRegions (d : Dev) : List (Nat × Nat) :=
  [(d.get rKsDescBase, 64 * 1048576), (d.get rKsBlobBase, d.get rKsBlobSize)]
    ++ (List.range 4).map (fun b => (d.get (rJnRingBase b), 128 * d.jnSize b))
    ++ [(d.get rCkRingBase, 2048 * d.ckSize)]

/-- The bytes lie wholly in HBM of this package. -/
def Dev.inHbm (d : Dev) (a n : Nat) : Bool := d.slotBase ≤ a && a + n ≤ d.slotBase + 0x30_0000_0000

/-- The bytes lie inside one Tantalum-owned world range. -/
def Dev.inTantalum (d : Dev) (a n : Nat) : Bool :=
  (List.range 32).any (fun r =>
    d.flag (rWrEnable r) && d.get (rWrOwner r) = 1 && d.get (rWrBase r) ≤ a && a + n ≤ d.wrLimit r + 1)

/-- No region of the list overlaps another. -/
def noOverlap : List (Nat × Nat) → Bool
  | [] => true
  | (a, n) :: r => r.all (fun p => a + n ≤ p.1 || p.1 + p.2 ≤ a) && noOverlap r

/-- The conditions of R146. -/
def Dev.ksStartOk (d : Dev) : Bool :=
  d.flag rKsLocked && d.get rKsBlobSize != 0 && d.ksRegions.all (fun p => d.inHbm p.1 p.2 && d.inTantalum p.1 p.2)
    && noOverlap d.ksRegions

/-- The effect of writing 1 to `ksStart`. -/
def Dev.ksStart (d : Dev) : Reply :=
  if d.ks.started then (.ok, d)
  else if !d.ksStartOk then (.range, d)
  else
    let t := d.now
    let d := { d with ks := { d.ks with started := true }, ck := { d.ck with startTime := t, lastTime := t } }
    let d := (List.range 4).foldl (fun d b => (d.setJournal b { Journal.reset with genesis := d.jnGenesis b t }).set (rJnState b) 1) d
    (.ok, (d.set rKsStart cmdDone).ckTrigger 0)

/-- KS_START (R146). -/
def execKsStart (p : Path) (value : Nat) (s : State) : Out :=
  writeCommand p 0x7060 0x05 value (fun d _ => d.ksStart) s

/-! ## Import (R145, Tables 05-7 to 05-9) -/

/-- Payload lengths of a wrapped import of a type. -/
def importLens (t : Nat) : List Nat :=
  if keyAes t then [24, 32, 40] else [roundUp8 (materialLen t 0) + 8]

/-- The format errors of an image (error 1). -/
def imageBad (img : List Byte) : Bool :=
  let form := byteAt img 0
  let t := byteAt img 1
  let n := img.length - 16
  img.length < 16 || fieldLe img 14 2 != 0 ||
    (if form = 1 then
       !keyTypeOk t || byteAt img 3 != 0 || bitsClear (fieldLe img 8 4) 0xF_FFFF != 0 || !(importLens t).contains n
     else if form = 2 then
       !keyAes t || 2 ≤ byteAt img 3 || fieldLe img 8 4 != 0 || fieldLe img 12 2 != 0 || !(n = 16 || n = 24 || n = 32)
     else true)

/-- AES key length that an image gives, 0 where its type is not an AES type. -/
def imageAes (img : List Byte) : Nat :=
  if byteAt img 0 = 2 then img.length - 16 else if keyAes (byteAt img 1) then img.length - 24 else 0

/-- Error 5: the KEK of a wrapped import. -/
def Dev.kekBad (d : Dev) (img : List Byte) (tenant : Nat) : Bool :=
  let k := d.keyAt (fieldLe img 8 4)
  k.state != ksActive || k.type != 0x0A || !bitAt k.usage 7 || k.tenant != tenant || k.gen != fieldLe img 12 2

/-- Error 7: the component does not continue the key, or there are too many or too few (Table 05-8). -/
def componentBad (k : KeyDesc) (img : List Byte) : Bool :=
  let first := k.state = ksEmpty
  let n := if first then 1 else k.comps + 1
  (!first && (k.type != byteAt img 1 || k.aesLen != imageAes img || k.usage != byteAt img 2 || k.limit != fieldLe img 4 4))
    || 3 < n || (bitAt (byteAt img 3) 0 && n < 2)

/-- The first of errors 1 to 5 and 7 that an image meets on a slot; 0 where none. -/
def Dev.importError (d : Dev) (k : KeyDesc) (img : List Byte) : Nat :=
  let t := byteAt img 1
  let comp := byteAt img 0 = 2
  firstFail
    [(imageBad img, 1),
     (!(k.state = ksEmpty || (comp && k.state = ksPartial)), 2),
     (!bitAt k.typeMask t || 16 * k.blobCap < wrappedLen t (imageAes img), 3),
     (bitsClear (byteAt img 2) k.usageMask != 0 || bitsClear (byteAt img 2) (usageAllowed t) != 0, 4),
     (!comp && d.kekBad img k.tenant, 5),
     (comp && componentBad k img, 7)]

/-- The effect of IMPORT: checks, claim, and the work on a management slot (R145, R367, R451). -/
def Dev.ksImport (d : Dev) (h : Nat) : Reply :=
  if d.keyWindowBusy || d.get (rKsCommand h) = cmdRunning || d.secureDown || (d.mgmtChoose true).isNone then (.busy, d)
  else
    let img := d.dom (domKsImage h) []
    let d := if imageBad img || byteAt img 0 = 2 then d else (d.keyLoad (fieldLe img 8 4)).2
    let r := d.keyFetch h
    let k := r.1
    let d := r.2
    let err := d.importError k img
    if err != 0 then (.ok, (d.set (rKsImportError h) err).set (rKsCommand h) cmdRefused)
    else
      let d := d.keyPut h { k with state := ksPending }
      let d := { d with ks := { d.ks with claims := d.ks.claims ++ [(h, k.state)] } }
      match d.mgmtAdd (.import_ h) img false 0 with
      | some d => (.ok, d.set (rKsCommand h) cmdRunning)
      | none => (.busy, d)

/-- KS_IMPORT (R145). -/
def execKsImport (p : Path) (s : State) : Out :=
  firmwareCommand p 0x7101 0x0D 4 (fun d _ => d.ksImport (d.keySelected p)) s

/-- Step 3 of an import on engine `e`: the material of the key after it, or none for error 6. -/
def Dev.importMaterial (d : Dev) (e h : Nat) (img : List Byte) : Option (List Byte) :=
  let pay := img.drop 16
  let t := byteAt img 1
  if byteAt img 0 = 1 then
    let kh := fieldLe img 8 4
    let kk := d.keyAt kh
    match d.openBlob e kh kk.gen kk (d.blobOf kk) with
    | none => none
    | some kek => (kwUnwrap kek pay).map (fun m => m.take (materialLen t (imageAes img)))
  else
    let k := d.keyAt h
    if k.comps = 0 then some pay
    else (d.openBlob e h ((k.gen + 1) % 2 ^ 16) k (d.blobOf k)).map (fun m => xorBytes m pay)

/-- The running work of a base die appends its record and waits for it (R5, R452). -/
def Dev.mgmtAppend (d : Dev) (b : Nat) (w : MgmtWork) (f : JnFields) (out : List Byte) : Dev :=
  let r := d.jnAppend b { f with inst := 0xFFFF, restarted := w.restarted, input := w.data } (match d.mgmtEngine b with
    | some e => [(e, 15)]
    | none => [])
  let d := r.2
  ({ d with mgmt := modFirst b (fun w => { w with seq := some r.1, deadline := d.jnDeadline b, out := out, status := f.status })
                     d.mgmt }).ckCount

/-- The work is an import. -/
def MgmtKind.isImport : MgmtKind → Bool
  | .import_ _ => true
  | _ => false

/-- IMPORT_EXECUTE_DONE (R145, R452). -/
def execImportExecuteDone (b : Nat) (s : State) : Out :=
  occursAt 145 (b < 4) (fun d => d.mgmtRuns b MgmtKind.isImport)
    (fun d =>
      match d.mgmtFront b with
      | none => d
      | some w =>
        match w.kind with
        | .import_ h =>
          let m := d.importMaterial ((d.mgmtEngine b).getD (16 * b)) h w.data
          let k := d.keyAt h
          let last := byteAt w.data 0 = 1 || bitAt (byteAt w.data 3) 0
          d.mgmtAppend b w
            { inst := 0, op := 0xF0, status := if m.isSome then jsOk else 0x46, tenant := k.tenant, keyA := h,
              genA := if m.isSome && last then (k.gen + 1) % 2 ^ 16 else k.gen, genB := fieldLe w.data 12 2,
              keyB := fieldLe w.data 8 4, restarted := false, guarded := false, attempts := 0, input := [], output := [] }
            (m.getD [])
        | _ => d) s

/-! ## Signatures of the management complex (R4, R118, R119, R411) -/

/-- The device attestation key pair (R411). -/
def Dev.attKeyPair (d : Dev) : List Byte × List Byte :=
  falconKeyPair 10 (shake256 (asciiBytes [0x58, 0x53, 0x41, 0x4B] ++ d.fuses.attSeed) 48)

/-- The signature passes the engine's own check (R4, R119). -/
def signatureGood (logn : Nat) (pub msg sig : List Byte) : Bool :=
  match falconKey logn pub with
  | some h => falconCheck logn h msg sig == 0
  | none => false

/-- What an engine makes of a signing (R118): that which the standard gives, unless the engine computes wrongly, which R109 and R119
allow for; the bytes of a wrong result and its count of attempts are then free values. -/
def Dev.engineSigns (d : Dev) (logn : Nat) (priv pub rand m : List Byte) : Option (List Byte × Nat) × Dev :=
  let r := d.takeBool
  let d := r.2
  match falconSign logn priv pub rand m with
  | none => (none, d)
  | some (sig, n) =>
    if !r.1 then (some (sig, n), d)
    else
      let w := d.takeWord
      let y := w.2.takeBytes sig.length
      (some (y.1, 1 + w.1.toNat % 3), y.2)

/-- The effect of a signing that ends on the management slot of base die `b`: the signature of the attestation key over the
work's data, checked (R4). A failed check fences the engine and restarts the work once (R119). Without a serving DRBG the
work fails. -/
def Dev.mgmtSigned (d : Dev) (b op : Nat) : Dev :=
  match d.mgmtFront b with
  | none => d
  | some w =>
    match d.drbgDraw b 72 with
    | none => (d.mgmtPop b).mgmtFail w
    | some (rand, d) =>
      let f : JnFields :=
        { inst := 0, op := op, status := 0, tenant := 0, keyA := 0, genA := 0, genB := 0, keyB := 0, restarted := false,
          guarded := false, attempts := 0, input := [], output := [] }
      let keys := d.attKeyPair
      match d.engineSigns 10 keys.1 keys.2 rand w.data with
      | (none, d) => (d.mgmtAppend b w { f with status := jsSignExhausted, attempts := 3 } []).addSat rStSignExhausted 1
      | (some (sig, n), d) =>
        if signatureGood 10 keys.2 w.data sig then d.mgmtAppend b w { f with attempts := n, output := sig } sig
        else
          let d := d.addSat rStSelfCheckFails 1
          match d.mgmtEngine b with
          | none => d
          | some e =>
            if w.fails = 0 then
              let d := { d with mgmt := modFirst b (fun w => { w with fails := 1 }) d.mgmt }
              (d.raise kSterlingSelfCheck (engSource e) 0).fenceAndTest e
            else
              (d.raise kSterlingKeySuspect (engSource e) 0).mgmtAppend b w { f with status := jsSelfCheck, attempts := n } []

/-- The work is a checkpoint. -/
def MgmtKind.isCheckpoint : MgmtKind → Bool
  | .checkpoint _ => true
  | _ => false

/-- CHECKPOINT_SIGNED (R151, R4, R452). -/
def execCheckpointSigned (b : Nat) (s : State) : Out :=
  occursAt 151 (b < 4) (fun d => d.mgmtRuns b MgmtKind.isCheckpoint) (fun d => d.mgmtSigned b 0xF1) s

/-- The trigger whose time comes at the end of an interval: one that was missed, tried again, or TIME (R151). DEDUCED (log 116). -/
def Dev.ckDue (d : Dev) : Nat := if d.ck.retry then d.ck.retryTrigger else 2

/-- CHECKPOINT_TIME_TRIGGER (R151, R152): `ckTimeInterval` has passed since the last checkpoint, or since a missed trigger. -/
def execCheckpointTimeTrigger (s : State) : Out :=
  occurs 151 (fun d => d.ks.started && !d.ckBusy && d.ck.lastTime + d.get rCkTimeInterval * 1000000 ≤ d.now)
    (fun d => d.ckTrigger d.ckDue) s

/-- The effect of writing 1 to `ckCommand`. -/
def Dev.ckCommandWrite (d : Dev) : Reply :=
  if !d.ks.started || d.ckBusy || d.get rCkCommand = cmdRunning then (.busy, d)
  else (.ok, (d.set rCkCommand cmdRunning).ckTrigger 3)

/-- CK_COMMAND (R151). -/
def execCkCommand (p : Path) (value : Nat) (s : State) : Out :=
  firmwareCommand p 0x706C 0x05 value (fun d _ => d.ckCommandWrite) s

/-! ## Read-out (R153, R154) -/

/-- The bytes of an entry of a read-out source. -/
def jrEntrySize (src : Nat) : Nat := if src = 4 then 2048 else 128

/-- Number of the next entry of a source to be read. -/
def Dev.jrNext (d : Dev) (src : Nat) : Nat := if src = 4 then d.ck.freed else (d.journal src).freed

/-- Entries of a source not yet freed. -/
def Dev.jrUnread (d : Dev) (src : Nat) : Nat := if src = 4 then d.get rCkNumber - d.ck.freed else (d.journal src).fill

/-- Entry `n` of a source, as the ring in memory holds it. -/
def Dev.jrEntry (d : Dev) (src n : Nat) : List Byte :=
  if src = 4 then (d.cohRead (d.get rCkRingBase + 2048 * (n % d.ckSize)) 2048).1
  else (d.cohRead (d.get (rJnRingBase src) + 128 * (n % d.jnSize src)) 128).1

/-- Entries of a source are read from memory, from `a` on. -/
def Dev.jrTouch (d : Dev) (src a n : Nat) : Dev :=
  (List.range n).foldl (fun d k =>
    if src = 4 then d.touch (unitUse 0) (d.get rCkRingBase + 2048 * ((a + k) % d.ckSize)) 2048
    else d.touch (unitUse src) (d.get (rJnRingBase src) + 128 * ((a + k) % d.jnSize src)) 128) d

/-- The entries of a source are freed: staged records may then be written (R154). -/
def Dev.jrFree (d : Dev) (src n : Nat) : Dev :=
  if src = 4 then { d with ck := { d.ck with freed := d.ck.freed + n } }
  else d.setJournal src { d.journal src with freed := (d.journal src).freed + n }

/-- A job of a read-out instance with an opcode is at the head and may start. -/
def Dev.readoutReady (d : Dev) (j op : Nat) : Bool :=
  match d.job j with
  | some x => d.instClass x.inst = 4 && descOpcode x.desc = op && d.jobReady x.inst j
  | none => false

/-- JOURNAL_NOP (R153). -/
def execJournalNop (job : Nat) (s : State) : Out :=
  occurs 153 (fun d => d.readoutReady job 0) (fun d => d.endJob job jsOk 0) s

/-- A READ copies the unread entries that fit its output; they are written in the output phase. -/
def Dev.readCopy (d : Dev) (j : Nat) : Dev :=
  match d.job j with
  | none => d
  | some x =>
    let src := d.get (rJrSource x.inst)
    let n := min (descCap x.desc / jrEntrySize src) (d.jrUnread src)
    let a := d.jrNext src
    let y : Job := { x with phase := phOutput, copied := n, detail := a, status := jsOk,
                            out := (List.range n).flatMap (fun k => d.jrEntry src (a + k)) }
    (d.jrTouch src a n).setJob j y

/-- No earlier READ of the instance is without its record (R154). -/
def Dev.firstRead (d : Dev) (j : Nat) : Bool :=
  match d.job j with
  | some x => ((d.inst x.inst).queue.takeWhile (fun y => y != j)).all (fun y => d.jobIs y (fun z => descOpcode z.desc != 1))
  | none => false

/-- A READ is waiting for a first entry. -/
def Dev.readWaits (d : Dev) (j : Nat) : Bool :=
  d.jobIs j (fun x => d.instClass x.inst = 4 && x.phase = phExecute)

/-- JOURNAL_READ (R154): the READ starts; where no entry is unread it waits, and copies when it is presented with an entry. -/
def execJournalRead (job : Nat) (s : State) : Out :=
  occurs 154
    (fun d => (d.readoutReady job 1 && d.firstRead job) ||
      (d.readWaits job && d.jobIs job (fun x => d.jrUnread (d.get (rJrSource x.inst)) != 0)))
    (fun d =>
      match d.job job with
      | none => d
      | some x =>
        let wait := descOpData x.desc % 2 ^ 32
        if d.jrUnread (d.get (rJrSource x.inst)) != 0 || wait = 0 then d.readCopy job
        else d.setJob job { x with phase := phExecute, deadline := d.inUs wait }) s

/-- JOURNAL_READ_WAIT_EXPIRY (R154). -/
def execJournalReadWaitExpiry (job : Nat) (s : State) : Out :=
  occurs 154 (fun d => d.readWaits job && d.jobIs job (fun x => x.deadline ≤ d.now)) (fun d => d.readCopy job) s

end Sys2Proof.Machine
end

