-- ==== Sys2Proof/Machine/Routes.lean ====
section
/-!
DEFINITION. Modules and channels by name (R318, R321), and the routes of the on-package network (R305 to R307, R322): the path between
dies, the module or channel of a crossing, and the port that a router sends a flit to. Module or channel `c`: 0 to 39 the 2D modules,
40 + 8d + i channel `i` of compute die `d`. Adapter 2c + e: end 0 is that of the lower-numbered die.
-/
namespace Sys2Proof.Machine

/-! ## Names -/

/-- The module object of a module or channel. -/
def chanModule (c : Nat) : Nat := if c < 40 then c else 40 + (c - 40) / 8

/-- Fault source of a module or channel (Table 17-2). -/
def chanSource (c : Nat) : Nat := if c < 40 then 640 + c else 680 + (c - 40) / 8

/-- Counter group of a module or channel (Table 20-1). -/
def chanGroup (c : Nat) : Nat := 172 + chanModule c

/-- Edge of a 2D module: 0 to 3 the leading end of BD `e`, 4 to 7 the inner edge of BD(e - 4); 8 + d the face of
compute die `d`. -/
def chanEdge (c : Nat) : Nat := if c < 24 then c / 6 else if c < 40 then 4 + (c - 24) / 4 else 8 + (c - 40) / 8

/-- The modules or channels of an edge, ascending. -/
def edgeChans (e : Nat) : List Nat :=
  if e < 4 then (List.range 6).map (fun i => 6 * e + i)
  else if e < 8 then (List.range 4).map (fun i => 24 + 4 * (e - 4) + i)
  else (List.range 8).map (fun i => 40 + 8 * (e - 8) + i)

/-- The modules or channels of a module object. -/
def moduleChans (m : Nat) : List Nat := if m < 40 then [m] else (List.range 8).map (fun i => 40 + 8 * (m - 40) + i)

/-- The in-service set of an edge (R307). -/
def Dev.inService (d : Dev) (e : Nat) : List Nat := (edgeChans e).filter (fun c => (d.chan c).state = 5)

/-- The edge has a module in service. -/
def Dev.edgeUp (d : Dev) (e : Nat) : Bool := (d.inService e).length != 0

/-- The die (13-2 numbers: base 12 to 15, IOD 16) at an end of a module or channel. -/
def chanDie (c e : Nat) : Nat :=
  if c < 24 then
    let b := c / 6
    let b' := (b + 1) % 4
    12 + (if e = 0 then min b b' else max b b')
  else if c < 40 then (if e = 0 then 12 + (c - 24) / 4 else 16)
  else (if e = 0 then (c - 40) / 8 else 12 + (c - 40) / 24)

/-- The router and input port at an end of a 2D module, or at the base-die end of a channel (Tables 13-1, 13-2, R321). -/
def chanRouter (c e : Nat) : Nat × Nat :=
  if c < 24 then
    let b := c / 6
    let i := c % 6
    let die := chanDie c e
    if die = 12 + b then (36 * b + 6 * i + 5, 1) else (36 * ((b + 1) % 4) + 6 * i, 0)
  else if c < 40 then
    let b := (c - 24) / 4
    let i := (c - 24) % 4
    if e = 0 then (36 * b + i + 1, 2)
    else if b = 0 then (144 + 12 + i, 3)
    else if b = 1 then (144 + 3 + 4 * i, 1)
    else if b = 2 then (144 + i, 2)
    else (144 + 4 * i, 0)
  else
    let d := (c - 40) / 8
    let i := (c - 40) % 8
    (36 * (d / 3) + ((baseAttach[d % 3]?).getD [])[i]?.getD 0, 4)

/-- R26: bit `b` of `pkgFeatures`. -/
def Dev.hasFeature (d : Dev) (b : Nat) : Bool := bitAt (d.get rPkgFeatures) b

/-! ## Paths (R306, Table 13-5) -/

/-- The routes that the fabric takes now. -/
def Dev.routes (d : Dev) : Routes := { sets := (List.range 20).map d.inService, opposite := d.get rFabOppositeRoute }

/-- The in-service set of an edge under some routes. -/
def Routes.set (r : Routes) (e : Nat) : List Nat := (r.sets[e]?).getD []

/-- An edge is in service under some routes. -/
def Routes.up (r : Routes) (e : Nat) : Bool := !(r.set e).isEmpty

/-- The mesh of a die: base dies 0 to 3, the IOD 4. A compute die's flits use its base die's mesh. -/
def meshOf (die : Nat) : Nat := if die < 12 then die / 3 else die - 12

/-- The leading edge of a base die's mesh is in service. -/
def Routes.lead (r : Routes) (a : Nat) : Bool := r.up (a % 4)

/-- The hub edge of a base die's mesh is in service. -/
def Routes.hub (r : Routes) (a : Nat) : Bool := r.up (4 + a % 4)

/-- The meshes a flit passes from `a` to `c`, both included; none where no path is left. `alt`: HUB_ALT_ROUTE is set. -/
def Routes.path (r : Routes) (alt : Bool) (a c : Nat) : Option (List Nat) :=
  if a = c then some [a]
  else if a = 4 then
    if r.hub c then some [4, c] else if r.hub (c + 1) && r.lead c then some [4, (c + 1) % 4, c] else none
  else if c = 4 then
    if r.hub a then some [a, 4] else if r.hub (a + 1) && r.lead a then some [a, (a + 1) % 4, 4] else none
  else
    let x := (c + 4 - a) % 4
    let fwd := (List.range x).all (fun i => r.lead (a + i))
    let bwd := (List.range (4 - x)).all (fun i => r.lead (c + i))
    let pf := (List.range (x + 1)).map (fun i => (a + i) % 4)
    let pb := (List.range (5 - x)).map (fun i => (a + 4 - i) % 4)
    let hub := r.hub a && r.hub c
    if x = 1 then
      if fwd then some pf else if alt && hub then some [a, 4, c] else if bwd then some pb else none
    else if x = 3 then
      if bwd then some pb else if alt && hub then some [a, 4, c] else if fwd then some pf else none
    else if r.opposite = 1 && hub then some [a, 4, c]
    else if fwd then some pf
    else if bwd then some pb
    else if alt && hub then some [a, 4, c]
    else none

/-- The router of an endpoint within its mesh: a compute die's attach index names a router of its site. -/
def endRouter (e : Endpoint) : Nat :=
  if e.die < 12 then ((baseAttach[e.die % 3]?).getD [])[e.port]?.getD 0 else e.port

/-- The mesh after `m` on a path. -/
def nextMesh (p : List Nat) (m : Nat) : Option Nat := ((p.dropWhile (fun x => x != m)).drop 1).head?

/-- The mesh that a flit in mesh `m` goes to next: on the path between its endpoints, or, where a change has left `m` off that path, on
the path from `m` (R307: a flit already accepted continues). -/
def Dev.onward (d : Dev) (r : Routes) (m : Nat) (f : Flit) : Option Nat :=
  let from_ (a : Nat) : Option Nat := (r.path (d.hasFeature 17) a (meshOf f.dest.die)).bind (fun p => nextMesh p m)
  match from_ (meshOf f.src.die) with
  | some t => some t
  | none => from_ m

/-- The edge between two neighbouring meshes. -/
def edgeBetween (m n : Nat) : Nat :=
  if m = 4 then 4 + n else if n = 4 then 4 + m else if (m + 1) % 4 = n then m else n

/-- The end, of a module or channel, that stands on mesh `m`. -/
def moduleEnd (c m : Nat) : Nat := if chanDie c 0 = 12 + m then 0 else 1

/-- The index in an edge's in-service set by which a packet's endpoint routers choose a module (R307). -/
def pickModule (l : List Nat) (sum : Nat) : Option Nat := l[sum % l.length]?

/-- R322: the channel of a compute die's attach index, or the next in service. -/
def Routes.faceChan (r : Routes) (die i : Nat) : Option Nat :=
  ((List.range 8).map (fun k => 40 + 8 * die + (i + k) % 8)).find? (fun c => (r.set (8 + die)).contains c)

/-- The module or channel by which a flit leaves mesh `m`; none where no path is left, or at a flit that ends in this mesh. -/
def Dev.crossing (d : Dev) (r : Routes) (m : Nat) (f : Flit) : Option Nat :=
  if meshOf f.dest.die = m then (if f.dest.die < 12 then r.faceChan f.dest.die f.dest.port else none)
  else (d.onward r m f).bind (fun t => pickModule (r.set (edgeBetween m t)) (endRouter f.src + endRouter f.dest))

/-- XY routing (R305): the port toward router `t` from router `r` in a mesh `w` routers wide; none on arrival. -/
def xyPort (w r t : Nat) : Option Nat :=
  if r % w < t % w then some 1
  else if t % w < r % w then some 0
  else if r / w < t / w then some 3
  else if t / w < r / w then some 2
  else none

/-- What a router does with a flit. -/
inductive Hop where
  /-- to the neighbour at a mesh port -/
  | mesh (port : Nat)
  /-- over a module or channel from the adapter -/
  | cross (adapter : Nat)
  /-- to an endpoint of this router -/
  | here
  /-- no path is left -/
  | lost
deriving DecidableEq, Repr

/-- The mesh of a router, and its number within it. -/
def routerMesh (n : Nat) : Nat × Nat := if n < 144 then (n / 36, n % 36) else (4, n - 144)

/-- Columns of a mesh. -/
def meshWidth (m : Nat) : Nat := if m = 4 then 4 else 6

/-- The neighbour of a router at a mesh port, and the port by which a flit arrives there. -/
def neighbourAt (n q : Nat) : Nat × Nat :=
  let w := meshWidth (routerMesh n).1
  if q = 0 then (n - 1, 1) else if q = 1 then (n + 1, 0) else if q = 2 then (n - w, 3) else (n + w, 2)

/-- The hop of a flit at a router. -/
def Dev.hop (d : Dev) (n : Nat) (f : Flit) : Hop :=
  let m := routerMesh n
  let w := meshWidth m.1
  let x := d.crossing d.routes m.1 f
  match x with
  | some c =>
    let e := moduleEnd c m.1
    (match xyPort w m.2 ((chanRouter c e).1 % (if m.1 = 4 then 144 else 36)) with
     | some q => .mesh q
     | none => .cross (2 * c + e))
  | none =>
    if meshOf f.dest.die != m.1 then .lost
    else match xyPort w m.2 (endRouter f.dest) with
      | some q => .mesh q
      | none => .here

end Sys2Proof.Machine
end

