-- ==== Sys2Proof/Machine/Solder.lean ====
section
/-!
DEFINITION. Solder modules and channels and the Welade protocol (chapter 14): adapters with their sequence,
retry and credits (R323 to R328), and the choice of module for a flit (R307). Module or channel `c`: 0 to 39 the 2D
modules (R318), 40 + 8d + i channel `i` of compute die `d`. Adapter 2c + e: end 0 is that of the lower-numbered die.
-/
namespace Sys2Proof.Machine

/-- Counts a change under R307. -/
def Dev.routeChange (d : Dev) : Dev := d.add rFabRouteChanges 1

/-- The lowest-coded state among the channels of a Solder-3D interface. -/
def Dev.lowestState (d : Dev) (die : Nat) : Nat :=
  ((List.range 8).map (fun i => (d.chan (40 + 8 * die + i)).state)).foldl min 7

/-- The `sdState` and `sdWidth` of a module object follow its modules or channels. -/
def Dev.showModule (d : Dev) (c : Nat) : Dev :=
  let m := chanModule c
  if c < 40 then
    let st := (d.chan c).state
    (d.set (rSdState m) st).set (rSdWidth m) (if st = 5 then (d.adapter (2 * c)).width else 0)
  else
    let die := (c - 40) / 8
    let mask := (List.range 8).foldl (fun v i => if (d.chan (40 + 8 * die + i)).state = 5 then bitSet v i else v) 0
    (d.set (rSdState m) (d.lowestState die)).set (rSdWidth m) mask

/-- A VN5 or VN6 flit, whose order a route change keeps (R303). -/
def flitOrdered (f : Flit) : Bool := f.vn = 5 || f.vn = 6

/-- VN5 and VN6 flits accepted for an edge that their far adapter has not acknowledged: those sent, those of a lost module, and those that
wait for a slot. -/
def Dev.orderedOut (d : Dev) (e : Nat) : List Flit :=
  (edgeChans e).flatMap (fun c =>
    (((d.chan c).lostFlits.map (fun r => r.2.flit))
      ++ (d.adapter (2 * c)).retry.map RetryFlit.flit ++ (d.adapter (2 * c)).txq
      ++ (d.adapter (2 * c + 1)).retry.map RetryFlit.flit ++ (d.adapter (2 * c + 1)).txq).filter flitOrdered)

/-- An edge with flits of the old assignment outstanding holds those whose module or path has changed (R307). -/
def Dev.openHold (d : Dev) (old : Routes) (e : Nat) : Dev :=
  let l := d.orderedOut e
  match tabFind d.fab.held e with
  | some h => { d with fab := { d.fab with held := tabPut d.fab.held e { h with waits := h.waits ++ l } } }
  | none =>
    if l.isEmpty then d else { d with fab := { d.fab with held := tabPut d.fab.held e { flits := [], waits := l, old := old } } }

/-- The module set of an edge or a path has changed from the routes `old`: counted, and the orders of VN5 and VN6 are guarded (R307). -/
def Dev.routesChanged (d : Dev) (old : Routes) : Dev := (List.range 20).foldl (Dev.openHold · old) d.routeChange

/-- The edge at which a flit that leaves mesh `m` over channel `c` is held: one over which the old routes took it otherwise, or at which an
earlier flit between the same endpoints is held. -/
def Dev.holdFor (d : Dev) (m c : Nat) (f : Flit) : Option Nat :=
  if !flitOrdered f then none
  else (d.fab.held.find? (fun (e : Nat × OrderHold) => e.1 < 20 &&
    (e.2.flits.any (fun g => g.1 = m && g.2.src = f.src && g.2.dest = f.dest) ||
      (match d.crossing e.2.old m f with
       | some o => o != c && chanEdge o = e.1
       | none => false)))).map Prod.fst

/-- A flit is held at an edge. -/
def Dev.holdFlit (d : Dev) (e m : Nat) (f : Flit) : Dev :=
  match tabFind d.fab.held e with
  | some h => { d with fab := { d.fab with held := tabPut d.fab.held e { h with flits := h.flits ++ [(m, f)] } } }
  | none => d

/-- A message on the wire of a module or channel. -/
def onWire (c : Nat) : Instr → Bool
  | .weladeDataFlit a _ _ => a / 2 = c
  | .weladeUpdate a _ _ _ => a / 2 = c
  | .weladeNak a _ => a / 2 = c
  | .weladeReplay a _ => a / 2 = c
  | _ => false

/-- A module or channel carries nothing any more: what is on its wire is gone, and its adapters start afresh. -/
def Dev.closeWire (d : Dev) (c : Nat) : Dev :=
  let fresh (a : Nat) (d : Dev) : Dev := d.setAdapter a { Adapter.reset with holdNew := (d.adapter a).holdNew }
  let d := { d with fab := { d.fab with net := d.fab.net.filter (fun m => !onWire c m) } }
  fresh (2 * c + 1) (fresh (2 * c) d)

/-- The mesh at an end of a module or channel. -/
def endMesh (c e : Nat) : Nat := meshOf (chanDie c e)

/-- R322: all 8 channels of an interface are out of service: the compute die is bypassed and FAILED. -/
def Dev.faceCheck (d : Dev) (c : Nat) : Dev :=
  if c < 40 then d
  else
    let die := (c - 40) / 8
    let out := (List.range 8).all (fun i =>
      let st := (d.chan (40 + 8 * die + i)).state
      st = 0 || st = 7)
    if out && d.unit (.die die) != stFailed && d.unit (.die die) != stOff then
      (d.dieLost die).raise kSolder3dLost (680 + die) 0
    else d

/-! ## Sending (R325, R326, R328) -/

/-- The queue of a flit. -/
def flitQueue (f : Flit) : Nat := f.vn * 4 + f.vc

/-- A queue holds a flit and a credit, the first flit of a two-flit message its second and two credits (R301, R325). -/
def Adapter.sendable (a : Adapter) (q : Nat) : Bool :=
  let credits := tabGet a.dedicated q 0 + a.shared
  match a.txq.filter (fun f => flitQueue f = q) with
  | [] => false
  | f :: l => if f.kind = 1 then !l.isEmpty && 2 ≤ credits && a.retry.length + 2 ≤ 128 else credits != 0

/-- The other end of a module or channel. -/
def peerOf (a : Nat) : Nat := if a % 2 = 0 then a + 1 else a - 1

/-- The queue that the round-robin arbiter over queues sends from next. -/
def Dev.nextTx (d : Dev) (a : Nat) : Option Nat := arbWinner 32 (d.arbPtr (arbAdapter a)) (d.adapter a).sendable

/-- The first flit of a queue is sent: it enters the retry buffer and travels to the peer. -/
def Dev.sendFlit (d : Dev) (a q : Nat) : Dev :=
  let x := d.adapter a
  match x.txq.find? (fun f => flitQueue f = q) with
  | none => d
  | some f =>
    let own := tabGet x.dedicated q 0 != 0
    let d := d.setAdapter a { x with
      txq := dropFirst (fun g => flitQueue g = q) x.txq,
      dedicated := if own then tabPut x.dedicated q (tabGet x.dedicated q 0 - 1) else x.dedicated,
      shared := if own then x.shared else x.shared - 1,
      retry := x.retry ++ [{ seq := x.txNext, flit := f, sent := d.fclk, pool := !own }],
      txNext := (x.txNext + 1) % 256, dataRun := x.dataRun + 1 }
    let d := d.countEvent (chanGroup (a / 2)) 1 1 (some f.world)
    let d := d.countBytes (chanGroup (a / 2)) 0 64 (some f.world)
    d.post (.weladeDataFlit (peerOf a) f true)

/-- A data flit is sent where a slot may carry one, and the second flit of a two-flit message in the slot after it (R325). -/
def Dev.sendData (d : Dev) (a : Nat) : Dev :=
  let x := d.adapter a
  if (d.chan (a / 2)).state != 5 || x.holdNew || 128 ≤ x.retry.length || 15 ≤ x.dataRun || x.due.length != 0 then d
  else match d.nextTx a with
    | none => d
    | some q =>
      let two : Bool := (x.txq.find? (fun f => flitQueue f = q)).any (fun f => f.kind = 1)
      let d := { d with arb := tabPut d.arb (arbAdapter a) (arbNext 32 q) }
      let d := d.sendFlit a q
      if two then d.sendFlit a q else d

/-- Data flits are sent as long as slots may carry them. -/
def Dev.pump : Nat → Dev → Nat → Dev
  | 0, d, _ => d
  | n + 1, d, a => (d.sendData a).pump n a

/-- The adapter sends what it can. -/
def Dev.drainTx (d : Dev) (a : Nat) : Dev := d.pump (d.adapter a).txq.length a

/-- A flit reaches a sending adapter. -/
def Dev.enqueueTx (d : Dev) (a : Nat) (f : Flit) : Dev :=
  let x := d.adapter a
  (d.setAdapter a { x with txq := x.txq ++ [f] }).drainTx a

/-- A flit leaves mesh `m` by the module or channel of the present routes, or is held (R307). Where no path is left, one for a die at this
mesh whose interface has failed stays at its router, which answers it (R309); for another it is a fault of the router of source `src`. -/
def Dev.cross (d : Dev) (m src : Nat) (f : Flit) : Dev :=
  match d.crossing d.routes m f with
  | none =>
    if meshOf f.dest.die = m then d.post (.flitReceive (36 * m + endRouter f.dest) 4 f .clean) else d.raiseAt kFabricPartition src f.addr 0
  | some c =>
    match d.holdFor m c f with
    | some e => d.holdFlit e m f
    | none => d.enqueueTx (2 * c + moduleEnd c m) f

/-- A module or channel in a state. Entering or leaving UP changes its edge's set; the flits that still wait for a slot of one that leaves
take the new routes. -/
def Dev.setChanState (d : Dev) (c st : Nat) : Dev :=
  let x := d.chan c
  let old := d.routes
  let d := (d.setChan c { x with state := st }).showModule c
  let d := if (x.state = 5) != (st = 5) then d.routesChanged old else d
  let unsent (d : Dev) (e : Nat) : Dev :=
    let y := d.adapter (2 * c + e)
    y.txq.foldl (fun d f => d.cross (endMesh c e) (720 + (chanRouter c e).1) f) (d.setAdapter (2 * c + e) { y with txq := [] })
  let d := if x.state = 5 && st != 5 then unsent (unsent d 0) 1 else d
  if (x.state = 5 || x.state = 6) && !(st = 5 || st = 6) then d.closeWire c else d

/-! ## Losing a module (R332, R333) -/

/-- An end's senders of an edge hold new flits, or hold them no longer. -/
def Dev.holdEdge (d : Dev) (e side : Nat) (on : Bool) : Dev :=
  (edgeChans e).foldl (fun d m =>
    let d := d.setAdapter (2 * m + side) { d.adapter (2 * m + side) with holdNew := on }
    if on then d else d.drainTx (2 * m + side)) d

/-- The receiving end of a lost module names its last accepted sequence to the sender: a RESYNC is due on another module of the edge, or goes
over the sideband (R333). -/
def Dev.sendResync (d : Dev) (c sender : Nat) : Dev :=
  let last := ((d.adapter (2 * c + (1 - sender))).rxExpect + 255) % 256
  let lost := (edgeChans (chanEdge c)).idxOf c
  match (d.inService (chanEdge c)).find? (fun m => m != c) with
  | some m =>
    let a := 2 * m + (1 - sender)
    d.setAdapter a { d.adapter a with due := (d.adapter a).due ++ [.resync lost last] }
  | none => d.post (.weladeResync (2 * c + sender) lost last)

/-- The unacknowledged flits of one end of a module that leaves service wait for RESYNC, and the end's senders of the edge hold new flits. -/
def Dev.loseEnd (d : Dev) (c side : Nat) : Dev :=
  let y := d.adapter (2 * c + side)
  if y.retry.isEmpty then d
  else
    let x := d.chan c
    let d := d.setChan c { x with lostFlits := x.lostFlits ++ y.retry.map (fun r => (side, r)), resyncEnd := d.inUs 20 }
    ((d.setAdapter (2 * c + side) { y with retry := [] }).holdEdge (chanEdge c) side true).sendResync c side

/-- A module leaves service with what it has unacknowledged (R333). -/
def Dev.loseModule (d : Dev) (c : Nat) : Dev := (d.loseEnd c 0).loseEnd c 1

/-- An end's senders of an edge hold new flits no longer, where no other module of the edge waits for its RESYNC. -/
def Dev.releaseEdge (d : Dev) (e side : Nat) : Dev :=
  if (edgeChans e).any (fun c => (d.chan c).lostFlits.any (fun r => r.1 = side)) then d else d.holdEdge e side false

/-- A flit of a lost module goes ahead of the flits that wait at the module or channel that carries it now. -/
def Dev.resend (d : Dev) (c side : Nat) (f : Flit) : Dev :=
  let r := d.routes
  let dest : Option Nat := if c < 40 then d.crossing r (endMesh c side) f
    else r.faceChan ((c - 40) / 8) (if side = 0 then f.src.port else f.dest.port)
  match dest with
  | some n =>
    let a := 2 * n + (if n < 40 then moduleEnd n (endMesh c side) else if c < 40 then 1 else side)
    d.setAdapter a { d.adapter a with txq := f :: (d.adapter a).txq }
  | none => d.raiseAt kFabricPartition (720 + (chanRouter c side).1) f.addr 0

/-- The command that runs on a module or channel ends there; `sdCommand` reads `code` when it has ended on all that it acts on. -/
def Dev.endCommand (d : Dev) (c code : Nat) : Dev :=
  let m := chanModule c
  if (d.chan c).command then
    let d := d.setChan c { d.chan c with command := false }
    if (moduleChans m).any (fun n => (d.chan n).command) then d else d.set (rSdCommand m) code
  else d

/-- A training attempt begins: TRAINING, with both ends' sequences, credits and records fresh. -/
def Dev.startTraining (d : Dev) (c : Nat) : Dev :=
  let d := (d.setChanState c 2).closeWire c
  let x := d.chan c
  d.setChan c { x with started := d.now, attempts := x.attempts + 1 }

/-- A module or channel is FAILED after its training; the command that trained it has ended. -/
def Dev.trainingFailed (d : Dev) (c : Nat) : Dev :=
  ((d.setChanState c 7).set (rSdTrainAttempts (chanModule c)) (min (d.chan c).attempts 255)).endCommand c cmdDone

/-- A check of the exchange fails for good: FAILED with a fault. -/
def Dev.failModule (d : Dev) (c kind : Nat) : Dev := ((d.trainingFailed c).raise kind (chanSource c) 0).faceCheck c

/-- A training attempt fails (Table 14-6, check 3): a retraining, or FAILED after the third. -/
def Dev.failTraining (d : Dev) (c : Nat) : Dev :=
  let x := d.chan c
  if 3 ≤ x.retrains then d.failModule c kSolderWidthMismatch
  else (d.setChan c { x with retrains := x.retrains + 1 }).startTraining c

/-- R332: the module enters RETRAIN; without LIVE_RETRAIN the limit of R327 makes it FAILED. -/
def Dev.retrain (d : Dev) (c : Nat) : Dev :=
  let d := d.countEvent (chanGroup c) 8 1 none
  let x := d.chan c
  ((d.setChan c { x with drainEnd := d.inUs 100, retrains := 0, attempts := 0 }).add (rSdRetrains (chanModule c)) 1).setChanState c 6

/-- R327: a sender has replayed `sdReplayLimit` times without progress. -/
def Dev.replayLimitHit (d : Dev) (c : Nat) : Dev :=
  if d.hasFeature 1 then d.retrain c
  else ((d.loseModule c).setChanState c 7).faceCheck c

/-- A sender replays from sequence `seq`: REPLAY, then every buffered flit from there, in order. -/
def Dev.replayFrom (d : Dev) (a seq : Nat) : Dev :=
  let x := d.adapter a
  let late := x.retry.dropWhile (fun r => r.seq != seq)
  let run := x.replayRun + 1
  let resent := x.retry.map (fun r => if late.any (fun l => l.seq = r.seq) then { r with sent := d.fclk } else r)
  let d := d.setAdapter a { x with due := x.due ++ [.replay seq], replayRun := run, retry := resent }
  let d := (d.add (rSdReplays (chanModule (a / 2))) 1).countEvent (chanGroup (a / 2)) 4 1 none
  if d.get rSdReplayLimit ≤ run && (d.chan (a / 2)).state = 5 then d.replayLimitHit (a / 2)
  else late.foldl (fun d r => d.post (.weladeDataFlit (peerOf a) r.flit true)) d

/-! ## Receiving (R326, R328) -/

/-- A module or channel carries Welade flits: UP, or in RETRAIN while its senders' retry buffers empty. -/
def Dev.linked (d : Dev) (c : Nat) : Bool := (d.chan c).state = 5 || (d.chan c).state = 6

/-- A receiver's credit for a flit that leaves its buffer returns to the pool it came from. -/
def Dev.returnCredit (d : Dev) (a : Nat) (f : Flit) (pool : Bool) : Dev :=
  let x := d.adapter a
  if pool then d.setAdapter a { x with sret := (x.sret + 1) % 256 }
  else d.setAdapter a { x with qret := tabPut x.qret (flitQueue f) ((tabGet x.qret (flitQueue f) 0 + 1) % 256) }

/-- The flit as it stands in the peer's retry buffer was sent against a shared credit. -/
def Dev.sentShared (d : Dev) (a seq : Nat) : Bool :=
  match (d.adapter (peerOf a)).retry.find? (fun r => r.seq = seq) with
  | some r => r.pool
  | none => false

/-- An accepted flit goes on: to its router with VC raised on a 2D module, or to the compute die's endpoint. -/
def Dev.acceptFlit (d : Dev) (a : Nat) (f : Flit) : Dev :=
  let c := a / 2
  let rp := chanRouter c (a % 2)
  if c < 40 then
    if f.vc = 3 then d.raiseAt kFabricPartition (720 + rp.1) f.addr 0
    else d.post (.flitReceive rp.1 rp.2 { f with vc := f.vc + 1 } .clean)
  else if a % 2 = 1 then d.post (.flitReceive rp.1 rp.2 f .clean)
  else d

/-- WELADE_DATA_FLIT (R326, R328, R305). -/
def execWeladeDataFlit (adapter : Nat) (f : Flit) (lcrcOk : Bool) (s : State) : Out :=
  occursAt 326 (adapter < 272)
    (fun d => d.linked (adapter / 2))
    (fun d =>
      let d := d.takeMsg (fun m => match m with
        | .weladeDataFlit a g _ => a = adapter && g = f
        | _ => false)
      let x := d.adapter adapter
      let g := chanGroup (adapter / 2)
      if !lcrcOk then
        let d := (d.add (rSdCrcErrors (chanModule (adapter / 2))) 1).countEvent g 5 1 (some f.world)
        if x.discarding then d
        else d.setAdapter adapter { x with discarding := true, nakSince := d.fclk, due := x.due ++ [.nak x.rxExpect] }
      else if x.discarding then d
      else
        let pool := d.sentShared adapter x.rxExpect
        let d := d.setAdapter adapter { x with rxExpect := (x.rxExpect + 1) % 256 }
        let d := (d.countEvent g 2 1 (some f.world)).countBytes g 64 0 (some f.world)
        (d.returnCredit adapter f pool).acceptFlit adapter f) s

/-- Credits that a total newly returns. -/
def totalDelta (new old : Nat) : Nat := (new + 256 - old % 256) % 256

/-- WELADE_UPDATE (R324, R326, R328): ACK frees the retry buffer, totals return credits. -/
def execWeladeUpdate (adapter ack scredit : Nat) (qcredit : List Nat) (s : State) : Out :=
  occursAt 324 (adapter < 272) (fun d => d.linked (adapter / 2))
    (fun d =>
      let d := d.takeMsg (fun m => match m with
        | .weladeUpdate a _ _ _ => a = adapter
        | _ => false)
      let x := d.adapter adapter
      let covered := x.retry.any (fun r => r.seq = ack)
      let retry := if covered then (x.retry.dropWhile (fun r => r.seq != ack)).drop 1 else x.retry
      let ded := (List.range 32).foldl (fun t q =>
        let v := totalDelta ((qcredit[q]?).getD (tabGet x.qseen q 0)) (tabGet x.qseen q 0)
        if v = 0 then t else tabPut t q (tabGet t q 0 + v)) x.dedicated
      let seen := (List.range 32).foldl (fun t q =>
        let v := (qcredit[q]?).getD (tabGet x.qseen q 0)
        if v = tabGet t q 0 then t else tabPut t q (v % 256)) x.qseen
      let y := { x with retry := retry, dedicated := ded, qseen := seen, sseen := scredit % 256 }
      let y := { y with shared := x.shared + totalDelta scredit x.sseen }
      let y := if covered then { y with acked := ack, replayRun := 0 } else y
      let d := d.setAdapter adapter y
      d.drainTx adapter) s

/-- WELADE_NAK (R326): a sender replays from the named sequence. -/
def execWeladeNak (adapter seq : Nat) (s : State) : Out :=
  occursAt 326 (adapter < 272) (fun d => d.linked (adapter / 2))
    (fun d => (d.takeMsg (fun m => m = .weladeNak adapter seq)).replayFrom adapter seq) s

/-- WELADE_REPLAY (R326): the receiver takes data flits again. -/
def execWeladeReplay (adapter seq : Nat) (s : State) : Out :=
  occursAt 326 (adapter < 272) (fun d => d.linked (adapter / 2))
    (fun d =>
      let d := d.takeMsg (fun m => m = .weladeReplay adapter seq)
      let x := d.adapter adapter
      if seq = x.rxExpect then
        let due := x.due.filter (fun e => match e with
          | .nak _ => false
          | _ => true)
        d.setAdapter adapter { x with discarding := false, due := due }
      else d) s

/-- The control flit that an adapter sends next (R325): its posts to the peer. Every control flit carries ACK and the totals. -/
def Dev.sendControl (d : Dev) (a : Nat) : Dev :=
  let x := d.adapter a
  let q := (List.range 32).map (fun q => tabGet x.qret q 0)
  let d := (d.setAdapter a { x with due := x.due.drop 1, dataRun := 0 }).countEvent (chanGroup (a / 2)) 3 1 none
  let d := d.post (.weladeUpdate (peerOf a) ((x.rxExpect + 255) % 256) x.sret q)
  let d := match x.due.head? with
    | some (.nak seq) => d.post (.weladeNak (peerOf a) seq)
    | some (.replay seq) => d.post (.weladeReplay (peerOf a) seq)
    | some (.resync lost seq) => d.post (.weladeResync (peerOf a) lost seq)
    | none => d
  d.drainTx a

/-- CONTROL_FLIT_SEND (R325): a control flit is due, 15 data flits have been sent, or no data flit is ready. -/
def execControlFlitSend (adapter : Nat) (s : State) : Out :=
  occursAt 325 (adapter < 272)
    (fun d =>
      let x := d.adapter adapter
      d.linked (adapter / 2) && (x.due.length != 0 || 15 ≤ x.dataRun || (d.nextTx adapter).isNone
        || x.holdNew || 128 ≤ x.retry.length || (d.chan (adapter / 2)).state = 6))
    (fun d => d.sendControl adapter) s

/-- NAK_REPEAT (R326): 64 slots have passed since the NAK and no REPLAY has come. -/
def execNakRepeat (adapter : Nat) (s : State) : Out :=
  occursAt 326 (adapter < 272)
    (fun d => d.linked (adapter / 2) && (d.adapter adapter).discarding && (d.adapter adapter).nakSince + 64 ≤ d.fclk)
    (fun d =>
      let x := d.adapter adapter
      d.setAdapter adapter { x with nakSince := d.fclk, due := x.due ++ [.nak x.rxExpect] }) s

/-- REPLAY_TIMEOUT (R327): the oldest unacknowledged flit has waited 512 FCLK. -/
def execReplayTimeout (adapter : Nat) (s : State) : Out :=
  occursAt 327 (adapter < 272)
    (fun d => d.linked (adapter / 2) && (match (d.adapter adapter).retry.head? with
      | some r => r.sent + 512 ≤ d.fclk
      | none => false))
    (fun d =>
      match (d.adapter adapter).retry.head? with
      | some r => d.replayFrom adapter r.seq
      | none => d) s

/-! ## Training and exchange (R320, R329 to R331) -/

/-- R320: the width that a 2D end's receivers reach with these failing lanes; 0 where none is usable. -/
def Dev.widthFor (d : Dev) (low high : Nat) : Nat :=
  if low ≤ 2 && high ≤ 2 then 0x40
  else if !d.hasFeature 0 then 0
  else if low ≤ 2 then 0x20
  else if high ≤ 2 then 0x21
  else 0

/-- A fault raised `n` times. -/
def Dev.raiseTimes (d : Dev) (kind src : Nat) : Nat → Dev
  | 0 => d
  | n + 1 => (d.raise kind src 0).raiseTimes kind src n

/-- TRAINING_ACTIVE (R320, R322): UCIe training reaches ACTIVE at one end. -/
def execTrainingActive (adapter lowBad highBad : Nat) (s : State) : Out :=
  occursAt 320 (adapter < 272)
    (fun d => (d.chan (adapter / 2)).state = 2 || ((d.chan (adapter / 2)).state = 3 && (d.adapter adapter).width = 0))
    (fun d =>
      let c := adapter / 2
      let w := if c < 40 then d.widthFor lowBad highBad
        else if lowBad + highBad ≤ 2 then 2 ^ ((c - 40) % 8) else 0
      if w = 0 then
        if c < 40 then d.failTraining c else (d.trainingFailed c).faceCheck c
      else
        let used := (if w = 0x21 && c < 40 then 0 else lowBad) + (if w = 0x20 && c < 40 then 0 else highBad)
        let d := d.raiseTimes kSolderLaneRepair (chanSource c) used
        let d := d.setAdapter adapter { d.adapter adapter with width := w, repairs := used }
        let d := if c < 40 && w != 0x40 then d.raise kSolderWidthDegraded (chanSource c) 0 else d
        if (d.chan c).state = 2 then
          (d.setChan c { d.chan c with activeAt := d.now }).setChanState c 3
        else d) s

/-- Table 14-3: die type of an end. -/
def endDieType (c e : Nat) : Nat := let n := chanDie c e; if n < 12 then 1 else if n < 16 then 2 else 3

/-- Table 14-3: Position of an end. -/
def endPosition (c e : Nat) : Nat :=
  if c < 24 then
    (if chanDie c e = 12 + c / 6 then 0x10 else 0x20) + c % 6
  else if c < 40 then
    let b := (c - 24) / 4
    (if e = 0 then 0 else (if b = 0 then 4 else if b = 1 then 5 else if b = 2 then 6 else 7) * 16) + (c - 24) % 4
  else 0x30 + (c - 40) / 8 % 3

/-- The bytes of a capability record (Table 14-3). -/
def recordBytes (r : CapRecord) : List Byte :=
  let b := leBytes 1 r.major ++ leBytes 1 r.minor ++ leBytes 1 r.dieType ++ leBytes 1 r.stepping
    ++ leBytes 2 r.maker ++ leBytes 1 r.position ++ leBytes 1 r.width ++ leBytes 8 r.features
    ++ leBytes 1 r.dedicated ++ leBytes 1 r.shared ++ leBytes 4 r.repair ++ zeros 6
  b ++ leBytes 4 (crc32c b)

/-- R27: a record without a feature of the package. -/
def Dev.recordLacks (d : Dev) (r : CapRecord) : Bool := bitsClear (d.get rPkgFeatures) r.features != 0

/-- R27: a die whose record lacks a feature of the package does not return to service. -/
def Dev.lackingDie (d : Dev) (n : Nat) : Dev := if n < 12 then d.dieLost n else d.setUnit (.die n) stFailed

/-- Table 14-6: the number of the first check that fails for two records, 0 for none. `relink`: the die links
again after a partial reset. -/
def Dev.exchangeCheck (d : Dev) (c : Nat) (r0 r1 : CapRecord) : Nat :=
  if r0.major != r1.major then 1
  else if r0.dieType != endDieType c 0 || r1.dieType != endDieType c 1 || r0.position != endPosition c 0
      || r1.position != endPosition c 1 then 2
  else if r0.width != r1.width then 3
  else if r0.dedicated < 2 || r1.dedicated < 2 then 4
  else
    if d.get rBootState != 0 && (d.recordLacks r0 || d.recordLacks r1) then 5 else 0

/-- The credits that a sender holds at the start of UP, from its peer's record (R328). -/
def startCredits (a : Adapter) (peer : CapRecord) : Adapter :=
  { a with dedicated := (List.range 32).map (fun q => (q, peer.dedicated)), shared := peer.shared }

/-- R331: UP with fresh sequences and credits. -/
def Dev.moduleUp (d : Dev) (c : Nat) (r0 r1 : CapRecord) : Dev :=
  let d := d.setAdapter (2 * c) (startCredits (d.adapter (2 * c)) r1)
  let d := d.setAdapter (2 * c + 1) (startCredits (d.adapter (2 * c + 1)) r0)
  let x := d.chan c
  let d := (d.set (rSdTrainAttempts (chanModule c)) (min x.attempts 255)).endCommand c cmdDone
  let d := (d.setChan c { d.chan c with retrains := 0 }).setChanState c 5
  (d.drainTx (2 * c)).drainTx (2 * c + 1)

/-- CAPABILITY_RECORD (R329 to R331, R27): the peer's record reaches an end. -/
def execCapabilityRecord (adapter : Nat) (rec : CapRecord) (s : State) : Out :=
  occursAt 331 (adapter < 272) (fun d => (d.chan (adapter / 2)).state = 3)
    (fun d =>
      let c := adapter / 2
      let x := d.adapter adapter
      if !rec.crcOk then
        if x.recFails < 3 then d.setAdapter adapter { x with recFails := x.recFails + 1 } else d.failTraining c
      else
        let d := d.setAdapter adapter { x with peerRec := some rec }
        match (d.adapter (2 * c + 1)).peerRec, (d.adapter (2 * c)).peerRec with
        | some r0, some r1 =>
          let d := d.setDom (domSdPeerCaps (chanModule c)) (recordBytes r0 ++ recordBytes r1)
          (match d.exchangeCheck c r0 r1 with
           | 0 => d.moduleUp c r0 r1
           | 1 => d.failModule c kWeladeVersion
           | 2 => d.failModule c kWeladeTopology
           | 3 => (d.addSat (rSdWidthMismatches (chanModule c)) 1).failTraining c
           | 4 => d.failModule c kWeladeCredits
           | _ =>
             (d.failModule c kDieFeaturesLost).lackingDie (chanDie c (if d.recordLacks r0 then 0 else 1)))
        | _, _ => d) s

/-- EXCHANGE_TIMEOUT (R329): 100 µs from ACTIVE. -/
def execExchangeTimeout (module : Nat) (s : State) : Out :=
  occursAt 329 (module < 136)
    (fun d => (d.chan module).state = 3 && (d.chan module).activeAt + 100000 ≤ d.now)
    (fun d => d.failTraining module) s

/-- TRAINING_TIMEOUT (R331): an attempt exceeds 2 ms. -/
def execTrainingTimeout (module : Nat) (s : State) : Out :=
  occursAt 331 (module < 136)
    (fun d =>
      let x := d.chan module
      (x.state = 2 || x.state = 3 || x.state = 4) && x.started + 2000000 ≤ d.now)
    (fun d => d.failTraining module) s

/-- The record that an Otholt die sends from an end trained without a failing lane (Table 14-3, R328). -/
def Dev.ownRecord (d : Dev) (c e features : Nat) : CapRecord :=
  { crcOk := true, major := 1, minor := 0, dieType := endDieType c e, stepping := d.get (rDieStepping (chanDie c e)),
    maker := 1, position := endPosition c e, width := if c < 40 then 0x40 else 2 ^ ((c - 40) % 8), features := features,
    dedicated := 2, shared := 64, repair := 0 }

/-- A module or channel trains from reset in one attempt, as at boot and in a die's reset (R331, R407, R414). -/
def Dev.bringUp (d : Dev) (c features0 features1 : Nat) : Dev :=
  let r0 := d.ownRecord c 0 features0
  let r1 := d.ownRecord c 1 features1
  let d := d.setAdapter (2 * c) { Adapter.reset with width := r0.width, peerRec := some r1 }
  let d := d.setAdapter (2 * c + 1) { Adapter.reset with width := r1.width, peerRec := some r0 }
  let d := d.setDom (domSdPeerCaps (chanModule c)) (recordBytes r0 ++ recordBytes r1)
  (d.setChan c { Chan.reset with attempts := 1, lostFlits := (d.chan c).lostFlits, state := (d.chan c).state }).moduleUp c r0 r1

/-! ## Commands (R332) -/

/-- The channels of a module object are marked as those of the command that runs. -/
def Dev.markCommand (d : Dev) (c : Nat) : Dev := d.setChan c { d.chan c with command := true }

/-- The effect of writing `sdCommand`. A command that meets no module it acts on reads REFUSED (log 14). -/
def Dev.sdCommand (d : Dev) (m code : Nat) : Reply :=
  let r := rSdCommand m
  if code = 1 && !d.hasFeature 1 then (.range, d)
  else if d.get r = cmdRunning then (.busy, d)
  else if code = 1 then
    let l := (moduleChans m).filter (fun c => (d.chan c).state = 5)
    if l.length = 0 then (.ok, d.set r cmdRefused)
    else (.ok, (l.foldl (fun d c => (d.markCommand c).retrain c) d).set r cmdRunning)
  else if code = 2 then
    (.ok, ((moduleChans m).foldl (fun d c => ((d.loseModule c).setChanState c 0).faceCheck c) d).set r cmdDone)
  else
    let l := (moduleChans m).filter (fun c => (d.chan c).state = 0 || (d.chan c).state = 7)
    if l.length = 0 then (.ok, d.set r cmdRefused)
    else (.ok, (l.foldl (fun d c =>
        (d.setChan c { d.chan c with retrains := 0, attempts := 0, command := true }).startTraining c) d).set r cmdRunning)

/-- SD_RETRAIN (R332). -/
def execSdRetrain (p : Path) (module : Nat) (s : State) : Out :=
  if module < 52 then writeCommand p (moduleIndex module) 0x03 1 (fun d _ => d.sdCommand module 1) s else .refused (.noSuchOperand 332)

/-- SD_DISABLE (R332, Table 14-10). -/
def execSdDisable (p : Path) (module : Nat) (s : State) : Out :=
  if module < 52 then writeCommand p (moduleIndex module) 0x03 2 (fun d _ => d.sdCommand module 2) s else .refused (.noSuchOperand 332)

/-- SD_ENABLE (R332, Table 14-10). -/
def execSdEnable (p : Path) (module : Nat) (s : State) : Out :=
  if module < 52 then writeCommand p (moduleIndex module) 0x03 3 (fun d _ => d.sdCommand module 3) s else .refused (.noSuchOperand 332)

/-- RETRAIN_DRAIN_DONE (R332): both retry buffers are empty. -/
def execRetrainDrainDone (module : Nat) (s : State) : Out :=
  occursAt 332 (module < 136)
    (fun d => (d.chan module).state = 6 && (d.adapter (2 * module)).retry.length = 0
      && (d.adapter (2 * module + 1)).retry.length = 0)
    (fun d => d.startTraining module) s

/-- RETRAIN_DRAIN_EXPIRY (R332, R333): 100 µs have passed and flits are unacknowledged. -/
def execRetrainDrainExpiry (module : Nat) (s : State) : Out :=
  occursAt 332 (module < 136)
    (fun d => (d.chan module).state = 6 && (d.chan module).drainEnd ≤ d.now)
    (fun d => (d.loseModule module).startTraining module) s

/-- WELADE_RESYNC (R333): at a sender of an edge: the flits of the lost module after the named sequence are
sent over the remaining modules, ahead of new ones, and the held flits go. -/
def execWeladeResync (adapter lost seq : Nat) (s : State) : Out :=
  occursAt 333 (adapter < 272)
    (fun d =>
      let c := (edgeChans (chanEdge (adapter / 2)))[lost]?.getD 200
      c < 136 && (d.chan c).lostFlits.any (fun r => r.1 = adapter % 2))
    (fun d =>
      let d := d.takeMsg (fun m => m = .weladeResync adapter lost seq)
      let e := chanEdge (adapter / 2)
      let c := (edgeChans e)[lost]?.getD 200
      let x := d.chan c
      let mine := (x.lostFlits.filter (fun r => r.1 = adapter % 2)).map Prod.snd
      let after := if mine.any (fun r => r.seq = seq)
        then (mine.dropWhile (fun r => r.seq != seq)).drop 1 else mine
      let d := d.setChan c { x with lostFlits := x.lostFlits.filter (fun r => r.1 != adapter % 2) }
      let d := (after.map RetryFlit.flit).reverse.foldl (fun d f => d.resend c (adapter % 2) f) d
      (d.releaseEdge e (adapter % 2)).drainTx adapter) s

/-- RESYNC_TIMEOUT (R333): 20 µs without RESYNC. -/
def execResyncTimeout (module : Nat) (s : State) : Out :=
  occursAt 333 (module < 136)
    (fun d => (d.chan module).lostFlits.length != 0 && (d.chan module).resyncEnd ≤ d.now)
    (fun d =>
      let x := d.chan module
      let d := (d.addSat (rSdFlitsLost (chanModule module)) x.lostFlits.length).setChan module { x with lostFlits := [] }
      let d := d.raise kSolderFlitsLost (chanSource module) 0
      (d.releaseEdge (chanEdge module) 0).releaseEdge (chanEdge module) 1) s

end Sys2Proof.Machine
end

