-- ==== Sys2Proof/Machine/Fabric.lean ====
section
/-!
DEFINITION. The on-package network (chapter 13): paths between dies (R306), routing (R305, R307), what a
router input does with a flit (R300), answers at the edge of a unit out of service (R309, Table 13-7), router bypass
(R308) and injection regulation (R310, R311).
-/
namespace Sys2Proof.Machine

/-! ## Edges of units out of service (R309, Table 13-7) -/

/-- The unit of the IOD that an I/O flit is for: an engine cluster, by the class of the instance whose page it names, or a root port. A
Sterling instance's page stands before no one cluster (log 45). -/
def Dev.pageState (d : Dev) (f : Flit) : Option Nat :=
  match d.region f.addr with
  | .mmio off =>
    if off < 0x0100_0000 then
      let c := d.get (rInstClass (off / 0x1000))
      if c = 2 then some (d.unit (.cluster 4)) else if c = 3 then some (d.unit (.cluster 5)) else none
    else if 0x0001_0000_1000 ≤ off then (if d.blockFenced (8 + Config.rootPortOf f.addr) then some stFenced else none)
    else none
  | _ => none

/-- The state that decides the answer for a flit's destination: its die's, its core's, or that of the IOD's unit. -/
def Dev.destState (d : Dev) (f : Flit) : Nat :=
  let st := d.unit (.die f.dest.die)
  if st != stActive && st != stReady then st
  else if f.dest.die < 12 && f.agent < 240 && f.agent / 20 = f.dest.die then d.unit (.core f.agent)
  else if f.vn = 5 || f.vn = 6 then (d.pageState f).getD st
  else st

/-- The hart of an IMSIC file address. -/
def Dev.imsicHart (d : Dev) (a : Nat) : Option Nat :=
  match d.region a with
  | .mmio off => if 0x0200_0000 ≤ off && off < 0x0200_0000 + 240 * 0x8000 then some ((off - 0x0200_0000) / 0x8000) else none
  | _ => none

/-- R215: an MSI to a hart that is FENCED, BYPASSED or OFF is counted. -/
def Dev.countDropped (d : Dev) (a : Nat) : Dev :=
  match d.imsicHart a with
  | some k => d.addSat (rCoreMsiDropped k) 1
  | none => d

/-- The last byte of MMIO region descriptor `n`; its low bits read as 1. -/
def Dev.rgnLimit (d : Dev) (n : Nat) : Nat := d.get (rRgnLimit n) ||| 0xFFF

/-- The enabled descriptor that covers an I/O address. -/
def Dev.rgnOf (d : Dev) (a : Nat) : Option Nat :=
  (List.range 256).find? (fun n => d.flag (rRgnEnable n) && d.get (rRgnBase n) ≤ a && a ≤ d.rgnLimit n)

/-- R227: an error on a core's store is counted in the descriptor that covered it. -/
def Dev.countStoreError (d : Dev) (rgn : Option Nat) : Dev :=
  match rgn with
  | some n => d.addSat (rRgnStoreErrors n) 1
  | none => d

/-- A discarded posted flit (Table 13-7, VN5); the agent of an I/O write is its initiator (Table 13-3). -/
def Dev.dropPosted (d : Dev) (n : Nat) (f : Flit) : Dev :=
  let d := ((d.add rFabPostedDiscarded 1).raiseAt kPostedError (720 + n) f.addr 0).countDropped f.addr
  if f.agent < 240 then d.countStoreError (d.rgnOf f.addr) else d

/-- TARGET_OFFLINE on VN2 for a request. -/
def Dev.answerOffline (d : Dev) (f : Flit) : Dev :=
  let d := d.add rFabTargetOffline 1
  if f.vn = 6 then d.post (.ioResponse f.agent f.tag .offline 0)
  else if f.vn = 0 then d.post (.cmpWrite f.agent f.addr .offline)
  else d

/-- R296: TARGET_OFFLINE for a recall or Inv: an answer without data; an X owner's line is marked. -/
def Dev.answerGone (d : Dev) (f : Flit) : Dev :=
  let d := d.add rFabTargetOffline 1
  if f.msg = msgInv then d.invAnswered f.dest.die f.addr
  else
    let d := match d.txn f.addr with
      | some t => if t.recalls.contains f.agent && !(match t.kind with
          | .invWrite _ _ => true
          | _ => false) then d.markLine f.addr else d
      | none => d
    d.recallAnswered f.agent f.addr none false

/-- Table 13-7; none where the flit is delivered. -/
def Dev.edgeAnswer (d : Dev) (n : Nat) (f : Flit) : Option Dev :=
  let st := d.destState f
  if st = stFenced || stateGone st then
    if f.vn = 0 || f.vn = 6 || f.vn = 7 then some (d.answerOffline f)
    else if f.vn = 5 then some (d.dropPosted n f)
    else if st = stFenced then none
    else if f.vn = 1 then some (d.answerGone f)
    else if f.vn = 2 || f.vn = 3 then some d.lateResponse
    else none
  else none

/-! ## Router inputs (R300) -/

/-- Counter group of an input port. -/
def portGroup (n q : Nat) : Nat := 256 + 16 * n + q

/-- A flit leaves a router at output `q`, whose arbiter takes it from input `p` (R302). -/
def Dev.leavePort (d : Dev) (n p q : Nat) (f : Flit) : Dev :=
  ((d.grantPort (arbRouterOut n q) 16 p).countEvent (portGroup n q) 2 1 (some f.world)).countBytes (portGroup n q) 0 64 (some f.world)

/-- A good flit goes on from input `p` of a router, from the queue of its VN and VC (R302, R305, R307, R309). -/
def Dev.forward (d : Dev) (n p : Nat) (f : Flit) : Dev :=
  let d := d.grantPort (arbRouterIn n p) 32 (f.vn * 4 + f.vc)
  match d.hop n f with
  | .lost => d.raiseAt kFabricPartition (720 + n) f.addr 0
  | .mesh q => (d.leavePort n p q f).post (.flitReceive (neighbourAt n q).1 (neighbourAt n q).2 f .clean)
  | .here => (match d.edgeAnswer n f with
      | some d => d
      | none => d.leavePort n p 4 f)
  | .cross a =>
    match (if f.dest.die < 12 && 80 ≤ a then d.edgeAnswer n f else none) with
    | some d => d
    | none => (d.leavePort n p (if a < 80 then (chanRouter (a / 2) (a % 2)).2 else 4) f).cross (routerMesh n).1 (720 + n) f

/-- R300: an uncorrectable error at an input: the sender is asked to replay; a third failure in succession
takes a spare wire, and with none left the link is lost. -/
def Dev.inputError (d : Dev) (n q : Nat) (f : Flit) : Dev :=
  let r := d.router n
  let fails := tabGet r.fails q 0 + 1
  let spares := tabGet r.spares q 0
  let r := { r with replaying := tabPut r.replaying q (tabGet r.replaying q [] ++ [f]) }
  let d := d.addSat (rRtReplays n) 1
  if fails < 3 then d.setRouter n { r with fails := tabPut r.fails q fails }
  else if spares < 4 then
    (d.setRouter n { r with fails := tabErase r.fails q, spares := tabPut r.spares q (spares + 1) }).set
      (rRtSpares n) (d.get (rRtSpares n) + 1)
  else (d.setRouter n { r with fails := tabErase r.fails q }).raise kMeshLinkLost (720 + n) 0

/-- FLIT_RECEIVE (R300, R305, R309, R314). A flit that follows one in error is replayed after it. -/
def execFlitReceive (router port : Nat) (f : Flit) (c : FlitCheck) (s : State) : Out :=
  occursAt 300 (routerHasPort router port) (fun _ => true)
    (fun d =>
      let d := d.takeMsg (fun m => match m with
        | .flitReceive n q g _ => n = router && q = port && g = f
        | _ => false)
      let r := d.router router
      if (tabGet r.replaying port []).length != 0 then
        d.setRouter router { r with replaying := tabPut r.replaying port (tabGet r.replaying port [] ++ [f]) }
      else if c = .uncorrectable || f.kind = 3 then d.inputError router port f
      else
        let d := d.setRouter router { r with fails := tabErase r.fails port }
        let d := if c = .single then
            (d.add (rRtCorrected router) 1).countEvent (portGroup router port) 5 1 (some f.world)
          else d
        let d := d.countEvent (portGroup router port) 1 1 (some f.world)
        let d := d.countEvent (portGroup router port) (8 + f.vn) 1 (some f.world)
        (d.countBytes (portGroup router port) 64 0 (some f.world)).forward router port f) s

/-- LINK_REPLAY_REQUEST (R300): the sending router replays from the flit in error onward. -/
def execLinkReplayRequest (router port : Nat) (s : State) : Out :=
  occursAt 300 (routerHasPort router port)
    (fun d => (tabGet (d.router router).replaying port []).length != 0)
    (fun d =>
      let r := d.router router
      let l := tabGet r.replaying port []
      let d := d.setRouter router { r with replaying := tabErase r.replaying port }
      l.foldl (fun d f => d.post (.flitReceive router port f .clean)) d) s

/-- ROUTER_BYPASS (R308): a switch of the router fails its self-check; `bypassOk` is false when the fault is
in the bypass switch. -/
def execRouterBypass (router : Nat) (bypassOk : Bool) (s : State) : Out :=
  occursAt 308 (router < 160) (fun _ => true)
    (fun d =>
      let r := d.router router
      if !bypassOk || r.bypassed then d.raise kMeshLinkLost (720 + router) 0
      else
        ((d.setRouter router { r with bypassed := true }).set (rRtState router) stBypassed).raise
          kRouterBypass (720 + router) 0) s

/-- VN_ORDER_HOLD_RELEASE (R307): the far adapters have acknowledged every VN5 and VN6 flit of the old
assignment, or the far proxy those of the old link (R391: holds 20 to 23, by package); the held flits are sent. -/
def execVnOrderHoldRelease (edge : Nat) (s : State) : Out :=
  occursAt 307 (edge < 24)
    (fun d => match tabFind d.fab.held edge with
      | some h => 20 ≤ edge || h.waits.all (fun f => !(List.range 20).any (fun e => (d.orderedOut e).contains f))
      | none => false)
    (fun d => if 20 ≤ edge then d.hfRelease (edge - 20) else
      match tabFind d.fab.held edge with
      | some h =>
        h.flits.foldl (fun d x => d.cross x.1 880 x.2) { d with fab := { d.fab with held := tabErase d.fab.held edge } }
      | none => d) s

/-! ## Injection (R310, R311) -/

/-- The head request of each initiator at a point. -/
def headRequests : List InjReq → List InjReq
  | [] => []
  | r :: l => r :: (headRequests l).filter (fun x => x.initiator != r.initiator)

/-- A head request holds its tokens; a class at rate 1,024 is unregulated. -/
def Dev.holdsTokens (d : Dev) (point : Nat) (r : InjReq) : Bool :=
  d.get (rQosRate r.cls) = 1024 || r.flits * 1024 ≤ d.tokensNow point r.cls

/-- R311: the head request of an initiator at a point that may be injected now. -/
def Dev.readyHead (d : Dev) (point init : Nat) : Option InjReq :=
  (headRequests (tabGet d.fab.injQ point [])).find? (fun r => r.initiator = init && d.holdsTokens point r)

/-- FCLKs for which a head request has waited for tokens since it was queued. -/
def Dev.tokenWait (d : Dev) (point : Nat) (r : InjReq) : Nat :=
  match tabFind d.fab.tokens (point * 64 + r.cls) with
  | none => 0
  | some t =>
    let rate := d.get (rQosRate r.cls)
    let need := r.flits * 1024 - t.1
    let ready := t.2 + (need + rate - 1) / rate
    if need = 0 || rate = 1024 then 0 else min ready d.fclk - max r.since t.2

/-- INJECTION_GRANT (R310, R311): the arbiter of a point injects the head request of the next initiator. -/
def execInjectionGrant (point : Nat) (s : State) : Out :=
  occursAt 311 (point < 192)
    (fun d => (d.arbitrate (arbInjection point) 4096 (fun i => (d.readyHead point i).isSome)).1.isSome)
    (fun d =>
      let a := d.arbitrate (arbInjection point) 4096 (fun i => (d.readyHead point i).isSome)
      match a.1 with
      | none => d
      | some i =>
        match d.readyHead point i with
        | none => d
        | some r =>
          let left := d.tokensNow point r.cls - r.flits * 1024
          let d' := a.2.add (rQosThrottled r.cls) (d.tokenWait point r)
          let q := dropFirst (fun x => x = r) (tabGet d'.fab.injQ point [])
          let d' := { d' with fab := { d'.fab with
            injQ := if q.isEmpty then tabErase d'.fab.injQ point else tabPut d'.fab.injQ point q,
            tokens := tabPut d'.fab.tokens (point * 64 + r.cls) (left, d.fclk) } }
          let d' := d'.post r.msg
          match r.timer with
          | some t => d'.startTimer t.1 t.2
          | none => d') s

end Sys2Proof.Machine
end

