-- ==== Sys2Proof/Machine/Engines.lean ====
section
/-!
DEFINITION. Engines and their clusters in and out of service (R100, R105, R106, R125, R126, R155, R176), the attestation key of the
management slots (R411), the entropy sources and the DRBGs (R122, R123).
-/
namespace Sys2Proof.Machine

/-! ## Commands of one engine (R106, R125, R126) -/

/-- The index of an engine's object. -/
def engIndex (e : Nat) : Nat := if e < 64 then 0x7010 + e else if e < 80 then 0x7210 + (e - 64) else 0x7310 + (e - 80)

/-- A job is on the engine. -/
def Dev.engBusy (d : Dev) (e : Nat) : Bool := d.jobs.any (fun p => p.2.onEngine e)

/-- An engine becomes ACTIVE; a base die without a management slot takes one (R105). -/
def Dev.engJoin (d : Dev) (e : Nat) : Dev :=
  let d := d.set (rEngState e) stActive
  if e < 64 && !d.hasMgmtSlot (e / 16) then
    match d.lowestActive (e / 16) 88 with
    | some x => d.giveMgmtSlot (e / 16) x
    | none => d
  else d

/-- A command of an engine begins a task. -/
def Dev.engBegin (d : Dev) (e : Nat) (t : EngTask) : Dev :=
  (d.setEng e { d.eng e with task := t, command := true }).set (rEngCommand e) cmdRunning

/-- A command of an engine that has no more to do. -/
def Dev.engDone (d : Dev) (e : Nat) : Dev := d.set (rEngCommand e) cmdDone

/-- What every `engCommand` write meets first: a hand-over (R362), a command that runs (R47), a cluster that is not ACTIVE (R126). -/
def Dev.engWrite (d : Dev) (e : Nat) (k : Dev → Reply) : Reply :=
  if d.get (rBlkCommand (engCluster e)) = cmdRunning || d.get (rEngCommand e) = cmdRunning then (.busy, d)
  else if d.unit (.cluster (engCluster e)) != stActive then (.busy, d.set (rEngCommand e) cmdRefused)
  else k d

/-- The effect of ENABLE: a FENCED engine is self-tested first. -/
def Dev.engEnable (d : Dev) (e : Nat) : Reply :=
  let st := d.get (rEngState e)
  if st = stActive then (.ok, d.engDone e)
  else if st = stReady then (.ok, (d.engJoin e).engDone e)
  else if st = stFenced then (.ok, d.engBegin e .selfTest)
  else (.busy, d)

/-- QUIESCING has ended where no job is left on the engine. -/
def Dev.engDrained (d : Dev) (e : Nat) : Dev :=
  if (d.eng e).task = .drain && !d.engBusy e then
    let d := d.set (rEngState e) stReady
    let d := if (d.eng e).command then d.engDone e else d
    d.setEng e { d.eng e with task := .none, command := false, newVer := 0 }
  else d

/-- The effect of QUIESCE: no job starts, the jobs on the engine run to their end, then the engine is READY. -/
def Dev.engQuiesce (d : Dev) (e : Nat) : Reply :=
  if d.get (rEngState e) = stActive then
    (.ok, ((d.set (rEngState e) stQuiescing).engBegin e .drain).engDrained e)
  else (.ok, d.engDone e)

/-- The states in which an engine is taken out of service by a fence. -/
def fenceable (st : Nat) : Bool := st = stReset || st = stReady || st = stActive || st = stQuiescing

/-- R106, R373: an engine is fenced, and a command of it that runs is cut off; the command may be an ENABLE out of FENCED, and a
self-test of an engine that is FENCED is abandoned. -/
def Dev.fenceEngine (d : Dev) (e : Nat) : Dev :=
  let st := d.get (rEngState e)
  if fenceable st || (st = stFenced && ((d.eng e).command || (d.eng e).task != .none)) then d.engineOut e stFenced else d

/-- The UPDATE of an engine ends without effect. -/
def Dev.updateRefused (d : Dev) (e : Nat) : Dev :=
  (d.setEng e { d.eng e with task := .none, command := false }).set (rEngCommand e) cmdRefused

/-- UPDATE with an image that has been verified (R125, R410): the engine drains, and its slots move. -/
def Dev.updateStart (d : Dev) (e : Nat) : Dev :=
  let img := d.dom domStUcodeImage []
  if Config.ucodeEpoch img != d.get rStUcodeEpoch || !d.measRoom then d.updateRefused e
  else
    let d := d.measAppend 0x08 0xFF (Config.ucodeVersion img) (shake256 img 32)
    let d := (d.set (rEngState e) stQuiescing).engBegin e .update
    let d := d.moveSlots e
    d.setEng e { d.eng e with newVer := Config.ucodeVersion img + 1 }

/-- The effect of UPDATE (R125): an image that has not been verified is verified first, on a management slot (R451). -/
def Dev.engUpdate (d : Dev) (e : Nat) : Reply :=
  if d.get (rEngState e) != stActive then (.busy, d)
  else if d.boot.ucodeOk then (.ok, d.updateStart e)
  else
    match d.mgmtAdd (.ucode e) (d.dom domStUcodeImage []) false 0 with
    | none => (.busy, d)
    | some d => (.ok, d.engBegin e .verify)

/-- The digests of the boot keys that are not revoked, under which microcode verifies as management firmware does (R125, R403). -/
def Dev.liveDigests (d : Dev) : List (List Byte) :=
  (if d.fuses.revoked0 then [] else [d.fuses.keyDigest0]) ++ (if d.fuses.revoked1 then [] else [d.fuses.keyDigest1])

/-- The verification of microcode that runs on a base die's slot ends; an image that was staged anew meanwhile has not been verified. -/
def Dev.ucodeVerified (d : Dev) (b : Nat) : Dev :=
  match d.mgmtFront b with
  | none => d
  | some w =>
    match w.kind with
    | .ucode e =>
      let d := d.mgmtPop b
      if Config.ucodeValid w.data d.liveDigests && w.data = d.dom domStUcodeImage [] then
        ({ d with boot := { d.boot with ucodeOk := true } }).updateStart e
      else d.updateRefused e
    | _ => d

/-- The work is a verification of microcode. -/
def MgmtKind.isUcode : MgmtKind → Bool
  | .ucode _ => true
  | _ => false

/-- The verifications of microcode that run on usable slots end. No row tells the end: it is that of the next idle tick.
DESIGN CHOICE (log 67). -/
def Dev.ucodeTick (d : Dev) : Dev :=
  (List.range 4).foldl (fun d b => if d.mgmtRuns b MgmtKind.isUcode then d.ucodeVerified b else d) d

/-- An engine command as its own row. -/
def engRow (rule : Nat) (p : Path) (e code : Nat) (k : Dev → Reply) (s : State) : Out :=
  if e < 88 then writeCommand p (engIndex e) 0x02 code (fun d _ => d.engWrite e k) s else .refused (.noSuchOperand rule)

/-- The effect of FENCE. -/
def Dev.engFence (d : Dev) (e : Nat) : Reply := (.ok, (d.fenceEngine e).engDone e)

/-- The effect of RESET. -/
def Dev.engResetCmd (d : Dev) (e : Nat) : Reply := (.ok, (d.engineReset e).engBegin e .selfTest)

/-- ENG_NOP (R126). -/
def execEngNop (p : Path) (eng : Nat) (s : State) : Out := engRow 126 p eng 0 (fun d => (.ok, d.engDone eng)) s

/-- ENG_ENABLE (R106). -/
def execEngEnable (p : Path) (eng : Nat) (s : State) : Out := engRow 106 p eng 1 (fun d => d.engEnable eng) s

/-- ENG_QUIESCE (R126). -/
def execEngQuiesce (p : Path) (eng : Nat) (s : State) : Out := engRow 126 p eng 2 (fun d => d.engQuiesce eng) s

/-- ENG_FENCE (R106). -/
def execEngFence (p : Path) (eng : Nat) (s : State) : Out := engRow 106 p eng 3 (fun d => d.engFence eng) s

/-- ENG_RESET (R106). -/
def execEngReset (p : Path) (eng : Nat) (s : State) : Out := engRow 106 p eng 4 (fun d => d.engResetCmd eng) s

/-- ENG_UPDATE (R125): of Sterling engines; of the others the code returns RANGE. -/
def execEngUpdate (p : Path) (eng : Nat) (s : State) : Out := engRow 125 p eng 6 (fun d => d.engUpdate eng) s

/-- UPDATE_DRAIN_DONE (R125): the engine's jobs have ended; it loads the image and runs its self-test. -/
def execUpdateDrainDone (eng : Nat) (s : State) : Out :=
  occursAt 125 (eng < 88) (fun d => (d.eng eng).task = .update && !d.engBusy eng)
    (fun d => d.setEng eng { d.eng eng with task := .selfTest }) s

/-! ## Clusters (R100, R126, R155, R176) -/

/-- No self-test of the cluster's engines is running. -/
def Dev.clusterTested (d : Dev) (c : Nat) : Bool := (clusterEngines c).all (fun e => (d.eng e).task != .selfTest)

/-- No job is on the cluster's engines. -/
def Dev.clusterIdle (d : Dev) (c : Nat) : Bool := (clusterEngines c).all (fun e => !d.engBusy e)

/-- A cluster enters a state and its command ends. -/
def Dev.clusterEnd (d : Dev) (c st : Nat) : Dev := (d.setUnit (.cluster c) st).set (rUnitCommand (.cluster c)) cmdDone

/-- A command of a cluster that waits for self-tests ends with the last of them: a reset in READY, an ENABLE in ACTIVE. -/
def Dev.clusterStep (d : Dev) (c : Nat) : Dev :=
  if d.get (rUnitCommand (.cluster c)) = cmdRunning && d.clusterTested c then
    d.clusterEnd c (if d.unit (.cluster c) = stReset then stReady else stActive)
  else d

/-- A QUIESCE of a cluster ends with the last job on its engines. -/
def Dev.clusterDrained (d : Dev) (c : Nat) : Dev :=
  if d.unit (.cluster c) = stQuiescing && d.get (rUnitCommand (.cluster c)) = cmdRunning && d.clusterIdle c then
    d.clusterEnd c stReady
  else d

/-- ENABLE of a cluster: its READY engines become ACTIVE, the FENCED ones when their self-tests pass. A cluster that is OFF
is powered and its engines are reset. -/
def Dev.clusterEnable (d : Dev) (c : Nat) : Reply :=
  let st := d.unit (.cluster c)
  if st = stActive then (.ok, d.set (rUnitCommand (.cluster c)) cmdDone)
  else
    let d := d.set (rUnitCommand (.cluster c)) cmdRunning
    let d := (clusterEngines c).foldl (fun d e =>
      let x := d.get (rEngState e)
      if st = stOff then d.engineReset e
      else if x = stReady then d.engJoin e
      else if x = stFenced && (d.eng e).task = .none then d.startSelfTest e
      else d) d
    (.ok, d.clusterStep c)

/-- QUIESCE of a cluster: it acts on every engine, and abandons updates (R126). -/
def Dev.clusterQuiesce (d : Dev) (c : Nat) : Reply :=
  if d.unit (.cluster c) != stActive then (.ok, d.set (rUnitCommand (.cluster c)) cmdDone)
  else
    let d := (d.setUnit (.cluster c) stQuiescing).set (rUnitCommand (.cluster c)) cmdRunning
    let d := (clusterEngines c).foldl (fun d e =>
      let st := d.get (rEngState e)
      if st = stActive || st = stQuiescing then
        let d := if (d.eng e).command && (d.eng e).task != .drain then
            (d.set (rEngCommand e) cmdRefused).setEng e { d.eng e with command := false }
          else d
        ((((d.dropUcode e).set (rEngState e) stQuiescing).setEng e { d.eng e with task := .drain, newVer := 0 })).engDrained e
      else d) d
    (.ok, d.clusterDrained c)

/-- FENCE of a cluster (R106). -/
def Dev.clusterFence (d : Dev) (c : Nat) : Dev :=
  (clusterEngines c).foldl Dev.fenceEngine (d.setUnit (.cluster c) stFenced)

/-- RESET of a cluster: every engine is reset and self-tested. -/
def Dev.clusterReset (d : Dev) (c : Nat) : Dev :=
  let d := (d.setUnit (.cluster c) stReset).set (rUnitCommand (.cluster c)) cmdRunning
  (clusterEngines c).foldl Dev.engineReset d

/-- A cluster is powered off: its engines leave service (R93, R155, R176). -/
def Dev.clusterOff (d : Dev) (c : Nat) : Dev :=
  (clusterEngines c).foldl (fun d e => (d.engineOut e stOff)) ((d.setUnit (.cluster c) stOff))

/-- The engines of the cluster may be ACTIVE: it is, or its ENABLE runs. -/
def Dev.clusterServes (d : Dev) (c : Nat) : Bool :=
  let st := d.unit (.cluster c)
  st = stActive || (d.get (rUnitCommand (.cluster c)) = cmdRunning && (st = stReady || st = stFenced || st = stOff))

/-- ENGINE_SELF_TEST_DONE (R106, R110, R125): an engine that passes is ACTIVE, under its new microcode where an update loaded
it, and READY in a cluster that does not serve (R126); one that fails is FAILED and leaves service. -/
def execEngineSelfTestDone (eng : Nat) (pass : Passed) (s : State) : Out :=
  occursAt 106 (eng < 88) (fun d => (d.eng eng).task = .selfTest)
    (fun d =>
      let x := d.eng eng
      let d := d.setEng eng { x with task := .none, command := false, newVer := 0 }
      let d := if eng < 64 then d.set (rStEngSelfTest eng) (if pass then 1 else 2) else d
      let d := if x.command then d.set (rEngCommand eng) (if pass then cmdDone else cmdRefused) else d
      let d := if pass then
          let d := if x.newVer != 0 then d.set (rStEngUcodeVersion eng) (x.newVer - 1) else d
          if d.clusterServes (engCluster eng) then d.engJoin eng else d.set (rEngState eng) stReady
        else (d.engineOut eng stFailed).raise kEngineSelfTest (engSource eng) 0
      d.clusterStep (engCluster eng)) s

/-! ## The attestation key (R411) -/

/-- ATT_KEY_DERIVED (R411): the management slot of a base die holds the key, and the public key is published. -/
def execAttKeyDerived (b : Nat) (s : State) : Out :=
  occursAt 411 (b < 4)
    (fun d =>
      match d.mgmtEngine b with
      | some e => d.get (rEngState e) = stActive && (tabFind d.attKeys e).isNone
      | none => false)
    (fun d =>
      match d.mgmtEngine b with
      | some e => ({ d with attKeys := tabPut d.attKeys e 1 }).setDom domAttPublicKey (padTo 1793 d.attKeyPair.2)
      | none => d) s

/-! ## Entropy sources and DRBGs (R122, R123) -/

/-- DRBG_RESEED (R123): the reseed point of 100 ms, or of the number of calls. -/
def execDrbgReseed (b : Nat) (s : State) : Out :=
  occursAt 123 (b < 4)
    (fun d =>
      let x := d.drbg b
      x.serving && (x.lastSeed + 100000000 ≤ d.now || d.get (rDrbgReseedCalls b) ≤ x.calls))
    (fun d => d.drbgPoint b) s

/-- The source of a base die is FAILED; a start-up command that runs ends. -/
def Dev.esFail (d : Dev) (b : Nat) : Dev :=
  let d := d.set (rEsState b) 2
  let d := if d.get (rEsRestart b) = cmdRunning then d.set (rEsRestart b) cmdRefused else d
  d.raise kEntropyHealth (496 + b) 0

/-- ES_HEALTH_FAIL (R122). -/
def execEsHealthFail (b : Nat) (rct : Bool) (s : State) : Out :=
  occursAt 122 (b < 4) (fun d => d.get (rEsState b) != 2)
    (fun d => (d.addSat (if rct then rEsRctFails b else rEsAptFails b) 1).esFail b) s

/-- The effect of writing 1 to `esRestart`. -/
def Dev.esRestart (d : Dev) (b : Nat) : Reply :=
  if d.get (rEsRestart b) = cmdRunning then (.busy, d) else (.ok, (d.set (rEsState b) 0).set (rEsRestart b) cmdRunning)

/-- ES_RESTART (R122). -/
def execEsRestart (p : Path) (b value : Nat) (s : State) : Out :=
  if b < 4 then writeCommand p (0x7050 + b) 0x04 value (fun d _ => d.esRestart b) s else .refused (.noSuchOperand 122)

/-- ES_STARTUP_DONE (R122, R123): the first time the source is HEALTHY its DRBG is instantiated; one that had stopped serving
reseeds. -/
def execEsStartupDone (b : Nat) (pass : Passed) (s : State) : Out :=
  occursAt 122 (b < 4) (fun d => d.get (rEsState b) = 0)
    (fun d =>
      if pass then
        let d := d.set (rEsState b) 1
        let d := if d.get (rEsRestart b) = cmdRunning then d.set (rEsRestart b) cmdDone else d
        let x := d.drbg b
        if !x.ready then d.drbgSeed b
        else if !x.serving then d.drbgPoint b
        else d
      else d.esFail b) s

end Sys2Proof.Machine
end

