-- ==== Sys2Proof/Machine/Units.lean ====
section
/-!
DEFINITION. Units: the commands of their headers (R10 to R13, R198, R315, R414, R415), compute dies that leave service (R30, R382),
and resets of harts put off (R415).
-/
namespace Sys2Proof.Machine

/-! ## What a command meets first (R10 to R12, R40, R362, R363, R378, R408) -/

/-- R12: the codes that a unit kind supports (R100, R155, R176, R198, R413, R414). Of packages and systems no chapter lists
any: NOP alone is taken. DEDUCED (log 40). -/
def unitSupports : UnitRef → UnitCmd → Bool
  | _, .nop => true
  | .core _, .quiesce => false
  | .core _, _ => true
  | .cluster c, .powerOff => 4 ≤ c
  | .cluster _, _ => true
  | .die n, _ => n < 12
  | .package, _ => false
  | .system, _ => false

/-- R194: a unit that is a shadow core. -/
def Dev.unitShadow (d : Dev) : UnitRef → Bool
  | .core k => d.isShadow k
  | _ => false

/-- R11: the parent cannot take a command. -/
def Dev.parentDown (d : Dev) (u : UnitRef) : Bool :=
  match unitParent u with
  | none => false
  | some p =>
    let st := d.unit p
    st = stOff || st = stReset || st = stFenced || st = stBypassed || st = stFailed

/-- A command of the unit runs (R10). -/
def Dev.unitRunning (d : Dev) (u : UnitRef) : Bool := d.get (rUnitCommand u) = cmdRunning

/-- The states in which a unit answers BUSY to a command, beside a command that runs. -/
def Dev.unitBusy (d : Dev) (u : UnitRef) (c : UnitCmd) : Bool :=
  (c = .enable && d.unit u = stQuiescing)
  || (match u with
      | .cluster n =>
        d.get (rBlkCommand n) = cmdRunning
        || (c = .powerOff && d.blockWorld n = .tantalum)
        || (c = .enable && d.fus.stopped)
      | .core k => c = .enable && (!d.flag rAddrMapLocked || d.get rBootState != 5 || d.unit (.die (k / 20)) = stQuiescing)
      | _ => false)

/-- A command ends with DONE. -/
def Dev.unitDone (d : Dev) (u : UnitRef) : Dev := d.set (rUnitCommand u) cmdDone

/-- A command of a unit whose state forbids it is refused as R11 has it. -/
def Dev.unitRefuse (d : Dev) (u : UnitRef) : Reply := (.busy, d.set (rUnitCommand u) cmdRefused)

/-- A command to a unit, its code taken. While a command runs R10 governs alone, and nothing changes; R11 goes before every other
BUSY. The manual does not rank the two rules: DESIGN CHOICE (log 50). -/
def Dev.unitWrite (d : Dev) (u : UnitRef) (c : UnitCmd) (k : Dev → Reply) : Reply :=
  if d.unitShadow u || !unitSupports u c then (.range, d)
  else if d.unitRunning u then (.busy, d)
  else if d.parentDown u then d.unitRefuse u
  else if d.unitBusy u c then (.busy, d)
  else k d

/-! ## Stopping a core (R198, R315) -/

/-- A core stops executing; its stores and outstanding requests go on to their end. -/
def Dev.stopCore (d : Dev) (k : Nat) : Dev :=
  d.setHart k { (d.hart k).abandon with running := false, resv := none, walks := [], fetched := [], inWcall := false }

/-- A core that was in service stops and drains in a state. -/
def Dev.drainCore (d : Dev) (k st : Nat) : Dev := ((d.stopCore k).setCore k st).coreSettle k

/-- R415: a hart that executes Tantalum code is not cut off by the normal world. -/
def Dev.cutProtected (d : Dev) (k : Nat) : Bool := (d.hart k).running && (d.hart k).world = .tantalum

/-- A core reset reaches its hart: at once, or when the hart next runs in the normal world. -/
def Dev.resetCoreFrom (d : Dev) (k : Nat) (w : World) : Dev :=
  if w = .normal && d.cutProtected k then d.setHart k { d.hart k with deferred := true } else d.drainCore k stQuiescing

/-! ## Compute dies (R414) -/

/-- The states in which a unit may be fenced. -/
def unitFenceable (st : Nat) : Bool := st = stReset || st = stReady || st = stActive || st = stQuiescing

/-- A core of a die whose reset begins: it drains, or waits under R415, unless it is out of service. -/
def Dev.dieResetCore (w : World) (d : Dev) (k : Nat) : Dev :=
  if d.unit (.core k) = stActive || d.unit (.core k) = stReady then d.resetCoreFrom k w else d

/-- The effect of RESET on a compute die: step 1 of R414, and step 2 where nothing has to drain. -/
def Dev.resetDie (d : Dev) (n : Nat) (w : World) : Dev :=
  let d := (d.setUnit (.die n) stQuiescing).set (rUnitCommand (.die n)) cmdRunning
  let d := { d with resetting := d.resetting ++ [n] }
  ((d.leadCores n).foldl (Dev.dieResetCore w) d).dieDrained n

/-- The objects that a compute-die reset returns to their defaults (R48, Table 19-7): `coreModeNext` survives, and what is fused is the
default of the identity object. -/
def dieResetIndex (n i : Nat) : Bool :=
  (0x3001 + 0x80 * n < i && i < 0x3080 + 0x80 * n && i != 0x3003 + 0x80 * n) || i = 0x6440 + n

/-- A FAILED core returns from a reset of its die where its self-test passes (R9); a free value tells. -/
def Dev.coreAfterDie (d : Dev) (k : Nat) : Dev :=
  if d.unit (.core k) = stFailed then
    let p := d.takeBool
    (p.2.clearCore k).setCore k (if p.1 then stReady else stFailed)
  else (d.clearCore k).setCore k stReady

/-- The cores of a die that come out of reset: in pair mode the shadow shows its lead's state. -/
def Dev.releaseCores (d : Dev) (n : Nat) : Dev := (d.leadCores n).foldl Dev.coreAfterDie d

/-! ## The commands -/

/-- The effect of ENABLE. -/
def Dev.enableUnit (d : Dev) (u : UnitRef) : Reply :=
  match u with
  | .cluster c => d.clusterEnable c
  | _ =>
    if d.unit u = stActive then (.ok, d.unitDone u)
    else if d.unit u != stReady then d.unitRefuse u
    else
      match u with
      | .core k => (.ok, (d.startCore k).unitDone u)
      | _ => (.ok, (d.setUnit u stActive).unitDone u)

/-- The effect of QUIESCE: of a compute die, it takes no ENABLE of a core, and is READY when none of its cores executes. -/
def Dev.quiesceUnit (d : Dev) (u : UnitRef) : Reply :=
  match u with
  | .cluster c => d.clusterQuiesce c
  | .die n =>
    if d.unit u = stActive then (.ok, ((d.setUnit u stQuiescing).set (rUnitCommand u) cmdRunning).dieDrained n)
    else (.ok, d.unitDone u)
  | _ => (.ok, d.unitDone u)

/-- The effect of FENCE. -/
def Dev.fenceUnit (d : Dev) (u : UnitRef) : Reply :=
  if d.unit u = stFenced then (.ok, d.unitDone u)
  else if !unitFenceable (d.unit u) then d.unitRefuse u
  else
    match u with
    | .core k => (.ok, (d.fencePair k).unitDone u)
    | .cluster c => (.ok, (d.clusterFence c).unitDone u)
    | .die n => (.ok, (d.fenceDie n).unitDone u)
    | _ => (.ok, d.unitDone u)

/-- The effect of RESET. A core or a compute die leaves FAILED only with its parent (R9). -/
def Dev.resetUnit (d : Dev) (u : UnitRef) (w : World) : Reply :=
  match u with
  | .cluster c => (.ok, d.clusterReset c)
  | .core k =>
    if d.unit u = stFailed then d.unitRefuse u
    else (.ok, (d.set (rUnitCommand u) cmdRunning).resetCoreFrom k w)
  | .die n => if d.unit u = stFailed then d.unitRefuse u else (.ok, d.resetDie n w)
  | _ => (.ok, d.unitDone u)

/-- R315 steps 1 and 2 of a core. -/
def Dev.powerDownCore (d : Dev) (k : Nat) : Dev :=
  if unitFenceable (d.unit (.core k)) then d.drainCore k stFenced else d

/-- The effect of POWER_OFF. -/
def Dev.powerOffUnit (d : Dev) (u : UnitRef) : Reply :=
  if d.unit u = stOff then (.ok, d.unitDone u)
  else if d.unit u = stFailed || d.unit u = stBypassed then d.unitRefuse u
  else
    let d := d.set (rUnitCommand u) cmdRunning
    match u with
    | .core k => (.ok, d.powerDownCore k)
    | .cluster c => (.ok, d.clusterFence c)
    | .die n => (.ok, (d.leadCores n).foldl Dev.powerDownCore (d.setUnit u stFenced))
    | _ => (.ok, d.unitDone u)

/-- A unit command as its own row. -/
def unitRow (rule : Nat) (p : Path) (u : UnitRef) (c : UnitCmd) (k : Dev → Reply) (s : State) : Out :=
  if unitExists u then writeCommand p (headerIndex u) 0x08 (unitCmdCode c) (fun d _ => d.unitWrite u c k) s
  else .refused (.noSuchOperand rule)

/-- The command of a unit by its code. -/
def Dev.unitCommand (d : Dev) (p : Path) (u : UnitRef) (c : UnitCmd) : Reply :=
  d.unitWrite u c (fun d =>
    match c with
    | .nop => (.ok, d.unitDone u)
    | .enable => d.enableUnit u
    | .quiesce => d.quiesceUnit u
    | .fence => d.fenceUnit u
    | .reset => d.resetUnit u (d.pathWorld p)
    | .powerOff => d.powerOffUnit u)

/-- UNIT_NOP (R10 to R12). -/
def execUnitNop (p : Path) (u : UnitRef) (s : State) : Out := unitRow 10 p u .nop (fun d => (.ok, d.unitDone u)) s

/-- UNIT_ENABLE (R198, R10). -/
def execUnitEnable (p : Path) (u : UnitRef) (s : State) : Out := unitRow 198 p u .enable (fun d => d.enableUnit u) s

/-- UNIT_QUIESCE (R10). -/
def execUnitQuiesce (p : Path) (u : UnitRef) (s : State) : Out := unitRow 10 p u .quiesce (fun d => d.quiesceUnit u) s

/-- UNIT_FENCE (R198). -/
def execUnitFence (p : Path) (u : UnitRef) (s : State) : Out := unitRow 198 p u .fence (fun d => d.fenceUnit u) s

/-- UNIT_RESET (R413 to R415). -/
def execUnitReset (p : Path) (u : UnitRef) (s : State) : Out :=
  unitRow 413 p u .reset (fun d => d.resetUnit u (d.pathWorld p)) s

/-- UNIT_POWER_OFF (R315). -/
def execUnitPowerOff (p : Path) (u : UnitRef) (s : State) : Out := unitRow 315 p u .powerOff (fun d => d.powerOffUnit u) s

/-! ## What follows -/

/-- A unit that drains under POWER_OFF has nothing left. -/
def Dev.unitDrained (d : Dev) : UnitRef → Bool
  | .core k => d.coreDrained k
  | .cluster c => d.clusterIdle c
  | .die n => (d.leadCores n).all (fun k => d.unit (.core k) != stFenced || d.coreDrained k)
  | _ => false

/-- A core loses power: its hart is lost, and it leaves service at the homes (R290). -/
def Dev.coreOff (d : Dev) (k : Nat) : Dev := (d.clearCore k).setCore k stOff

/-- A core of a die that loses power; one that is FAILED stays so (R9). -/
def Dev.coreOffWithDie (d : Dev) (k : Nat) : Dev := if d.unit (.core k) = stFailed then d.clearCore k else d.coreOff k

/-- R315 step 3. -/
def Dev.unitOff (d : Dev) (u : UnitRef) : Dev :=
  match u with
  | .core k => ((d.coreOff k).unitDone u).dieDrained (k / 20)
  | .cluster c => (d.clusterOff c).unitDone u
  | .die n =>
    let d := (d.leadCores n).foldl Dev.coreOffWithDie d
    let d := { d with power := { d.power with changes := tabErase d.power.changes n } }
    ((d.setUnit u stOff).set (rPllState n) 0).unitDone u
  | _ => d.unitDone u

/-- POWER_OFF_DRAIN_DONE (R315). -/
def execPowerOffDrainDone (u : UnitRef) (s : State) : Out :=
  occursAt 315 (unitExists u)
    (fun d => d.unit u = stFenced && d.get (rUnitCommand u) = cmdRunning && d.unitDrained u)
    (fun d => d.unitOff u) s

/-- DEFERRED_RESET_APPLY (R415). -/
def execDeferredResetApply (hart : Nat) (s : State) : Out :=
  occursAt 415 (hart < 240) (fun d => (d.hart hart).deferred && !d.cutProtected hart)
    (fun d => (d.setHart hart { d.hart hart with deferred := false }).drainCore hart stQuiescing) s

/-- DIE_RESET_COMPLETE (R414, R27, R9): steps 3 to 5, with the feature bitmap that the die reports on linking again. -/
def execDieResetComplete (die : Nat) (pass : Passed) (features : Nat) (s : State) : Out :=
  occursAt 414 (die < 12)
    (fun d => d.unit (.die die) = stBypassed && d.get (rUnitCommand (.die die)) = cmdRunning)
    (fun d =>
      let next := d.get (rCoreModeNext die)
      let d := (d.resetRegs (dieResetIndex die)).clearGroup (212 + die)
      let d := { d with filters := tabDrop d.filters (fun k => k / 32768 = die),
                        power := { d.power with changes := tabErase d.power.changes die } }
      let d := (List.range 8).foldl (fun d i => (d.loseModule (40 + 8 * die + i)).setChanState (40 + 8 * die + i) 1) d
      let d := d.set (rDieFeatures die) (features % 2 ^ 64)
      let has : Bool := bitsClear (d.get rPkgFeatures) features = 0
      if pass && has then
        let d := (d.set (rCoreModeActive die) next).lockPll die
        let d := (d.releaseCores die).setUnit (.die die) stReady
        let d := (List.range 8).foldl (fun d i => d.bringUp (40 + 8 * die + i) features (d.get (rDieFeatures (12 + die / 3)))) d
        (d.startStep die).unitDone (.die die)
      else
        let d := (List.range 8).foldl (fun d i => d.setChanState (40 + 8 * die + i) 7) d
        let d := (d.setUnit (.die die) stFailed).set (rUnitCommand (.die die)) cmdRefused
        if has then d else d.raise kDieFeaturesLost (680 + die) 0) s

end Sys2Proof.Machine
end

