-- ==== Sys2Proof/Machine/AddressMap.lean ====
section
/-!
DEFINITION. Clocks and their steps (R30 to R32, R443), lock objects (R46), local regions (R39, R40) and MMIO regions (R218, R219).
-/
namespace Sys2Proof.Machine

/-! ## CCLK steps (R31, R32, R443) -/

/-- R18, R26: the step is outside the speed bin or the package's features. -/
def Dev.stepBarred (d : Dev) (v : Nat) : Bool :=
  (v = 0 && (d.fuses.speed24 || !d.hasFeature 16)) || (v = 1 && !d.hasFeature 4) || (v = 3 && !d.hasFeature 5)

/-- The effect of writing `cclkStep`. -/
def Dev.cclkWrite (d : Dev) (n v : Nat) : Reply :=
  if d.stepBarred v then (.range, d)
  else if (tabFind d.power.changes n).isSome then (.busy, d)
  else (.ok, (d.set (rCclkStep n) v).startStep n)

/-- CCLK_STEP_WRITE (R32, R443). -/
def execCclkStepWrite (p : Path) (die value : Nat) (s : State) : Out :=
  if die < 17 then writeCommand p (0x3002 + 0x80 * die) 0x02 value (fun d _ => d.cclkWrite die value) s
  else .refused (.noSuchOperand 32)

/-- Root cycles since the PLL of a die locked. -/
def Dev.sinceLock (d : Dev) (n : Nat) : Nat := d.clock.root - tabGet d.clock.locks n 0

/-- A part of a step change is over: the change is too when the divider has switched and the voltage has settled, and a cap that waited
starts the next (R443). -/
def Dev.stepGoes (d : Dev) (n : Nat) (c : StepChange) : Dev :=
  if c.switched && c.settled then ({ d with power := { d.power with changes := tabErase d.power.changes n } }).startStep n
  else { d with power := { d.power with changes := tabPut d.power.changes n c } }

/-- The divider of a die may switch: at a root cycle whose count since PLL lock is a multiple of 120, toward a faster step once the
voltage has risen. -/
def Dev.switchDue (d : Dev) (n : Nat) : Bool :=
  match tabFind d.power.changes n with
  | some c => !c.switched && (!c.faster || c.settled) && d.sinceLock n % 120 = 0
  | none => false

/-- CCLK_DIVIDER_SWITCH (R31). -/
def execCclkDividerSwitch (die : Nat) (s : State) : Out :=
  occursAt 31 (die < 12) (fun d => d.switchDue die)
    (fun d =>
      match tabFind d.power.changes die with
      | some c => (d.set (rCclkActive die) c.target).stepGoes die { c with switched := true }
      | none => d) s

/-- STEP_VOLTAGE_SETTLED (R31): before the switch to a faster step, after that to a slower one. -/
def execStepVoltageSettled (die : Nat) (s : State) : Out :=
  occursAt 31 (die < 12)
    (fun d => match tabFind d.power.changes die with
      | some c => !c.settled && (c.faster || c.switched)
      | none => false)
    (fun d =>
      match tabFind d.power.changes die with
      | some c => (d.addWrap32 (rStepChanges die)).stepGoes die { c with settled := true }
      | none => d) s

/-! ## Loss of lock (R30) -/

/-- PLL_LOCK_LOST (R30). -/
def execPllLockLost (die : Nat) (s : State) : Out :=
  occursAt 30 (die < 17) (fun d => d.get (rPllState die) = 1)
    (fun d =>
      let d := d.set (rPllState die) 2
      if die < 12 then (d.dieLost die).raise kPllLost (480 + die) 0
      else d.raise kClockLost (if die < 16 then 480 + die else 880) 0) s

/-- Every PLL reads LOST. -/
def Dev.allPllsLost (d : Dev) : Dev := (List.range 17).foldl (fun d n => d.set (rPllState n) 2) d

/-- REFCLK_LOST (R30, R437). -/
def execRefclkLost (s : State) : Out :=
  occurs 30 (fun d => d.pins.refclk && d.pins.rstN)
    (fun d => ({ d.allPllsLost with pins := { d.pins with refclk := false } }).raise kClockLost 880 0) s

/-! ## Lock objects (R46) -/

/-- The place of a lock object. -/
def lockPlace : LockObject → Nat × Nat
  | .addrMapLocked => (0x2002, 0x06)
  | .ksLocked => (0x7060, 0x04)

/-- The register of a lock object. -/
def rLock : LockObject → Reg
  | .addrMapLocked => rAddrMapLocked
  | .ksLocked => rKsLocked

/-- The effect of writing a lock object. -/
def Dev.lockWrite (d : Dev) (l : LockObject) (v : Nat) : Reply := (.ok, if v = 1 then d.set (rLock l) 1 else d)

/-- LOCK_OBJECT_WRITE (R46). -/
def execLockObjectWrite (p : Path) (l : LockObject) (value : Nat) (s : State) : Out :=
  writeCommand p (lockPlace l).1 (lockPlace l).2 value (fun d _ => d.lockWrite l value) s

/-! ## Local regions (R39, R40) -/

/-- Two ranges, by first and last byte, share an address. -/
def rangesMeet (a la b lb : Nat) : Bool := a ≤ lb && b ≤ la

/-- Enabling descriptor `n` returns RANGE (R39). A range that leaves the slot of one package, which R39 forbids without naming a status,
does so too: DESIGN CHOICE (log 51). -/
def Dev.lrBad (d : Dev) (n : Nat) : Bool :=
  let b := d.get (rLrBase n)
  let l := d.lrLimit n
  let h := d.slotBase
  let die := h + d.get (rLrBaseDie n) * 0xC_0000_0000
  l < b
  || (List.range 16).any (fun m => m != n && d.flag (rLrEnable m) && rangesMeet b l (d.get (rLrBase m)) (d.lrLimit m))
  || 0x4000_0000_0000 ≤ l || b / 0x1000_0000_0000 != l / 0x1000_0000_0000
  || (rangesMeet b l h (h + 0x2F_FFFF_FFFF)
      && (d.get rHbmInterleave = 1 || !(die ≤ max b h && min l (h + 0x2F_FFFF_FFFF) < die + 0xC_0000_0000)))

/-- The effect of writing `lrEnable`. -/
def Dev.lrEnableWrite (d : Dev) (n v : Nat) : Reply :=
  if v = 1 && d.lrBad n then (.range, d) else (.ok, d.set (rLrEnable n) v)

/-- LOCAL_REGION_ENABLE (R39). -/
def execLocalRegionEnable (p : Path) (n value : Nat) (s : State) : Out :=
  if n < 16 then writeCommand p (0x2010 + n) 0x01 value (fun d _ => d.lrEnableWrite n value) s
  else .refused (.noSuchOperand 39)

/-! ## MMIO regions (R218, R219) -/

/-- Enabling descriptor `n` returns RANGE (R218). -/
def Dev.rgnBad (d : Dev) (n : Nat) : Bool :=
  let b := d.get (rRgnBase n)
  let l := d.rgnLimit n
  l < b || b < 0x4_0000_0000_0000 || 0x8_0000_0000_0000 ≤ l
  || (List.range 256).any (fun m => m != n && d.flag (rRgnEnable m) && rangesMeet b l (d.get (rRgnBase m)) (d.rgnLimit m))

/-- The effect of writing `rgnEnable`: it returns OK when every lookup point holds the new state. -/
def Dev.rgnEnableWrite (d : Dev) (n v : Nat) : Reply :=
  if v = 1 && d.rgnBad n then (.range, d) else (.ok, d.set (rRgnEnable n) v)

/-- RGN_ENABLE_WRITE (R218, R219): of the descriptor that the path has selected. -/
def execRgnEnableWrite (p : Path) (value : Nat) (s : State) : Out :=
  writeCommand p 0x2041 0x01 value (fun d _ => d.rgnEnableWrite (d.selected 0x2040 p) value) s

/-- The effect of writing another sub-entry of an MMIO region descriptor: BUSY while it is enabled. -/
def Dev.rgnField (d : Dev) (n : Nat) (r : Reg) (v : Nat) : Reply :=
  if d.flag (rRgnEnable n) then (.busy, d) else (.ok, d.set r v)

/-- R217: a core's store to an I/O address is posted. -/
def Dev.ioPosted (d : Dev) (a : Nat) : Bool :=
  match d.rgnOf a with
  | some n => d.flag (rRgnPosted n)
  | none => false

end Sys2Proof.Machine
end

