-- ==== Sys2Proof/Machine/Bank.lean ====
section
/-!
DEFINITION. Electrum's table banks (chapter 06, R163 to R169): the layout of a bank image, the checks of LOAD (Table 06-6) and the
bank commands.
-/
namespace Sys2Proof.Machine

/-! ## Layout (Tables 06-5 to 06-13) -/

/-- What the header of an image gives. -/
structure BankHeader where
  version  : Nat
  profiles : Nat
  classes  : Nat
  states   : Nat
  paths    : Nat
  classOff : Nat
  fieldOff : Nat
  stateOff : Nat
  pathOff  : Nat
  mapOff   : Nat
  maps     : Nat
  emits    : Nat
  emitOff  : Nat
  poolOff  : Nat
  poolLen  : Nat
  length   : Nat
deriving DecidableEq, Repr, Inhabited

/-- The header in the first 64 bytes of an image. -/
def parseBank (b : List Byte) : BankHeader :=
  { version := fieldLe b 4 4, profiles := byteAt b 9, classes := byteAt b 10, states := fieldLe b 12 2,
    paths := fieldLe b 14 2, classOff := fieldLe b 16 4, fieldOff := fieldLe b 20 4, stateOff := fieldLe b 24 4,
    pathOff := fieldLe b 28 4, mapOff := fieldLe b 32 4, maps := fieldLe b 36 2, emits := fieldLe b 38 2,
    emitOff := fieldLe b 40 4, poolOff := fieldLe b 44 4, poolLen := fieldLe b 48 4, length := fieldLe b 52 4 }

/-- The sections of an image after the profiles: offset and bytes. -/
def BankHeader.sections (h : BankHeader) : List (Nat × Nat) :=
  [(h.classOff, 256 * h.classes), (h.fieldOff, 4096), (h.stateOff, 260 * h.states), (h.pathOff, 8 * h.paths),
   (h.mapOff, 16 * h.maps), (h.emitOff, 16 * h.emits), (h.poolOff, h.poolLen)]

/-- An entry of a table of an image. -/
def imgEntry (img : List Byte) (off size i : Nat) : List Byte := (img.drop (off + size * i)).take size

def BankHeader.profileAt (_ : BankHeader) (img : List Byte) (i : Nat) : List Byte := imgEntry img 64 16 i
def BankHeader.fieldAt (h : BankHeader) (img : List Byte) (i : Nat) : List Byte := imgEntry img h.fieldOff 8 i
def BankHeader.stateAt (h : BankHeader) (img : List Byte) (i : Nat) : List Byte := imgEntry img h.stateOff 260 i
def BankHeader.pathAt (h : BankHeader) (img : List Byte) (i : Nat) : List Byte := imgEntry img h.pathOff 8 i
def BankHeader.mapAt (h : BankHeader) (img : List Byte) (i : Nat) : List Byte := imgEntry img h.mapOff 16 i
def BankHeader.emitAt (h : BankHeader) (img : List Byte) (i : Nat) : List Byte := imgEntry img h.emitOff 16 i

/-! ## Date-time patterns (R172) -/

/-- A token of a pattern. -/
inductive DtTok where
  | year4
  | year2
  | month
  | day
  | hour
  | minute
  | second
  | lit (b : Byte)
deriving DecidableEq, Repr, Inhabited

/-- Bytes that a token takes. -/
def DtTok.width : DtTok → Nat
  | .year4 => 4
  | .lit _ => 1
  | _ => 2

/-- The byte is a pattern letter. -/
def dtLetter (b : Byte) : Bool :=
  b = 0x59 || b = 0x4D || b = 0x44 || b = 0x68 || b = 0x6D || b = 0x73

/-- The run of a letter, of a length; none where there is no such run. -/
def dtRun (b : Byte) (n : Nat) : Option DtTok :=
  if b = 0x59 then (if n = 4 then some .year4 else if n = 2 then some .year2 else none)
  else if n != 2 then none
  else if b = 0x4D then some .month else if b = 0x44 then some .day else if b = 0x68 then some .hour
  else if b = 0x6D then some .minute else some .second

/-- The tokens of a pattern; `f` bounds their number. -/
def dtTokens : Nat → List Byte → Option (List DtTok)
  | 0, l => if l.isEmpty then some [] else none
  | _ + 1, [] => some []
  | f + 1, b :: r =>
    if dtLetter b then
      let n := ((b :: r).takeWhile (fun c => c = b)).length
      match dtRun b n with
      | none => none
      | some t => (dtTokens f ((b :: r).drop n)).map (fun l => t :: l)
    else (dtTokens f r).map (fun l => .lit b :: l)

/-- The tokens of a pattern of at most 32 bytes. -/
def dtPattern (l : List Byte) : Option (List DtTok) := dtTokens 32 l

/-- A destination hour, minute or second that the source lacks. -/
def dtTimeMissing (src dst : List DtTok) : Bool :=
  [DtTok.hour, .minute, .second].any (fun t => dst.contains t && !src.contains t)

/-! ## Checks of LOAD (Table 06-6) -/

/-- The magic bytes "ELTB". -/
def bankMagic : List Byte := asciiBytes [0x45, 0x4C, 0x54, 0x42]

/-- Error 1, in the header and the profiles. -/
def headerBad (h : BankHeader) (img : List Byte) : Bool :=
  img.take 4 != bankMagic || h.version = 0 || byteAt img 8 != 1 || h.profiles < 1 || 16 < h.profiles
    || h.classes < 1 || 4 < h.classes || byteAt img 11 != 0 || h.states < 1 || 256 < h.states || 4096 < h.paths
    || h.emits < 1 || fieldLe img 56 4 != 0
    || (List.range 16).any (fun i =>
      let p := h.profileAt img i
      if i < h.profiles then
        4 ≤ byteAt p 1 || fieldLe p 8 8 != 0 || h.classes ≤ byteAt p 1 || h.maps < fieldLe p 2 2 + fieldLe p 4 2
      else p.any (fun b => b != 0))

/-- Error 3: a section is misaligned, outside the image, or overlaps another. -/
def sectionsBad (h : BankHeader) : Bool :=
  let l := h.sections
  l.any (fun s => s.1 % 16 != 0 || h.length < s.1 + s.2) || !noOverlap (((0, 320) :: l).filter (fun s => s.2 != 0))

/-- A res0 field of a table entry is set, or a parameter is out of its range (error 1). -/
def stateRes0 (b : List Byte) : Bool :=
  let k := byteAt b 0
  let op := fieldLe b 2 2
  (if k = 0 || k = 5 then op != 0 else if k = 1 || k = 2 then 2 ^ 9 ≤ op else if k = 3 || k = 4 then 2 ^ 11 ≤ op
   else k = 6 && 2 ^ 6 ≤ op)
    || (if k = 0 then (List.range 64).any (fun c => 2 ^ 9 ≤ fieldLe b (4 + 4 * c + 2) 2) else (b.drop 4).any (fun x => x != 0))

/-- The 512-byte character map of a map entry sets a res0 bit. -/
def charMapRes0 (h : BankHeader) (img : List Byte) (off : Nat) : Bool :=
  (List.range 256).any (fun i => 2 ^ 9 ≤ fieldLe img (h.poolOff + off + 2 * i) 2)

/-- A map entry with a res0 bit or a parameter out of its range. -/
def mapRes0 (h : BankHeader) (img m : List Byte) : Bool :=
  let p := byteAt m 0
  let a := fieldLe m 6 2
  let c := fieldLe m 12 4
  2 ≤ byteAt m 1
    || ((p = 0x02 || p = 0x03) && 2 ≤ a)
    || ((p = 0x04 || p = 0x05) && fieldLe m 8 4 + 512 ≤ h.poolLen && charMapRes0 h img (fieldLe m 8 4))
    || (p = 0x06 && 20 < a) || (p = 0x07 && (a < 1 || 8 < a)) || (p = 0x08 && 18 < a)
    || (p = 0x09 && (18 < a % 256 || a / 256 < 1 || 32 < a / 256))
    || (p = 0x0A && (a < 1 || 32 < a || c < 1 || 32 < c))
    || (p = 0x0B && 256 ≤ a)
    || (p = 0x0C && (!(a = 0 || a = 64 || a = 128 || a = 192) || 2 ≤ c))

/-- An emitter instruction with a res0 bit. -/
def emitRes0 (e : List Byte) : Bool :=
  let k := byteAt e 0
  field (byteAt e 1) 5 2 != 0 || fieldLe e 14 2 != 0
    || (if k = 2 && byteAt e 1 % 16 = 1 then 2 ≤ byteAt e 13 else k != 6 && fieldLe e 12 2 != 0)

/-- Error 1 in the tables. -/
def tablesRes0 (h : BankHeader) (img : List Byte) : Bool :=
  (List.range (256 * h.classes)).any (fun i => bitAt (byteAt img (h.classOff + i)) 6)
    || (List.range 512).any (fun i => 2 ≤ byteAt (h.fieldAt img i) 2)
    || (List.range h.states).any (fun i => stateRes0 (h.stateAt img i))
    || (List.range h.paths).any (fun i => fieldLe (h.pathAt img i) 6 2 != 0)
    || (List.range h.maps).any (fun i => mapRes0 h img (h.mapAt img i))
    || (List.range h.emits).any (fun i => emitRes0 (h.emitAt img i))

/-- Error 4: a state number at or above States. -/
def stateNumbersBad (h : BankHeader) (img : List Byte) : Bool :=
  (List.range h.profiles).any (fun i => h.states ≤ byteAt (h.profileAt img i) 0)
    || (List.range 512).any (fun i =>
      let f := h.fieldAt img i
      bitAt (byteAt f 2) 0 && h.states ≤ byteAt f 3)
    || (List.range h.states).any (fun i =>
      let s := h.stateAt img i
      h.states ≤ byteAt s 1 || (byteAt s 0 = 0 && (List.range 64).any (fun c => h.states ≤ byteAt s (4 + 4 * c + 1))))

/-- The primitive reads a source field. -/
def mapHasSource (p : Nat) : Bool := p != 0x0C && p != 0x10

/-- Error 5: a field number at or above 512. -/
def fieldNumbersBad (h : BankHeader) (img : List Byte) : Bool :=
  (List.range h.paths).any (fun i => 512 ≤ fieldLe (h.pathAt img i) 4 2)
    || (List.range h.maps).any (fun i =>
      let m := h.mapAt img i
      let p := byteAt m 0
      (if mapHasSource p then 512 ≤ fieldLe m 2 2 else fieldLe m 2 2 != 0xFFFF) || (p != 0x0D && 512 ≤ fieldLe m 4 2))
    || (List.range h.emits).any (fun i =>
      let e := h.emitAt img i
      let k := byteAt e 0
      ((k = 2 || k = 5 || k = 6 || k = 7) && 512 ≤ fieldLe e 2 2) || (k = 6 && 512 ≤ fieldLe e 12 2))

/-- A state of error 6: its kind, its operand or an action. -/
def stateCodeBad (h : BankHeader) (img : List Byte) (i : Nat) : Bool :=
  let s := h.stateAt img i
  let k := byteAt s 0
  let op := fieldLe s 2 2
  6 < k || (k = 1 && fieldLe (h.fieldAt img (op % 2 ^ 9)) 4 2 = 0) || ((k = 3 || k = 4) && field op 9 2 = 3)
    || (k = 6 && (field op 4 2 = 3 || field op 0 4 < 1 || 4 < field op 0 4))
    || (k = 0 && (List.range 64).any (fun c =>
      let a := byteAt s (4 + 4 * c)
      0x0D < a || (a = 0x07 && c != 63)))

/-- Error 6: an undefined code, or one that is not allowed where it stands. -/
def codesBad (h : BankHeader) (img : List Byte) : Bool :=
  (List.range (256 * h.classes)).any (fun i => byteAt img (h.classOff + i) % 64 = 63)
    || (List.range h.states).any (fun i => stateCodeBad h img i)
    || (List.range h.maps).any (fun i =>
      let m := h.mapAt img i
      let p := byteAt m 0
      p < 1 || 0x11 < p || (p = 0x0B && (9 < fieldLe m 6 2 % 256 || fieldLe m 6 2 % 256 = 1)))
    || (List.range h.emits).any (fun i =>
      let e := h.emitAt img i
      let k := byteAt e 0
      let f := byteAt e 1
      8 < k || 9 < f % 16 || (k != 2 && f % 16 != 0) || ((k = 5 || k = 6) && f % 128 != 0))

/-- Error 7: the path table is not strictly rising. -/
def pathsBad (h : BankHeader) (img : List Byte) : Bool :=
  (List.range (h.paths - 1)).any (fun i => fieldLe (h.pathAt img (i + 1)) 0 4 ≤ fieldLe (h.pathAt img i) 0 4)

/-- Error 8: jumps, the last instruction, and the profiles' first instructions. -/
def jumpsBad (h : BankHeader) (img : List Byte) : Bool :=
  byteAt (h.emitAt img (h.emits - 1)) 0 != 0
    || (List.range h.profiles).any (fun i => h.emits ≤ fieldLe (h.profileAt img i) 6 2)
    || (List.range h.emits).any (fun i =>
      let e := h.emitAt img i
      let k := byteAt e 0
      (k = 7 || k = 8) && (fieldLe e 10 2 ≤ i || h.emits ≤ fieldLe e 10 2))

/-- Bytes of the constant pool. -/
def poolBytes (h : BankHeader) (img : List Byte) (off n : Nat) : List Byte := (img.drop (h.poolOff + off)).take n

/-- Error 9 of a map entry. -/
def mapConstBad (h : BankHeader) (img m : List Byte) : Bool :=
  let p := byteAt m 0
  let a := fieldLe m 6 2
  let b := fieldLe m 8 4
  let c := fieldLe m 12 4
  if p = 0x04 || p = 0x05 then h.poolLen < b + 512
  else if p = 0x10 then h.poolLen < b + a
  else if p = 0x0A then
    h.poolLen < b + a + c ||
      (match dtPattern (poolBytes h img b a), dtPattern (poolBytes h img (b + a) c) with
       | some s, some t => dtTimeMissing s t
       | _, _ => true)
  else false

/-- Error 9: constants outside the pool, or invalid patterns. -/
def constantsBad (h : BankHeader) (img : List Byte) : Bool :=
  (List.range h.maps).any (fun i => mapConstBad h img (h.mapAt img i))
    || (List.range h.emits).any (fun i =>
      let e := h.emitAt img i
      let k := byteAt e 0
      let off := fieldLe e 4 4
      let n := fieldLe e 8 2
      (k = 1 || k = 3 || k = 5 || k = 6) &&
        (h.poolLen < off + n || (k = 6 && !(poolBytes h img off n).contains 0)))

/-- The bytes lie wholly in this package's DRAM. -/
def Dev.inDram (d : Dev) (a n : Nat) : Bool :=
  match d.region a, d.region (a + n - 1) with
  | .hbm _, .hbm _ => true
  | .ddr _, .ddr _ => true
  | _, _ => false

/-- Error 10: a line of the image is not present in a locked Pewter segment. -/
def Dev.unlockedLine (d : Dev) (a n : Nat) : Bool :=
  (linesOf a n).any (fun l => (d.pewterEntry l).isNone || !d.segLocked l)

/-- The load error of an image at an address, in the order of Table 06-6, with its place (error 11) first. An image that ends before its
profiles do has a section outside itself. -/
def Dev.loadError (d : Dev) (a : Nat) : Nat :=
  let h := parseBank (d.cohRead a 64).1
  if a % 4096 != 0 || !d.inDram a 64 then 11
  else if (d.cohRead a 4).1 != bankMagic then 1
  else if 2 ^ 20 < h.length || !d.inDram a (max h.length 1) then 11
  else
    let img := (d.cohRead a (max h.length 64)).1
    firstFail
      [(headerBad h img, 1),
       (h.length < 320, 3),
       (crc32c (spliceBytes img 60 (zeros 4)) != fieldLe img 60 4, 2),
       (sectionsBad h, 3),
       (tablesRes0 h img, 1),
       (stateNumbersBad h img, 4),
       (fieldNumbersBad h img, 5),
       (codesBad h img, 6),
       (pathsBad h img, 7),
       (jumpsBad h img, 8),
       (constantsBad h img, 9),
       (d.unlockedLine a h.length, 10)]

/-! ## Bank commands (Table 06-4) -/

/-- The state register of a bank side. -/
def rElbSideState (n s : Nat) : Reg := if s = 0 then rElbSide0State n else rElbSide1State n

/-- A side has no job bound to it. -/
def Dev.sideFree (d : Dev) (n s : Nat) : Bool := !d.jobs.any (fun p => p.2.bank = some (n, s))

/-- The ACTIVE side of a bank that accepts binds. -/
def Dev.activeSide (d : Dev) (n : Nat) : Option Nat :=
  [0, 1].find? (fun s => d.sideState n s = 2 && !(d.side n s).unloading)

/-- `elbVersion`: version of the ACTIVE side, 0 for none. -/
def Dev.bankVersion (d : Dev) (n : Nat) : Nat :=
  match [0, 1].find? (fun s => d.sideState n s = 2) with
  | some s => (d.side n s).version
  | none => 0

/-- The effect of LOAD0 or LOAD1: verification begins. -/
def Dev.elbLoad (d : Dev) (n s : Nat) : Reply :=
  if d.get (rElbCommand n) = cmdRunning || !(d.sideState n s = 0 || d.sideState n s = 1) then (.busy, d)
  else (.ok, (d.set (rElbCommand n) cmdRunning).setSide n s { d.side n s with loading := true })

/-- The effect of SWITCH. -/
def Dev.elbSwitch (d : Dev) (n : Nat) : Reply :=
  let l := [0, 1].filter (fun s => d.sideState n s = 1)
  if d.get (rElbCommand n) = cmdRunning then (.busy, d)
  else
    match l with
    | [] => (.busy, d)
    | a :: r =>
      let new := match r with
        | b :: _ => if (d.side n a).loadOrder < (d.side n b).loadOrder then b else a
        | [] => a
      let old := [0, 1].find? (fun s => d.sideState n s = 2)
      let d := match old with
        | some o => d.set (rElbSideState n o) (if d.sideFree n o then 1 else 3)
        | none => d
      (.ok, (d.set (rElbSideState n new) 2).set (rElbCommand n) cmdDone)

/-- The effect of UNLOAD0 or UNLOAD1. -/
def Dev.elbUnload (d : Dev) (n s : Nat) : Reply :=
  if d.get (rElbCommand n) = cmdRunning then (.busy, d)
  else if d.sideState n s = 1 then (.ok, (d.set (rElbSideState n s) 0).set (rElbCommand n) cmdDone)
  else if d.sideState n s = 2 then
    (.ok, (d.setSide n s { d.side n s with unloading := true }).set (rElbCommand n) cmdRunning)
  else (.busy, d)

/-- A bank command as its own row. -/
def bankCommand (p : Path) (n code : Nat) (k : Dev → Reply) (s : State) : Out :=
  if n < 64 then writeCommand p (0x7220 + n) 0x05 code (fun d _ => k d) s else .refused (.noSuchOperand 164)

/-- ELB_LOAD0 (R164). -/
def execElbLoad0 (p : Path) (n : Nat) (s : State) : Out := bankCommand p n 1 (fun d => d.elbLoad n 0) s

/-- ELB_LOAD1 (R164). -/
def execElbLoad1 (p : Path) (n : Nat) (s : State) : Out := bankCommand p n 2 (fun d => d.elbLoad n 1) s

/-- ELB_SWITCH (R164, R165). -/
def execElbSwitch (p : Path) (n : Nat) (s : State) : Out := bankCommand p n 3 (fun d => d.elbSwitch n) s

/-- ELB_UNLOAD0 (R164). -/
def execElbUnload0 (p : Path) (n : Nat) (s : State) : Out := bankCommand p n 4 (fun d => d.elbUnload n 0) s

/-- ELB_UNLOAD1 (R164). -/
def execElbUnload1 (p : Path) (n : Nat) (s : State) : Out := bankCommand p n 5 (fun d => d.elbUnload n 1) s

/-- The lines of an image leave every engine's table cache (R166). -/
def Dev.dropTables (d : Dev) (a n : Nat) : Dev :=
  { d with tcache := d.tcache.filter (fun e => !(a ≤ e.2 && e.2 < a + n)) }

/-- ELB_LOAD_DONE (R164, R166): the verification of the side's image ends. -/
def execElbLoadDone (n side : Nat) (s : State) : Out :=
  occursAt 164 (n < 64 && side < 2) (fun d => (d.side n side).loading)
    (fun d =>
      let a := d.sideBase n side
      let err := d.loadError a
      let d := d.touch (iodUse .normal) a (if err = 11 then 64 else (parseBank (d.cohRead a 64).1).length)
      let d := d.set (rElbLoadError n) err
      if err = 0 then
        let h := parseBank (d.cohRead a 64).1
        let x : BankSide := { version := h.version, loadOrder := (d.side n (1 - side)).loadOrder + 1, loading := false,
                              unloading := false, length := h.length }
        let d := (d.dropTables a h.length).setSide n side x
        (d.set (rElbSideState n side) 1).set (rElbCommand n) cmdDone
      else
        let x : BankSide := { version := 0, loadOrder := 0, loading := false, unloading := false, length := 0 }
        ((d.setSide n side x).set (rElbSideState n side) 0).set (rElbCommand n) cmdRefused) s

/-- ELB_UNLOAD_DONE (R164): no job is bound to the side any more. -/
def execElbUnloadDone (n side : Nat) (s : State) : Out :=
  occursAt 164 (n < 64 && side < 2) (fun d => (d.side n side).unloading && d.sideFree n side)
    (fun d =>
      let x : BankSide := { version := 0, loadOrder := 0, loading := false, unloading := false, length := 0 }
      ((d.setSide n side x).set (rElbSideState n side) 0).set (rElbCommand n) cmdDone) s

end Sys2Proof.Machine
end

