-- ==== Sys2Proof/Machine/Counters.lean ====
section
/-!
DEFINITION. Performance monitoring (chapter 20): event selectors (R420, R422), the global freeze (R423, R424) and bandwidth windows
(R426 to R428).
-/
namespace Sys2Proof.Machine

/-! ## Blocks of counter groups -/

/-- A link's state (Table 14-5) as a unit state. -/
def linkUnitState (st : Nat) : Nat := if st = 0 then stOff else if st = 1 then stReset else if st = 7 then stFailed else stActive

/-- The state of a group's block (Table 20-1). -/
def Dev.groupState (d : Dev) (g : Nat) : Nat :=
  if 32 ≤ g && g < 64 && d.get rPwState = stOff then stOff
  else if g < 64 then d.unit (.die (12 + g % 32 / 8))
  else if g < 152 then d.get (rEngState (g - 64))
  else if g < 172 then d.get (rMcState (g - 152))
  else if g < 224 then linkUnitState (d.get (rSdState (g - 172)))
  else if g < 228 then linkUnitState (d.get (rHfState (g - 224)))
  else if g < 256 then (if d.blockFenced (8 + (g - 228)) then stFenced else stActive)
  else d.get (rRtState ((g - 256) / 16))

/-- The states in which a block gathers no snapshot (R424). -/
def countsOut (st : Nat) : Bool := st = stOff || st = stReset || st = stFenced || st = stBypassed || st = stFailed

/-- The group exists and its block is in service. -/
def Dev.groupServes (d : Dev) (g : Nat) : Bool := d.groupKind g != 0 && !countsOut (d.groupState g)

/-- A measured port is in service: a link only while it is UP. -/
def Dev.portServes (d : Dev) (g : Nat) : Bool :=
  if 172 ≤ g && g < 224 then d.get (rSdState (g - 172)) = 5
  else if 224 ≤ g && g < 228 then d.get (rHfState (g - 224)) = 5
  else d.groupServes g

/-- R422: reads of a group's counts and records give 0. -/
def Dev.groupHidden (d : Dev) (g : Nat) : Bool :=
  match groupBlock g with
  | some b => !d.nonInvasive (d.blockWorld b)
  | none => false

/-! ## Event selectors (R420) -/

/-- Table 20-2: the codes of a kind. -/
def eventCode (kind v : Nat) : Bool :=
  if kind = 0 then false
  else if kind < 11 then v ≤ 8
  else if kind = 11 then v ≤ 7
  else v ≤ 5 || (8 ≤ v && v ≤ 15)

/-- The effect of writing an event selector. -/
def Dev.cgWrite (d : Dev) (g sub v : Nat) : Reply :=
  if eventCode (d.groupKind g) v then (.ok, d.set (rCgEvent g (sub - 2)) v) else (.range, d)

/-- CG_EVENT_WRITE (R420, R422): acts on the group that the path has selected. -/
def execCgEventWrite (p : Path) (sub value : Nat) (s : State) : Out :=
  if 2 ≤ sub && sub ≤ 9 && value < 65536 then
    writeCommand p 0x9811 sub value (fun d _ => d.cgWrite (d.selected 0x9810 p) sub value) s
  else .refused (.noSuchOperand 420)

/-! ## Freeze (R423, R424) -/

/-- The snapshot object of a hart: counters with GFRZ, of a core in service. -/
def Dev.snapHart (d : Dev) (k : Nat) : Dev :=
  let h := d.hart k
  let d := d.resetRegs (fun i => i = 0x4003 + 0x10 * k)
  if !bitAt (h.csr 0x7C8) 2 || countsOut (d.unit (.core k)) || d.isShadow k then d
  else
    let d := ((d.set (rHsnCycle k) (h.csr 0xB00)).set (rHsnInstret k) (h.csr 0xB02)).set (rHsnValid k) 1
    (List.range 8).foldl (fun d j => d.set (rHsnHpm k j) (h.csr (0xB03 + j))) d

/-- The freeze line is asserted: every counter stops and copies its value, and the reader gathers. -/
def Dev.freeze (d : Dev) : Dev :=
  let live := (List.range 2816).filter (fun g => d.groupServes g)
  let snaps := live.map (fun g => (g, (List.range 8).map (fun j => d.get (rCgCount g j))))
  let d := ((d.set rPcFrozen 1).set rPcFreezeTime d.now).set rPcCommand cmdRunning
  let d := { d with cnt := { d.cnt with snaps := snaps, gather := true } }
  (List.range 240).foldl Dev.snapHart d

/-- The effect of writing `pcCommand`: 1 FREEZE, 2 UNFREEZE. -/
def Dev.pcWrite (d : Dev) (code : Nat) : Reply :=
  if d.get rPcCommand = cmdRunning then (.busy, d)
  else if code = 1 then (.ok, if d.flag rPcFrozen then d else d.freeze)
  else (.ok, (d.set rPcFrozen 0).set rPcCommand cmdDone)

/-- PC_FREEZE (R423, R424). -/
def execPcFreeze (p : Path) (s : State) : Out := writeCommand p 0x9800 0x01 1 (fun d _ => d.pcWrite 1) s

/-- FREEZE_GATHER_DONE (R423). -/
def execFreezeGatherDone (s : State) : Out :=
  occurs 423 (fun d => d.cnt.gather)
    (fun d => { d.set rPcCommand cmdDone with cnt := { d.cnt with gather := false } }) s

/-- PC_UNFREEZE (R424). -/
def execPcUnfreeze (p : Path) (s : State) : Out := writeCommand p 0x9800 0x01 2 (fun d _ => d.pcWrite 2) s

/-! ## Bandwidth windows (R425 to R428) -/

/-- The group numbers of a list of U16. -/
def groupList : List Byte → List Nat
  | a :: b :: r => (a.toNat + 256 * b.toNat) :: groupList r
  | _ => []

/-- The groups that `bwList` names. -/
def Dev.bwGroups (d : Dev) : List Nat := groupList (d.dom domBwList [])

/-- The size of the ring in bytes. -/
def Dev.bwBytes (d : Dev) : Nat := 16 * 2 ^ d.get rBwRingLog2

/-- R427: START returns RANGE. -/
def Dev.bwBad (d : Dev) : Bool :=
  let l := d.bwGroups
  l.isEmpty || (d.dom domBwList []).length % 2 = 1
    || l.any (fun g => 2816 ≤ g || d.groupKind g ≤ 5)
    || 2 ^ d.get rBwRingLog2 < l.length + 1
    || !d.inDram (d.get rBwRingBase) d.bwBytes

/-- A boundary: every port's byte counters are latched, and a window begins. -/
def Dev.bwLatch (d : Dev) : Dev :=
  { d with cnt := { d.cnt with latchIn := d.cnt.bytesIn, latchOut := d.cnt.bytesOut, armed := false,
                               steady := d.bwGroups.filter (fun g => d.portServes g) } }

/-- The effect of START: windows begin at the present time rounded up to a whole microsecond. -/
def Dev.bwBegin (d : Dev) (w : World) : Dev :=
  let t0 := (d.now + 999) / 1000 * 1000
  let d := ((d.set rBwState 1).set rBwRingTail 0).set rBwCommand cmdDone
  let d := { d with cnt := { d.cnt with t0 := t0, window := 0, entry := 0, lostSince := false, bwWorld := w, armed := true } }
  if t0 ≤ d.now then d.bwLatch else d

/-- The effect of writing `bwCommand`: 1 START, 2 STOP. -/
def Dev.bwWrite (d : Dev) (p : Path) (code : Nat) : Reply :=
  if code = 1 then
    if d.bwBad then (.range, d)
    else if d.get rBwState != 0 then (.busy, d)
    else (.ok, d.bwBegin (d.pathWorld p))
  else (.ok, { (d.set rBwState 0).set rBwCommand cmdDone with cnt := { d.cnt with armed := false } })

/-- BW_START (R426, R427). -/
def execBwStart (p : Path) (s : State) : Out := writeCommand p 0x9820 0x01 1 (fun d _ => d.bwWrite p 1) s

/-- BW_STOP (R427): the running window is not written. -/
def execBwStop (p : Path) (s : State) : Out := writeCommand p 0x9820 0x01 2 (fun d _ => d.bwWrite p 2) s

/-- The present window's start and end. -/
def Dev.windowStart (d : Dev) : Nat := d.cnt.t0 + d.cnt.window * (d.get rBwWindow * 1000)
def Dev.windowEnd (d : Dev) : Nat := d.windowStart + d.get rBwWindow * 1000

/-- The address of ring entry `n`. -/
def Dev.bwEntryAt (d : Dev) (n : Nat) : Nat := d.get rBwRingBase + 16 * (n % 2 ^ d.get rBwRingLog2)

/-- Table 20-3: the header of window `k`. -/
def bwHeader (lost first : Bool) (k start : Nat) : List Byte :=
  leBytes 2 0xFFFF ++ leBytes 1 (2 * boolNat lost + boolNat first) ++ leBytes 1 0 ++ leBytes 4 k ++ leBytes 8 start

/-- The bytes of a window: the difference of its boundaries, modulo 2^48. -/
def windowBytes (now before : Nat) : Nat := (now + 2 ^ 48 - before) % 2 ^ 48

/-- Table 20-3: the entry of a port. -/
def bwPortEntry (g : Nat) (valid : Bool) (inn out : Nat) : List Byte :=
  leBytes 2 g ++ leBytes 1 (boolNat valid) ++ leBytes 1 0 ++ leBytes 6 inn ++ leBytes 6 out

/-- The entry of a port as the reader writes it. -/
def Dev.bwPort (d : Dev) (g : Nat) : List Byte :=
  let hide := d.groupHidden g
  let inn := windowBytes (tabGet d.cnt.bytesIn g 0) (tabGet d.cnt.latchIn g 0)
  let out := windowBytes (tabGet d.cnt.bytesOut g 0) (tabGet d.cnt.latchOut g 0)
  bwPortEntry g (d.cnt.steady.contains g) (if hide then 0 else inn) (if hide then 0 else out)

/-- The writes of a window: the port entries in list order, then the header. -/
def Dev.bwWrites (d : Dev) : List (Nat × List Byte) :=
  let c := d.cnt
  let ports := ((List.range d.bwGroups.length).zip d.bwGroups).map (fun p => (d.bwEntryAt (c.entry + 1 + p.1), d.bwPort p.2))
  ports ++ [(d.bwEntryAt c.entry, bwHeader c.lostSince (c.window = 0) c.window d.windowStart)]

/-- A ring write that is refused: the reader halts, and the fault carries the address. -/
def Dev.bwRefused (d : Dev) (n a : Nat) : Dev :=
  ((d.noteRefusal n (500 + d.homeSlice a) a).set rBwState 2).raiseAt kPostedError 886 a 0

/-- A ring write that meets an uncorrectable error in its line: it is made, the line stays marked, and the reader halts. -/
def Dev.bwError (d : Dev) (a : Nat) (b : List Byte) : Dev :=
  ((d.cohWrite (iodUse d.cnt.bwWorld) a b).set rBwState 2).raiseAt kPostedError 886 a 0

/-- Ring writes in order, as far as the first that is refused or meets an error. -/
def Dev.bwPut (d : Dev) : List (Nat × List Byte) → Dev
  | [] => d
  | (a, b) :: r =>
    match d.refusedBy d.cnt.bwWorld a with
    | some n => d.bwRefused n a
    | none => if (d.firstMarked a b.length).isSome then d.bwError a b else (d.cohWrite (iodUse d.cnt.bwWorld) a b).bwPut r

/-- The window's entries would pass the reader's head. -/
def Dev.bwFull (d : Dev) : Bool :=
  2 ^ d.get rBwRingLog2 < (d.cnt.entry + d.bwGroups.length + 1 + 2 ^ 32 - d.get rBwRingHead % 2 ^ 32) % 2 ^ 32

/-- The window is written. -/
def Dev.bwWriteWindow (d : Dev) : Dev :=
  let d := d.bwPut d.bwWrites
  if d.get rBwState != 1 then d
  else
    let n := (d.cnt.entry + d.bwGroups.length + 1) % 2 ^ 32
    { d.set rBwRingTail n with cnt := { d.cnt with entry := n, lostSince := false } }

/-- BW_WINDOW_END (R426, R428): the window that has ended is written, or lost, and the next begins. -/
def execBwWindowEnd (s : State) : Out :=
  occurs 426 (fun d => d.get rBwState = 1 && !d.cnt.armed && d.windowEnd ≤ d.now)
    (fun d =>
      let d := if d.bwFull then { d.addSat rBwWindowsLost 1 with cnt := { d.cnt with lostSince := true } } else d.bwWriteWindow
      let d := { d with cnt := { d.cnt with window := d.cnt.window + 1 } }
      d.bwLatch) s

end Sys2Proof.Machine
end

