-- ==== Sys2Proof/Machine/Harfort.lean ====
section
/-!
DEFINITION. Harfort links: their bring-up and loss (R385 to R388, R392), and the split of a system (R397 to R401).
-/
namespace Sys2Proof.Machine

/-! ## A link changes state (R391, R392, R397) -/

/-- The fault source of a link. -/
def hfSource (l : Nat) : Nat := 692 + l

/-- The peer of a link of this package. -/
def Dev.hfPeer (d : Dev) (l : Nat) : Option Nat := hfPeerOf (d.get rPkgCount) d.pkg l

/-- The other packages of the system. -/
def Dev.otherPackages (d : Dev) : List Nat := (List.range (d.get rPkgCount)).filter (fun q => q != d.pkg)

/-- The time since which no direct link to a package is in service. -/
def Dev.noteReach (d0 d : Dev) (q : Nat) : Dev :=
  let t := if (d.hfLinksTo q).length != 0 then tabErase d.part.lostAt q
    else if (d0.hfLinksTo q).length != 0 then tabPut d.part.lostAt q d.now
    else d.part.lostAt
  { d with part := { d.part with lostAt := t } }

/-- VN5 and VN6 flits for a package whose link changes are held (R391). -/
def Dev.noteOrder (d0 d : Dev) (q : Nat) : Dev :=
  if d0.hfPick q 5 0 != d.hfPick q 5 0 && d.hfOrdered q && (tabFind d.fab.held (hfHold q)).isNone
  then { d with fab := { d.fab with held := tabPut d.fab.held (hfHold q) ⟨[], [], ⟨[], 0⟩⟩ } } else d

/-- A link in a state; it shows its width while it is UP. -/
def Dev.setHfState (d : Dev) (l st : Nat) : Dev :=
  let d1 := (d.set (rHfState l) st).set (rHfWidth l) (if st = 5 then (d.hfLink l).width else 0)
  d.otherPackages.foldl (fun x q => Dev.noteOrder d (Dev.noteReach d x q) q) d1

/-- A flit of a link out of service is resent over the remaining path; without one it waits there. -/
def Dev.hfResendOne (l : Nat) (d : Dev) (u : Nat × Flit × Bool) : Dev :=
  match d.hfPick u.1 u.2.1.vn u.2.1.addr with
  | some m => d.hfEnter m u.1 u.2.1 u.2.2
  | none => d.setHfLink l { d.hfLink l with unacked := (d.hfLink l).unacked ++ [u] }

/-- R392: the flits that wait at a link out of service are resent where a path has come. -/
def Dev.hfResend (d : Dev) (l : Nat) : Dev :=
  let x := d.hfLink l
  let d := x.unacked.foldl (Dev.hfResendOne l) (d.setHfLink l { x with unacked := [] })
  let y := d.hfLink l
  d.setHfLink l { y with lostSince := if y.unacked.isEmpty || d.hfUp l then none else x.lostSince }

/-- R392: a link leaves service. The peer names the last flit that it received in order, which a free value tells; the others are
resent on the remaining path. -/
def Dev.hfLeave (d : Dev) (l st : Nat) : Dev :=
  if d.get (rHfState l) != 5 then d.setHfState l st
  else
    let d := d.setHfState l st
    let x := d.hfLink l
    if x.unacked.isEmpty then d
    else
      let w := d.takeWord
      let rest := x.unacked.drop (w.1.toNat % (x.unacked.length + 1))
      (w.2.setHfLink l { x with unacked := rest, lostSince := some d.now }).hfResend l

/-- The link enters RETRAIN. -/
def Dev.hfRetrain (d : Dev) (l : Nat) : Dev :=
  ((d.addWrap32 (rHfRetrains l)).countEvent (hfGroup l) 8 1 none).hfLeave l 6

/-- A command of a link that runs ends. -/
def Dev.hfCommandEnd (d : Dev) (l code : Nat) : Dev :=
  if d.get (rHfCommand l) = cmdRunning then d.set (rHfCommand l) code else d

/-- A link is out of service with a fault. -/
def Dev.hfFail (d : Dev) (l syn : Nat) : Dev :=
  (((d.hfLeave l 7).hfCommandEnd l cmdDone)).raise kHarfortLinkLost (hfSource l) syn

/-- A link is in service: flits that wait for a path go. -/
def Dev.hfUpNow (d : Dev) (l : Nat) : Dev :=
  let d := (d.setHfLink l { d.hfLink l with widthTries := 0 }).setHfState l 5
  let d := d.hfCommandEnd l cmdDone
  ((List.range 4).filter (fun m => (d.hfLink m).lostSince.isSome)).foldl Dev.hfResend d

/-! ## Bring-up (R387, R388) -/

/-- Table 18-2: the record that this package sends on a link. -/
def Dev.hfRecord (d : Dev) (l : Nat) : HfRecord :=
  { crcOk := true, major := 1, package := d.pkg, count := d.get rPkgCount, link := l, width := (d.hfLink l).width,
    fenced := d.get rPartState = 3, serial := d.get (rDieSerial 16), features := d.get rPkgFeatures }

/-- The bytes of a record (Table 18-2). -/
def hfRecordBytes (r : HfRecord) : List Byte :=
  let b := leBytes 1 r.major ++ leBytes 1 0 ++ leBytes 1 r.package ++ leBytes 1 r.count ++ leBytes 1 r.link
    ++ leBytes 1 r.width ++ leBytes 1 (boolNat r.fenced) ++ leBytes 1 0 ++ leBytes 8 r.serial ++ leBytes 8 r.features ++ zeros 4
  b ++ leBytes 4 (crc32c b)

/-- R387: the number of the first check that a peer's record fails; 0 for none. -/
def Dev.hfCheck (d : Dev) (l : Nat) (r : HfRecord) : Nat :=
  if r.major != 1 then 1
  else if some r.package != d.hfPeer l || r.link != l then 2
  else if r.count != d.get rPkgCount then 3
  else if r.features != d.get rPkgFeatures then 4
  else if r.width != (d.hfLink l).width then 5
  else if r.fenced || bitAt (d.get rPartLost) r.package then 6
  else 0

/-- A width of Table 18-2. -/
def hfWidthOk (w : Nat) : Bool := w = 0x10 || w = 0x08 || w = 0x09

/-- HARFORT_L0 (R387, R388): training has reached L0 at a width; the record is sent from now on. -/
def execHarfortL0 (link : Nat) (width : Nat) (s : State) : Out :=
  occursAt 387 (link < 4 && hfWidthOk width)
    (fun d => (d.get (rHfState link) = 2 || d.get (rHfState link) = 6) && (d.hfPeer link).isSome)
    (fun d =>
      let d := (d.setHfLink link { d.hfLink link with width := width }).setHfState link 3
      if width = 0x10 then d else d.raise kHarfortLinkDegraded (hfSource link) 0) s

/-- HARFORT_RECORD_RECEIVE (R387, R388, R401). A record with a CRC error is awaited again. -/
def execHarfortRecordReceive (link : Nat) (rec : HfRecord) (s : State) : Out :=
  occursAt 387 (link < 4) (fun d => d.get (rHfState link) = 3)
    (fun d =>
      if !rec.crcOk then d
      else
        let c := d.hfCheck link rec
        if c = 0 then d.hfUpNow link
        else if c = 5 && (d.hfLink link).widthTries < 3 then
          (d.setHfLink link { d.hfLink link with widthTries := (d.hfLink link).widthTries + 1 }).setHfState link 2
        else d.hfFail link c) s

/-- HARFORT_REPLAY_LIMIT (R388): eight replays in succession have failed. -/
def execHarfortReplayLimit (link : Nat) (s : State) : Out :=
  occursAt 388 (link < 4) (fun d => d.hfUp link)
    (fun d => ((d.add (rHfReplays link) 8).countEvent (hfGroup link) 4 8 none).hfRetrain link) s

/-- HARFORT_TRAIN_LIMIT (R388): the third training in a row has failed within 100 ms. -/
def execHarfortTrainLimit (link : Nat) (s : State) : Out :=
  occursAt 388 (link < 4) (fun d => d.get (rHfState link) = 2 || d.get (rHfState link) = 6) (fun d => d.hfFail link 0) s

/-- HARFORT_L0_LOST (R392, R397): the link leaves service and trains again. -/
def execHarfortL0Lost (link far : Nat) (s : State) : Out :=
  occursAt 392 (link < 4) (fun d => d.hfUp link || d.get (rHfState link) = 3)
    (fun d => ({ d with part := { d.part with far := far % 65536 } }).hfRetrain link) s

/-- The flits that wait at a link for a package without a path. -/
def HfLink.waiting (x : HfLink) (peer : Nat) : List (Nat × Flit × Bool) := x.unacked.filter (fun u => u.1 = peer)

/-- A link's flits for a package have waited 20 µs. -/
def Dev.resendExpired (d : Dev) (peer l : Nat) : Bool :=
  (match (d.hfLink l).lostSince with
   | some t => t + 20000 ≤ d.now
   | none => false) && !((d.hfLink l).waiting peer).isEmpty

/-- HARFORT_RESEND_TIMEOUT (R392). -/
def execHarfortResendTimeout (peer : Nat) (s : State) : Out :=
  occursAt 392 (peer < 4) (fun d => (List.range 4).any (fun l => d.resendExpired peer l))
    (fun d =>
      ((List.range 4).filter (fun l => d.resendExpired peer l)).foldl (fun d l =>
        let x := d.hfLink l
        let left := x.unacked.filter (fun u => u.1 != peer)
        (d.addSat rHfFlitsLost (x.waiting peer).length).setHfLink l
          { x with unacked := left, lostSince := if left.isEmpty then none else x.lostSince }) d) s

/-! ## Commands (R388) -/

/-- The packages that this one reaches, its own included (R397). -/
def Dev.reachMask (d : Dev) : Nat :=
  (List.range (d.get rPkgCount)).foldl (fun m q => if q = d.pkg || (d.hfNextHop q).isSome then bitSet m q else m) 0

/-- The link may be enabled: it has a peer, and a fenced package does not hold it DISABLED, its peer being outside the half (R399). -/
def Dev.hfEnableOk (d : Dev) (l : Nat) : Bool :=
  (d.get (rHfState l) = 0 || d.get (rHfState l) = 7) &&
    (match d.hfPeer l with
     | some q => d.get rPartState != 3 || bitAt d.part.half q
     | none => false)

/-- The effect of writing `hfCommand`: 1 RETRAIN, 2 DISABLE, 3 ENABLE. One that meets no link it acts on reads REFUSED (log 14). -/
def Dev.hfCommand (d : Dev) (l code : Nat) : Reply :=
  let r := rHfCommand l
  if d.get r = cmdRunning then (.busy, d)
  else if code = 1 then
    if d.hfUp l then (.ok, (d.set r cmdRunning).hfRetrain l) else (.ok, d.set r cmdRefused)
  else if code = 2 then (.ok, (d.hfLeave l 0).set r cmdDone)
  else if d.hfEnableOk l then
    (.ok, ((d.setHfLink l { d.hfLink l with widthTries := 0 }).setHfState l 2).set r cmdRunning)
  else (.ok, d.set r cmdRefused)

/-- A link command as its own row. -/
def hfRow (p : Path) (l code : Nat) (s : State) : Out :=
  if l < 4 then writeCommand p (0x6480 + l) 0x04 code (fun d _ => d.hfCommand l code) s else .refused (.noSuchOperand 388)

/-- HF_RETRAIN (R388). -/
def execHfRetrain (p : Path) (link : Nat) (s : State) : Out := hfRow p link 1 s

/-- HF_DISABLE (R388). -/
def execHfDisable (p : Path) (link : Nat) (s : State) : Out := hfRow p link 2 s

/-- HF_ENABLE (R388). -/
def execHfEnable (p : Path) (link : Nat) (s : State) : Out := hfRow p link 3 s

/-! ## Splits (R397 to R401) -/

/-- The packages of the system, as a mask. -/
def Dev.systemMask (d : Dev) : Nat := 2 ^ d.get rPkgCount - 1

/-- The packages outside a half. -/
def Dev.outside (d : Dev) (half : Nat) : List Nat := d.otherPackages.filter (fun q => !bitAt half q)

/-- R296 for a remote agent: a directory entry after the loss of its package. -/
def purgeRemote (a : Nat) (e : DirEntry) : Option DirEntry :=
  if e.state = 2 then (if e.owner = a then none else some e)
  else
    let e' := { e with remote := bitClear e.remote (a - 245) }
    if e'.sharers.isEmpty then none else some e'

/-- R400: every home slice loses a remote agent: X lines are marked in memory and Remote bits are cleared. -/
def Dev.purgeAgent (d : Dev) (a : Nat) : Dev :=
  let owned := d.homes.flatMap (fun h => h.2.dir.flatMap (fun set =>
    (set.2.filter (fun e => e.state = 2 && e.owner = a)).map (fun e => e.line)))
  let d := { d with homes := d.homes.map (fun h =>
      (h.1, { h.2 with
        dir := (h.2.dir.map (fun set => (set.1, set.2.filterMap (purgeRemote a)))).filter (fun set => !set.2.isEmpty),
        txns := h.2.txns.filter (fun t => t.grantee != some a) })) }
  (owned.foldl Dev.markLine d).releaseAgent a

/-- R400: a copy of a line of a lost package goes without writeback; a request for it stays out. -/
def Dev.dropCopy (k : Nat) (d : Dev) (line : Nat) : Dev :=
  let l := (d.hart k).line line
  match l.state with
  | .is => d
  | .im => d
  | .sm => (d.setL2 k line { l with state := .im }).loseResv k line
  | _ => (d.setL2 k line { l with state := .i }).loseResv k line

/-- R400: the proxy drops every local copy of lines homed in packages that are lost. -/
def Dev.dropLost (d : Dev) : Dev :=
  let d := (d.harts.map (fun h => h.1)).foldl (fun d k =>
    (((d.hart k).l2.map (fun e => e.1)).filter (fun x => d.fromLost x)).foldl (Dev.dropCopy k) d) d
  let keep (t : Tab (List FilterEntry)) : Tab (List FilterEntry) :=
    (t.map (fun (e : Nat × List FilterEntry) => (e.1, e.2.filter (fun f => !d.fromLost f.line)))).filter (fun e => !e.2.isEmpty)
  { d with filters := keep d.filters, remote := keep d.remote }

/-- R400: the package goes on without the packages outside its half. -/
def Dev.partContinue (d : Dev) : Dev :=
  let out := d.outside d.reachMask
  let d := (d.set rPartState 2).set rPartLost (out.foldl (fun m q => bitSet m q) 0)
  (out.foldl (fun d q => d.purgeAgent (d.remoteAgent q)) d).dropLost

/-- R399: the package fences itself. PARTITION_LOST comes from the management complex, which decides. DEDUCED. -/
def Dev.partFence (d : Dev) : Dev :=
  let half := d.reachMask
  let out := d.outside half
  let mask := out.foldl (fun m q => bitSet m q) 0
  let d := { d with part := { d.part with half := half } }
  let d := (d.set rPartState 3).raise kPartitionLost 881 (half % 16 + 16 * mask)
  let d := (List.range 240).foldl Dev.fencePair d
  ((List.range 4).filter (fun l => match d.hfPeer l with
    | some q => !bitAt half q
    | none => false)).foldl (fun d l => (d.hfLeave l 0).hfCommandEnd l cmdRefused) d

/-- The package has reached no path to some package for `partHold`. -/
def Dev.holdExpired (d : Dev) : Bool :=
  d.otherPackages.any (fun q => (d.hfNextHop q).isNone && (match tabFind d.part.lostAt q with
    | some t => t + d.get rPartHold * 1000 ≤ d.now
    | none => false))

/-- R397, R398: the package enters DECIDING, tells its half, and decides at once where the master is within it. -/
def Dev.decide (d : Dev) : Dev :=
  let half := d.reachMask
  let m := d.get rPartMasterPkg
  let d := { d.set rPartState 1 with part := { d.part with decideEnd := d.inUs (d.get rPartDecide) } }
  let d := d.notify 0x1208 0x02 (leBytes 4 half)
  let d := if m = d.pkg then
      (d.outside half).foldl (fun d q => d.request (Config.ringNodeOf q) cmdWrite 0x1208 0x03 [2]) d
    else d
  if m < d.get rPkgCount && bitAt half m then d.partContinue else d

/-- PARTITION_HOLD_EXPIRY (R397, R398). -/
def execPartitionHoldExpiry (far : Nat) (s : State) : Out :=
  occurs 397 (fun d => d.get rPartState = 0 && ({ d with part := { d.part with far := far % 65536 } }).holdExpired)
    (fun d => ({ d with part := { d.part with far := far % 65536 } }).decide) s

/-- The effect of writing `partVerdict`: in DECIDING (R398). -/
def Dev.verdict (d : Dev) (code : Nat) : Reply :=
  if d.get rPartState != 1 then (.busy, d)
  else (.ok, if code = 1 then d.partContinue else d.partFence)

/-- PART_VERDICT_CONTINUE (R398, R400). -/
def execPartVerdictContinue (p : Path) (s : State) : Out := writeCommand p 0x1208 0x03 1 (fun d _ => d.verdict 1) s

/-- PART_VERDICT_FENCE (R398, R399). -/
def execPartVerdictFence (p : Path) (s : State) : Out := writeCommand p 0x1208 0x03 2 (fun d _ => d.verdict 2) s

/-- PARTITION_DECIDE_EXPIRY (R398). -/
def execPartitionDecideExpiry (s : State) : Out :=
  occurs 398 (fun d => d.get rPartState = 1 && d.part.decideEnd ≤ d.now) (fun d => d.partFence) s

end Sys2Proof.Machine
end

