-- ==== Sys2Proof/Machine/Fusible.lean ====
section
/-!
DEFINITION. Fault collection (chapter 17): the class of a record (R372), the log (R374), containment (R373), the fault pins (R375), the
commands that acknowledge and clear (R376), escalation (R377), the fatal stop and the latch (R378, R379), and what Fusible's neighbours
raise: regulators (R382) and the management cores (R383).
-/
namespace Sys2Proof.Machine

/-! ## Records (Table 17-1) -/

/-- The 32 bytes of a record. -/
def faultBytes (r : FaultRec) : List Byte :=
  leBytes 8 r.msg.time ++ leBytes 8 (boolNat r.msg.valid * 2 ^ 63 + r.msg.addr % 2 ^ 52) ++ leBytes 4 r.msg.syndrome
    ++ leBytes 2 (boolNat r.msg.lost * 0x8000 + r.source % 2048) ++ leBytes 1 r.msg.kind ++ leBytes 1 r.cls ++ leBytes 1 r.state
    ++ leBytes 1 (2 * boolNat r.contained + boolNat r.escalated) ++ leBytes 2 0 ++ leBytes 4 r.seq

/-- The record is stored and not cleared. -/
def FaultRec.uncleared (r : FaultRec) : Bool := r.state = 1 || r.state = 2

/-- `srcPending` (R375). -/
def Dev.pendingOf (d : Dev) (s : Nat) : Nat :=
  (d.fus.log.filter (fun e => e.2.source = s && e.2.uncleared)).foldl (fun m e => max m e.2.cls) (tabGet d.fus.folded s 0)

/-- Some source's `srcPending` is at least `c`. -/
def Dev.anyPending (d : Dev) (c : Nat) : Bool :=
  d.fus.log.any (fun e => e.2.uncleared && c ≤ e.2.cls) || d.fus.folded.any (fun e => c ≤ e.2)

/-- R375: the pins follow. -/
def Dev.updatePins (d : Dev) : Dev :=
  { d with pins := { d.pins with errN := !d.anyPending 2, fatalN := !(d.anyPending 5 || !d.latch.isEmpty || d.power.tripped) } }

/-! ## The units of sources (R371, Table 17-2) -/

/-- The unit to which a source's records are attributed. Base side of a module: leading-end modules six to a die, hub modules four to a
die (R318). DEDUCED. -/
def sourceUnit (s : Nat) : UnitRef :=
  if s < 480 then .core (s % 240)
  else if s < 492 then .die (s - 480)
  else if s < 500 then .die (12 + (s - 492) % 4)
  else if s < 532 then .die (12 + (s - 500) / 8)
  else if s < 596 then .cluster ((s - 532) / 16)
  else if s < 604 then .die (12 + (s - 596) / 2)
  else if s < 616 then .die 16
  else if s < 632 then .cluster 4
  else if s < 640 then .cluster 5
  else if s < 664 then .die (12 + (s - 640) / 6)
  else if s < 680 then .die (12 + (s - 664) / 4)
  else if s < 692 then .die (12 + (s - 680) / 3)
  else if s < 720 then .die 16
  else if s < 864 then .die (12 + (s - 720) / 36)
  else if s = 887 then .package
  else if s < 912 then .die 16
  else if s < 1456 then .die ((s - 912) / 32)
  else .die (12 + (s - 1456) / 20)

/-- The containment unit of a source (Table 17-2). -/
inductive Contain where
  | none
  | core (k : Nat)
  | die (n : Nat)
  | engine (e : Nat)
  | module (m : Nat)
  | link (l : Nat)
  | port (n : Nat)
deriving DecidableEq, Repr

/-- Table 17-2, last column. -/
def containUnit (s : Nat) : Contain :=
  if s < 480 then .core (s % 240)
  else if s < 492 then .die (s - 480)
  else if s < 532 then .none
  else if s < 596 then .engine (s - 532)
  else if s < 616 then .none
  else if s < 640 then .engine (64 + (s - 616))
  else if s < 680 then .module (s - 640)
  else if s < 692 then .die (s - 680)
  else if s < 696 then .link (s - 692)
  else if s < 720 then .port (s - 696)
  else if s < 1456 then .none
  else if (s - 1456) % 20 < 18 then .die (3 * ((s - 1456) / 20) + (s - 1456) % 20 / 6)
  else .none

/-- A module leaves service FAILED; a command that runs ends. -/
def Dev.containModule (d : Dev) (m : Nat) : Dev :=
  let x := d.chan m
  if x.state = 7 then d
  else
    ((d.loseModule m).setChanState m 7).endCommand m cmdRefused

/-- R373: Fusible takes a containment unit out of service. -/
def Dev.containOut (d : Dev) : Contain → Dev
  | .none => d
  | .core k => d.fencePair k
  | .die n => d.dieLost n
  | .engine e => d.fenceEngine e
  | .module m => d.containModule m
  | .link l => (d.hfLeave l 7).hfCommandEnd l cmdRefused
  | .port n => d.setBlock (8 + n) stFenced

/-! ## Classes (R372, R373) -/

/-- R372: the class of a record of a kind from a source. -/
def Dev.classOf (d : Dev) (s k : Nat) : Nat :=
  if kindIsFixed k then kindDefault k
  else if k = kMemoryUncorrectable && d.get rMemPoisonMode = 1 then 1
  else if d.get (rSrcClass s) != 0 then d.get (rSrcClass s)
  else d.get (rKindClass k)

/-- The wired source that a class raises (Table 17-3). -/
def Dev.signalClass (d : Dev) (c : Nat) : Dev :=
  if c < 2 then d else if c < 4 then d.pendWired 3 else d.pendWired 4

/-! ## The fatal stop (R378) -/

/-- A cluster is fenced by the fatal stop; what it was doing ends. -/
def Dev.stopCluster (d : Dev) (c : Nat) : Dev :=
  if d.unit (.cluster c) = stOff || d.unit (.cluster c) = stFailed then d
  else
    let d := d.clusterFence c
    let d := if d.get (rUnitCommand (.cluster c)) = cmdRunning then d.set (rUnitCommand (.cluster c)) cmdRefused else d
    if d.get (rBlkCommand c) = cmdRunning then d.set (rBlkCommand c) cmdRefused else d

/-- A job of an engine class whose execute phase has not ended ends under R93: no engine of its class remains. -/
def Dev.stopJob (d : Dev) (j : Nat) (x : Job) : Dev :=
  let c := d.instClass x.inst
  if 1 ≤ c && c ≤ 3 && descOpcode x.desc != 0 && x.phase ≤ phExecute then d.endJob j jsEngineFailed 0 else d

/-- R378: the first FATAL or LATCHED record stops the engines; R424: it freezes the counters where that is enabled. -/
def Dev.fatalStop (d : Dev) : Dev :=
  if d.fus.stopped then d
  else
    let d := { d with fus := { d.fus with stopped := true } }
    let d := (List.range 6).foldl Dev.stopCluster d
    let d := d.jobs.foldl (fun d p => d.stopJob p.1 p.2) d
    if d.flag rPcFreezeOnFatal && !d.flag rPcFrozen && d.get rPcCommand != cmdRunning then d.freeze else d

/-! ## Acceptance (R370, R374) -/

/-- How old a record is: acceptance numbers wrap. -/
def Dev.ageOf (d : Dev) (r : FaultRec) : Nat := (d.get rFsSequence + 2 ^ 32 - r.seq) % 2 ^ 32

/-- The oldest record of the log that `f` names. -/
def Dev.oldestRec (d : Dev) (f : FaultRec → Bool) : Option Nat :=
  ((d.fus.log.filter (fun e => f e.2)).foldl (fun (m : Option (Nat × FaultRec)) e =>
    match m with
    | none => some e
    | some b => if d.ageOf b.2 < d.ageOf e.2 then some e else m) none).map (fun e => e.1)

/-- R374: the element that a new record takes. -/
def Dev.logPlace (d : Dev) : Option Nat :=
  match (List.range 4096).find? (fun e => (tabFind d.fus.log e).isNone) with
  | some e => some e
  | none =>
    match d.oldestRec (fun r => r.state = 3) with
    | some e => some e
    | none => d.oldestRec (fun r => r.state = 1 && r.cls = 1)

/-- A record takes an element. -/
def Dev.storeRec (d : Dev) (e : Nat) (r : FaultRec) : Dev :=
  { (d.set rFsNewest e).set (rFrCommand e) cmdIdle with fus := { d.fus with log := tabPut d.fus.log e r } }

/-- R374: a record that is not stored folds into its source. -/
def Dev.foldRec (d : Dev) (r : FaultRec) : Dev :=
  let s := r.source
  let d := (d.addSat rFsLogLost 1).addSat (rSrcFolded s) 1
  let f := { d.fus with folded := tabPut d.fus.folded s (max r.cls (tabGet d.fus.folded s 0)) }
  let f := if r.cls = 4 && (tabFind f.timers s).isNone then { f with timers := tabPut f.timers s r.deadline } else f
  { d with fus := f }

/-- The latch takes a LATCHED record while it has room (R379). -/
def Dev.latchRec (d : Dev) (r : FaultRec) : Dev :=
  if r.cls = 6 && d.latch.length < 16 then { d with latch := d.latch ++ [r] } else d

/-- Fusible accepts a message of a source. -/
def Dev.acceptFault (d : Dev) (s : Nat) (m : FaultMsg) : Dev :=
  let c := d.classOf s m.kind
  let seq := d.get rFsSequence
  let d := ((d.add (rKindCount m.kind) 1).add (rSrcCount s) 1).set rFsSequence ((seq + 1) % 2 ^ 32)
  let r : FaultRec := { msg := m, source := s, cls := c, state := 1, contained := c = 3 && containUnit s != .none,
                        escalated := false, seq := seq, deadline := d.inUs (d.get rFsUrgentTime) }
  let d := match d.logPlace with
    | some e => d.storeRec e r
    | none => d.foldRec r
  let d := (d.latchRec r).signalClass c
  let d := if c = 3 then d.containOut (containUnit s) else d
  (if 5 ≤ c then d.fatalStop else d).updatePins

/-- R374: each error that the log's SECDED storage corrects is a fault of Fusible's own; an operand tells of it: DESIGN CHOICE (log 119). -/
def Dev.logStorage (d : Dev) (corrected : Bool) : Dev := if corrected then d.raise kFusibleCorrected 885 0 else d

/-- FAULT_ACCEPT (R370): one message, chosen by a round-robin arbiter over the sources. -/
def execFaultAccept (corrected : Bool) (s : State) : Out :=
  occurs 370 (fun d => d.fus.queues.any (fun q => !q.2.isEmpty && q.1 < 1536))
    (fun d =>
      match d.arbitrate arbFusible 1536 (fun x => !(d.faultQueue x).isEmpty) with
      | (none, d) => d
      | (some x, d) =>
        match d.faultQueue x with
        | [] => d
        | m :: rest =>
          let q := if rest.isEmpty then tabErase d.fus.queues x else tabPut d.fus.queues x rest
          (({ d with fus := { d.fus with queues := q } }).acceptFault x m).logStorage corrected) s

/-! ## Escalation (R377) -/

/-- The effects of FATAL. -/
def Dev.fatalEffects (d : Dev) : Dev := ((d.signalClass 5).fatalStop).updatePins

/-- The timer of a stored URGENT record has expired. -/
def Dev.urgentDue (d : Dev) (e : Nat) : Bool :=
  match tabFind d.fus.log e with
  | some r => r.state = 1 && r.cls = 4 && r.deadline ≤ d.now
  | none => false

/-- The record escalates one class. -/
def Dev.escalate (d : Dev) (e : Nat) : Dev :=
  match tabFind d.fus.log e with
  | some r =>
    let d := d.addWrap32 rFsEscalations
    ({ d with fus := { d.fus with log := tabPut d.fus.log e { r with cls := 5, escalated := true } } }).fatalEffects
  | none => d

/-- The folded-class timer of a source has expired. -/
def Dev.foldedDue (d : Dev) (s : Nat) : Bool :=
  match tabFind d.fus.timers s with
  | some t => t ≤ d.now && tabGet d.fus.folded s 0 = 4
  | none => false

/-- The folded class of a source escalates. -/
def Dev.escalateFolded (d : Dev) (s : Nat) : Dev :=
  let d := d.addWrap32 rFsEscalations
  ({ d with fus := { d.fus with folded := tabPut d.fus.folded s 5, timers := tabErase d.fus.timers s } }).fatalEffects

/-- A command that completes after an expiry finds the record escalated. -/
def Dev.expireRec (d : Dev) (e : Nat) : Dev := if d.urgentDue e then d.escalate e else d

/-- The same of every record and the folded class of a source. -/
def Dev.expireSource (d : Dev) (s : Nat) : Dev :=
  let d := (d.fus.log.filter (fun e => e.2.source = s)).foldl (fun d e => d.expireRec e.1) d
  if d.foldedDue s then d.escalateFolded s else d

/-- URGENT_ESCALATION (R377). -/
def execUrgentEscalation (element : Nat) (s : State) : Out :=
  occursAt 377 (element < 4096) (fun d => d.urgentDue element) (fun d => d.escalate element) s

/-- FOLDED_URGENT_ESCALATION (R377). -/
def execFoldedUrgentEscalation (source : Nat) (s : State) : Out :=
  occursAt 377 (source < 1536) (fun d => d.foldedDue source) (fun d => d.escalateFolded source) s

/-! ## Commands (R376) -/

/-- A record may be cleared: UNCLEARED or ACKED, of classes 1 to 4. -/
def FaultRec.clearable (r : FaultRec) : Bool := r.uncleared && r.cls ≤ 4

/-- The effect of ACK on an element. -/
def Dev.frAckAt (d : Dev) (e : Nat) : Reply :=
  let d := d.expireRec e
  match tabFind d.fus.log e with
  | none => (.range, d)
  | some r =>
    if r.state = 1 && r.cls = 4 then
      (.ok, ({ d with fus := { d.fus with log := tabPut d.fus.log e { r with state := 2 } } }).set (rFrCommand e) cmdDone)
    else (.range, d)

/-- The effect of CLEAR on an element. -/
def Dev.frClearAt (d : Dev) (e : Nat) : Reply :=
  let d := d.expireRec e
  match tabFind d.fus.log e with
  | none => (.range, d)
  | some r =>
    if r.state = 3 then (.ok, d.set (rFrCommand e) cmdDone)
    else if r.clearable then
      (.ok, (({ d with fus := { d.fus with log := tabPut d.fus.log e { r with state := 3 } } }).set (rFrCommand e) cmdDone).updatePins)
    else (.range, d)

/-- The effect of writing `frCommand`. -/
def Dev.frWrite (d : Dev) (e code : Nat) : Reply := if code = 1 then d.frAckAt e else d.frClearAt e

/-- The clearable records of the sources that `f` names are cleared. -/
def Dev.clearRecords (d : Dev) (f : Nat → Bool) : Dev :=
  { d with fus := { d.fus with
      log := d.fus.log.map (fun (e : Nat × FaultRec) =>
        if f e.2.source && e.2.clearable then (e.1, { e.2 with state := 3 }) else e) } }

/-- The folded class of a source is cleared where it is 1 to 4. -/
def Dev.clearFolded (d : Dev) (s : Nat) : Dev :=
  if 1 ≤ tabGet d.fus.folded s 0 && tabGet d.fus.folded s 0 ≤ 4 then
    { d.set (rSrcFolded s) 0 with
        fus := { d.fus with folded := tabErase d.fus.folded s, timers := tabErase d.fus.timers s } }
  else d

/-- The effect of `srcCommand` CLEAR. -/
def Dev.srcClearAt (d : Dev) (s : Nat) : Reply :=
  let d := ((d.expireSource s).clearRecords (fun x => x = s)).clearFolded s
  (.ok, (d.set (rSrcCommand s) cmdDone).updatePins)

/-- The world may clear the records of a source. -/
def Dev.mayClear (d : Dev) (w : World) (s : Nat) : Bool :=
  w = .tantalum || (match sourceBlock s with
    | some b => d.blockWorld b = .normal
    | none => true)

/-- The sources with records or folded classes. -/
def Dev.openSources (d : Dev) : List Nat := (d.fus.log.map (fun e => e.2.source) ++ d.fus.folded.map (fun e => e.1)).eraseDups

/-- The effect of `fsCommand` CLEAR_ALL. -/
def Dev.clearAllFrom (d : Dev) (w : World) : Reply :=
  let d := d.openSources.foldl Dev.expireSource d
  let d := d.clearRecords (fun s => d.mayClear w s)
  let d := ((d.fus.folded.map (fun e => e.1)).filter (fun s => d.mayClear w s)).foldl Dev.clearFolded d
  (.ok, (d.set rFsCommand cmdDone).updatePins)

/-- FR_ACK (R376, R377): on the element that the path has selected. -/
def execFrAck (p : Path) (s : State) : Out := writeCommand p 0x9011 0x04 1 (fun d _ => d.frWrite (d.selected 0x9010 p) 1) s

/-- FR_CLEAR (R376). -/
def execFrClear (p : Path) (s : State) : Out := writeCommand p 0x9011 0x04 2 (fun d _ => d.frWrite (d.selected 0x9010 p) 2) s

/-- SRC_CLEAR (R376). -/
def execSrcClear (p : Path) (source : Nat) (s : State) : Out :=
  if source < 1536 then writeCommand p (0x9200 + source) 0x05 1 (fun d _ => d.srcClearAt source) s
  else .refused (.noSuchOperand 376)

/-- CLEAR_ALL (R376). -/
def execClearAll (p : Path) (s : State) : Out :=
  writeCommand p 0x9000 0x06 1 (fun d _ => d.clearAllFrom (d.pathWorld p)) s

/-! ## Regulators (R382) -/

/-- The phases lost of the regulator of a source. -/
def Dev.phasesLost (d : Dev) (src : Nat) : Nat :=
  let i := (src - 1456) % 20
  let first := if i < 18 then src - i % 6 else src - (i - 18)
  ((List.range (if i < 18 then 6 else 2)).filter (fun p => tabGet d.power.phases (first + p) 0 != 0)).length

/-- REGULATOR_PHASE_LOSS (R382): the second phase of one regulator costs the compute die that it feeds, and both logic regulators of a
base die are a lost rail. -/
def execRegulatorPhaseLoss (source : Nat) (s : State) : Out :=
  occursAt 382 (1456 ≤ source && source < 1536) (fun d => tabGet d.power.phases source 0 = 0)
    (fun d =>
      let d := { d with power := { d.power with phases := tabPut d.power.phases source 1 } }
      let n := d.phasesLost source
      if n = 1 then d.raise kRegulatorPhase source 0
      else if (source - 1456) % 20 < 18 then
        if n = 2 then (d.dieLost (3 * ((source - 1456) / 20) + (source - 1456) % 20 / 6)).raise kRegulatorLost source 0 else d
      else d.raise kRailLost source 0) s

/-! ## Management cores (R383) -/

/-- MGMT_LOCKSTEP_MISMATCH (R383): both cores reset and resume within 2 ms; a second mismatch within 1 s, or an image that does not
verify, loses them. -/
def execMgmtLockstepMismatch (verified : Passed) (s : State) : Out :=
  occurs 383 (fun d => !d.boot.mgmtFailed && !d.boot.mgmtDown && d.pins.rstN)
    (fun d =>
      let again : Bool := match d.boot.lastMismatch with
        | some t => d.now < t + 1000000000
        | none => false
      let b := { d.boot with lastMismatch := some d.now }
      if again || !verified then ({ d with boot := { b with mgmtFailed := true, mgmtDown := true } }).raise kMgmtFailed 881 0
      else { d with boot := { b with mgmtDown := true, mgmtUpAt := d.inMs 2 } }) s

end Sys2Proof.Machine
end

