-- ==== Sys2Proof/Machine/Boot.lean ====
section
/-!
DEFINITION. Boot slots and their checks (R402 to R404), fuses (R405, R406), the resets of the package (R413), the boot steps (R407,
R379, R432 to R434), live update of the management firmware (R417, R418), the measurement log (R410) and attestation (R412).
-/
namespace Sys2Proof.Machine

/-! ## The boot flash (R402, Table 19-1) -/

/-- `n` bytes of the flash; an erased byte reads 0xFF. -/
def Dev.flashRead (d : Dev) (a n : Nat) : List Byte := (List.range n).map (fun i => tabGet d.flash (a + i) 0xFF)

/-- The first byte of a boot slot. -/
def slotStart (k : Nat) : Nat := k * 0x200_0000

/-- The header of a boot slot. -/
def Dev.slotHeader (d : Dev) (k : Nat) : List Byte := d.flashRead (slotStart k) 4096

/-- A field of a slot's header. -/
def Dev.hdr (d : Dev) (k o n : Nat) : Nat := leNat (d.flashRead (slotStart k + o) n)

def Dev.hdrKeySlot (d : Dev) (k : Nat) : Nat := d.hdr k 6 1
def Dev.hdrVersion (d : Dev) (k : Nat) : Nat := d.hdr k 8 4
def Dev.hdrSvn (d : Dev) (k : Nat) : Nat := d.hdr k 12 4
def Dev.hdrType (d : Dev) (k i : Nat) : Nat := d.hdr k (64 + 48 * i) 1
def Dev.hdrOffset (d : Dev) (k i : Nat) : Nat := d.hdr k (68 + 48 * i) 4
def Dev.hdrLength (d : Dev) (k i : Nat) : Nat := d.hdr k (72 + 48 * i) 4

/-- The header's bytes from `o`, `n` of them, are zero. -/
def Dev.hdrZero (d : Dev) (k o n : Nat) : Bool := (d.flashRead (slotStart k + o) n).all (fun b => b = 0)

/-- A component entry is well formed. -/
def Dev.entryOk (d : Dev) (k i : Nat) : Bool :=
  let o := d.hdrOffset k i
  let l := d.hdrLength k i
  d.hdrZero k (65 + 48 * i) 3 && d.hdrZero k (76 + 48 * i) 4 && 4096 ≤ o && o % 4096 = 0 && 1 ≤ l && l ≤ 0x100_0000
    && o + l ≤ 0x200_0000

/-- The check of Table 19-2 named FORMAT passes. -/
def Dev.formatOk (d : Dev) (k : Nat) : Bool :=
  d.hdr k 4 2 = 1 && d.hdrKeySlot k < 2 && d.hdrZero k 7 1 && d.hdrVersion k != 0 && d.hdrSvn k ≤ 64 && d.hdr k 16 2 = 4
    && d.hdrZero k 18 46 && (List.range 4).all (fun i => d.entryOk k i) && d.hdrZero k 256 192 && d.hdrZero k 2241 575
    && ([1, 2, 3, 4]).all (fun t => ((List.range 4).filter (fun i => d.hdrType k i = t)).length = 1)

/-- The entry of a component type. -/
def Dev.componentEntry (d : Dev) (k t : Nat) : Nat := ((List.range 4).find? (fun i => d.hdrType k i = t)).getD 0

/-- The bytes of a component. -/
def Dev.componentBytes (d : Dev) (k t : Nat) : List Byte :=
  let i := d.componentEntry k t
  d.flashRead (slotStart k + d.hdrOffset k i) (d.hdrLength k i)

/-- R402: the ROM can read the whole component: without SFDP tables it reads the first 16 MiB of a slot alone. -/
def Dev.componentSeen (d : Dev) (k t : Nat) : Bool :=
  let i := d.componentEntry k t
  !bitAt d.flashMode 0 || d.hdrOffset k i + d.hdrLength k i ≤ 0x100_0000

/-- The digest of a component. -/
def Dev.componentDigest (d : Dev) (k t : Nat) : List Byte := shake256 (d.componentBytes k t) 32

/-- A component matches the digest that the header gives. -/
def Dev.componentOk (d : Dev) (k t : Nat) : Bool :=
  d.componentSeen k t && d.componentDigest k t == d.flashRead (slotStart k + 80 + 48 * d.componentEntry k t) 32

/-- The key digest of a key slot. -/
def Dev.fusedDigest (d : Dev) (j : Nat) : List Byte := if j = 0 then d.fuses.keyDigest0 else d.fuses.keyDigest1

/-- The key slot is revoked. -/
def Dev.keyRevoked (d : Dev) (j : Nat) : Bool := if j = 0 then d.fuses.revoked0 else d.fuses.revoked1

/-- The slot's signature verifies. -/
def Dev.slotSigned (d : Dev) (k : Nat) : Bool :=
  let h := d.slotHeader k
  match falconKey 10 ((h.drop 448).take 1793) with
  | some pk => falconCheck 10 pk (shake256 (h.take 2816) 64) (h.drop 2816) == 0
  | none => false

/-- R403: the result of a slot, from the first check of Table 19-2 that fails. A slot that cannot be read gives FLASH; slot 1 is BLANK on a
flash with neither SFDP tables nor READ of 4-byte addresses (R402). -/
def Dev.slotResult (d : Dev) (k : Nat) : Nat :=
  if bitAt d.flashBad k then 8
  else if d.flashRead (slotStart k) 4 != [0x58, 0x53, 0x46, 0x57] || (k = 1 && d.flashMode % 4 = 3) then 1
  else if !d.formatOk k then 2
  else if shake256 (d.flashRead (slotStart k + 448) 1793) 32 != d.fusedDigest (d.hdrKeySlot k) then 3
  else if d.keyRevoked (d.hdrKeySlot k) then 4
  else if !d.slotSigned k then 5
  else if d.hdrSvn k < d.fuses.svn then 6
  else if !d.componentOk k 1 then 7
  else 0

/-- The Version shown for a slot: 0 when it is BLANK or unreadable. -/
def Dev.slotVersion (d : Dev) (k : Nat) : Nat :=
  let r := d.slotResult k
  if r = 1 || r = 8 then 0 else d.hdrVersion k

/-- The result and version of a slot are shown. -/
def Dev.showSlot (d : Dev) (k : Nat) : Dev :=
  if k = 0 then (d.set rBootSlotResult0 (d.slotResult 0)).set rBootVersion0 (d.slotVersion 0)
  else (d.set rBootSlotResult1 (d.slotResult 1)).set rBootVersion1 (d.slotVersion 1)

/-- The results and versions of both slots are shown. -/
def Dev.showSlots (d : Dev) : Dev := (d.showSlot 0).showSlot 1

/-- R404: the slot that boots. -/
def Dev.chooseSlot (d : Dev) : Option Nat :=
  if d.slotResult 0 = 0 && (d.slotResult 1 != 0 || d.hdrVersion 1 ≤ d.hdrVersion 0) then some 0
  else if d.slotResult 1 = 0 then some 1
  else none

/-- A component is placed in memory: the monitor or the Tantalum firmware (R407 step 4, R368). -/
def Dev.loadComponent (d : Dev) (k t : Nat) : Dev :=
  d.cohWrite (iodUse .tantalum) (if t = 2 then Config.monitorBase else Config.tantalumBase) (d.componentBytes k t)

/-! ## The package after its resets (R413, R432 to R434) -/

/-- What every reset of the package keeps: fuses, the boot flash, the always-on latch, and the THERMTRIP_N pin (Table 19-7, Table
21-3). -/
def Dev.afterReset (d : Dev) (latch : List FaultRec) (tripped : Bool) : Dev :=
  let pins := { Dev.reset.pins with thermtripN := !tripped, fatalN := latch.isEmpty && !tripped, straps := d.pins.straps,
                                    throttleN := d.pins.throttleN }
  { Dev.reset with fuses := d.fuses, flash := d.flash, flashBad := d.flashBad, flashMode := d.flashMode, fresh := d.fresh, latch := latch,
                   pins := pins, power := { Dev.reset.power with tripped := tripped } }

/-- POWER_ON (R413): only a standby rail that was off empties the always-on latch (R379) and releases THERMTRIP_N (R445). -/
def execPowerOn (standbyWasOff : Bool) (s : State) : Out :=
  occurs 413 (fun _ => true)
    (fun d => if standbyWasOff then d.afterReset [] false else d.afterReset d.latch d.power.tripped) s

/-- R193: the core mode written before a package reset takes effect with it. -/
def Dev.coreModes (d old : Dev) : Dev :=
  ((List.range 12).filter (fun n => old.get (rCoreModeNext n) = 1)).foldl (fun d n => d.set (rCoreModeActive n) 1) d

/-- PACKAGE_RESET (R413): PKG_RST_N has been low for 10 µs. -/
def execPackageReset (s : State) : Out :=
  occurs 413 (fun d => bitAt d.pins.rails 0) (fun d => (d.afterReset d.latch d.power.tripped).coreModes d) s

/-- R433: the number and the count of the packages, and whether the straps are in error. -/
def strapPackage (raw : Nat) : Nat × Nat × Bool :=
  let n := field raw 5 2
  let c := field raw 7 2
  let count := if c = 0 then 1 else if c = 1 then 2 else 4
  if c = 3 || count ≤ n then (0, 1, true) else (n, count, false)

/-- What the dies report of themselves (Table 01-6), and so the `unitId` of the units on them (Table 00-3). -/
def Dev.showIdentity (d : Dev) : Dev :=
  d.fuses.dies.foldl (fun (d : Dev) (e : Nat × DieIdentity) =>
    let n := e.1
    let x := e.2
    let unit (d : Dev) (u : UnitRef) : Dev := d.set (rUnitId u) (unitIdValue u / 256 * 256 + x.stepping)
    let d := ((d.set (rDieStepping n) x.stepping).set (rDieFeatures n) x.features).set (rDieSerial n) x.serial
    let d := unit d (.die n)
    let d := if n < 12 then (List.range 20).foldl (fun d k => unit d (.core (20 * n + k))) d else d
    if 12 ≤ n && n < 16 then unit d (.cluster (n - 12)) else if n = 16 then unit (unit d (.cluster 4)) (.cluster 5) else d) d

/-- What the straps decide (R63, R385, R433), and what fuses show (R359). -/
def Dev.takeStraps (d : Dev) (raw : Nat) : Dev :=
  let raw := raw % 2 ^ 17
  let p := strapPackage raw
  let d := ((d.set rStrapRaw raw).set rStrapError (boolNat p.2.2)).set rPkgNumber p.1
  let d := (d.set rPkgCount p.2.1).set rRingMaster (raw % 2)
  let d := d.set rRingNode (if raw % 2 = 1 then 0 else field raw 1 4)
  let page := tantalumPage p.1
  let d := (d.set (rWrBase 0) page).set (rWrLimit 0) (page + 0xFFF)
  let on (k : Nat) : Nat := boolNat (bitAt d.fuses.debugOn k && !bitAt d.fuses.debugOff k)
  let d := (((d.set rDbgNormInvasive (on 0)).set rDbgNormNonInvasive (on 1)).set rDbgTanInvasive (on 2)).set rDbgTanNonInvasive (on 3)
  let d := { d with pins := { d.pins with rstN := true, straps := raw, driven := [] },
                    power := { d.power with throttled := !d.pins.throttleN } }
  let d := (d.set rThrottleInput (boolNat !d.pins.throttleN)).showIdentity
  if raw % 2 = 0 && field raw 1 4 = 0 then d.raise kRingStrap 882 0 else d

/-- R379: the latch's records enter the log as elements 0 onward. -/
def Dev.logLatch (d : Dev) : Dev :=
  ({ d with fus := { d.fus with log := d.latch.mapIdx (fun i r => (i, r)), stopped := true },
            boot := { d.boot with latchHold := true } }).updatePins

/-- The boot ends with a fault (R404, R407). -/
def Dev.bootFail (d : Dev) (syn : Nat) : Dev := (d.set rBootState 6).raise kMgmtFailed 881 syn

/-- Steps 0: the ROM loads the management firmware of slot `k` and measures it. -/
def Dev.romLoad (d : Dev) (k : Nat) : Dev :=
  let v := d.hdrVersion k
  let d := d.measAppend 0x01 k v (shake256 (d.slotHeader k) 32)
  let d := d.measAppend 0x02 k v (d.componentDigest k 1)
  let d := { d with boot := { d.boot with runSvn := d.hdrSvn k, runKeySlot := d.hdrKeySlot k } }
  ((d.set rBootSlotActive k).set rMgmtFwVersion v).lockPll 16

/-- The dies of a boot: trained ones are ACTIVE with their PLL locked; a compute die that fails training is bypassed and FAILED (R9). -/
def Dev.bootDies (d : Dev) (bad : List Nat) : Dev :=
  (List.range 17).foldl (fun d n =>
    if n < 12 && bad.contains n then d.setUnit (.die n) stFailed
    else
      let d := (d.setUnit (.die n) stActive).lockPll n
      if n < 12 then d.startStep n else d) d

/-- The compute die at an end of a channel has failed training. -/
def chanBad (bad : List Nat) (c : Nat) : Bool := 40 ≤ c && bad.contains ((c - 40) / 8)

/-- The links of a boot, each with the bitmaps of its two dies; the interface of a die that fails training has failed (R322). -/
def Dev.bootLinks (d : Dev) (bad : List Nat) : Dev :=
  let d := (List.range 136).foldl (fun d c =>
    if chanBad bad c then d.setChanState c 7
    else d.bringUp c (d.get (rDieFeatures (chanDie c 0))) (d.get (rDieFeatures (chanDie c 1)))) d
  bad.foldl (fun (d : Dev) n => d.raise kSolder3dLost (680 + n) 0) (d.set rFabRouteChanges 0)

/-- Table 01-4: the pairing code of the dies, 0 where one is of another maker. -/
def Dev.pairingCode (d : Dev) : Nat :=
  if d.fuses.dies.any (fun e => e.1 < 12 && e.2.foreign) then 0
  else
    match d.get (rDieStepping 0), d.get (rDieStepping 12), d.get (rDieStepping 16) with
    | 0x11, 0x10, 0x10 => 1
    | 0x11, 0x20, 0x11 => 2
    | 0x20, 0x10, 0x11 => 3
    | 0x20, 0x20, 0x11 => 4
    | _, _, _ => 0

/-- R26: the package capability set. -/
def Dev.bootFeatures (d : Dev) : Dev :=
  (d.set rPkgFeatures ((List.range 17).foldl (fun m n => m &&& d.get (rDieFeatures n)) (2 ^ 64 - 1))).set rPairing d.pairingCode

/-- The management slot of base die `b`: slot 15 of its lowest-numbered ACTIVE engine (R102, R105); none where it has none. -/
def Dev.bootMgmtSlot (d : Dev) (b : Nat) : Dev :=
  match ((List.range 16).map (fun k => 16 * b + k)).find? (fun e => d.get (rEngState e) = stActive) with
  | some e => { (d.setSlot e 15 .mgmt) with attKeys := tabPut d.attKeys e 1 }
  | none => d

/-- The engines of a boot run the boot image's microcode, but for those that are FAILED (R102), with the attestation key (R411). -/
def Dev.bootEngines (d : Dev) (k : Nat) (failed : List Nat) : Dev :=
  let u := d.componentBytes k 4
  let d := (List.range 88).foldl (fun d e =>
    if failed.contains e then d.set (rEngState e) stFailed
    else
      let d := d.set (rEngState e) stActive
      if e < 64 then (d.set (rStEngUcodeVersion e) (Config.ucodeVersion u)).deriveKek e else d) d
  let lost := ((List.range 64).filter (fun e => failed.contains e)).length
  let d := (d.set rStUcodeEpoch (Config.ucodeEpoch u)).set rInstFreeSlotsSterling (1020 - 16 * lost)
  let d := (List.range 4).foldl (fun d b => d.bootMgmtSlot b) d
  let d := d.setDom domAttPublicKey (padTo 1793 d.attKeyPair.2)
  (List.range 6).foldl (fun d c => d.setUnit (.cluster c) stActive) d

/-- The DIMMs of a channel. -/
def dimmsOf (l : List Dimm) (c : Nat) : List Dimm := l.filter (fun x => x.channel = c)

/-- R335: every populated channel holds the same number of DIMMs, which agree in capacity, ranks and density. -/
def uniformDimms (l : List Dimm) : Bool :=
  match l with
  | [] => true
  | x :: _ =>
    l.all (fun y => y.bytes = x.bytes && y.ranks = x.ranks && y.density = x.density
      && (dimmsOf l y.channel).length = (dimmsOf l x.channel).length)

/-- R335: `ddrPopulation` of the DIMMs: twelve channels, the six even ones, or none. -/
def populationOf (l : List Dimm) : Nat :=
  let set := (List.range 12).filter (fun c => !(dimmsOf l c).isEmpty)
  if !uniformDimms l then 0 else if set = List.range 12 then 2 else if set = [0, 2, 4, 6, 8, 10] then 1 else 0

/-- The rate that training gives a controller (R335). -/
def Dev.trainedRate (d : Dev) (m : Nat) : Nat :=
  if 12 ≤ m then d.get (rMcShadowRate m)
  else
    let spd := (dimmsOf d.dimms m).foldl (fun r x => min r x.rate) (d.get (rMcShadowRate m))
    if d.hasFeature 18 then spd else min 5600 spd

/-- The controllers that have memory: those of the accepted channels and of the HBM stacks. -/
def Dev.trainedMcs (d : Dev) : List Nat :=
  let p := d.get rDdrPopulation
  (List.range 20).filter (fun m => 12 ≤ m || p = 2 || (p = 1 && m % 2 = 0))

/-- The memory of a boot (R335, R407 step 3): trained and filled with zeros. -/
def Dev.bootMemory (d : Dev) (dimms : List Dimm) (failed : List Nat) : Dev :=
  let p := populationOf dimms
  let d := { (d.set rDdrPopulation p) with dimms := if p = 0 then [] else dimms }
  let d := d.set rDdrInstalled (d.dimms.foldl (fun n x => n + x.bytes) 0)
  let d := if p = 0 then d.raise kDdrPopulation 881 0 else d
  let d := d.trainedMcs.foldl (fun (d : Dev) m =>
    if failed.contains m then (d.set (rMcState m) stFailed).raise kMemoryChannelLost (mcSource m) 0
    else (d.set (rMcRate m) (d.trainedRate m)).set (rMcState m) stActive) d
  { d with mem := [], marks := [],
           pins := { d.pins with ddrResetN := d.trainedMcs.foldl (fun n m => if m < 12 then bitSet n m else n) 0 } }

/-- The state in which a Harfort link waits for its peer: DISABLED in a one-package system (R385), else TRAINING. -/
def Dev.bootHarfort (d : Dev) : Dev :=
  (List.range 4).foldl (fun d l =>
    match hfPeerOf (d.get rPkgCount) d.pkg l with
    | some q => (d.set (rHfState l) 2).set (rHfPeer l) q
    | none => d.set (rHfState l) 0) d

/-- Step 5: the cores of the trained dies that passed self-test, both of a pair in pair mode, start at the monitor's entry. -/
def Dev.bootCores (d : Dev) (dies cores : List Nat) : Dev :=
  let d := (List.range 240).foldl (fun d k => d.set (rCoreResetVector k) Config.monitorEntry) d
  ((List.range 12).flatMap d.leadCores).foldl (fun d k =>
    if dies.contains (k / 20) || cores.contains k || (d.pairMode k && cores.contains (pairOf k)) then d.setCore k stFailed
    else d.startCore k) d

/-- The PLL of a base die or of the IOD has not locked: the boot ends with CLOCK_LOST. -/
def Dev.bootClockLost (d : Dev) (l : List Nat) : Dev :=
  l.foldl (fun (d : Dev) n => d.raise kClockLost (if n < 16 then 480 + n else 880) 0) (d.set rBootState 6)

/-- The PLL of a compute die has not locked: as one that loses lock, the die is bypassed and FAILED (R30), and the boot goes on. -/
def Dev.bootPllLost (d : Dev) (l : List Nat) : Dev := l.foldl (fun (d : Dev) n => d.raise kPllLost (480 + n) 0) d

/-- Steps 4 and 5 of Table 19-4: monitor and Tantalum firmware, and the release. What the boot firmware writes to the address-map objects
ahead of their lock (R40) is its own matter: here they stay as they stand. DESIGN CHOICE (log 60). -/
def Dev.bootLoad (d : Dev) (k : Nat) (x : BootFinding) : Dev :=
  if !(d.componentOk k 2 && d.componentOk k 3) then (d.set (if k = 0 then rBootSlotResult0 else rBootSlotResult1) 7).bootFail 7
  else
    let d := ((d.loadComponent k 2).loadComponent k 3).measAppend 0x03 k (d.hdrVersion k) (d.componentDigest k 2)
    let d := d.measAppend 0x04 k (d.hdrVersion k) (d.componentDigest k 3)
    let d := ((d.set rMemPoisonMode 0).set rPwEnable 1).set rPwState stActive
    let d := (d.set rAddrMapLocked 1).bootCores x.dies x.cores
    let d := { d with pins := { d.pins with perstN := 15 } }
    ((d.set rBootState 5).setUnit .package stActive).setUnit .system stActive

/-- Steps 1 to 5 of Table 19-4, from the slot that the ROM chose. -/
def Dev.bootFirmware (d : Dev) (k : Nat) (x : BootFinding) : Dev :=
  let d := (d.romLoad k).set rBootState 1
  let lost := x.unlocked.filter (fun n => 12 ≤ n && n < 16)
  if !lost.isEmpty then d.bootClockLost lost
  else
    let x := { x with dies := (x.dies ++ x.unlocked.filter (fun n => n < 12)).eraseDups }
    let d := d.bootPllLost (x.unlocked.filter (fun n => n < 12))
    let d := ((d.bootFeatures).bootDies x.dies).bootLinks (x.dies.filter (fun n => n < 12))
    if !d.componentOk k 4 then (d.set (if k = 0 then rBootSlotResult0 else rBootSlotResult1) 7).bootFail 7
    else
      let d := d.measAppend 0x05 k (Config.ucodeVersion (d.componentBytes k 4)) (d.componentDigest k 4)
      let d := ((d.bootEngines k x.engines).bootMemory x.dimms x.controllers).bootHarfort
      if x.controllers.any (fun m => d.get (rMcState m) = stFailed) then d.set rBootState 6 else d.bootLoad k x

/-- The boot (R379, R404, R405, R407). While the always-on latch holds a record, only the management complex comes up. -/
def Dev.bootRun (d : Dev) (x : BootFinding) : Dev :=
  let d := if d.latch.isEmpty then d else d.logLatch
  if x.unlocked.contains 16 then d.bootClockLost [16]
  else if !d.fuses.checkOk then (d.set rBootState 6).raise kFuseIntegrity 880 0
  else
    let d := d.showSlots
    match d.chooseSlot with
    | some k => if d.boot.latchHold then (d.romLoad k).set rBootState 1 else d.bootFirmware k x
    | none => d.bootFail (d.get rBootSlotResult0 + 256 * d.get rBootSlotResult1)

/-- PACKAGE_RESET_RELEASE (R407): the straps are sampled (R432) and the boot steps run. -/
def execPackageResetRelease (straps : Nat) (found : BootFinding) (s : State) : Out :=
  occurs 407 (fun d => !d.pins.rstN && bitAt d.pins.rails 0) (fun d => (d.takeStraps straps).bootRun found) s

/-! ## Boot commands (R406, R417, R418) -/

/-- What every `bootCommand` meets first (R47, R408). -/
def Dev.bootWrite (d : Dev) (k : Dev → Reply) : Reply :=
  if d.get rBootState != 5 || d.get rBootCommand = cmdRunning then (.busy, d) else k d

/-- A `bootCommand` as its own row. -/
def bootRow (p : Path) (code : Nat) (k : Dev → Reply) (s : State) : Out :=
  firmwareCommand p 0x2200 0x09 code (fun d _ => k d) s

/-- The effect of ACTIVATE: step 1 begins on a management slot (R417, R451). -/
def Dev.bootActivate (d : Dev) : Reply :=
  d.bootWrite (fun d =>
    if d.get rTkState = 3 then (.busy, d)
    else
      match d.mgmtAdd .bootSlot [] false 0 with
      | none => (.busy, d)
      | some d' =>
        if !d.measRoom then (.ok, d.set rBootCommand cmdRefused)
        else (.ok, ({ d' with boot := { d'.boot with activating := true } }).set rBootCommand cmdRunning))

/-- BOOT_ACTIVATE (R417). -/
def execBootActivate (p : Path) (s : State) : Out := bootRow p 1 (fun d => d.bootActivate) s

/-- The work is the verification of a boot slot. -/
def MgmtKind.isBoot : MgmtKind → Bool
  | .bootSlot => true
  | _ => false

/-- ACTIVATE_DONE (R417): the checks pass and the new firmware runs, or the command is refused. -/
def execActivateDone (s : State) : Out :=
  occurs 417 (fun d => d.boot.activating && (List.range 4).any (fun b => d.mgmtRuns b MgmtKind.isBoot))
    (fun d =>
      let k := 1 - d.get rBootSlotActive
      let d := { d with boot := { d.boot with activating := false }, mgmt := d.mgmt.filter (fun w => !w.kind.isBoot) }
      let d := d.showSlot k
      if d.slotResult k = 0 && d.get rMgmtFwVersion < d.hdrVersion k && d.measRoom then
        let d := d.measAppend 0x07 k (d.hdrVersion k) (d.componentDigest k 1)
        let d := { d with boot := { d.boot with runSvn := d.hdrSvn k, runKeySlot := d.hdrKeySlot k } }
        ((d.set rBootSlotActive k).set rMgmtFwVersion (d.hdrVersion k)).set rBootCommand cmdDone
      else d.set rBootCommand cmdRefused) s

/-- A blow begins; it ends within 5 ms. -/
def Dev.blow (d : Dev) (b : Blow) : Dev :=
  ({ d with boot := { d.boot with blow := b, blowEnd := d.inMs 5 } }).set rBootCommand cmdRunning

/-- The effect of REVOKE_KEY (Table 19-3). -/
def Dev.revokeKey (d : Dev) (j : Nat) : Reply :=
  if d.boot.runKeySlot = j || d.keyRevoked (1 - j) then (.range, d)
  else d.bootWrite (fun d => (.ok, d.blow (if j = 0 then .key0 else .key1)))

/-- BOOT_REVOKE_KEY0 (R406). -/
def execBootRevokeKey0 (p : Path) (s : State) : Out := bootRow p 2 (fun d => d.revokeKey 0) s

/-- BOOT_REVOKE_KEY1 (R406). -/
def execBootRevokeKey1 (p : Path) (s : State) : Out := bootRow p 3 (fun d => d.revokeKey 1) s

/-- The effect of ADVANCE_SVN (Table 19-3). -/
def Dev.advanceSvn (d : Dev) : Reply :=
  if d.boot.runSvn ≤ d.fuses.svn then (.range, d)
  else d.bootWrite (fun d => (.ok, d.blow (.svn d.boot.runSvn)))

/-- BOOT_ADVANCE_SVN (R406). -/
def execBootAdvanceSvn (p : Path) (s : State) : Out := bootRow p 4 (fun d => d.advanceSvn) s

/-- The fuses after a blow; none is ever restored. -/
def Fuses.blown (f : Fuses) : Blow → Fuses
  | .none => f
  | .key0 => { f with revoked0 := true }
  | .key1 => { f with revoked1 := true }
  | .svn t => { f with svn := max f.svn (min t 64) }

/-- FUSE_BLOW_DONE (R406). -/
def execFuseBlowDone (s : State) : Out :=
  occurs 406 (fun d => d.boot.blow != Blow.none)
    (fun d => ({ d with fuses := d.fuses.blown d.boot.blow, boot := { d.boot with blow := .none } }).set rBootCommand cmdDone) s

/-- The effect of CHECK. -/
def Dev.bootCheck (d : Dev) : Reply := d.bootWrite (fun d => (.ok, d.showSlots.set rBootCommand cmdDone))

/-- BOOT_CHECK (R403). -/
def execBootCheck (p : Path) (s : State) : Out := bootRow p 5 (fun d => d.bootCheck) s

/-! ## Measurement and attestation (R410, R412) -/

/-- The effect of a commit of `measExtend`. -/
def Dev.measExtend (d : Dev) (b : List Byte) : Reply :=
  if !d.measRoom || byteAt b 0 < 0x80 then (.range, d)
  else if d.get rBootState != 5 then (.busy, d)
  else (.ok, d.measAppend (byteAt b 0) 0xFF 0 (b.drop 1))

/-- MEAS_EXTEND (R410). -/
def execMeasExtend (p : Path) (payload : List Byte) (s : State) : Out :=
  transact p (fun d =>
    if payload.length != 33 then (.length, d)
    else d.guardWrite p 0x2202 0x04 0 (fun _ => d.measExtend payload)) s

/-- Bytes 0 to 255 of a report (Table 19-6). -/
def Dev.attBody (d : Dev) (p : Path) : List Byte :=
  let b := [0x58, 0x53, 0x41, 0x52] ++ leBytes 2 1 ++ leBytes 1 (d.get rBootSlotActive) ++ leBytes 1 (d.get rPairing)
    ++ leBytes 8 d.now ++ leBytes 8 (d.get (rDieSerial 16)) ++ leBytes 8 (d.get rPkgFeatures)
    ++ d.dom (domAttNonce p) (zeros 32) ++ d.measHead ++ leBytes 2 (d.get rMeasCount) ++ leBytes 1 d.pkg
    ++ leBytes 1 d.fuses.svn ++ leBytes 4 (d.get rMgmtFwVersion) ++ leBytes 2 (d.get rStUcodeEpoch)
    ++ leBytes 4 (d.get rTkRestarts) ++ (List.range 17).flatMap (fun n => leBytes 1 (d.get (rDieStepping n)))
  padTo 256 b

/-- The effect of SIGN (R412). -/
def Dev.attSign (d : Dev) (p : Path) : Reply :=
  if d.get rAttCommand = cmdRunning || d.secureDown || d.get rBootState != 5 || !d.ks.started then (.busy, d)
  else
    match d.mgmtAdd (.attest (pathNum p)) (d.attBody p) false 0 with
    | some d => (.ok, d.set rAttCommand cmdRunning)
    | none => (.busy, d)

/-- ATT_SIGN (R412). -/
def execAttSign (p : Path) (s : State) : Out := firmwareCommand p 0x2203 0x03 1 (fun d _ => d.attSign p) s

/-- The running work of a base die's management slot signs a report. -/
def MgmtWork.isAttest (w : MgmtWork) : Bool :=
  match w.kind with
  | .attest _ => true
  | _ => false

/-- ATT_SIGNED (R412): the signature ends and is checked, and its record is appended. -/
def execAttSigned (b : Nat) (s : State) : Out :=
  occursAt 412 (b < 4)
    (fun d => d.mgmtUsable b true && (match d.mgmtFront b with
      | some w => w.isAttest && w.seq.isNone
      | none => false))
    (fun d => d.mgmtSigned b 0xF2) s

end Sys2Proof.Machine
end

