-- ==== Sys2Proof/Machine/Tantalum.lean ====
section
/-!
DEFINITION. The Tantalum world (chapter 16): world ranges (R354), the scrub list (R357), debug enables (R359), the hand-over of blocks
and interrupt sources (R361, R362), and the availability of the secure side (R364 to R368).
-/
namespace Sys2Proof.Machine

/-! ## World ranges (R354) -/

/-- Enabling range `n` returns RANGE. -/
def Dev.wrBad (d : Dev) (n : Nat) : Bool :=
  let b := d.get (rWrBase n)
  let l := d.wrLimit n
  l < b || (List.range 32).any (fun m => m != n && d.flag (rWrEnable m) && rangesMeet b l (d.get (rWrBase m)) (d.wrLimit m))

/-- The effect of writing `wrEnable`: it returns OK when every check point holds the new state. -/
def Dev.wrEnableTo (d : Dev) (n v : Nat) : Reply :=
  if v = 1 && d.wrBad n then (.range, d) else (.ok, d.set (rWrEnable n) v)

/-- WR_ENABLE_WRITE (R354). -/
def execWrEnableWrite (p : Path) (n value : Nat) (s : State) : Out :=
  if n < 32 then writeCommand p (0x8010 + n) 0x01 value (fun d _ => d.wrEnableTo n value) s
  else .refused (.noSuchOperand 354)

/-- The effect of writing another sub-entry of a range: BUSY while it is enabled. -/
def Dev.wrField (d : Dev) (n : Nat) (r : Reg) (v : Nat) : Reply :=
  if d.flag (rWrEnable n) then (.busy, d) else (.ok, d.set r v)

/-! ## Scrub list (R357) and debug enables (R359) -/

/-- A register of the scrub list. -/
def rScrub (sub : Nat) : Reg := if sub = 0x11 then rScrubValid else rScrubFid (sub - 1)

/-- SCRUB_LIST_WRITE (R357): it returns OK when every hart holds the new list. -/
def execScrubListWrite (p : Path) (sub value : Nat) (s : State) : Out :=
  if 1 ≤ sub && sub ≤ 0x11 then writeCommand p 0x8030 sub value (fun d _ => (.ok, d.set (rScrub sub) value)) s
  else .refused (.noSuchOperand 357)

/-- The debug enable of a sub-index. -/
def rDbgEnable (sub : Nat) : Reg :=
  if sub = 1 then rDbgNormInvasive else if sub = 2 then rDbgNormNonInvasive else if sub = 3 then rDbgTanInvasive
  else rDbgTanNonInvasive

/-- The effect of writing a debug enable: a fused-off one cannot be set. -/
def Dev.dbgWrite (d : Dev) (sub v : Nat) : Reply :=
  if v = 1 && bitAt d.fuses.debugOff (sub - 1) then (.range, d) else (.ok, d.set (rDbgEnable sub) v)

/-- DEBUG_ENABLE_WRITE (R359). -/
def execDebugEnableWrite (p : Path) (sub value : Nat) (s : State) : Out :=
  if 1 ≤ sub && sub ≤ 4 then writeCommand p 0xA000 sub value (fun d _ => d.dbgWrite sub value) s
  else .refused (.noSuchOperand 359)

/-! ## Hand-over (R361, R362) -/

/-- Step 1 of Table 16-5 for an engine cluster: no job starts, and reserved slots move. -/
def Dev.releaseCluster (d : Dev) (c : Nat) : Dev :=
  let d := d.setUnit (.cluster c) stQuiescing
  let d := (clusterEngines c).foldl (fun d e =>
    if d.get (rEngState e) = stActive then d.set (rEngState e) stQuiescing else d) d
  (clusterEngines c).foldl Dev.moveSlots d

/-- Step 1 of Table 16-5. -/
def Dev.handOver (d : Dev) (n : Nat) : Dev :=
  let d := d.set (rBlkCommand n) cmdRunning
  if n < 6 then d.releaseCluster n else d.setBlock n stFenced

/-- A command of the block's unit or engines reads RUNNING. -/
def Dev.blockCommandRuns (d : Dev) (n : Nat) : Bool :=
  n < 6 && (d.get (rUnitCommand (.cluster n)) = cmdRunning
    || (clusterEngines n).any (fun e => d.get (rEngCommand e) = cmdRunning))

/-- The effect of writing `blkCommand`: 1 TO_NORMAL, 2 TO_TANTALUM. -/
def Dev.blkWrite (d : Dev) (n code : Nat) : Reply :=
  if d.get (rBlkCommand n) = cmdRunning || d.blockCommandRuns n then (.busy, d)
  else if d.get (rBlkWorld n) = code - 1 then (.ok, d)
  else (.ok, d.handOver n)

/-- A block of Table 16-4. -/
def blockOk (n : Nat) : Bool := n < 34

/-- BLK_TO_NORMAL (R361). -/
def execBlkToNormal (p : Path) (n : Nat) (s : State) : Out :=
  if blockOk n then writeCommand p (0x8040 + n) 0x02 1 (fun d _ => d.blkWrite n 1) s else .refused (.noSuchOperand 361)

/-- BLK_TO_TANTALUM (R361). -/
def execBlkToTantalum (p : Path) (n : Nat) (s : State) : Out :=
  if blockOk n then writeCommand p (0x8040 + n) 0x02 2 (fun d _ => d.blkWrite n 2) s else .refused (.noSuchOperand 361)

/-- Nothing of the old world is left in the block: no job on a cluster, no inbound request of a root port. -/
def Dev.blockReleased (d : Dev) (n : Nat) : Bool :=
  if n < 6 then d.clusterIdle n else if n < 32 then !d.fab.reqs.any (fun e => isInbound (n - 8) e.2.owner) else true

/-- HANDOVER_RELEASE_DONE (R361): steps 2 and 3. -/
def execHandoverReleaseDone (n : Nat) (s : State) : Out :=
  occursAt 361 (n < 34) (fun d => d.get (rBlkCommand n) = cmdRunning && d.blockReleased n)
    (fun d =>
      let d := d.set (rBlkWorld n) (1 - d.get (rBlkWorld n))
      let d := if n < 6 then ((clusterEngines n).foldl Dev.engineReset d).setUnit (.cluster n) stReady
        else
          let d := d.setBlock n stActive
          if n < 32 then d.clearGroup (portRootGroup (n - 8)) else d
      d.set (rBlkCommand n) cmdDone) s

/-- The hand-over of a wired source (Table 16-5): it is disabled, its pending bit, configuration and target are cleared, and it
takes the new world. -/
def Dev.irqHandOver (d : Dev) (n v : Nat) : Dev :=
  let d := { d with aplic := { d.aplic with pending := tabErase d.aplic.pending n, enabled := tabErase d.aplic.enabled n,
                                            target := tabErase d.aplic.target n, cfg := tabErase d.aplic.cfg n } }
  let d := d.set (rIrqWorld (n / 64)) (bitPut (d.get (rIrqWorld (n / 64))) (n % 64) (v = 1))
  d.set rIrqCommand cmdDone

/-- The effect of writing `irqCommand`. -/
def Dev.irqWrite (d : Dev) (code : Nat) : Reply :=
  let n := d.get rIrqSource
  if n = 1 || n = 2 then (.range, d)
  else if d.get rIrqCommand = cmdRunning then (.busy, d)
  else if worldBit (d.irqWorldOf n) = code - 1 then (.ok, d)
  else (.ok, d.irqHandOver n (code - 1))

/-- IRQ_TO_NORMAL (R361). -/
def execIrqToNormal (p : Path) (s : State) : Out := writeCommand p 0x8080 0x02 1 (fun d _ => d.irqWrite 1) s

/-- IRQ_TO_TANTALUM (R361). -/
def execIrqToTantalum (p : Path) (s : State) : Out := writeCommand p 0x8080 0x02 2 (fun d _ => d.irqWrite 2) s

/-! ## Availability (R364, R365) -/

/-- A checkpoint in work when the secure side goes down is not taken; it counts in no `ckMissed`, which Table 05-15 keeps for other causes.
DEDUCED (log 66). -/
def Dev.ckDropped (d : Dev) : Dev :=
  let d := { d with mgmt := d.mgmt.filter (fun w => !w.kind.isCheckpoint) }
  if d.get rCkCommand = cmdRunning then d.set rCkCommand cmdRefused else d

/-- The secure side becomes UNAVAILABLE (R364): the fault, the counts, and every hart that executes is to be handled (R365). -/
def Dev.secureLost (d : Dev) : Dev :=
  let d := { d with tk := { d.tk with running := false },
                    ck := { d.ck with wasDown := d.ck.wasDown || d.ks.started },
                    harts := d.harts.map (fun (e : Nat × Hart) => (e.1, { e.2 with lossDue := e.2.running })) }
  let d := (((d.ckDropped).set rTkState 2).addWrap32 rTkExpiries).set rTkLastExpiry d.now
  d.raise kSecureWatchdog 887 0

/-- The watchdog runs and its time has come. -/
def Dev.watchdogDue (d : Dev) : Bool := d.tk.running && d.get rTkState = 1 && d.tk.deadline ≤ d.now

/-- The secure side serves from now on: a checkpoint that it missed is taken (R152). -/
def Dev.secureUp (d : Dev) : Dev :=
  let was := d.get rTkState
  let d := (d.set rTkState 1)
  let d := { d with tk := { d.tk with deadline := d.inUs (d.get rTkWatchdogPeriod), running := true } }
  if was != 1 && d.ks.started && (d.ck.wasDown || d.get rCkNumber = 0) then d.ckTrigger 4 else d

/-- The effect of a kick. One that comes at or after the expiry instant comes after the expiry (R364). -/
def Dev.kick (d : Dev) (v : Nat) : Reply :=
  if d.watchdogDue then (.busy, d.secureLost)
  else
    let st := d.get rTkState
    if st = 0 || st = 1 || (st = 3 && d.get rTkCommand = cmdDone) then (.ok, (d.set rTkWatchdogKick v).secureUp)
    else (.busy, d)

/-- WATCHDOG_KICK (R364). -/
def execWatchdogKick (p : Path) (value : Nat) (s : State) : Out :=
  writeCommand p 0x8000 0x03 value (fun d _ => d.kick value) s

/-- WATCHDOG_EXPIRY (R364). -/
def execWatchdogExpiry (s : State) : Out := occurs 364 (fun d => d.watchdogDue) (fun d => d.secureLost) s

/-- A hart is handled by what it is doing (R365). -/
def Dev.lossAction (d : Dev) (k : Nat) : Dev :=
  let h := d.hart k
  if h.priv = .m && h.inWcall then d.forcedReturn k
  else if h.world = .tantalum then
    let d := (d.fencePair k).raise kCoreSecureLost k 0
    d.setHart k { d.hart k with lostToTk := true }
  else d

/-- SECURE_LOSS_HART_ACTION (R365). -/
def execSecureLossHartAction (hart : Nat) (s : State) : Out :=
  occursAt 365 (hart < 240) (fun d => (d.hart hart).lossDue)
    (fun d =>
      let d := d.setHart hart { d.hart hart with lossDue := false }
      if d.hartRuns hart then d.lossAction hart else d) s

/-! ## Restart (R368) -/

/-- The effect of RESTART. A measurement log without room refuses it (R410). -/
def Dev.tkRestart (d : Dev) : Reply :=
  if d.get rBootState != 5 || d.get rTkState != 2 then (.busy, d)
  else if !d.measRoom then (.ok, d.set rTkCommand cmdRefused)
  else (.ok, (d.set rTkState 3).set rTkCommand cmdRunning)

/-- TK_RESTART (R368). -/
def execTkRestart (p : Path) (s : State) : Out := writeCommand p 0x8000 0x04 1 (fun d _ => d.tkRestart) s

/-- A hart that R365 fenced is enabled again where its self-test passes. -/
def Dev.reenable (ok : List Nat) (d : Dev) (k : Nat) : Dev :=
  let h := d.hart k
  if h.lostToTk && d.unit (.core k) = stFenced && ok.contains k then d.startCore k else d

/-- TK_RESTART_DONE (R368): the image of the active boot slot verifies as at boot, is loaded and measured, and the fenced harts that
pass self-test start; or the restart is refused and the state stays UNAVAILABLE. -/
def execTkRestartDone (selfTestOk : List Nat) (s : State) : Out :=
  occurs 368 (fun d => d.get rTkState = 3 && d.get rTkCommand = cmdRunning && !d.boot.activating && !d.boot.mgmtDown)
    (fun d =>
      let k := d.get rBootSlotActive
      if d.slotResult k = 0 && d.componentOk k 3 && d.measRoom then
        let n := (d.get rTkRestarts + 1) % 2 ^ 32
        let d := d.loadComponent k 3
        let d := d.measAppend 0x06 k n (d.componentDigest k 3)
        let d := (List.range 240).foldl (Dev.reenable selfTestOk) d
        (d.set rTkRestarts n).set rTkCommand cmdDone
      else (d.set rTkState 2).set rTkCommand cmdRefused) s

/-- The effect of DECLARE_DOWN (R368). -/
def Dev.declareDown (d : Dev) : Reply :=
  if d.get rBootState != 5 || d.get rTkCommand = cmdRunning then (.busy, d)
  else if d.get rTkState = 2 then (.ok, d)
  else (.ok, (d.secureLost).set rTkCommand cmdDone)

/-- TK_DECLARE_DOWN (R368). -/
def execTkDeclareDown (p : Path) (s : State) : Out := writeCommand p 0x8000 0x04 2 (fun d _ => d.declareDown) s

end Sys2Proof.Machine
end

