-- ==== Sys2Proof/Machine/Sessions.lean ====
section
/-!
DEFINITION. Authenticated sessions of ring nodes (R67 to R69): challenges, the commit of `sessionOpen`, its verification on a
management slot (R451), and the ends of sessions.
-/
namespace Sys2Proof.Machine

/-! ## Challenges (R67 step 1) -/

/-- A read of `sessionChallenge`: 32 fresh bytes of a DRBG in the order that base die 0 draws from; none where no DRBG serves. DEDUCED:
R67 names no die. -/
def Dev.challengeFor (d : Dev) (n : Nat) : Option (List Byte × Dev) :=
  (d.drbgDraw 0 32).map (fun r => (r.1, { r.2 with ring := { r.2.ring with challenges := tabPut r.2.ring.challenges n r.1 } }))

/-- SESSION_CHALLENGE (R67): a node reads its challenge; BUSY where no DRBG serves, of which the rule says nothing. DESIGN CHOICE
(log 54). -/
def execSessionChallenge (node : Nat) (s : State) : Out :=
  onPath (.ring node) (fun d =>
    match d.challengeFor node with
    | some (c, d) => d.respond (.ring node) .ok c
    | none => d.respond (.ring node) .busy []) s

/-! ## Opening (R67 steps 2 and 3) -/

/-- The digest that a node signs. -/
def Dev.sessionDigest (d : Dev) (n : Nat) (challenge : List Byte) : List Byte :=
  shake256 (challenge ++ leBytes 8 (d.get (rDieSerial 16)) ++ leBytes 1 n) 64

/-- The operator key that an image names, where its digest is that of the image's public key and its role is not 0. -/
def Dev.operatorKeyOf (d : Dev) (img : List Byte) : Option Nat :=
  let j := byteAt img 0
  let k := d.dom (domOperatorKey j) (zeros 33)
  if j < 8 && shake256 ((img.drop 1).take 1793) 32 == (k.drop 1).take 32 && byteAt k 0 != 0 then some (byteAt k 0) else none

/-- A commit that does not open a session. -/
def Dev.rejectSession (d : Dev) : Dev := d.raise kSessionRejected 882 0

/-- How a commit goes on. -/
inductive Commit where
  | ended (st : Status)
  | verifying
deriving DecidableEq, Repr

/-- The next number for a commit. -/
def Dev.nextOpening (d : Dev) : Nat := 1 + d.ring.opening.foldl (fun m o => max m o.id) 0

/-- A commit of `sessionOpen` (R67 step 3): the challenge is used, whatever the outcome. -/
def Dev.sessionCommit (d : Dev) (n tag : Nat) (img : List Byte) : Commit × Dev :=
  match tabFind d.ring.challenges n with
  | none => (.ended .accessDenied, d.rejectSession)
  | some c =>
    let d := { d with ring := { d.ring with challenges := tabErase d.ring.challenges n } }
    match d.operatorKeyOf img with
    | none => (.ended .accessDenied, d.rejectSession)
    | some role =>
      let o : Opening := { node := n, id := d.nextOpening, tag := tag, digest := d.sessionDigest n c, key := (img.drop 1).take 1793,
                           sig := img.drop 1794, role := role }
      match d.mgmtAdd (.session n o.id) [] false 0 with
      | none => (.ended .busy, d)
      | some d => (.verifying, { d with ring := { d.ring with opening := d.ring.opening ++ [o] } })

/-- The signature of an opening verifies. -/
def Opening.verifies (o : Opening) : Bool :=
  match falconKey 10 o.key with
  | some h => falconCheck 10 h o.digest o.sig == 0
  | none => false

/-- The work on a management slot is a session of a node. -/
def MgmtKind.isSession (n : Nat) : MgmtKind → Bool
  | .session m _ => m = n
  | _ => false

/-- The base die on whose slot a session of a node is in verification. -/
def Dev.sessionDie (d : Dev) (n : Nat) : Option Nat := (List.range 4).find? (fun b => d.mgmtRuns b (MgmtKind.isSession n))

/-- The commit of a node in verification on a base die's slot. -/
def Dev.openingOn (d : Dev) (b : Nat) : Option Opening :=
  match d.mgmtFront b with
  | some w => (match w.kind with
    | .session _ id => d.openingOf id
    | _ => none)
  | none => none

/-- The commit of a node whose verification ends next. -/
def Dev.sessionRuns (d : Dev) (n : Nat) : Option Opening := (d.sessionDie n).bind d.openingOn

/-- The session of a node opens; one that it had is replaced (R68). -/
def Dev.openSession (d : Dev) (n role : Nat) : Dev :=
  { d with ring := { d.ring with sessions := tabPut d.ring.sessions n ⟨role, d.now⟩ } }

/-- SESSION_VERIFY_DONE (R67, R69): the verification ends, and the commit with it. The role is the one that the operator key had at the
commit. -/
def execSessionVerifyDone (node : Nat) (s : State) : Out :=
  occursAt 67 (node < 16) (fun d => (d.sessionRuns node).isSome)
    (fun d =>
      match d.sessionDie node, d.sessionRuns node with
      | some b, some o =>
        let d := d.mgmtPop b
        if o.verifies then (d.openSession node o.role).endOpening o.id .ok else (d.rejectSession).endOpening o.id .accessDenied
      | _, _ => d) s

/-! ## Ends of sessions (R68) -/

/-- The session of a node closes. -/
def Dev.closeSession (d : Dev) (n : Nat) : Dev := { d with ring := { d.ring with sessions := tabErase d.ring.sessions n } }

/-- The effect of writing 1 to `sessionClose`: a mailbox never comes here (R67). -/
def Dev.sessionCloseFrom (d : Dev) (p : Path) : Reply :=
  match p with
  | .ring n => (.ok, (d.closeSession n).set rSessionClose cmdDone)
  | .mailbox _ => (.accessDenied, d)

/-- SESSION_CLOSE (R68). -/
def execSessionClose (p : Path) (s : State) : Out := writeCommand p 0x1100 0x0C 1 (fun d _ => d.sessionCloseFrom p) s

/-- SESSION_IDLE_EXPIRY (R68). -/
def execSessionIdleExpiry (node : Nat) (s : State) : Out :=
  occursAt 68 (node < 16)
    (fun d => match tabFind d.ring.sessions node with
      | some x => d.sessionIdled x
      | none => false)
    (fun d => d.closeSession node) s

/-- The effect of writing `sessionIdle`: a session already idle for longer closes at once. -/
def Dev.sessionIdleTo (d : Dev) (v : Nat) : Reply :=
  let open_ := d.ring.sessions.filter (fun (e : Nat × Session) => !d.sessionIdled e.2 && d.now ≤ e.2.last + v * 1000000)
  let d := d.set rSessionIdle v
  (.ok, { d with ring := { d.ring with sessions := open_ } })

/-- SESSION_IDLE_WRITE (R68). -/
def execSessionIdleWrite (p : Path) (value : Nat) (s : State) : Out :=
  if value < 2 ^ 32 then writeCommand p 0x1100 0x0D value (fun d _ => d.sessionIdleTo value) s else .refused (.noSuchOperand 68)

end Sys2Proof.Machine
end

