-- ==== Sys2Proof/Machine/DictRead.lean ====
section
/-!
DEFINITION. What a read of a sub-entry gives (R41, R53, R448): the value kept for it, or what the manual says it shows of the state at
the instant of the read.
-/
namespace Sys2Proof.Machine

/-! ## Where a value is kept -/

/-- The element of a sub-entry: of a window the selected one (R51), of a value kept for each path the path's number. -/
def objElem (o : Obj) (p : Path) (sub : Nat) : Nat :=
  match o with
  | .mmioRegion n => n
  | .keySlot h => h
  | .instBinding i => i
  | .instQueue i => i
  | .instStateWin i => i
  | .instDirty i => i
  | .faultRecord e => e
  | .counterGroup g => g
  | .instSelector => if sub = 1 then pathNum p else 0
  | .selector _ => if sub = 1 then pathNum p else 0
  | .pewterPkg => if 4 ≤ sub && sub ≤ 7 then pathNum p else 0
  | .attestation => if sub = 2 || sub = 4 then pathNum p else 0
  | _ => 0

/-- The key of a sub-entry. -/
def subKey (idx : Nat) (o : Obj) (p : Path) (sub : Nat) : Nat := regKey idx (objElem o p sub) sub

/-- Bit `k` where `f k` holds, for `k` below `n`. -/
def bitsWhere (n : Nat) (f : Nat → Bool) : Nat := (List.range n).foldl (fun m k => if f k then bitSet m k else m) 0

/-! ## Values computed at the read -/

/-- A count of a group at the last freeze (R424). -/
def Dev.snapOf (d : Dev) (g j : Nat) : Nat :=
  match tabFind d.cnt.snaps g with
  | some l => l.getD j 0
  | none => 0

/-- Sub-entries of a counter group: its counts read 0 to those who may not see them (R422). -/
def Dev.groupRead (d : Dev) (g sub : Nat) : Option Nat :=
  if sub = 0x01 then some (d.groupKind g)
  else if 0x0A ≤ sub && sub ≤ 0x11 then (if d.groupHidden g then some 0 else none)
  else if 0x12 ≤ sub && sub ≤ 0x19 then some (if d.groupHidden g then 0 else d.snapOf g (sub - 0x12))
  else if sub = 0x1A then some (boolNat (tabFind d.cnt.snaps g).isSome)
  else none

/-- The numbers that are computed at the read; none for a sub-entry that keeps its value. -/
def Dev.liveNumber (d : Dev) (o : Obj) (sub : Nat) : Option Nat :=
  match o with
  | .ringObject => if sub = 0x0E then some (bitsWhere 16 (fun n => (d.session n).isSome)) else none
  | .entropy b => if sub = 0x06 then some (d.drbgSourceNow b) else none
  | .keyStore => if sub = 0x06 then some d.activeKeys else none
  | .journal b =>
    if sub = 0x06 then some (d.journal b).fill else if sub = 0x07 then some (d.journal b).staged.length else none
  | .instBinding i => if sub = 0x21 && d.instClass i = 4 then some (d.jrNext (d.get (rJrSource i))) else none
  | .bank n => if sub = 0x07 then some (d.bankVersion n) else none
  | .coreObject k =>
    if sub = 0x01 then some (if d.isShadow k then 0xFFFF else k)
    else if sub = 0x02 then some (if !d.pairMode k then 0 else if d.isShadow k then 2 else 1)
    else none
  | .pewterPkg => if sub = 0x0A then some (d.pewter.filter (fun (e : Nat × PwEntry) => e.2.dirty)).length else none
  | .homeSlice n => if sub = 0x01 then some (d.trackersBusy n) else none
  | .solderPkg =>
    if sub = 0x02 then some ((List.range 136).filter (fun c => (d.chan c).state != 5)).length
    else if sub = 0x03 then some (((List.range 52).map (fun m => d.get (rSdFlitsLost m))).sum % 2 ^ 64)
    else none
  | .debugObject => if sub = 0x05 then some (d.fuses.debugOff % 16) else none
  | .fusibleObject =>
    if sub = 0x02 then some (d.fus.log.filter (fun (e : Nat × FaultRec) => e.2.uncleared)).length
    else if sub = 0x07 then some d.latch.length
    else if sub = 0x08 then some (boolNat (!d.pins.errN) + 2 * boolNat (!d.pins.fatalN))
    else none
  | .faultRecord e =>
    if sub = 0x01 then some (match tabFind d.fus.log e with | some r => r.state | none => 0)
    else if sub = 0x02 then some (match tabFind d.fus.log e with | some r => r.cls | none => 0)
    else none
  | .sourceObject n => if sub = 0x02 then some (d.pendingOf n) else none
  | .invarObject =>
    if sub = 0x01 then some d.now else if sub = 0x02 && d.flag rRingMaster then some 1 else none
  | .partitionObject => if sub = 0x02 then some d.reachMask else none
  | .bootObject =>
    if sub = 0x07 then some d.fuses.svn
    else if sub = 0x08 then some (boolNat d.fuses.revoked0 + 2 * boolNat d.fuses.revoked1)
    else none
  | .counterGroup g => d.groupRead g sub
  | .powerObject => if sub = 0x06 then some (bitsWhere 12 (fun n => d.capOf n != 0)) else none
  | .railObject r => if sub = 0x03 then some (boolNat (bitAt d.pins.rails r)) else none
  | _ => none

/-- The measurements of which the manual states no value: a free value at each read (log 41). -/
def measured (o : Obj) (sub : Nat) : Bool :=
  match o with
  | .railObject _ => sub = 0x01 || sub = 0x02
  | .domainObject _ => sub = 0x02 || sub = 0x03
  | _ => false

/-- The number that a read gives, before its type's size is applied. -/
def Dev.numberAt (d : Dev) (p : Path) (idx : Nat) (o : Obj) (r : SubDesc) : Nat × Dev :=
  match o with
  | .keySlot h => if r.sub = 0 then (r.dflt, d) else d.ksRead h r.sub
  | _ =>
    if measured o r.sub then let w := d.takeWord; (w.1.toNat, w.2)
    else
      match d.liveNumber o r.sub with
      | some v => (v, d)
      | none => (tabGet d.regs (subKey idx o p r.sub) r.dflt ||| r.ones, d)

/-! ## DOMAIN values -/

/-- A slot's owner as Table 04-8 shows it. -/
def ownerCode : SlotOwner → Nat
  | .free => 0xFFFF
  | .mgmt => 0xFFFE
  | .inst i => i

/-- `engSlotOwner`. -/
def Dev.ownerBytes (d : Dev) (e : Nat) : List Byte :=
  (List.range (classSlots (engClass e))).flatMap (fun s => leBytes 2 (ownerCode (d.slot e s)))

/-- A placement as `stSlotMap` and `stMgmtSlots` show it. -/
def placeBytes : Option (Nat × Nat) → List Byte
  | some x => leBytes 1 x.1 ++ leBytes 1 x.2
  | none => [0xFF, 0xFF]

/-- The record of an element. -/
def Dev.faultRecordBytes (d : Dev) (e : Nat) : List Byte :=
  match tabFind d.fus.log e with
  | some r => faultBytes r
  | none => zeros 32

/-- The value of a DOMAIN. `sessionOpen` has none, so that a block read of any of its bytes meets LENGTH ahead of ACCESS_DENIED. DESIGN CHOICE
(log 58). -/
def Dev.domainAt (d : Dev) (p : Path) (idx : Nat) (o : Obj) (sub : Nat) : List Byte :=
  let kept (dflt : List Byte) := d.dom (subKey idx o p sub) dflt
  match o with
  | .ringObject => if sub = 0x0A then zeros 32 else if 0x10 ≤ sub then kept (zeros 33) else []
  | .sterlingPkg =>
    if sub = 0x03 then (List.range 4).flatMap (fun b => placeBytes ((d.mgmtEngine b).map (fun e => (e, 15)))) else kept []
  | .sterlingEngine e => d.ownerBytes e
  | .electrumEngine e => d.ownerBytes (64 + e)
  | .deflateEngine e => d.ownerBytes (80 + e)
  | .instBinding i => (d.inst i).slotMap.flatMap placeBytes
  | .keySlot h => if sub = 0x10 then d.keyRaw h else kept []
  | .journal _ => kept (zeros 32)
  | .controller m =>
    if sub = 0x04 then kept (1 :: zeros 63)
    else if sub = 0x0D then padTo 256 (kept [])
    else if sub = 0x12 then kept (zeros (if m < 12 then 16 else 8))
    else kept (zeros (if m < 12 then 17 else 9))
  | .faultRecord e => d.faultRecordBytes e
  | .bootObject => d.fusedDigest (sub - 0x0A)
  | .measurement => if sub = 0x02 then d.measHead else if sub = 0x03 then kept [] else []
  | .attestation => if sub = 0x02 then kept (zeros 32) else kept []
  | _ => kept []

/-- The value of a DOMAIN as a read takes it: `sessionChallenge` is fresh at every read, and a key slot is checked. None where no DRBG
serves. -/
def Dev.domainTake (d : Dev) (p : Path) (idx : Nat) (o : Obj) (sub : Nat) : Option (List Byte) × Dev :=
  match o, p with
  | .ringObject, .ring n =>
    if sub = 0x0A then
      match d.challengeFor n with
      | some (c, d) => (some c, d)
      | none => (none, d)
    else (some (d.domainAt p idx o sub), d)
  | .keySlot h, _ => let d := (d.keyLoad h).2; (some (d.domainAt p idx o sub), d)
  | _, _ => (some (d.domainAt p idx o sub), d)

/-! ## Reads (R49, R448) -/

/-- How a transaction stands: it has ended, or it waits for its unit or for the firmware. -/
inductive TxEnd where
  | ended (st : Status) (data : List Byte)
  | waits
deriving DecidableEq, Repr

/-- A read that the conditions up to ACCESS_DENIED allow. -/
def Dev.readValue (d : Dev) (p : Path) (tag idx : Nat) (o : Obj) (r : SubDesc) (cut : List Byte → List Byte) : TxEnd × Dev :=
  if d.objSilent idx o then (.waits, d.unitHold p tag idx r.sub none)
  else if isDomain r.ty then
    match d.domainTake p idx o r.sub with
    | (some b, d) => (.ended .ok (cut b), d)
    | (none, d) => (.ended .busy [], d)
  else
    let v := d.numberAt p idx o r
    (.ended .ok (leBytes ((tySize r.ty).getD 0) v.1), v.2)

/-- The conditions that a read of a sub-entry meets after LENGTH. -/
def Dev.readAccess (d : Dev) (p : Path) (tag idx : Nat) (o : Obj) (r : SubDesc) (cut : List Byte → List Byte) : TxEnd × Dev :=
  match d.accessStatus p idx o r false 0 with
  | .ok => d.readValue p tag idx o r cut
  | .world => (.ended .world [], d.raiseWorld p idx r.sub)
  | st => (.ended st [], d)

/-- READ with `len` in the request's length field. -/
def Dev.readTx (d : Dev) (p : Path) (tag idx sub len : Nat) : TxEnd × Dev :=
  match d.objectAt p idx with
  | none => (.ended .noObject [], d)
  | some o =>
    match d.subDesc o sub with
    | none => (.ended .noSub [], d)
    | some r =>
      if len != 0 || (isDomain r.ty && pathLimit p < (d.domainAt p idx o sub).length) then (.ended .length [], d)
      else d.readAccess p tag idx o r id

/-- READ_BLOCK of `len` bytes from `offset`. -/
def Dev.readBlockTx (d : Dev) (p : Path) (tag idx sub offset len : Nat) : TxEnd × Dev :=
  match d.objectAt p idx with
  | none => (.ended .noObject [], d)
  | some o =>
    match d.subDesc o sub with
    | none => (.ended .noSub [], d)
    | some r =>
      if !isDomain r.ty then (.ended .type [], d)
      else if pathLimit p < len || (d.domainAt p idx o sub).length < offset + len then (.ended .length [], d)
      else d.readAccess p tag idx o r (fun b => (b.drop offset).take len)

end Sys2Proof.Machine
end

