-- ==== Sys2Proof/Machine/Sterling.lean ====
section
/-!
DEFINITION. Sterling jobs (chapter 04): the decoding of their descriptors (R111, R112, R129) and what each opcode computes in its
execute phase (R112, R118 to R121, R135, R140).
-/
namespace Sys2Proof.Machine

/-! ## Decode (Table 04-2, R111) -/

/-- The opcode's operation takes no input. -/
def stNoInput (op : Nat) : Bool := op = 0x00 || op = 0x10 || op = 0x11 || op = 0x68

/-- The opcode takes an auxiliary operand. -/
def stAux (op : Nat) : Bool := stInlineOk op || op = 0x41 || op = 0x50

/-- Bytes of a public key that an opcode takes or imports. -/
def stPublicLen (op : Nat) : Nat :=
  if op = 0x14 || op = 0x60 then 897 else if op = 0x15 || op = 0x61 then 1793
  else if op = 0x20 || op = 0x62 then 65 else if op = 0x21 || op = 0x63 then 97 else 0

/-- Output length that the opcode and OPDATA fix; none where the opcode has no output, or one that only the key tells. -/
def stOutLen (op opdata : Nat) : Option Nat :=
  if op = 0x10 then some 897 else if op = 0x11 then some 1793 else if op = 0x12 then some 666
  else if op = 0x13 then some 1280 else if op = 0x30 || op = 0x31 then some (opdata % 2 ^ 32)
  else if op = 0x40 then some (opdata % 2 ^ 8) else if op = 0x50 then some 16 else none

/-- The opcode has no output. -/
def stNoOutput (op : Nat) : Bool := (stOutLen op 0).isNone && op != 0x68

/-- The bits of OPDATA that an opcode uses. -/
def stOpDataMask (op : Nat) : Nat :=
  if op = 0x10 || op = 0x11 then 0xFFFF_FFFF_0000_00FF
  else if op = 0x20 || op = 0x21 || op = 0x40 then 0xFF
  else if op = 0x30 || op = 0x31 then 0xFFFF_FFFF
  else if 0x60 ≤ op && op ≤ 0x63 then 0xFF
  else 0

/-- A res0 bit of the descriptor is set (R111, R112, R129). -/
def stRes0 (b : List Byte) : Bool :=
  let op := descOpcode b
  4 ≤ descFlags b || byteAt b 35 != 0 || fieldLe b 42 2 != 0 || 2 ^ 20 ≤ descKeyA b || 2 ^ 20 ≤ descKeyB b
    || 2 ≤ byteAt b 34 || (byteAt b 34 != 0 && !stInlineOk op)
    || (stNoInput op && descIn b != 0) || (stNoOutput op && (descOut b != 0 || descCap b != 0))
    || (!stNamesA b && (descKeyA b != 0 || descGenA b != 0)) || (!stNamesB b && (descKeyB b != 0 || descGenB b != 0))
    || (!stAux op && (descAux b != 0 || descAuxLen b != 0))
    || bitsClear (descOpData b) (stOpDataMask op) != 0
    || (match stTarget op with
        | some t => bitsClear (descOpData b % 2 ^ 8) (usageAllowed t) != 0
        | none => false)

/-- A length is outside the limits of Table 04-2. -/
def stLenBad (b : List Byte) : Bool :=
  let op := descOpcode b
  let n := descInLen b
  let msg := if descInline b then n - stPublicLen op else n
  let aux := descAuxLen b
  (stNoInput op && n != 0)
    || (descInline b && n < stPublicLen op)
    || ((op = 0x12 || op = 0x13 || op = 0x30 || op = 0x31 || op = 0x40 || op = 0x41) && 2 ^ 24 < n)
    || (op = 0x14 && (aux < 41 || 666 < aux)) || (op = 0x15 && (aux < 41 || 1280 < aux))
    || (op = 0x20 && (aux != 64 || 2 < descOpData b || (descOpData b = 0 && msg != 32)))
    || (op = 0x21 && (aux != 96 || 2 < descOpData b || (descOpData b = 0 && msg != 48)))
    || ((op = 0x30 || op = 0x31) && (descOpData b < 1 || 2 ^ 20 < descOpData b))
    || (op = 0x40 && (descOpData b < 4 || 16 < descOpData b)) || (op = 0x41 && (aux < 4 || 16 < aux))
    || (op = 0x50 && (n != 16 || aux < 1 || 19 < aux))
    || (0x60 ≤ op && op ≤ 0x63 && n != stPublicLen op)
    || (match stOutLen op (descOpData b) with
        | some m => descCap b < m
        | none => false)

/-- Phase 1: 0, BAD_OPCODE or BAD_DESCRIPTOR. -/
def stDecode (b : List Byte) : Nat :=
  if !stOpcodeOk (descOpcode b) then jsBadOpcode else if stRes0 b || stLenBad b then jsBadDescriptor else jsOk

/-- Random bytes that the opcode draws. -/
def stRandom (op : Nat) : Nat :=
  if op = 0x10 || op = 0x11 then 48 else if op = 0x12 || op = 0x13 then 72 else if op = 0x50 then 8 else 0

/-- The opcode runs on a pair in a guarded instance (R107). -/
def stPaired (op : Nat) : Bool := 0x10 ≤ op && op ≤ 0x13

/-! ## Execution -/

/-- What an operation leaves at the end of its execute phase. -/
structure OpEnd where
  status   : Nat
  detail   : Nat := 0
  out      : List Byte := []
  attempts : Nat := 0
  /-- the material of a key to create, and the partner's result -/
  key      : List Byte := []
  partner  : List Byte := []
deriving DecidableEq, Repr, Inhabited

/-- The operation of a job is done; its execute phase ends at JOB_EXECUTE_END. -/
def Dev.opEnd (d : Dev) (j : Nat) (r : OpEnd) : Dev :=
  d.modJob j (fun x => { x with opDone := true, status := r.status, detail := r.detail, out := r.out, attempts := r.attempts,
                                blobA := r.key, blobB := r.partner })

/-- The job is a Sterling job in its execute phase, with this opcode, and its operation is not done. -/
def Dev.sterlingTurn (d : Dev) (j op : Nat) : Bool :=
  d.jobIs j (fun x => d.instClass x.inst = 1 && x.phase = phExecute && !x.opDone && descOpcode x.desc = op)

/-- R117: what follows the first 4 KiB of an input is read during execution; a job whose read fails ends there, without a record (R113). -/
def Dev.streamed (d : Dev) (j : Nat) (x : Job) (f : Dev → Job → Dev) : Dev :=
  if descInLen x.desc ≤ 4096 then f d x
  else
    match d.instRead x.inst (descIn x.desc + 4096) (descInLen x.desc - 4096) with
    | (.ok b, d) =>
      let y := { x with input := x.input ++ b }
      f (d.setJob j y) y
    | (r, d) => d.failJob j r

/-- An opcode's row. -/
def stExec (rule j op : Nat) (f : Dev → Job → Dev) (s : State) : Out :=
  occurs rule (fun d => d.sterlingTurn j op)
    (fun d =>
      match d.job j with
      | none => d
      | some x => d.streamed j x f) s

/-- R140: a blob that does not unwrap, or whose header disagrees, ends the job with BAD_KEY_ENCODING and corrupts its slot. -/
def Dev.withKey (d : Dev) (j e h gen : Nat) (blob : List Byte) (k : List Byte → Dev) : Dev :=
  match d.openBlob e h gen (d.keyAt h) blob with
  | some m => k m
  | none => (d.corruptKey h).opEnd j { status := jsBadKey }

/-- The material of key A of a job. -/
def Dev.withKeyA (d : Dev) (j : Nat) (x : Job) (k : List Byte → Dev) : Dev :=
  d.withKey j (x.slot.getD (0, 0)).1 (descKeyA x.desc) x.genA x.blobA k

/-- The public key of a verification and what follows it in the input: from the input where INLINE is set, else from slot A. -/
def Dev.withPublic (d : Dev) (j : Nat) (x : Job) (k : List Byte → List Byte → Dev) : Dev :=
  let n := stPublicLen (descOpcode x.desc)
  if descInline x.desc then k (x.input.take n) (x.input.drop n) else d.withKeyA j x (fun m => k m x.input)

/-- STERLING_NOP (R111): no engine slot is used. -/
def execSterlingNop (job : Nat) (s : State) : Out :=
  occurs 111 (fun d => d.jobIs job (fun x => d.instClass x.inst = 1 && descOpcode x.desc = 0 && d.jobReady x.inst job))
    (fun d => d.endJob job jsOk 0) s

/-- Key generation with parameter set `logn` (R112, R135): the private key, then the public key. The two engines of a guarded pair compute
the same unless one is faulty (R109); the partner's result carries its count of attempts behind it. -/
def Dev.keygen (d : Dev) (j : Nat) (x : Job) (logn : Nat) : Dev :=
  let k := falconKeyPair logn x.rand
  let r := d.takeBool
  let y := r.2.takeBytes k.2.length
  let other := if x.partner.isSome && r.1 then y.1 else k.2
  let d := if x.partner.isSome then (if r.1 then y.2 else r.2) else d
  d.opEnd j { status := jsOk, out := k.2, key := k.1 ++ k.2, partner := other ++ leBytes 1 0 }

/-- FALCON512_KEYGEN (R135). -/
def execFalcon512Keygen (job : Nat) (s : State) : Out :=
  stExec 135 job 0x10 (fun d x => d.keygen job x 9) s

/-- FALCON1024_KEYGEN (R135). -/
def execFalcon1024Keygen (job : Nat) (s : State) : Out :=
  stExec 135 job 0x11 (fun d x => d.keygen job x 10) s

/-- R119: the check has failed at the engines `l`. The first time they are fenced and the job restarts on other slots; the
second time the job ends. -/
def Dev.selfCheckFailed (d : Dev) (j : Nat) (x : Job) (l : List Nat) (n : Nat) : Dev :=
  let d := d.addSat rStSelfCheckFails 1
  if x.selfFails = 0 then
    let d := d.modJob j (fun x => { x with selfFails := 1, restarted := true })
    l.foldl (fun d e => (d.raise kSterlingSelfCheck (engSource e) 0).fenceAndTest e) d
  else
    (d.raise kSterlingKeySuspect (engSource (match x.slot with
      | some p => p.1
      | none => 0)) (descKeyA x.desc)).opEnd j { status := jsSelfCheck, attempts := n }

/-- The engines whose signature fails the check, among the job's and its partner's. -/
def Job.badSigners (x : Job) (logn : Nat) (pub : List Byte) (one two : List Byte) : List Nat :=
  (match x.slot with
    | some p => if signatureGood logn pub x.input one then [] else [p.1]
    | none => []) ++
  (match x.partner with
    | some p => if signatureGood logn pub x.input two then [] else [p.1]
    | none => [])

/-- Signing with parameter set `logn` (R118, R119): each engine of a guarded pair signs and checks by itself, and the two signatures are
compared with their counts of attempts (R109). -/
def Dev.sign (d : Dev) (j : Nat) (x : Job) (logn priv : Nat) : Dev :=
  d.withKeyA j x (fun m =>
    let r := d.engineSigns logn (m.take priv) (m.drop priv) x.rand x.input
    let q := if x.partner.isSome then r.2.engineSigns logn (m.take priv) (m.drop priv) x.rand x.input else r
    match r.1, q.1 with
    | some one, some two =>
      let bad := x.badSigners logn (m.drop priv) one.1 two.1
      if bad.isEmpty then q.2.opEnd j { status := jsOk, out := one.1, attempts := one.2, partner := two.1 ++ leBytes 1 two.2 }
      else q.2.selfCheckFailed j x bad one.2
    | _, _ => (q.2.addSat rStSignExhausted 1).opEnd j { status := jsSignExhausted, attempts := 3 })

/-- FALCON512_SIGN (R118, R119). -/
def execFalcon512Sign (job : Nat) (s : State) : Out := stExec 118 job 0x12 (fun d x => d.sign job x 9 1281) s

/-- FALCON1024_SIGN (R118, R119). -/
def execFalcon1024Sign (job : Nat) (s : State) : Out := stExec 118 job 0x13 (fun d x => d.sign job x 10 2305) s

/-- The end of a verification with this reason code; 0 where the signature verifies. -/
def verifyEnd (detail : Nat) : OpEnd :=
  if detail = 0 then { status := jsOk } else { status := jsVerifyFailed, detail := detail }

/-- Falcon verification (R112). -/
def Dev.falconVerify (d : Dev) (j : Nat) (x : Job) (logn : Nat) : Dev :=
  d.withPublic j x (fun key msg =>
    match falconKey logn key with
    | none => d.opEnd j { status := jsBadKey }
    | some h => d.opEnd j (verifyEnd (falconCheck logn h msg x.aux)))

/-- FALCON512_VERIFY (R112). -/
def execFalcon512Verify (job : Nat) (s : State) : Out := stExec 112 job 0x14 (fun d x => d.falconVerify job x 9) s

/-- FALCON1024_VERIFY (R112). -/
def execFalcon1024Verify (job : Nat) (s : State) : Out := stExec 112 job 0x15 (fun d x => d.falconVerify job x 10) s

/-- ECDSA verification (R112). -/
def Dev.ecdsaVerify (d : Dev) (j : Nat) (x : Job) (c : Curve) : Dev :=
  d.withPublic j x (fun key msg =>
    match decodePoint c key with
    | none => d.opEnd j { status := jsBadKey }
    | some q =>
      let mode := descOpData x.desc % 2 ^ 8
      let digest := if mode = 1 then sha3_256 msg else if mode = 2 then sha3_384 msg else msg
      d.opEnd j (verifyEnd (ecdsaCheck c q digest x.aux)))

/-- ECDSA_P256_VERIFY (R112). -/
def execEcdsaP256Verify (job : Nat) (s : State) : Out := stExec 112 job 0x20 (fun d x => d.ecdsaVerify job x p256) s

/-- ECDSA_P384_VERIFY (R112). -/
def execEcdsaP384Verify (job : Nat) (s : State) : Out := stExec 112 job 0x21 (fun d x => d.ecdsaVerify job x p384) s

/-- SHAKE128 (R116, Table 04-2). -/
def execShake128 (job : Nat) (s : State) : Out :=
  stExec 116 job 0x30
    (fun d x => d.opEnd job { status := jsOk, out := shake128 x.input (descOpData x.desc % 2 ^ 32) }) s

/-- SHAKE256 (R116, Table 04-2). -/
def execShake256 (job : Nat) (s : State) : Out :=
  stExec 116 job 0x31
    (fun d x => d.opEnd job { status := jsOk, out := shake256 x.input (descOpData x.desc % 2 ^ 32) }) s

/-- CMAC_GENERATE (R116, Table 04-2). -/
def execCmacGenerate (job : Nat) (s : State) : Out :=
  stExec 116 job 0x40
    (fun d x => d.withKeyA job x (fun m =>
      d.opEnd job { status := jsOk, out := (aesCmac m x.input).take (descOpData x.desc % 2 ^ 8) })) s

/-- CMAC_VERIFY (R116, Table 04-2). -/
def execCmacVerify (job : Nat) (s : State) : Out :=
  stExec 116 job 0x41
    (fun d x => d.withKeyA job x (fun m =>
      d.opEnd job { status := if (aesCmac m x.input).take x.aux.length = x.aux then jsOk else jsMacMismatch })) s

/-! ## PIN translation (R120, R121) -/

/-- The bytes that nibbles spell, the first in the high half. -/
def nibbleBytes : List Nat → List Byte
  | a :: b :: r => BitVec.ofNat 8 (16 * a + b) :: nibbleBytes r
  | _ => []

/-- The nibbles of bytes. -/
def nibblesOf (b : List Byte) : List Nat := b.flatMap (fun x => [x.toNat / 16, x.toNat % 16])

/-- R120: the plain text PAN field of ASCII digits; none where a byte is no digit. -/
def panField (aux : List Byte) : Option (List Byte) :=
  if aux.any (fun c => c.toNat < 0x30 || 0x39 < c.toNat) then none
  else
    let n := aux.length
    let l := [n - 12] ++ List.replicate (12 - n) 0 ++ aux.map (fun c => c.toNat - 0x30)
    some (nibbleBytes ((l ++ List.replicate 32 0).take 32))

/-- R121: the plain text PIN field passes the format-4 checks. -/
def pinGood (x : List Byte) : Bool :=
  let l := nibblesOf x
  let n := l.getD 1 0
  l.getD 0 0 = 4 && 4 ≤ n && n ≤ 12 && ((l.drop 2).take n).all (fun v => v ≤ 9)
    && ((l.take 16).drop (2 + n)).all (fun v => v = 0xA)

/-- R121 with keys A and B, PAN field, input block and 8 fresh bytes; none where the PIN field fails a check. -/
def pinTranslation (a b pan blk rand : List Byte) : Option (List Byte) :=
  let x := aesDec a (xorBytes (aesDec a blk) pan)
  let x' := x.take 8 ++ rand.take 8
  if pinGood x then some (aesEnc b (xorBytes (aesEnc b x') pan)) else none

/-- A blob that does not unwrap corrupts its slot (R140). -/
def Dev.corruptUnless (d : Dev) (h : Nat) (m : Option (List Byte)) : Dev := if m.isSome then d else d.corruptKey h

/-- The translation, once both keys have been unwrapped (R120, R121, R140). -/
def Dev.pinTranslate (d : Dev) (j : Nat) (x : Job) (a b : Option (List Byte)) : Dev :=
  match a, b with
  | some a, some b =>
    (match panField x.aux with
     | none => d.opEnd j { status := jsBadDescriptor }
     | some pan =>
       match pinTranslation a b pan x.input x.rand with
       | none => d.opEnd j { status := jsPinFormat }
       | some out => d.opEnd j { status := jsOk, out := out })
  | _, _ => ((d.corruptUnless (descKeyA x.desc) a).corruptUnless (descKeyB x.desc) b).opEnd j { status := jsBadKey }

/-- PIN_TRANSLATE (R120, R121): both blobs are unwrapped and verified, whatever the other shows (R140). -/
def execPinTranslate (job : Nat) (s : State) : Out :=
  stExec 121 job 0x50
    (fun d x =>
      let e := (x.slot.getD (0, 0)).1
      d.pinTranslate job x (d.openBlob e (descKeyA x.desc) x.genA (d.keyAt (descKeyA x.desc)) x.blobA)
        (d.openBlob e (descKeyB x.desc) (descGenB x.desc) (d.keyAt (descKeyB x.desc)) x.blobB)) s

/-! ## Public keys -/

/-- The import of a public key that decodes (R135); `ok` says whether it does. -/
def Dev.importPublic (d : Dev) (j : Nat) (x : Job) (ok : Bool) : Dev :=
  d.opEnd j (if ok then { status := jsOk, key := x.input } else { status := jsBadKey })

/-- IMPORT_FALCON512_PUBLIC (R135). -/
def execImportFalcon512Public (job : Nat) (s : State) : Out :=
  stExec 135 job 0x60 (fun d x => d.importPublic job x (falconKey 9 x.input).isSome) s

/-- IMPORT_FALCON1024_PUBLIC (R135). -/
def execImportFalcon1024Public (job : Nat) (s : State) : Out :=
  stExec 135 job 0x61 (fun d x => d.importPublic job x (falconKey 10 x.input).isSome) s

/-- IMPORT_P256_PUBLIC (R135). -/
def execImportP256Public (job : Nat) (s : State) : Out :=
  stExec 135 job 0x62 (fun d x => d.importPublic job x (decodePoint p256 x.input).isSome) s

/-- IMPORT_P384_PUBLIC (R135). -/
def execImportP384Public (job : Nat) (s : State) : Out :=
  stExec 135 job 0x63 (fun d x => d.importPublic job x (decodePoint p384 x.input).isSome) s

/-- The public key within the material of a type. -/
def publicOf (t : Nat) (m : List Byte) : List Byte := if t = 1 then m.drop 1281 else if t = 2 then m.drop 2305 else m

/-- EXPORT_PUBLIC (R111, Table 04-2). -/
def execExportPublic (job : Nat) (s : State) : Out :=
  stExec 111 job 0x68
    (fun d x => d.withKeyA job x (fun m =>
      d.opEnd job { status := jsOk, out := publicOf (d.keyAt (descKeyA x.desc)).type m })) s

end Sys2Proof.Machine
end

