-- ==== Sys2Proof/Machine/Convert.lean ====
section
/-!
DEFINITION. Electrum's conversion primitives (Table 06-12, R172, R173) and length forms (Table 06-14), over bytes. An error names
the first offending source byte by its index; none where no byte is singled out (R171).
-/
namespace Sys2Proof.Machine

/-- A conversion: its result, or the index of the first offending source byte. -/
abbrev Conv := Except (Option Nat) (List Byte)

/-- The byte is an ASCII digit. -/
def isDigit (b : Byte) : Bool := 0x30 ≤ b.toNat && b.toNat ≤ 0x39

/-- The digit values of bytes, by their low nibbles. -/
def digitNats (l : List Byte) : List Nat := l.map (fun b => b.toNat % 16)

/-- The number that decimal digits spell. -/
def decNat (l : List Nat) : Nat := l.foldl (fun a b => 10 * a + b) 0

/-- Decimal digits of a number, least significant first; `f` bounds their number. -/
def decDigits : Nat → Nat → List Nat
  | 0, _ => []
  | f + 1, n => if n < 10 then [n] else n % 10 :: decDigits f (n / 10)

/-- Decimal text of a number. -/
def decText (n : Nat) : List Byte := ((decDigits 64 n).reverse).map (fun v => BitVec.ofNat 8 (0x30 + v))

/-- `l` padded on the left to `n` bytes. -/
def padLeft (n : Nat) (b : Byte) (l : List Byte) : List Byte := List.replicate (n - l.length) b ++ l

/-- BCD_TO_ASCII. -/
def bcdToAscii (pad : Bool) (src : List Byte) : Conv :=
  let l := (nibblesOf src).drop (boolNat pad)
  match l.findIdx? (fun v => 9 < v) with
  | some i => .error (some ((i + boolNat pad) / 2))
  | none => .ok (l.map (fun v => BitVec.ofNat 8 (0x30 + v)))

/-- ASCII_TO_BCD. -/
def asciiToBcd (pad : Bool) (src : List Byte) : Conv :=
  match src.findIdx? (fun b => !isDigit b) with
  | some i => .error (some i)
  | none =>
    if src.length % 2 = 1 && !pad then .error none
    else .ok (nibbleBytes ((if src.length % 2 = 1 then [0] else []) ++ digitNats src))

/-- EBCDIC_TO_ASCII and ASCII_TO_EBCDIC, with a 512-byte map. -/
def charMap (map src : List Byte) : Conv :=
  match src.findIdx? (fun b => bitAt (fieldLe map (2 * b.toNat) 2) 8) with
  | some i => .error (some i)
  | none => .ok (src.map (fun b => BitVec.ofNat 8 (fieldLe map (2 * b.toNat) 2)))

/-- BIN_TO_DEC. -/
def binToDec (digits : Nat) (src : List Byte) : Conv :=
  if 8 < src.length then .error (some 8) else .ok (padLeft digits 0x30 (decText (beNat src)))

/-- DEC_TO_BIN. -/
def decToBin (n : Nat) (src : List Byte) : Conv :=
  match src.findIdx? (fun b => !isDigit b) with
  | some i => .error (some i)
  | none =>
    let v := decNat (digitNats src)
    if 256 ^ n ≤ v then .error none else .ok (beBytes n v)

/-- `l` without leading zeros, and at least "0". -/
def trimZeros (l : List Byte) : List Byte :=
  let r := l.dropWhile (fun b => b = 0x30)
  if r.isEmpty then [0x30] else r

/-- AMOUNT_TO_DEC; with no implied decimals there is no point. -/
def amountToDec (e : Nat) (src : List Byte) : Conv :=
  match src.findIdx? (fun b => !isDigit b) with
  | some i => .error (some i)
  | none =>
    if src.length < e then .error none
    else
      let k := src.length - e
      .ok (trimZeros (src.take k) ++ (if e = 0 then [] else 0x2E :: src.drop k))

/-- DEC_TO_AMOUNT. -/
def decToAmount (e w : Nat) (src : List Byte) : Conv :=
  let int := src.takeWhile (fun b => b != 0x2E)
  let frac := src.drop (int.length + 1)
  match int.findIdx? (fun b => !isDigit b) with
  | some i => .error (some i)
  | none =>
    match (frac.take e).findIdx? (fun b => !isDigit b) with
    | some i => .error (some (int.length + 1 + i))
    | none =>
      if e < frac.length then .error (some (int.length + 1 + e))
      else
        let l := int ++ frac ++ List.replicate (e - frac.length) 0x30
        if w < l.length then .error none else .ok (padLeft w 0x30 l)

/-! ## XML text -/

/-- "&amp;" and the four other entities: the character and the name. -/
def xmlEntities : List (Byte × List Byte) :=
  [(0x26, asciiBytes [0x61, 0x6D, 0x70]), (0x3C, asciiBytes [0x6C, 0x74]), (0x3E, asciiBytes [0x67, 0x74]),
   (0x22, asciiBytes [0x71, 0x75, 0x6F, 0x74]), (0x27, asciiBytes [0x61, 0x70, 0x6F, 0x73])]

/-- One byte escaped. -/
def xmlEscapeByte (b : Byte) : List Byte :=
  match xmlEntities.find? (fun p => p.1 = b) with
  | some p => 0x26 :: p.2 ++ [0x3B]
  | none => [b]

/-- XML_ESCAPE. -/
def xmlEscape (src : List Byte) : List Byte := src.flatMap xmlEscapeByte

/-- UTF-8 of a code point. -/
def utf8 (c : Nat) : List Byte :=
  if c < 0x80 then [BitVec.ofNat 8 c]
  else if c < 0x800 then [BitVec.ofNat 8 (0xC0 + c / 64), BitVec.ofNat 8 (0x80 + c % 64)]
  else if c < 0x10000 then
    [BitVec.ofNat 8 (0xE0 + c / 4096), BitVec.ofNat 8 (0x80 + c / 64 % 64), BitVec.ofNat 8 (0x80 + c % 64)]
  else
    [BitVec.ofNat 8 (0xF0 + c / 262144), BitVec.ofNat 8 (0x80 + c / 4096 % 64), BitVec.ofNat 8 (0x80 + c / 64 % 64),
     BitVec.ofNat 8 (0x80 + c % 64)]

/-- Value of a hex digit; none where the byte is none. -/
def hexVal (b : Byte) : Option Nat :=
  let v := b.toNat
  if 0x30 ≤ v && v ≤ 0x39 then some (v - 0x30)
  else if 0x41 ≤ v && v ≤ 0x46 then some (v - 0x37)
  else if 0x61 ≤ v && v ≤ 0x66 then some (v - 0x57)
  else none

/-- The number that hex digits spell. -/
def hexNat (l : List Byte) : Option Nat :=
  if l.isEmpty then none else l.foldl (fun a b => a.bind (fun x => (hexVal b).map (fun v => 16 * x + v))) (some 0)

/-- The number that decimal digits spell. -/
def decOf (l : List Byte) : Option Nat := if l.isEmpty || l.any (fun b => !isDigit b) then none else some (decNat (digitNats l))

/-- What an entity, without "&" and ";", stands for. -/
def xmlEntity (name : List Byte) : Option (List Byte) :=
  let num : Option Nat := match name with
    | 0x23 :: 0x78 :: r => hexNat r
    | 0x23 :: r => decOf r
    | _ => none
  match num with
  | some c => if 0x10FFFF < c || (0xD800 ≤ c && c ≤ 0xDFFF) then none else some (utf8 c)
  | none => (xmlEntities.find? (fun p => p.2 = name)).map (fun p => [p.1])

/-- XML_UNESCAPE from index `i` on; `f` bounds the steps. -/
def xmlUnescapeN : Nat → Nat → List Byte → Conv
  | 0, _, _ => .ok []
  | _ + 1, _, [] => .ok []
  | f + 1, i, b :: r =>
    if b = 0x26 then
      let name := r.takeWhile (fun c => c != 0x3B)
      match if name.length < r.length then xmlEntity name else none with
      | none => .error (some i)
      | some v =>
        (match xmlUnescapeN f (i + name.length + 2) (r.drop (name.length + 1)) with
         | .ok l => .ok (v ++ l)
         | .error x => .error x)
    else
      match xmlUnescapeN f (i + 1) r with
      | .ok l => .ok (b :: l)
      | .error x => .error x

/-- XML_UNESCAPE. -/
def xmlUnescape (src : List Byte) : Conv := xmlUnescapeN (src.length + 1) 0 src

/-- SUBSTR. -/
def substr (a c : Nat) (src : List Byte) : Conv :=
  if src.length < a + c then .error none else .ok ((src.drop a).take c)

/-! ## Date and time (R172) -/

/-- The parts of a date-time that the source gives: token, value, index of its first byte. -/
abbrev DtParts := List (DtTok × Nat × Nat)

/-- The source split by its pattern: the parts up to its end or its first fault, and that fault. -/
def dtParse : List DtTok → Nat → List Byte → DtParts × Option (Option Nat)
  | [], i, l => ([], if l.isEmpty then none else some (some i))
  | .lit b :: r, i, l =>
    (match l with
     | c :: l => if c = b then dtParse r (i + 1) l else ([], some (some i))
     | [] => ([], some none))
  | t :: r, i, l =>
    let v := l.take t.width
    match v.findIdx? (fun b => !isDigit b) with
    | some k => ([], some (some (i + k)))
    | none =>
      if v.length < t.width then ([], some none)
      else
        let p := dtParse r (i + t.width) (l.drop t.width)
        ((t, decNat (digitNats v), i) :: p.1, p.2)

/-- The part of a token. -/
def dtFind (p : DtParts) (t : DtTok) : Option (Nat × Nat) := (p.find? (fun x => x.1 = t)).map (fun x => x.2)

/-- The year is a leap year. -/
def leapYear (y : Nat) : Bool := y % 4 = 0 && (y % 100 != 0 || y % 400 = 0)

/-- Days of a month. -/
def monthDays (y m : Nat) : Nat :=
  if m = 2 then (if leapYear y then 29 else 28) else if m = 4 || m = 6 || m = 9 || m = 11 then 30 else 31

/-- CTXDATE as year, month and day; none where it is no date. -/
def ctxDate (c : List Byte) : Option (Nat × Nat × Nat) :=
  if c.any (fun b => !isDigit b) then none
  else
    let v := digitNats c
    let y := decNat (v.take 4)
    let m := decNat ((v.drop 4).take 2)
    let d := decNat ((v.drop 6).take 2)
    if m < 1 || 12 < m || d < 1 || monthDays y m < d then none else some (y, m, d)

/-- The destination needs CTXDATE. -/
def dtNeedsCtx (p : DtParts) (dst : List DtTok) : Bool :=
  dst.any (fun t => match t with
    | .year4 => (dtFind p .year4).isNone
    | .year2 => (dtFind p .year2).isNone && (dtFind p .year4).isNone
    | .month => (dtFind p .month).isNone
    | .day => (dtFind p .day).isNone
    | _ => false)

/-- The index that a fault of CTXDATE stands for. -/
def ctxFault : Nat := 0xFFFF_FFFF

/-- The year that the conversion knows, the century of a two-digit year from CTXDATE where it is used. -/
def dtYear (p : DtParts) (ctx : Option (Nat × Nat × Nat)) : Option Nat :=
  match dtFind p .year4, dtFind p .year2, ctx with
  | some y, _, _ => some y.1
  | none, some y, some c => some (c.1 / 100 * 100 + y.1)
  | none, some y, none => some y.1
  | none, none, some c => some c.1
  | none, none, none => none

/-- A part that stands in the text exceeds a bound. -/
def dtPast (p : DtParts) (t : DtTok) (n : Nat) : Bool :=
  match dtFind p t with
  | some x => n < x.1
  | none => false

/-- The runs that fail the calendar or the clock, each by its index in the source, and by `ctxFault` where it comes from CTXDATE. A part
comes from there only where the destination has its run. -/
def dtBad (p : DtParts) (dst : List DtTok) (ctx : Option (Nat × Nat × Nat)) : List Nat :=
  let ix : DtTok → Nat := fun t => ((dtFind p t).map (fun x => x.2)).getD ctxFault
  let val : DtTok → Option Nat → Option Nat := fun t c => match dtFind p t with
    | some x => some x.1
    | none => if dst.contains t then c else none
  let month : Option Nat := val .month (ctx.map (fun c => c.2.1))
  let day : Option Nat := val .day (ctx.map (fun c => c.2.2))
  let year : Nat := (dtYear p (if dst.contains .year4 || dst.contains .year2 then ctx else none)).getD 0
  let most : Nat := month.elim 31 (fun m => monthDays year m)
  (if month.any (fun m => m < 1 || 12 < m) then [ix .month] else [])
    ++ (if day.any (fun v => v < 1 || most < v) then [ix .day] else [])
    ++ (if dtPast p .hour 23 then [ix .hour] else [])
    ++ (if dtPast p .minute 59 then [ix .minute] else [])
    ++ (if dtPast p .second 59 then [ix .second] else [])

/-- `n` digits of a number. -/
def decPad (n v : Nat) : List Byte := padLeft n 0x30 (decText (v % 10 ^ n))

/-- A destination token written. -/
def dtEmit (p : DtParts) (ctx : Option (Nat × Nat × Nat)) (t : DtTok) : List Byte :=
  let get := fun t => ((dtFind p t).map (fun x => x.1))
  match t with
  | .lit b => [b]
  | .year4 => decPad 4 ((dtYear p ctx).getD 0)
  | .year2 => decPad 2 (match get .year2 with
      | some y => y
      | none => (dtYear p ctx).getD 0)
  | .month => decPad 2 ((get .month).getD ((ctx.map (fun c => c.2.1)).getD 0))
  | .day => decPad 2 ((get .day).getD ((ctx.map (fun c => c.2.2)).getD 0))
  | t => decPad 2 ((get t).getD 0)

/-- DATETIME with its two patterns and CTXDATE; an index of `ctxFault` is no index. -/
def datetime (src dst ctx l : List Byte) : Conv :=
  match dtPattern src, dtPattern dst with
  | some s, some t =>
    (match dtParse s 0 l with
     | (p, e) =>
       let c := if dtNeedsCtx p t then ctxDate ctx else none
       match (dtBad p t c ++ (e.bind (fun x => x)).toList).min? with
       | some i => .error (some i)
       | none =>
         if e.isSome then .error none
         else if dtNeedsCtx p t && c.isNone then .error (some ctxFault)
         else .ok (t.flatMap (fun k => dtEmit p c k)))
  | _, _ => .error none

/-! ## Length forms (Table 06-14) -/

/-- Greatest length that a form admits; FIXED has its own. -/
def formMax (form : Nat) : Nat :=
  if form = 2 || form = 5 then 99 else if form = 3 || form = 6 then 999 else if form = 4 || form = 7 then 9999
  else if form = 8 then 255 else if form = 9 then 65535 else 65536

/-- The prefix of a form for a length, its digits in ASCII or EBCDIC. -/
def formPrefix (form : Nat) (ebcdic : Bool) (n : Nat) : List Byte :=
  let digits := fun k => (decPad k n).map (fun b => if ebcdic then b + 0xC0 else b)
  let bcd := fun k => nibbleBytes (digitNats (decPad (2 * k) n))
  if form = 2 then digits 2 else if form = 3 then digits 3 else if form = 4 then digits 4
  else if form = 5 then bcd 1 else if form = 6 || form = 7 then bcd 2
  else if form = 8 then beBytes 1 n else if form = 9 then beBytes 2 n else []

/-! ## Bitmaps (R173) -/

/-- The bits that stand for fields: 2 to 64, 66 to 128, 130 to 192. -/
def bitmapFields : List Nat := (List.range 193).filter (fun n => 2 ≤ n && n != 65 && n != 129)

/-- Bytes of a bitmap of `bits` bits in which bit `n` is set where `f n`; bit 1 is the most significant of the first byte. -/
def bitmapBytes (bits : Nat) (f : Nat → Bool) : List Byte :=
  (List.range (bits / 8)).map (fun i =>
    BitVec.ofNat 8 ((List.range 8).foldl (fun v j => 2 * v + boolNat (f (8 * i + j + 1))) 0))

/-- Hex text of bytes. -/
def hexText (l : List Byte) : List Byte :=
  (nibblesOf l).map (fun v => BitVec.ofNat 8 (if v < 10 then 0x30 + v else if Config.hexLower then 0x57 + v else 0x37 + v))

/-- BITMAP_BUILD for the fields that `present` names; an error is the field that does not fit. -/
def bitmapBuild (bits : Nat) (hex : Bool) (present : Nat → Bool) : Except Nat (List Byte) :=
  let top := ((bitmapFields.filter present).getLast?).getD 0
  let n := if bits = 0 then (if top ≤ 64 then 64 else if top ≤ 128 then 128 else 192) else bits
  match (bitmapFields.filter present).find? (fun k => n < k) with
  | some k => .error k
  | none =>
    let b := bitmapBytes n (fun k =>
      if k = 1 then 64 < n else if k = 65 then 128 < n else if k = 129 then false else present k)
    .ok (if hex then hexText b else b)

/-- The binary bytes of a bitmap source: of 8, 16 or 24 bytes, or of 16, 32 or 48 hex characters; 16 bytes that are all hex
characters are text. -/
def bitmapSource (src : List Byte) : Option (List Byte) :=
  let hex := src.all (fun b => (hexVal b).isSome)
  let n := src.length
  if (n = 16 || n = 32 || n = 48) && hex then some (nibbleBytes (src.map (fun b => (hexVal b).getD 0)))
  else if n = 8 || n = 16 || n = 24 then some src
  else none

/-- BITMAP_CHECK: the first field whose bit disagrees; bit 1 and bit 65 stand for the length. -/
def bitmapCheck (src : List Byte) (present : Nat → Bool) : Option Nat :=
  match bitmapSource src with
  | none => some 1
  | some b =>
    let n := 8 * b.length
    let bit := fun k => k ≤ n && bitAt (byteAt b ((k - 1) / 8)) (7 - (k - 1) % 8)
    ((List.range 193).filter (fun k => 1 ≤ k && k != 129)).find? (fun k =>
      bit k != (if k = 1 then 64 < n else if k = 65 then 128 < n else present k))

end Sys2Proof.Machine
end

