-- ==== Sys2Proof/Machine/Electrum.lean ====
section
/-!
DEFINITION. The interpretation of an Electrum job (chapter 06, R160 to R175): parse, map and emit over a bank image whose lines
come through the engine's table cache (R158).
-/
namespace Sys2Proof.Machine

/-! ## Status codes (Table 06-16) -/

def jsIllegalClass : Nat := 0x40
def jsNoTransition : Nat := 0x41
def jsFieldOverrun : Nat := 0x42
def jsDeclaredLength : Nat := 0x43
def jsBitmapMismatch : Nat := 0x44
def jsMissingMandatory : Nat := 0x45
def jsDuplicateField : Nat := 0x46
def jsXmlTooDeep : Nat := 0x47
def jsOutputOverrun : Nat := 0x48
def jsDomainError : Nat := 0x49
def jsXmlTagMismatch : Nat := 0x4A
def jsUnknownElement : Nat := 0x4B
def jsFrameOverrun : Nat := 0x4C
def jsBankUnavailable : Nat := 0x4D
def jsBankVersion : Nat := 0x4E

/-! ## Environment and ends -/

/-- What a job's interpretation reads: the image through the table cache, and the job's own input. -/
structure ElEnv where
  base    : Nat
  head    : BankHeader
  profile : Nat
  ctx     : List Byte
  input   : List Byte
  cap     : Nat
  /-- the line is at hand -/
  has     : Nat → Bool
  read    : Nat → Nat → List Byte

/-- How an interpretation ends early. -/
structure ElFail where
  status : Nat
  /-- the offset of the error; none where the spec defines none -/
  off    : Option Nat
  fld    : Nat
  stage  : Nat
  st     : Nat
  /-- input-frame fields present, input bytes parsed, and output emitted -/
  count  : Nat
  parsed : Nat
  out    : List Byte
deriving DecidableEq, Repr, Inhabited

/-- A line that is not at hand, or an error. -/
inductive ElStop where
  | miss (line : Nat)
  | fail (f : ElFail)
deriving DecidableEq, Repr, Inhabited

/-- No field. -/
def noField : Nat := 0xFFFF

/-- Bytes of the image. -/
def ElEnv.get (e : ElEnv) (off n : Nat) : Except ElStop (List Byte) :=
  match (linesOf (e.base + off) n).find? (fun l => !e.has l) with
  | some l => .error (.miss l)
  | none => .ok (e.read (e.base + off) n)

/-- A field table entry. -/
def ElEnv.fieldEntry (e : ElEnv) (f : Nat) : Except ElStop (List Byte) := e.get (e.head.fieldOff + 8 * f) 8

/-- Maximum length of a field from its entry. -/
def fieldMax (b : List Byte) : Nat := if fieldLe b 6 2 = 0 then 65536 else fieldLe b 6 2

/-- The profile's entry. -/
def ElEnv.profileEntry (e : ElEnv) : Except ElStop (List Byte) := e.get (64 + 16 * e.profile) 16

/-! ## Parse (R168 to R170) -/

/-- The parser. -/
structure PState where
  st     : Nat
  pos    : Nat
  rest   : List Byte
  /-- input frame: offset and length of each field -/
  fields : Tab (Nat × Nat)
  cur    : Option Nat
  len    : Nat
  bits   : Tab Nat
  ptr    : Nat
  name   : List Byte
  stack  : List (List Byte)
  /-- consecutive steps that consumed nothing -/
  idle   : Nat
  /-- END has been presented and taken -/
  ended  : Bool
  done   : Bool
deriving DecidableEq, Repr, Inhabited

/-- A parse error. -/
def PState.err {α : Type} (p : PState) (status off fld : Nat) : Except ElStop α :=
  .error (.fail { status := status, off := some off, fld := fld, stage := 1, st := p.st, count := p.fields.length,
                  parsed := p.pos, out := [] })

/-- A step that consumes nothing (R170: at most 256 in a row). -/
def PState.still (p : PState) (next : Nat) : Except ElStop PState :=
  if 256 ≤ p.idle then p.err jsNoTransition p.pos noField else .ok { p with st := next, idle := p.idle + 1 }

/-- The symbol presented in a CLASS state is consumed; END is no byte. -/
def PState.adv (p : PState) (next : Nat) : Except ElStop PState :=
  if p.rest.isEmpty then { p with ended := true }.still next
  else .ok { p with st := next, pos := p.pos + 1, rest := p.rest.drop 1, idle := 0 }

/-- A field begins at the present position with `n` bytes. -/
def ElEnv.begin (e : ElEnv) (p : PState) (f n : Nat) : Except ElStop PState := do
  let b ← e.fieldEntry f
  if fieldMax b < n then p.err jsFieldOverrun p.pos f
  else if p.rest.length < n then p.err jsDeclaredLength p.pos f
  else if (tabFind p.fields f).isSome then p.err jsDuplicateField p.pos f
  else .ok { p with fields := tabPut p.fields f (p.pos, n) }

/-- `n` bytes are taken into a field (kinds 1 to 4). -/
def ElEnv.take (e : ElEnv) (p : PState) (f n next : Nat) : Except ElStop PState := do
  let p ← e.begin p f n
  if n = 0 then p.still next
  else .ok { p with st := next, pos := p.pos + n, rest := p.rest.drop n, idle := 0 }

/-- The present symbol extends the open field. -/
def ElEnv.append (e : ElEnv) (p : PState) : Except ElStop PState :=
  match p.cur with
  | none => .ok p
  | some f => do
    let b ← e.fieldEntry f
    let start := (tabGet p.fields f (0, 0)).1
    let n := p.pos - start + (if p.rest.isEmpty then 0 else 1)
    if fieldMax b < n then p.err jsFieldOverrun p.pos f else .ok { p with fields := tabPut p.fields f (start, n) }

/-- The path of an element stack, root first. -/
def stackPath (stack : List (List Byte)) : List Byte :=
  match stack.reverse with
  | [] => []
  | a :: r => a ++ r.flatMap (fun n => 0x2F :: n)

/-- The field of a path, searched from entry `i` on; `k` entries remain. -/
def ElEnv.findPath (e : ElEnv) (hash : Nat) : Nat → Nat → Except ElStop (Option Nat)
  | 0, _ => .ok none
  | k + 1, i => do
    let b ← e.get (e.head.pathOff + 8 * i) 8
    if fieldLe b 0 4 = hash then .ok (some (fieldLe b 4 2)) else e.findPath hash k (i + 1)

/-- TEXT_START and ATTR_START: the field of a path begins with this byte. -/
def ElEnv.beginPath (e : ElEnv) (p : PState) (path : List Byte) (n next : Nat) : Except ElStop PState := do
  match ← e.findPath (crc32c path) e.head.paths 0 with
  | none => p.err jsUnknownElement p.pos noField
  | some f =>
    let p ← e.begin p f n
    PState.adv { p with cur := some f } next

/-- The lowest field, from `f` on, that is mandatory for the profile and absent; `k` fields remain. -/
def ElEnv.missing (e : ElEnv) (p : PState) : Nat → Nat → Except ElStop (Option Nat)
  | 0, _ => .ok none
  | k + 1, f => do
    let b ← e.fieldEntry f
    if bitAt (fieldLe b 0 2) e.profile && (tabFind p.fields f).isNone then .ok (some f) else e.missing p k (f + 1)

/-- ACCEPT. -/
def ElEnv.accept (e : ElEnv) (p : PState) : Except ElStop PState := do
  if !p.stack.isEmpty then p.err jsXmlTagMismatch p.pos noField
  else
    match ← e.missing p 512 0 with
    | some f => p.err jsMissingMandatory p.pos f
    | none => .ok { p with done := true }

/-- The action of an entry (Table 06-9). -/
def ElEnv.action (e : ElEnv) (p : PState) (act next f : Nat) : Except ElStop PState :=
  let sym := p.rest.take 1
  match act with
  | 0x00 => p.err jsNoTransition p.pos noField
  | 0x01 => p.adv next
  | 0x02 => do
    let p ← e.begin p f sym.length
    PState.adv { p with cur := some f } next
  | 0x03 => do
    let p ← e.append p
    p.adv next
  | 0x04 => { p with cur := none }.adv next
  | 0x05 => { p with cur := none }.still next
  | 0x06 => p.still next
  | 0x07 => e.accept p
  | 0x08 => { p with name := sym }.adv next
  | 0x09 =>
    if 64 < p.name.length + sym.length then p.err jsFieldOverrun p.pos noField
    else { p with name := p.name ++ sym }.adv next
  | 0x0A =>
    if 32 ≤ p.stack.length then p.err jsXmlTooDeep p.pos noField else { p with stack := p.name :: p.stack }.adv next
  | 0x0B =>
    match p.stack with
    | n :: r => if n = p.name then { p with stack := r }.adv next else p.err jsXmlTagMismatch p.pos noField
    | [] => p.err jsXmlTagMismatch p.pos noField
  | 0x0C => e.beginPath p (stackPath p.stack) sym.length next
  | _ => e.beginPath p (stackPath p.stack ++ 0x40 :: p.name) sym.length next

/-- A field still open when END is presented ends at the input length. -/
def ElEnv.closeAtEnd (e : ElEnv) (p : PState) : Except ElStop PState :=
  match p.cur with
  | none => .ok p
  | some f => do
    let b ← e.fieldEntry f
    let start := (tabGet p.fields f (0, 0)).1
    if fieldMax b < p.pos - start then p.err jsFieldOverrun p.pos f
    else .ok { p with fields := tabPut p.fields f (start, p.pos - start), cur := none }

/-- A step in a CLASS state. -/
def ElEnv.classStep (e : ElEnv) (p : PState) : Except ElStop PState := do
  let rec_ := e.head.stateOff + 260 * p.st
  match p.rest with
  | [] =>
    if p.ended then p.err jsNoTransition p.pos noField
    else
      let p ← e.closeAtEnd p
      let b ← e.get (rec_ + 4 + 4 * 63) 4
      e.action p (byteAt b 0) (byteAt b 1) (fieldLe b 2 2)
  | c :: _ =>
    let prof ← e.profileEntry
    let k ← e.get (e.head.classOff + 256 * byteAt prof 1 + c.toNat) 1
    if bitAt (byteAt k 0) 7 then p.err jsIllegalClass p.pos noField
    else
      let b ← e.get (rec_ + 4 + 4 * (byteAt k 0 % 64)) 4
      e.action p (byteAt b 0) (byteAt b 1) (fieldLe b 2 2)

/-- DISPATCH. -/
def ElEnv.dispatch (e : ElEnv) (p : PState) (next : Nat) : Except ElStop PState := do
  match (List.range 193).find? (fun n =>
      p.ptr < n && bitAt (tabGet p.bits ((n - 1) / 64) 0) (63 - (n - 1) % 64)) with
  | none => p.still next
  | some n =>
    let b ← e.fieldEntry n
    if bitAt (byteAt b 2) 0 then PState.still { p with ptr := n } (byteAt b 3) else p.err jsBitmapMismatch p.pos n

/-- The value of a LEN_DIGITS take; none where a byte lies outside its set. -/
def lenDigits (form k : Nat) (l : List Byte) : Option Nat :=
  if form = 0 then
    if l.all (fun b => isDigit b || (0xF0 ≤ b.toNat && b.toNat ≤ 0xF9)) then some (decNat (digitNats l)) else none
  else if form = 1 then
    let n := nibblesOf l
    if n.all (fun v => v ≤ 9) && (k % 2 = 0 || n.headD 0 = 0) then some (decNat n) else none
  else some (beNat l)

/-- LEN_DIGITS. -/
def PState.lenStep (p : PState) (form k next : Nat) : Except ElStop PState :=
  let n := if form = 1 then (k + 1) / 2 else k
  if p.rest.length < n then p.err jsDeclaredLength p.pos noField
  else
    match lenDigits form k (p.rest.take n) with
    | none => p.err jsDomainError p.pos noField
    | some v => .ok { p with st := next, pos := p.pos + n, rest := p.rest.drop n, len := v, idle := 0 }

/-- One step of the parser (Table 06-8). -/
def ElEnv.parseStep (e : ElEnv) (p : PState) : Except ElStop PState := do
  let h ← e.get (e.head.stateOff + 260 * p.st) 4
  let next := byteAt h 1
  let op := fieldLe h 2 2
  let f := field op 0 9
  match byteAt h 0 with
  | 0 => e.classStep p
  | 1 =>
    let b ← e.fieldEntry f
    e.take p f (fieldLe b 4 2) next
  | 2 => do
    let p' ← e.take p f p.len next
    .ok { p' with len := 0 }
  | 3 =>
    let w := p.rest.take 8
    let p' ← e.take p f 8 next
    .ok { p' with bits := tabPut p'.bits (field op 9 2) (beNat w) }
  | 4 =>
    let w := p.rest.take 16
    let p' ← e.take p f 16 next
    match hexNat w with
    | some v => .ok { p' with bits := tabPut p'.bits (field op 9 2) v }
    | none => p.err jsDomainError p.pos f
  | 5 => e.dispatch p next
  | _ => p.lenStep (field op 4 2) (field op 0 4) next

/-- The parse; the first number bounds the steps. -/
def ElEnv.parseN (e : ElEnv) : Nat → PState → Except ElStop PState
  | 0, p => p.err jsNoTransition p.pos noField
  | n + 1, p => if p.done then .ok p else do
    let p ← e.parseStep p
    e.parseN n p

/-- The whole parse, from the profile's start state. -/
def ElEnv.parse (e : ElEnv) : Except ElStop PState := do
  let b ← e.profileEntry
  e.parseN (257 * (e.input.length + 2))
    { st := byteAt b 0, pos := 0, rest := e.input, fields := [], cur := none, len := 0, bits := [], ptr := 0, name := [],
      stack := [], idle := 0, ended := false, done := false }

/-! ## Map (R171 to R173) -/

/-- The output frame and the room it takes. -/
structure MState where
  out  : Tab (List Byte)
  used : Nat
deriving DecidableEq, Repr, Inhabited

/-- An error of the map stage. -/
def PState.mapErr {α : Type} (p : PState) (status : Nat) (off : Option Nat) (fld : Nat) : Except ElStop α :=
  .error (.fail { status := status, off := off, fld := fld, stage := 2, st := 0, count := p.fields.length, parsed := p.pos,
                  out := [] })

/-- A conversion of the bytes of source field `f` at `off`. -/
def PState.conv (p : PState) (f off : Nat) (c : Conv) : Except ElStop (List Byte) :=
  match c with
  | .ok b => .ok b
  | .error (some i) => p.mapErr jsDomainError (some (if i = ctxFault then ctxFault else off + i)) f
  | .error none => p.mapErr jsDomainError none f

/-- The value that a map entry computes; none for BITMAP_CHECK. -/
def ElEnv.mapValue (e : ElEnv) (p : PState) (m : MState) (b : List Byte) (off : Nat) (src : List Byte) :
    Except ElStop (Option (List Byte)) := do
  let f := fieldLe b 2 2
  let pa := fieldLe b 6 2
  let pb := fieldLe b 8 4
  let pc := fieldLe b 12 4
  let pool := fun o n => e.get (e.head.poolOff + o) n
  let give := fun (c : Conv) => (p.conv f off c).map some
  match byteAt b 0 with
  | 0x01 => .ok (some src)
  | 0x02 => give (bcdToAscii (pa % 2 = 1) src)
  | 0x03 => give (asciiToBcd (pa % 2 = 1) src)
  | 0x04 => do
    let t ← pool pb 512
    give (charMap t src)
  | 0x05 => do
    let t ← pool pb 512
    give (charMap t src)
  | 0x06 => give (binToDec pa src)
  | 0x07 => give (decToBin pa src)
  | 0x08 => give (amountToDec (pa % 256) src)
  | 0x09 => give (decToAmount (pa % 256) (pa / 256) src)
  | 0x0A => do
    let t ← pool pb (pa + pc)
    give (datetime (t.take pa) (t.drop pa) e.ctx src)
  | 0x0B =>
    if formMax (pa % 256) < src.length then p.mapErr jsFieldOverrun none f
    else .ok (some (formPrefix (pa % 256) false src.length ++ src))
  | 0x0C =>
    match bitmapBuild pa (pc % 2 = 1) (fun n => (tabFind m.out n).isSome) with
    | .ok v => .ok (some v)
    | .error n => p.mapErr jsBitmapMismatch none n
  | 0x0D =>
    match bitmapCheck src (fun n => (tabFind p.fields n).isSome) with
    | some n => p.mapErr jsBitmapMismatch none n
    | none => .ok none
  | 0x0E => .ok (some (xmlEscape src))
  | 0x0F => give (xmlUnescape src)
  | 0x10 => do
    let t ← pool pb pa
    .ok (some t)
  | _ => give (substr pa pc src)

/-- One map entry (R171). -/
def ElEnv.mapEntry (e : ElEnv) (p : PState) (m : MState) (i : Nat) : Except ElStop MState := do
  let b ← e.get (e.head.mapOff + 16 * i) 16
  let prim := byteAt b 0
  let src := tabFind p.fields (fieldLe b 2 2)
  let dst := fieldLe b 4 2
  if mapHasSource prim && src.isNone then
    if bitAt (byteAt b 1) 0 then p.mapErr jsMissingMandatory none (fieldLe b 2 2) else .ok m
  else if prim != 0x0D && (tabFind m.out dst).isSome then p.mapErr jsDuplicateField none dst
  else
    let at_ := src.getD (0, 0)
    match ← e.mapValue p m b at_.1 ((e.input.drop at_.1).take at_.2) with
    | none => .ok m
    | some v =>
      if 65536 < m.used + v.length then p.mapErr jsFrameOverrun none dst
      else .ok { out := tabPut m.out dst v, used := m.used + v.length }

/-- The map entries of the profile, from entry `i` on. -/
def ElEnv.mapN (e : ElEnv) (p : PState) : Nat → Nat → MState → Except ElStop MState
  | 0, _, m => .ok m
  | k + 1, i, m => do
    let m ← e.mapEntry p m i
    e.mapN p k (i + 1) m

/-! ## Emit (R174) -/

/-- The emitter. -/
structure EState where
  pc    : Nat
  out   : List Byte
  stack : List (List Byte)
  done  : Bool
deriving DecidableEq, Repr, Inhabited

/-- An error of the emit stage: what was emitted before the failing instruction stays. -/
def PState.emitErr {α : Type} (p : PState) (x : EState) (status fld : Nat) : Except ElStop α :=
  .error (.fail { status := status, off := some x.out.length, fld := fld, stage := 3, st := 0, count := p.fields.length,
                  parsed := p.pos, out := x.out })

/-- An instruction writes bytes and goes on with the next. -/
def ElEnv.put (e : ElEnv) (p : PState) (x : EState) (b : List Byte) (fld : Nat) : Except ElStop EState :=
  if e.cap < x.out.length + b.length then p.emitErr x jsOutputOverrun fld
  else .ok { x with out := x.out ++ b, pc := x.pc + 1 }

/-- An element with a value. -/
def elemBytes (name attr value : List Byte) : List Byte :=
  0x3C :: name ++ attr ++ 0x3E :: value ++ [0x3C, 0x2F] ++ name ++ [0x3E]

/-- A value written by form (R174). -/
def ElEnv.emitField (e : ElEnv) (p : PState) (x : EState) (b v : List Byte) : Except ElStop EState :=
  let f := fieldLe b 2 2
  let form := byteAt b 1 % 16
  let width := fieldLe b 8 2
  if (if form = 1 then width else formMax form) < v.length then p.emitErr x jsFieldOverrun f
  else if form = 1 then
    let pad := List.replicate (width - v.length) (BitVec.ofNat 8 (byteAt b 12))
    e.put p x (if bitAt (byteAt b 13) 0 then pad ++ v else v ++ pad) f
  else e.put p x (formPrefix form (bitAt (byteAt b 1) 4) v.length ++ v) f

/-- One emitter instruction (Table 06-15). -/
def ElEnv.emitStep (e : ElEnv) (p : PState) (m : MState) (x : EState) : Except ElStop EState := do
  let b ← e.get (e.head.emitOff + 16 * x.pc) 16
  let f := fieldLe b 2 2
  let const := e.get (e.head.poolOff + fieldLe b 4 4) (fieldLe b 8 2)
  let value := tabFind m.out f
  let absent : Except ElStop EState :=
    if bitAt (byteAt b 1) 7 then p.emitErr x jsMissingMandatory f else .ok { x with pc := x.pc + 1 }
  match byteAt b 0 with
  | 0x00 => if x.stack.isEmpty then .ok { x with done := true } else p.emitErr x jsXmlTagMismatch noField
  | 0x01 => do
    let c ← const
    e.put p x c noField
  | 0x02 =>
    match value with
    | none => absent
    | some v => e.emitField p x b v
  | 0x03 => do
    let c ← const
    if 32 ≤ x.stack.length then p.emitErr x jsXmlTooDeep noField
    else
      let y ← e.put p x (0x3C :: c ++ [0x3E]) noField
      .ok { y with stack := c :: y.stack }
  | 0x04 =>
    match x.stack with
    | [] => p.emitErr x jsXmlTagMismatch noField
    | n :: r => do
      let y ← e.put p x ([0x3C, 0x2F] ++ n ++ [0x3E]) noField
      .ok { y with stack := r }
  | 0x05 =>
    match value with
    | none => absent
    | some v => do
      let c ← const
      if 32 ≤ x.stack.length then p.emitErr x jsXmlTooDeep f else e.put p x (elemBytes c [] v) f
  | 0x06 =>
    match value with
    | none => absent
    | some v => do
      let c ← const
      let name := c.takeWhile (fun k => k != 0)
      let attr := match tabFind m.out (fieldLe b 12 2) with
        | some a => 0x20 :: c.drop (name.length + 1) ++ [0x3D, 0x22] ++ a ++ [0x22]
        | none => []
      if 32 ≤ x.stack.length then p.emitErr x jsXmlTooDeep f else e.put p x (elemBytes name attr v) f
  | 0x07 => .ok { x with pc := if value.isNone then fieldLe b 10 2 else x.pc + 1 }
  | _ => .ok { x with pc := fieldLe b 10 2 }

/-- The emission; the first number bounds the instructions. -/
def ElEnv.emitN (e : ElEnv) (p : PState) (m : MState) : Nat → EState → Except ElStop EState
  | 0, x => .ok x
  | n + 1, x => if x.done then .ok x else do
    let x ← e.emitStep p m x
    e.emitN p m n x

/-! ## A job -/

/-- The end of an interpretation without error. -/
structure ElDone where
  count  : Nat
  parsed : Nat
  out    : List Byte
deriving DecidableEq, Repr, Inhabited

/-- Parse, map and, for TRANSLATE, emit. -/
def ElEnv.run (e : ElEnv) (translate : Bool) : Except ElStop ElDone := do
  let p ← e.parse
  let b ← e.profileEntry
  let m ← e.mapN p (fieldLe b 4 2) (fieldLe b 2 2) { out := [], used := 0 }
  if translate then
    let x ← e.emitN p m (e.head.emits + 1) { pc := fieldLe b 6 2, out := [], stack := [], done := false }
    .ok { count := p.fields.length, parsed := p.pos, out := x.out }
  else .ok { count := p.fields.length, parsed := p.pos, out := [] }

/-! Fields of an Electrum descriptor (Table 06-2). -/

def descBank (b : List Byte) : Nat := byteAt b 28
def descProfile (b : List Byte) : Nat := byteAt b 29
def descVersion (b : List Byte) : Nat := fieldLe b 32 4

/-- R159, Table 06-3: phase 1 of an Electrum job. -/
def elDecode (b : List Byte) : Nat :=
  let op := descOpcode b
  let n := descInLen b
  let cap := descCap b
  if 2 < op then jsBadOpcode
  else if 4 ≤ descFlags b || 64 ≤ descBank b || 16 ≤ descProfile b || fieldLe b 30 2 != 0 || (b.drop 44).any (fun x => x != 0)
      || (op = 0 && (n != 0 || cap != 0)) || (op != 0 && (n < 1 || 65536 < n)) || (op = 1 && (cap < 1 || 2 ^ 24 < cap))
      || (op = 2 && (cap != 0 || descOut b != 0)) then
    jsBadDescriptor
  else jsOk

/-- Profiles of the side to which a job of a bank would bind; none where it would not bind. -/
def Dev.bankProfiles (d : Dev) (i : Nat) (b : List Byte) : Option Nat :=
  let n := descBank b
  (if bitAt (d.get (rElBankMask i)) n then d.activeSide n else none).map
    (fun s => (parseBank (d.cohRead (d.sideBase n s) 64).1).profiles)

/-- Phase 1, the profile with it (R159, R160): against the side that is ACTIVE then. Bind checks it again, since the side may have changed.
DEDUCED (log 70). -/
def Dev.elDecodeNow (d : Dev) (i : Nat) (b : List Byte) : Nat :=
  if elDecode b = jsOk && descOpcode b != 0 && (d.bankProfiles i b).any (fun n => n ≤ descProfile b) then jsBadDescriptor else elDecode b

/-- The environment of a bound job. -/
def Dev.elEnv (d : Dev) (x : Job) : ElEnv :=
  let s := x.bank.getD (0, 0)
  let base := d.sideBase s.1 s.2
  let eng := (x.slot.getD (0, 0)).1
  { base := base, head := parseBank (d.cohRead base 64).1, profile := descProfile x.desc, ctx := (x.desc.drop 36).take 8,
    input := x.input, cap := descCap x.desc,
    has := fun l => d.tcache.contains (eng, l) || x.seen.contains l,
    read := fun a n => (d.cohRead a n).1 }

/-- The interpretation of a bound job. -/
def Dev.elRun (d : Dev) (x : Job) : Except ElStop ElDone := (d.elEnv x).run (descOpcode x.desc = 1)

/-- The line that a bound job waits for. -/
def Dev.elMiss (d : Dev) (x : Job) : Option Nat :=
  match d.elRun x with
  | .error (.miss l) => some l
  | _ => none

/-- R161: a job binds; the status of a bind that fails, or 0. -/
def Dev.elBind (d : Dev) (j : Nat) (x : Job) : Nat × Dev :=
  if x.bank.isSome then (jsOk, d)
  else
    let n := descBank x.desc
    match if bitAt (d.get (rElBankMask x.inst)) n then d.activeSide n else none with
    | none => (jsBankUnavailable, d)
    | some s =>
      let v := (d.side n s).version
      if descVersion x.desc != 0 && descVersion x.desc != v then (jsBankVersion, d)
      else if (parseBank (d.cohRead (d.sideBase n s) 64).1).profiles ≤ descProfile x.desc then (jsBadDescriptor, d)
      else (jsOk, (d.modJob j (fun x => { x with bank := some (n, s), version := v })).add (rElbBinds n) 1)

/-- R175: the Result field: the version bound, the input fields present, the profile. -/
def elResult (x : Job) : Nat := x.version + x.result * 2 ^ 32 + descProfile x.desc * 2 ^ 48

/-- The operation of an Electrum job ends (R162, R175). An offset that the spec does not define is free. -/
def Dev.elEnd (d : Dev) (j : Nat) (r : Except ElFail ElDone) : Dev :=
  match r with
  | .ok v => ((d.add rElBytesIn v.parsed).opEnd j { status := jsOk, out := v.out }).modJob j (fun y => { y with result := v.count })
  | .error f =>
    let d := d.add rElBytesIn f.parsed
    let w := d.takeWord
    let off := f.off.getD (w.1.toNat % 2 ^ 32)
    let d := if f.off.isSome then d else w.2
    (d.opEnd j { status := f.status, detail := off + f.fld * 2 ^ 32 + f.stage * 2 ^ 48 + f.st * 2 ^ 56, out := f.out }).modJob j
      (fun y => { y with result := f.count })

/-- An Electrum opcode: it binds, and runs to its end unless a table line is missing, for which it waits (R158). -/
def Dev.electrum (d : Dev) (j : Nat) (x : Job) : Dev :=
  match d.elBind j x with
  | (0, d) =>
    (match d.job j with
     | none => d
     | some x =>
       match d.elRun x with
       | .ok v => d.elEnd j (.ok v)
       | .error (.fail f) => d.elEnd j (.error f)
       | .error (.miss _) => d)
  | (st, d) => d.opEnd j { status := st }

/-- A job has bound, or will bind no more. -/
def Job.pastBind (x : Job) : Bool := x.bank.isSome || x.opDone || x.phase = phComplete || descOpcode x.desc = 0

/-- The jobs fetched before a job of its instance are past their bind: an instance's jobs bind in fetch order (R161). -/
def Dev.bindTurn (d : Dev) (j : Nat) (x : Job) : Bool :=
  ((d.inst x.inst).queue.takeWhile (fun k => k != j)).all (fun k => (d.job k).all Job.pastBind)

/-- The job is an Electrum job in execution with this opcode, and binds now or has bound. -/
def Dev.elReady (d : Dev) (j op : Nat) : Bool :=
  d.jobIs j (fun x => d.instClass x.inst = 2 && x.phase = phExecute && !x.opDone && descOpcode x.desc = op && (x.bank.isSome || d.bindTurn j x))

/-- An Electrum row. -/
def elExec (j op : Nat) (s : State) : Out :=
  occurs 160 (fun d => d.elReady j op)
    (fun d =>
      match d.job j with
      | none => d
      | some x => d.electrum j x) s

/-- ELECTRUM_NOP (R160). -/
def execElectrumNop (job : Nat) (s : State) : Out :=
  occurs 160 (fun d => d.jobIs job (fun x => d.instClass x.inst = 2 && descOpcode x.desc = 0 && d.jobReady x.inst job))
    (fun d => (d.endJob job jsOk 0)) s

/-- ELECTRUM_TRANSLATE (R160 to R175). -/
def execElectrumTranslate (job : Nat) (s : State) : Out := elExec job 1 s

/-- ELECTRUM_VALIDATE (R160). -/
def execElectrumValidate (job : Nat) (s : State) : Out := elExec job 2 s

/-- A line joins an engine's table cache of 256 KiB; the oldest leaves a full one. -/
def tableFill (l : List (Nat × Nat)) (eng line : Nat) : List (Nat × Nat) :=
  let mine := l.filter (fun p => p.1 = eng)
  let l := match mine with
    | a :: _ => if 4096 ≤ mine.length then l.erase a else l
    | [] => l
  l ++ [(eng, line)]

/-- The job in a slot that waits for a table line. -/
def Dev.missing (d : Dev) (eng slot line : Nat) : Option (Nat × Job) :=
  d.jobs.find? (fun p =>
    p.2.slot = some (eng, slot) && p.2.phase = phExecute && !p.2.opDone && p.2.bank.isSome && d.elMiss p.2 = some line)

/-- TABLE_LINE_FILL (R158). -/
def execTableLineFill (eng slot line : Nat) (s : State) : Out :=
  occursAt 158 (64 ≤ eng && eng < 80 && slot < 8) (fun d => (d.missing eng slot line).isSome)
    (fun d =>
      match d.missing eng slot line with
      | none => d
      | some (j, x) =>
        let d := { d with tcache := tableFill d.tcache eng line }.touch (d.instUse x.inst 1) line 64
        let d := d.modJob j (fun x => { x with seen := x.seen ++ [line] })
        (d.add rElTableMisses 1).countEvent (engGroup eng) 7 1 (some (d.instWorld x.inst))) s

end Sys2Proof.Machine
end

