-- ==== Sys2Proof/Machine/Deflate.lean ====
section
/-!
DEFINITION. DEFLATE jobs (chapter 07): RFC 1951 streams, raw or framed by RFC 1950 or RFC 1952 (log 12), and the context that
segments share (R184).
-/
namespace Sys2Proof.Config

/-! ## The engine's own parts of a context (Table 07-4, log 26) -/

/-- The bytes that the engine writes for its own fields, but for what keeps them apart: 40 in the state header, 4032 behind it. -/
opaque dfPack : Machine.DfSave → List Byte

/-- What such bytes stand for where no engine wrote them. -/
opaque dfUnpack : List Byte → Machine.DfSave

/-- The header bits of a dynamic block, from its symbols (R185 does not say how its codes are chosen). -/
opaque dfDynamic : List Nat → List Nat → List Bool

/-- Whether a block that fixed and stored coding make equally long is coded fixed (R185 does not say). -/
opaque dfTieFixed : Bool

end Sys2Proof.Config

namespace Sys2Proof.Machine

/-! ## Status codes (Table 07-5) -/

def jsCheckMismatch : Nat := 0x40
def jsIllegalCode : Nat := 0x41
def jsBadCodeTable : Nat := 0x42
def jsDistanceTooFar : Nat := 0x43
def jsLengthOverrun : Nat := 0x44
def jsTruncated : Nat := 0x45
def jsBadHeader : Nat := 0x46
def jsContextInvalid : Nat := 0x47

/-! ## Bits -/

/-- `n` bits of a number, least significant first. -/
def numBits (n v : Nat) : List Bool := (List.range n).map (fun i => v.testBit i)

/-- The bits of bytes, least significant first. -/
def bytesBits (l : List Byte) : List Bool := l.flatMap (fun b => numBits 8 b.toNat)

/-- The number that bits spell, least significant first. -/
def bitsNum : List Bool → Nat
  | [] => 0
  | b :: r => boolNat b + 2 * bitsNum r

/-- `n` bytes of bits; missing bits are 0. -/
def packBits : Nat → List Bool → List Byte
  | 0, _ => []
  | n + 1, l => BitVec.ofNat 8 (bitsNum (l.take 8)) :: packBits n (l.drop 8)

/-! ## Prefix codes (RFC 1951, 3.2.2) -/

/-- The first code of each length 0 to 15. -/
def firstCodes (lens : List Nat) : List Nat :=
  (List.range 15).foldl (fun acc b => acc ++ [(acc.getLastD 0 + if b = 0 then 0 else lens.count b) * 2]) [0]

/-- The codes of a set of lengths: bits and symbol. -/
def prefixCodes (lens : List Nat) : List (List Bool × Nat) :=
  (lens.zipIdx.foldl (fun (acc : List Nat × List (List Bool × Nat)) p =>
    if p.1 = 0 then acc
    else
      let c := acc.1.getD p.1 0
      (acc.1.set p.1 (c + 1), ((numBits p.1 c).reverse, p.2) :: acc.2)) (firstCodes lens, [])).2.reverse

/-- 2^15 for a set that is neither over- nor under-subscribed. -/
def codeSpace (lens : List Nat) : Nat := (lens.map (fun n => if n = 0 then 0 else 2 ^ (15 - n))).foldl (· + ·) 0

/-- The set is complete. -/
def codeFull (lens : List Nat) : Bool := codeSpace lens = 2 ^ 15

/-- A distance set: complete, one code of one bit, or none at all. -/
def distOk (lens : List Nat) : Bool :=
  codeFull lens || lens.all (fun n => n = 0) || lens.filter (fun n => n != 0) = [1]

/-- The lengths of the fixed codes. -/
def fixedLit : List Nat :=
  List.replicate 144 8 ++ List.replicate 112 9 ++ List.replicate 24 7 ++ List.replicate 8 8

def fixedDist : List Nat := List.replicate 32 5

/-- Base and extra bits of the length codes from 257 on. -/
def lengthCodes : List (Nat × Nat) :=
  [(3, 0), (4, 0), (5, 0), (6, 0), (7, 0), (8, 0), (9, 0), (10, 0), (11, 1), (13, 1), (15, 1), (17, 1), (19, 2), (23, 2),
   (27, 2), (31, 2)] ++
  [(35, 3), (43, 3), (51, 3), (59, 3), (67, 4), (83, 4), (99, 4), (115, 4), (131, 5), (163, 5), (195, 5), (227, 5), (258, 0)]

/-- Base and extra bits of the distance codes. -/
def distCodes : List (Nat × Nat) :=
  [(1, 0), (2, 0), (3, 0), (4, 0), (5, 1), (7, 1), (9, 2), (13, 2), (17, 3), (25, 3), (33, 4), (49, 4), (65, 5), (97, 5)] ++
  [(129, 6), (193, 6), (257, 7), (385, 7), (513, 8), (769, 8), (1025, 9), (1537, 9), (2049, 10), (3073, 10), (4097, 11),
   (6145, 11), (8193, 12), (12289, 12), (16385, 13), (24577, 13)]

/-- The last code whose base does not exceed a value: its number, base and extra bits. -/
def codeFor (t : List (Nat × Nat)) (v : Nat) : Nat × Nat × Nat :=
  t.zipIdx.foldl (fun best p => if p.1.1 ≤ v then (p.2, p.1.1, p.1.2) else best) (0, 0, 0)

/-! ## Descriptor (Tables 07-2 and 07-3, R179) -/

def dfFraming (b : List Byte) : Nat := byteAt b 28 % 4
def dfFirst (b : List Byte) : Bool := bitAt (byteAt b 29) 0
def dfLast (b : List Byte) : Bool := bitAt (byteAt b 29) 1
def dfExpect (b : List Byte) : Bool := bitAt (byteAt b 29) 2
def dfFlush (b : List Byte) : Nat := byteAt b 30
def dfStrategy (b : List Byte) : Nat := byteAt b 31
def dfSegment (b : List Byte) : Nat := fieldLe b 32 4
def dfExpected (b : List Byte) : Nat := fieldLe b 36 4
def dfCtx (b : List Byte) : Nat := fieldLe b 40 8

/-- A single-shot job. -/
def dfSingle (b : List Byte) : Bool :=
  dfFirst b && (if descOpcode b = 1 then dfFlush b = 3 else dfLast b)

/-- The output capacity that a compression needs. -/
def dfBound (n : Nat) : Nat := n + 5 * ((n + 16383) / 16384) + 24

/-- A res0 bit is set, or a field has a value that the table does not give. -/
def dfRes0 (b : List Byte) : Bool :=
  let op := descOpcode b
  4 ≤ descFlags b || 4 ≤ byteAt b 28 || 8 ≤ byteAt b 29 || (op != 2 && 2 ≤ byteAt b 29)
    || (if op = 1 then 3 < dfFlush b || 2 < dfStrategy b else dfFlush b != 0 || dfStrategy b != 0)
    || (dfExpected b != 0 && !(op = 2 && dfExpect b)) || dfCtx b % 4096 != 0 || (b.drop 48).any (fun x => x != 0)

/-- R179: 0, BAD_OPCODE or BAD_DESCRIPTOR. A NOP is not single-shot, so that it names a context as other jobs do. -/
def dfDecode (b : List Byte) : Nat :=
  let op := descOpcode b
  let n := descInLen b
  let cap := descCap b
  if 2 < op then jsBadOpcode
  else if dfRes0 b || dfFraming b = 3 then jsBadDescriptor
  else if (op = 0 && (n != 0 || cap != 0)) || 2 ^ 24 < n || 2 ^ 28 < cap || (op = 1 && cap < dfBound n) then jsBadDescriptor
  else if dfFirst b != (dfSegment b = 0 : Bool) || (!dfSingle b && dfCtx b = 0) then jsBadDescriptor
  else jsOk

/-! ## Check values (R180) -/

/-- The check value of an empty stream. -/
def dfCheckStart (framing : Nat) : Nat := if framing = 1 then 1 else 0

/-- The check value carried on over bytes. -/
def dfCheckRun (framing v : Nat) (l : List Byte) : Nat :=
  if framing = 1 then adlerRun v l else crcRun 0xEDB8_8320 (v ^^^ 0xFFFF_FFFF) l ^^^ 0xFFFF_FFFF

/-! ## Contexts (R184, Table 07-4) -/

/-- A stream as a job finds it. -/
structure DfStream where
  /-- the valid history, most recent byte first -/
  past  : List Byte
  check : Nat
  total : Nat
  save  : DfSave
deriving DecidableEq, Repr, Inhabited

/-- The stream of a first segment. -/
def dfNew (b : List Byte) : DfStream :=
  let raw : Bool := dfFraming b = 0
  { past := [], check := dfCheckStart (dfFraming b), total := 0,
    save := { held := [], mode := if raw || descOpcode b = 1 then .block else .header, window := 32768 } }

/-- What the engine's own bytes of a context stand for. -/
def Dev.dfOpen (d : Dev) (l : List Byte) : DfSave :=
  match d.dfSaved.find? (fun p => p.1 = l) with
  | some p => p.2
  | none => Config.dfUnpack l

/-- The bytes that the engine writes for a state of its own: no two states share theirs. -/
def Dev.dfBytes (d : Dev) (s : DfSave) : List Byte :=
  match d.dfSaved.find? (fun p => p.2 = s) with
  | some p => p.1
  | none =>
    let base := padTo 4072 (Config.dfPack s)
    (((List.range (d.dfSaved.length + 1)).map (fun k => xorBytes base (leBytes 4072 k))).find?
      (fun l => d.dfSaved.all (fun p => p.1 != l))).getD base

/-- R184: the stream that a context holds, where the job may continue it. -/
def Dev.dfContext (d : Dev) (b ctx : List Byte) : Option DfStream :=
  let h := (ctx.drop 32768).take 64
  let flags := byteAt h 4
  if fieldLe h 60 4 != crc32c (h.take 60) || fieldLe h 0 4 + 1 != dfSegment b
      || bitAt flags 1 != (descOpcode b = 2 : Bool) || byteAt h 5 != dfFraming b || bitAt flags 2 then none
  else
    some { past := (ctx.take (min (fieldLe h 6 2) 32768)).reverse, check := fieldLe h 8 4, total := fieldLe h 12 8,
           save := d.dfOpen ((h.drop 20).take 40 ++ (ctx.drop 32832).take 4032) }

/-- The context that a job leaves. What lies behind the valid history is free. -/
def Dev.dfClose (d : Dev) (b : List Byte) (ended : Bool) (x : DfStream) : List Byte × Dev :=
  let hist := (x.past.take 32768).reverse
  let r := d.takeBytes (32768 - hist.length)
  let priv := d.dfBytes x.save
  let h := leBytes 4 (dfSegment b) ++ leBytes 1 (4 * boolNat ended + (if descOpcode b = 2 then 2 else 0))
    ++ leBytes 1 (dfFraming b) ++ leBytes 2 hist.length ++ leBytes 4 x.check ++ leBytes 8 x.total ++ priv.take 40
  let d := r.2
  (hist ++ r.1 ++ h ++ leBytes 4 (crc32c h) ++ priv.drop 40,
    { d with dfSaved := if d.dfSaved.contains (priv, x.save) then d.dfSaved else d.dfSaved ++ [(priv, x.save)] })

/-! ## Matches and codes of a compression (R185) -/

/-- A literal, or a match. -/
inductive DfTok where
  | lit (b : Byte)
  | copy (len dist : Nat)
deriving DecidableEq, Repr, Inhabited

/-- How far two byte strings agree, at most `n` bytes. -/
def agree : Nat → List Byte → List Byte → Nat
  | n + 1, a :: r, b :: t => if a = b then agree n r t + 1 else 0
  | _, _, _ => 0

/-- The longest match of at most `n` bytes at position `p` of `full`, the nearest on ties: length and distance. -/
def longestMatch (full : List Byte) (p n : Nat) : Nat × Nat :=
  (List.range (min p 32768)).foldl (fun best k =>
    let l := agree n (full.drop (p - (k + 1))) (full.drop p)
    if best.1 < l then (l, k + 1) else best) (0, 0)

/-- The symbols of a block that ends at position `e`, from position `p` on; `fuel` bounds their number. -/
def dfTokens (full : List Byte) (e : Nat) : Nat → Nat → List DfTok
  | 0, _ => []
  | fuel + 1, p =>
    if e ≤ p then []
    else
      let m := longestMatch full p (min 258 (e - p))
      if 3 ≤ m.1 then .copy m.1 m.2 :: dfTokens full e fuel (p + m.1)
      else .lit (full.getD p 0) :: dfTokens full e fuel (p + 1)

/-- The literal/length symbol of a token. -/
def DfTok.litSym : DfTok → Nat
  | .lit b => b.toNat
  | .copy l _ => 257 + (codeFor lengthCodes l).1

/-- The distance symbol of a token. -/
def DfTok.distSym : DfTok → Option Nat
  | .lit _ => none
  | .copy _ k => some (codeFor distCodes k).1

/-- The code of a symbol. -/
def symBits (codes : List (List Bool × Nat)) (s : Nat) : List Bool :=
  match codes.find? (fun c => c.2 = s) with
  | some c => c.1
  | none => []

/-- The bits of a token. -/
def DfTok.bits (lit dist : List (List Bool × Nat)) : DfTok → List Bool
  | .lit b => symBits lit b.toNat
  | .copy l k =>
    let a := codeFor lengthCodes l
    let c := codeFor distCodes k
    symBits lit (257 + a.1) ++ numBits a.2.2 (l - a.2.1) ++ symBits dist c.1 ++ numBits c.2.2 (k - c.2.1)

/-- A block under the codes of these lengths, behind its header. -/
def codedBlock (lit dist : List Nat) (l : List DfTok) : List Bool :=
  let a := prefixCodes lit
  l.flatMap (fun t => t.bits a (prefixCodes dist)) ++ symBits a 256

/-- Zero bits up to a byte boundary of the output. -/
def padBits (n : Nat) : List Bool := List.replicate ((8 - n % 8) % 8) false

/-- A stored block behind `n` bits of output. -/
def storedBlock (final : Bool) (n : Nat) (l : List Byte) : List Bool :=
  [final, false, false] ++ padBits (n + 3) ++ numBits 16 l.length ++ numBits 16 (65535 - l.length) ++ bytesBits l

/-- A block with fixed codes. -/
def fixedBlock (final : Bool) (l : List DfTok) : List Bool := [final, true, false] ++ codedBlock fixedLit fixedDist l

/-! ## Parts of a stream (R186) -/

/-- What a part of a stream gives: a value and the bits behind it, too few bits, or an error. -/
inductive DfGot (α : Type) where
  | ok (v : α) (rest : List Bool)
  | more
  | bad
deriving DecidableEq, Repr, Inhabited

/-- `n` bits as a number. -/
def takeBits (n : Nat) (l : List Bool) : DfGot Nat :=
  if l.length < n then .more else .ok (bitsNum (l.take n)) (l.drop n)

/-- One symbol. -/
def takeSym (codes : List (List Bool × Nat)) (l : List Bool) : DfGot Nat :=
  match codes.find? (fun c => c.1.isPrefixOf l) with
  | some c => .ok c.2 (l.drop c.1.length)
  | none => if codes.any (fun c => l.isPrefixOf c.1) then .more else .bad

/-- The code lengths of a dynamic block, `n` of them behind those of `acc`; `fuel` bounds the symbols. -/
def takeLens (cl : List (List Bool × Nat)) (n : Nat) : Nat → List Nat → List Bool → DfGot (List Nat)
  | 0, acc, l => .ok acc l
  | fuel + 1, acc, l =>
    if n ≤ acc.length then .ok acc l
    else
      match takeSym cl l with
      | .more => .more
      | .bad => .bad
      | .ok s r =>
        if s < 16 then takeLens cl n fuel (acc ++ [s]) r
        else if s = 16 && acc.isEmpty then .bad
        else
          match takeBits (if s = 16 then 2 else if s = 17 then 3 else 7) r with
          | .more => .more
          | .bad => .bad
          | .ok v r =>
            let k := v + (if s = 18 then 11 else 3)
            if n < acc.length + k then .bad
            else takeLens cl n fuel (acc ++ List.replicate k (if s = 16 then acc.getLastD 0 else 0)) r

/-- The order of the code-length codes. -/
def clOrder : List Nat := [16, 17, 18, 0, 8, 7, 9, 6, 10, 5, 11, 4, 12, 3, 13, 2, 14, 1, 15]

/-- The header of a dynamic block behind its type: literal/length and distance code lengths. -/
def dynamicHeader (l : List Bool) : DfGot (List Nat × List Nat) :=
  match takeBits 14 l with
  | .ok v r =>
    let nl := v % 32 + 257
    let nd := v / 32 % 32 + 1
    let nc := v / 1024 + 4
    (match takeBits (3 * nc) r with
     | .ok c r =>
       let cl := (List.range 19).map (fun s =>
         match clOrder.findIdx? (fun x => x = s) with
         | some i => if i < nc then c / 8 ^ i % 8 else 0
         | none => 0)
       if !codeFull cl then .bad
       else
         (match takeLens (prefixCodes cl) (nl + nd) (nl + nd) [] r with
          | .ok x r =>
            if codeFull (x.take nl) && distOk (x.drop nl) then .ok (x.take nl, x.drop nl) r else .bad
          | .more => .more
          | .bad => .bad)
     | .more => .more
     | .bad => .bad)
  | .more => .more
  | .bad => .bad

/-! ## Blocks and streams of a compression (R181, R183, R185) -/

/-- Lengths of a complete code for `n` symbols; one symbol has a code of one bit. -/
def flatLens (n : Nat) : List Nat :=
  let k := Nat.log2 n
  let r := n - 2 ^ k
  if n = 1 then [1] else List.replicate (n - 2 * r) k ++ List.replicate (2 * r) (k + 1)

/-- Those lengths given to the symbols below `m` that are used. -/
def flatCode (m : Nat) (used : List Nat) : List Nat :=
  let l := (List.range m).filter used.contains
  (List.range m).map (fun s =>
    match l.findIdx? (fun x => x = s) with
    | some i => (flatLens l.length).getD i 0
    | none => 0)

/-- A header that spells 286 and 30 code lengths one by one, each in four bits. -/
def flatHeader (lit dist : List Nat) : List Bool :=
  numBits 5 29 ++ numBits 5 29 ++ numBits 4 15 ++ clOrder.flatMap (fun s => numBits 3 (if s < 16 then 4 else 0))
    ++ (lit ++ dist).flatMap (fun n => (numBits 4 n).reverse)

/-- The code lengths that a header spells, where it is a whole header with a code for every symbol. -/
def headerFor (syms dists : List Nat) (h : List Bool) : Option (List Nat × List Nat) :=
  match dynamicHeader h with
  | .ok c [] =>
    if syms.all (fun s => c.1.getD s 0 != 0) && dists.all (fun s => c.2.getD s 0 != 0) then some c else none
  | _ => none

/-- A block with codes of its own. The engine's choice of them is open; what would be no header of the block's symbols is no choice, and
a plain header stands for it (log 71). -/
def dynamicBlock (final : Bool) (l : List DfTok) : List Bool :=
  let syms := l.map DfTok.litSym ++ [256]
  let dists := l.filterMap DfTok.distSym
  let h := Config.dfDynamic syms dists
  match headerFor syms dists h with
  | some c => [final, false, true] ++ h ++ codedBlock c.1 c.2 l
  | none =>
    let a := flatCode 286 (if syms.length = 1 then 0 :: syms else syms)
    let b := flatCode 30 dists
    [final, false, true] ++ flatHeader a b ++ codedBlock a b l

/-- One block under a STRATEGY behind `n` bits of output (R185). -/
def dfBlock (strategy : Nat) (final : Bool) (n : Nat) (data : List Byte) (l : List DfTok) : List Bool :=
  let st := storedBlock final n data
  let fx := fixedBlock final l
  if strategy = 2 then st
  else if strategy = 1 then fx
  else
    let best := if fx.length < st.length || (fx.length = st.length && Config.dfTieFixed) then fx else st
    let dy := dynamicBlock final l
    if dy.length ≤ best.length then dy else best

/-- The blocks of an input, 16 KiB each but the last; `out` is the output so far. -/
def dfBlocks (strategy : Nat) (full : List Byte) (finish : Bool) : Nat → Nat → List Bool → List Bool
  | 0, _, out => out
  | fuel + 1, p, out =>
    let e := min full.length (p + 16384)
    let final := finish && e = full.length
    let toks := if strategy = 2 then [] else dfTokens full e (e - p) p
    let out := out ++ dfBlock strategy final out.length ((full.take e).drop p) toks
    if e = full.length then out else dfBlocks strategy full finish fuel e out

/-- The header that the compressor writes (R181). -/
def dfHeader (framing : Nat) : List Byte :=
  if framing = 1 then [0x78, 0x01] else if framing = 2 then [0x1F, 0x8B, 8, 0, 0, 0, 0, 0, 0, 0xFF] else []

/-- The trailer (R181). -/
def dfTrailer (framing check total : Nat) : List Byte :=
  if framing = 1 then beBytes 4 check else if framing = 2 then leBytes 4 check ++ leBytes 4 total else []

/-- A compression: the output and the stream that it leaves. -/
def dfCompress (b : List Byte) (s : DfStream) (input : List Byte) : List Byte × DfStream :=
  let fr := dfFraming b
  let flush := dfFlush b
  let past := s.past.take 32768
  let full := past.reverse ++ input
  let check := dfCheckRun fr s.check input
  let total := s.total + input.length
  let start := if dfFirst b then bytesBits (dfHeader fr) else s.save.held.take 7
  let bits := if input.isEmpty && flush != 3 then start
    else dfBlocks (dfStrategy b) full (flush = 3) (input.length / 16384 + 1) past.length start
  let bits := if flush = 1 || flush = 2 then bits ++ storedBlock false bits.length [] else bits
  let bits := if flush = 3 then bits ++ padBits bits.length ++ bytesBits (dfTrailer fr check total) else bits
  let n := bits.length / 8
  (packBits n bits,
    { past := if flush = 2 then [] else (input.reverse ++ past).take 32768, check := check, total := total,
      save := { held := bits.drop (8 * n), mode := .block, window := 32768 } })

/-! ## Decoders (R186) -/

/-- The first bytes of a zlib stream: bytes taken and the window. -/
def zlibHeader : List Byte → Option (Option (Nat × Nat))
  | [] => some none
  | c :: r =>
    if c.toNat % 16 != 8 || 7 < c.toNat / 16 then none
    else
      match r with
      | [] => some none
      | f :: _ =>
        if (c.toNat * 256 + f.toNat) % 31 != 0 || bitAt f.toNat 5 then none
        else some (some (2, 2 ^ (c.toNat / 16 + 8)))

/-- Bytes up to and with the first zero byte. -/
def zeroEnd (l : List Byte) : Option Nat := (l.findIdx? (fun b => b = 0)).map (fun n => n + 1)

/-- The first bytes of a gzip stream: none where they are wrong, `some none` where they are too few, else their number. -/
def gzipHeader (l : List Byte) : Option (Option (Nat × Nat)) :=
  let wrong (i v : Nat) : Bool := i < l.length && byteAt l i != v
  let flg := byteAt l 3
  if wrong 0 0x1F || wrong 1 0x8B || wrong 2 8 || (3 < l.length && 32 ≤ flg) then none
  else if l.length < 10 then some none
  else
    let extra : Option Nat :=
      if bitAt flg 2 then
        (if l.length < 12 || l.length < 12 + fieldLe l 10 2 then none else some (12 + fieldLe l 10 2))
      else some 10
    let name := extra.bind (fun n => if bitAt flg 3 then (zeroEnd (l.drop n)).map (fun k => n + k) else some n)
    let note := name.bind (fun n => if bitAt flg 4 then (zeroEnd (l.drop n)).map (fun k => n + k) else some n)
    match note with
    | none => some none
    | some n =>
      if bitAt flg 1 then
        (if l.length < n + 2 then some none
         else if fieldLe l n 2 != crc32 (l.take n) % 65536 then none
         else some (some (n + 2, 32768)))
      else some (some (n, 32768))

/-- A decoder at work: bits to come, the position of the first of them, the data behind it (most recent first), how many bytes
of it this job produced, and the dynamic headers met. -/
structure DfRun where
  mode    : DfMode
  bits    : List Bool
  pos     : Nat
  past    : List Byte
  made    : Nat
  window  : Nat
  dynamic : Nat
deriving DecidableEq, Repr, Inhabited

/-- What bounds a decoder: framing, output capacity, and the position in a byte of its first bit. -/
structure DfEnv where
  framing : Nat
  cap     : Nat
  phase   : Nat

/-- How a decoder goes on. -/
inductive DfStep where
  | next (r : DfRun)
  | more
  | fail (status pos : Nat)
  | done (r : DfRun)
deriving DecidableEq, Repr, Inhabited

/-- The bits behind position `n` bits further on. -/
def DfRun.skip (r : DfRun) (n : Nat) : DfRun := { r with bits := r.bits.drop n, pos := r.pos + n }

/-- The decoder goes on with the bits that a part left. -/
def DfRun.upTo (r : DfRun) (rest : List Bool) : DfRun := r.skip (r.bits.length - rest.length)

/-- Bits to the next byte boundary of the stream, `n` bits further on. -/
def DfRun.align (r : DfRun) (e : DfEnv) (n : Nat) : Nat := (8 - (r.pos + n + e.phase) % 8) % 8

/-- A block has ended. -/
def DfRun.blockEnd (r : DfRun) (e : DfEnv) (final : Bool) : DfStep :=
  if !final then .next { r with mode := .block }
  else if e.framing = 0 then .done r
  else .next { r with mode := .trailer }

/-- A byte of output. -/
def DfRun.emit (r : DfRun) (b : Byte) : DfRun := { r with past := b :: r.past, made := r.made + 1 }

/-- A match copied out. -/
def DfRun.copy : Nat → Nat → DfRun → DfRun
  | 0, _, r => r
  | n + 1, k, r => DfRun.copy n k (r.emit (r.past.getD (k - 1) 0))

/-- The framing's header. -/
def DfRun.head (r : DfRun) (e : DfEnv) : DfStep :=
  let l := packBits (r.bits.length / 8) r.bits
  match if e.framing = 1 then zlibHeader l else gzipHeader l with
  | none => .fail jsBadHeader r.pos
  | some none => .more
  | some (some p) => .next { r.skip (8 * p.1) with mode := .block, window := p.2 }

/-- The header of a block. -/
def DfRun.openBlock (r : DfRun) (e : DfEnv) : DfStep :=
  match takeBits 3 r.bits with
  | .ok v rest =>
    let final : Bool := v % 2 = 1
    if v / 2 = 3 then .fail jsIllegalCode r.pos
    else if v / 2 = 1 then .next { r.upTo rest with mode := .codes fixedLit fixedDist final }
    else if v / 2 = 2 then
      match dynamicHeader rest with
      | .ok c rest => .next { r.upTo rest with mode := .codes c.1 c.2 final, dynamic := r.dynamic + 1 }
      | .more => .more
      | .bad => .fail jsBadCodeTable r.pos
    else
      let n := 3 + r.align e 3
      match takeBits 32 (r.bits.drop n) with
      | .ok v rest =>
        if v % 65536 + v / 65536 != 65535 then .fail jsLengthOverrun (r.pos + n)
        else if v % 65536 = 0 then (r.upTo rest).blockEnd e final
        else .next { r.upTo rest with mode := .stored (v % 65536) final }
      | _ => .more
  | _ => .more

/-- The distance of a match of `n` bytes whose length code has been read; `rest` are the bits behind it. -/
def DfRun.match_ (r : DfRun) (dist : List Nat) (n : Nat) (rest : List Bool) : DfStep :=
  let at_ := r.pos + (r.bits.length - rest.length)
  match takeSym (prefixCodes dist) rest with
  | .more => .more
  | .bad => .fail jsIllegalCode at_
  | .ok s rest =>
    if 30 ≤ s then .fail jsIllegalCode at_
    else
      let c := distCodes.getD s (0, 0)
      match takeBits c.2 rest with
      | .ok v rest =>
        if min r.past.length r.window < c.1 + v then .fail jsDistanceTooFar at_
        else .next (DfRun.copy n (c.1 + v) (r.upTo rest))
      | _ => .more

/-- A symbol of a coded block. -/
def DfRun.symbol (r : DfRun) (e : DfEnv) (lit dist : List Nat) (final : Bool) : DfStep :=
  match takeSym (prefixCodes lit) r.bits with
  | .more => .more
  | .bad => .fail jsIllegalCode r.pos
  | .ok s rest =>
    if s < 256 then
      (if e.cap ≤ r.made then .fail jsLengthOverrun r.pos else .next ((r.upTo rest).emit (BitVec.ofNat 8 s)))
    else if s = 256 then (r.upTo rest).blockEnd e final
    else if 286 ≤ s then .fail jsIllegalCode r.pos
    else
      let c := lengthCodes.getD (s - 257) (0, 0)
      match takeBits c.2 rest with
      | .ok v rest => if e.cap < r.made + (c.1 + v) then .fail jsLengthOverrun r.pos else r.match_ dist (c.1 + v) rest
      | _ => .more

/-- One step of a decoder. -/
def DfRun.step (e : DfEnv) (r : DfRun) : DfStep :=
  match r.mode with
  | .header => r.head e
  | .block => r.openBlock e
  | .stored n final =>
    (match takeBits 8 r.bits with
     | .ok v _ =>
       if e.cap ≤ r.made then .fail jsLengthOverrun r.pos
       else
         let r := (r.skip 8).emit (BitVec.ofNat 8 v)
         if n = 1 then r.blockEnd e final else .next { r with mode := .stored (n - 1) final }
     | _ => .more)
  | .codes lit dist final => r.symbol e lit dist final
  | .trailer =>
    let n := r.align e 0
    if r.bits.length < n + (if e.framing = 1 then 32 else 64) then .more else .done (r.skip n)

/-- A decoder run until it stops; each step takes a bit at least. -/
def DfRun.run (e : DfEnv) : Nat → DfRun → DfStep × DfRun
  | 0, r => (.more, r)
  | fuel + 1, r =>
    match r.step e with
    | .next r => DfRun.run e fuel r
    | x => (x, r)

/-- How a decompression ends: a status with the position of its first error, the decoder, and whether the stream ended; `used`
is the position behind the last bit that belongs to the stream. -/
structure DfEnd where
  status : Nat
  pos    : Nat
  run    : DfRun
  ended  : Bool
  used   : Nat
deriving DecidableEq, Repr, Inhabited

/-- The decoder's bytes. -/
def DfRun.output (r : DfRun) : List Byte := (r.past.take r.made).reverse

/-- What bounds the decoder of a job. -/
def dfEnv (b : List Byte) (s : DfStream) : DfEnv :=
  { framing := dfFraming b, cap := descCap b, phase := (8 - s.save.held.length % 8) % 8 }

/-- The decoder run over the held bits and an input. -/
def dfDecode1 (b : List Byte) (s : DfStream) (input : List Byte) : DfStep × DfRun :=
  let bits := s.save.held ++ bytesBits input
  DfRun.run (dfEnv b s) (bits.length + 1)
    { mode := s.save.mode, bits := bits, pos := 0, past := s.past.take 32768, made := 0, window := s.save.window, dynamic := 0 }

/-- The decoder takes no byte behind an input: the stream has ended with its trailer, or an error has been found. -/
def dfHalts (b : List Byte) (s : DfStream) (input : List Byte) : Bool :=
  match dfDecode1 b s input with
  | (.done r, _) => (if dfFraming b = 1 then 32 else if dfFraming b = 2 then 64 else 0) ≤ r.bits.length
  | (.fail _ _, _) => true
  | _ => false

/-- A decompression over the held bits and the input (R182, R186). -/
def dfDecompress (b : List Byte) (s : DfStream) (input : List Byte) : DfEnd :=
  let bits := s.save.held ++ bytesBits input
  let e := dfEnv b s
  match dfDecode1 b s input with
  | (.fail st p, r) => { status := st, pos := p, run := r, ended := false, used := p }
  | (.done r, _) =>
    let n := if e.framing = 1 then 4 else if e.framing = 2 then 8 else 0
    let t := packBits n r.bits
    let check := dfCheckRun e.framing s.check r.output
    let total := s.total + r.made
    let bad := (n != 0 && t != dfTrailer e.framing check (total % 2 ^ 32)) || (dfExpect b && check != dfExpected b)
    let used := r.pos + 8 * n
    if bad then
      { status := jsCheckMismatch, pos := if n = 0 then s.save.held.length + 8 * descInLen b else r.pos, run := r, ended := false, used := used }
    else { status := jsOk, pos := 0, run := r, ended := true, used := used }
  | (_, r) =>
    if dfLast b then { status := jsTruncated, pos := bits.length, run := r, ended := false, used := bits.length }
    else { status := jsOk, pos := 0, run := r, ended := false, used := bits.length }

/-! ## The opcodes -/

/-- Bytes 16 to 23 of the record (R187). -/
def dfResult (check total : Nat) : Nat := check + total % 2 ^ 32 * 2 ^ 32

/-- The context is not the job's: nothing is decoded (Table 07-5). What Result holds then is free. -/
def Dev.dfNoContext (d : Dev) (j : Nat) : Dev :=
  let w := d.takeWord
  (w.2.opEnd j { status := jsContextInvalid }).modJob j (fun x => { x with result := w.1.toNat })

/-- The operation of a job ends with OK: its context is ready to be written (R184). -/
def Dev.dfOk (d : Dev) (j : Nat) (x : Job) (detail : Nat) (out : List Byte) (ended : Bool) (s : DfStream) : Dev :=
  let r := if dfSingle x.desc then ([], d) else d.dfClose x.desc ended s
  (r.2.opEnd j { status := jsOk, detail := detail, out := out }).modJob j
    (fun x => { x with result := dfResult s.check s.total, ctxOut := r.1 })

/-- COMPRESS. -/
def Dev.compress (d : Dev) (j : Nat) (x : Job) (s : DfStream) : Dev :=
  let r := dfCompress x.desc s x.input
  (d.add rDfBytesIn x.input.length).dfOk j x 0 r.1 (dfFlush x.desc = 3) r.2

/-- DECOMPRESS. A bit that an earlier segment held has no offset in this job's input: the offset is then free (R186). -/
def Dev.decompress (d : Dev) (j : Nat) (x : Job) (s : DfStream) : Dev :=
  let r := dfDecompress x.desc s x.input
  let held := s.save.held.length
  let used := (r.used - held + 7) / 8
  let out := r.run.output
  let stream : DfStream :=
    { past := r.run.past, check := dfCheckRun (dfFraming x.desc) s.check out, total := s.total + r.run.made,
      save := { held := if r.ended then [] else r.run.bits, mode := r.run.mode, window := r.run.window } }
  let d := d.add rDfBytesIn used
  let d := d.countEvent (engGroup (x.slot.getD (80, 0)).1) 7 r.run.dynamic (some (d.instWorld x.inst))
  if r.status = jsOk then d.dfOk j x (used + boolNat r.ended * 2 ^ 32) out r.ended stream
  else
    let w := d.takeWord
    let d := if held ≤ r.pos then d else w.2
    let off := if held ≤ r.pos then r.pos - held else w.1.toNat
    (d.opEnd j { status := r.status, detail := off, out := out }).modJob j
      (fun x => { x with result := dfResult stream.check stream.total })

/-- The job is a DEFLATE job in execution with this opcode. -/
def Dev.dfReady (d : Dev) (j op : Nat) : Bool :=
  d.jobIs j (fun x => d.instClass x.inst = 3 && x.phase = phExecute && !x.opDone && descOpcode x.desc = op)

/-- The stream of a job: a new one, or that of its context. -/
def Dev.dfStream (d : Dev) (x : Job) : Option DfStream :=
  if dfFirst x.desc then some (dfNew x.desc) else d.dfContext x.desc x.aux

/-- The input of a decompression, read line by line as the decoder asks for it: what lies behind the end of the stream is not read (R186). -/
def Dev.dfRead (x : Job) (s : DfStream) : Nat → Dev → Nat → List Byte → InstIo × Dev
  | 0, d, _, acc => (.ok acc, d)
  | n + 1, d, a, acc =>
    let left := descInLen x.desc - acc.length
    if left = 0 || dfHalts x.desc s acc then (.ok acc, d)
    else
      let k := min left (64 - a % 64)
      match d.instRead x.inst a k with
      | (.ok b, d) => Dev.dfRead x s n d (a + k) (acc ++ b)
      | r => r

/-- The Result of a job whose operation has not run (R180, R187): a stream that starts has the check value of no data, and one that goes
on has what its context holds, once it has been read; before that 0, as Table 03-12 shows. -/
def Dev.dfIdle (d : Dev) (x : Job) : Nat :=
  if descOpcode x.desc = 0 then 0
  else if dfFirst x.desc then dfResult (dfCheckStart (dfFraming x.desc)) 0
  else
    match d.dfStream x with
    | some s => dfResult s.check s.total
    | none => 0

/-- A DEFLATE row. -/
def dfExec (rule j op : Nat) (f : Dev → Job → DfStream → Dev) (s : State) : Out :=
  occurs rule (fun d => d.dfReady j op)
    (fun d =>
      match d.job j with
      | none => d
      | some x =>
        match d.dfStream x with
        | none => d.dfNoContext j
        | some t => f d x t) s

/-- DEFLATE_NOP (R179). -/
def execDeflateNop (job : Nat) (s : State) : Out :=
  occurs 179 (fun d => d.jobIs job (fun x => d.instClass x.inst = 3 && descOpcode x.desc = 0 && d.jobReady x.inst job))
    (fun d => d.endJob job jsOk 0) s

/-- COMPRESS (R180, R181, R183 to R185, R187). -/
def execCompress (job : Nat) (s : State) : Out := dfExec 183 job 1 (fun d x t => d.compress job x t) s

/-- DECOMPRESS (R180, R182, R184, R186, R187). -/
def execDecompress (job : Nat) (s : State) : Out := dfExec 186 job 2 (fun d x t => d.decompress job x t) s

end Sys2Proof.Machine
end

