-- ==== Sys2Proof/Machine/Jobs.lean ====
section
/-!
DEFINITION. The life of instances and of their jobs (chapter 03): instance commands (R78 to R81, R94 to R96), the fetch of
descriptors (R83), the start of jobs (R84, R90, R104, R108), their phases (R113, R160, R184), completion records (R85, R115, R154,
R175, R187), MSIs (R87) and dirty logging (R97).
-/
namespace Sys2Proof.Machine

/-! ## Creating and destroying (R78, R80, R103, R107, R153) -/

/-- The free slots of a class, which only CREATE and DESTROY change (R78). DEDUCED (log 118). -/
def rFreeSlots (c : Nat) : Reg :=
  if c = 1 then rInstFreeSlotsSterling else if c = 2 then rInstFreeSlotsElectrum else rInstFreeSlotsDeflate

/-- Another read-out instance that is not FREE has the same source. -/
def Dev.sourceTaken (d : Dev) (i : Nat) : Bool :=
  (List.range 4096).any (fun k =>
    k != i && d.get (rInstState k) != instFree && d.instClass k = 4 && d.get (rJrSource k) = d.get (rJrSource i))

/-- The conditions under which CREATE returns RANGE, but for the placement of the slots. -/
def Dev.createBad (d : Dev) (i : Nat) : Bool :=
  let c := d.instClass i
  let n := d.get (rInstSlots i)
  let q := d.get (rInstQuota i)
  c = 0 || q = 0 || 1024 < q || (c < 4 && d.get (rFreeSlots c) < n)
    || 1048576 < d.get (rInstKeyBase i) + d.get (rInstKeyCount i)
    || (c != 1 && d.get (rInstKeyCount i) != 0)
    || (d.guarded i && (n = 0 || n % 2 = 1))
    || (c = 4 && (n != 0 || d.sourceTaken i))

/-- An instance that has just been bound: its counts since CREATE are 0. -/
def Dev.bound (d : Dev) (i : Nat) (mine : List (Nat × Nat)) : Dev :=
  let c := d.instClass i
  let d := d.setInst i { Inst.reset with slotMap := mine.map some, dbErrors := (d.inst i).dbErrors, dlOn := (d.inst i).dlOn, dlWait := (d.inst i).dlWait }
  let d := if c < 4 then d.set (rFreeSlots c) (d.get (rFreeSlots c) - d.get (rInstSlots i)) else d
  let d := (d.set (rJobsCompleted i) 0).set (rJobsSquashed i) 0
  let d := if c = 1 then d.set (rStSignsReleased i) 0 else if c = 4 then d.set (rJrEntriesRead i) 0 else d
  (d.set (rInstState i) instReady).set (rInstCommand i) cmdDone

/-- CREATE. -/
def Dev.instCreate (d : Dev) (i : Nat) : Reply :=
  if d.get (rInstState i) != instFree then (.busy, d)
  else if d.createBad i then (.range, d)
  else
    match d.placeInst i with
    | none => (.range, d)
    | some (mine, d) => (.ok, d.bound i mine)

/-- ENABLE: bad ring geometry is RANGE in every state, which ranks ahead of BUSY (R49, R81). -/
def Dev.instEnable (d : Dev) (i : Nat) : Reply :=
  let st := d.get (rInstState i)
  if d.get (rCqLog2 i) < d.get (rSqLog2 i) || d.get (rSqBase i) % 4096 != 0 || d.get (rCqBase i) % 4096 != 0 then (.range, d)
  else if st = instActive then (.ok, d)
  else if st != instReady then (.busy, d)
  else (.ok, (d.set (rInstState i) instActive).set (rInstCommand i) cmdDone)

/-- DESTROY: the slots of the instance are free again. -/
def Dev.instDestroy (d : Dev) (i : Nat) : Reply :=
  if d.get (rInstState i) != instReady then (.busy, d)
  else
    let c := d.instClass i
    let lost := ((d.inst i).slotMap.filter (fun x => x.isNone)).length
    let d := { d with slots := d.slots.filter (fun p => p.2 != SlotOwner.inst i), moves := d.moves.filter (fun m => m.inst != i) }
    let d := if c < 4 then d.set (rFreeSlots c) (d.get (rFreeSlots c) + d.get (rInstSlots i)) else d
    let d := d.set rStSlotsUnplaced (d.get rStSlotsUnplaced - lost)
    let d := d.setInst i { d.inst i with slotMap := [] }
    (.ok, (d.set (rInstState i) instFree).set (rInstCommand i) cmdDone)

/-- The job is squashed (R95, R114, R154): what it may have written of its output is a free number of bytes, and in a Sterling
job those are zero. -/
def Dev.squashJob (d : Dev) (j : Nat) : Dev :=
  match d.job j with
  | none => d
  | some x =>
    if x.phase = phComplete then d
    else
      let c := d.instClass x.inst
      let w := d.takeWord
      let n := if x.out.isEmpty then 0 else w.1.toNat % (x.out.length + 1)
      let d := if x.out.isEmpty then d else w.2
      let r := if x.phase = phOutput || (c != 1 && x.phase = phExecute) then
          d.instWrite x.inst (descOut x.desc) (if c = 1 then zeros n else x.out.take n) true
        else ((.ok [], 0), d)
      let d := if haltsAlways r.1.1.status then r.2.haltInst x.inst r.1.1.status r.1.1.addr (descTag x.desc) else r.2
      let src := d.get (rJrSource x.inst)
      let detail := if c = 4 then (if x.phase = phOutput then x.detail else if descOpcode x.desc = 1 then d.jrNext src else 0)
        else if c = 1 && (x.phase = phJournal || x.phase = phOutput) then x.detail else 0
      (d.endJob j jsSquashed detail).modJob j
        (fun x => { x with written := r.1.2, copied := r.1.2 / jrEntrySize src })

/-- The start of a reset (R94). -/
def Dev.instQuiesce (d : Dev) (i : Nat) (squash : Bool) : Reply :=
  let st := d.get (rInstState i)
  if !(st = instReady || st = instActive || st = instHalted) then (.busy, d)
  else
    let d := ((d.set (rInstState i) instQuiescing).set (rInstCommand i) cmdRunning).set (rHaltStatus i) 0
    let d := d.setInst i { d.inst i with squash := squash }
    (.ok, if squash then (d.inst i).queue.foldl Dev.squashJob d else d)

/-- An instance command as its own row: the instance that the path has selected. -/
def instRow (p : Path) (code : Nat) (k : Dev → Nat → Reply) (s : State) : Out :=
  writeCommand p 0x7803 0x02 code (fun d _ => k d (d.selected 0x7800 p)) s

/-- INST_CREATE (R78, R80). -/
def execInstCreate (p : Path) (s : State) : Out := instRow p 1 Dev.instCreate s

/-- INST_ENABLE (R81). -/
def execInstEnable (p : Path) (s : State) : Out := instRow p 2 Dev.instEnable s

/-- INST_RESET_DRAIN (R94, R95). -/
def execInstResetDrain (p : Path) (s : State) : Out := instRow p 3 (fun d i => d.instQuiesce i false) s

/-- INST_RESET_SQUASH (R94, R95, R114). -/
def execInstResetSquash (p : Path) (s : State) : Out := instRow p 4 (fun d i => d.instQuiesce i true) s

/-- INST_DESTROY (R80). -/
def execInstDestroy (p : Path) (s : State) : Out := instRow p 5 Dev.instDestroy s

/-- INST_RESET_DONE (R96). -/
def execInstResetDone (inst : Nat) (s : State) : Out :=
  occursAt 96 (inst < 4096)
    (fun d =>
      let x := d.inst inst
      d.get (rInstState inst) = instQuiescing && !x.fetching && x.queue.isEmpty && x.msis.isEmpty && d.delivered x.sent)
    (fun d =>
      let x := d.inst inst
      let d := d.setInst inst { x with sqTail := 0, sqHead := 0, cqHead := 0, cqTail := 0, phase := true, dbErrors := 0,
                                       unreleased := 0, squash := false, sent := [] }
      ((d.set (rDoorbellErrors inst) 0).set (rInstState inst) instReady).set (rInstCommand inst) cmdDone) s

/-! ## Descriptors (R83, R111, R153, R159, R179) -/

/-- R153: 0, BAD_OPCODE or BAD_DESCRIPTOR of a read-out job. -/
def readoutDecode (src : Nat) (b : List Byte) : Nat :=
  let op := descOpcode b
  let cap := descCap b
  if 1 < op then jsBadOpcode
  else if 4 ≤ descFlags b || descInLen b != 0 || descIn b != 0 || (b.drop 28).take 28 != zeros 28 then jsBadDescriptor
  else if op = 0 then (if (b.drop 16).all (fun x => x = 0) then jsOk else jsBadDescriptor)
  else if cap = 0 || cap % jrEntrySize src != 0 || 1000000 < descOpData b then jsBadDescriptor
  else jsOk

/-- The decode of a descriptor by its class. -/
def Dev.decodeDesc (d : Dev) (i : Nat) (b : List Byte) : Nat :=
  let c := d.instClass i
  if c = 1 then stDecode b else if c = 2 then d.elDecodeNow i b else if c = 3 then dfDecode b
  else readoutDecode (d.get (rJrSource i)) b

/-- DESCRIPTOR_FETCH (R83). -/
def execDescriptorFetch (inst : Nat) (s : State) : Out :=
  occursAt 83 (inst < 4096)
    (fun d =>
      let x := d.inst inst
      d.get (rInstState inst) = instActive && !x.fetching && x.sqHead != x.sqTail
        && x.inFlight < d.get (rInstQuota inst) && x.inFlight < d.cqSize inst - x.unreleased)
    (fun d => d.setInst inst { d.inst inst with fetching := true }) s

/-- A job joins its instance's queue, phase 1 done. -/
def Dev.admitJob (d : Dev) (i : Nat) (b : List Byte) : Dev :=
  let j := d.nextJob
  let x := { newJob i b with phase := if d.instClass i = 1 then phKey else phDispatch }
  let d := ({ d with nextJob := j + 1 }).setJob j x
  let y := d.inst i
  let d := d.setInst i { y with fetching := false, sqHead := (y.sqHead + 1) % d.sqSize i, queue := y.queue ++ [j] }
  if y.squash then d.squashJob j
  else
    let st := d.decodeDesc i b
    if st = jsOk then d else d.endJob j st 0

/-- DESCRIPTOR_RECEIVED (R83, R88, R89, R113). A fetch that halts the instance leaves `haltTag` 0: no tag is known then. DESIGN CHOICE
(log 62). -/
def execDescriptorReceived (inst : Nat) (s : State) : Out :=
  occursAt 113 (inst < 4096) (fun d => (d.inst inst).fetching)
    (fun d =>
      let x := d.inst inst
      match d.instFetch inst (d.get (rSqBase inst) + 64 * x.sqHead) with
      | (.ok b, d) => d.admitJob inst b
      | (r, d) => (d.setInst inst { x with fetching := false }).haltInst inst r.status r.addr 0) s

/-! ## The start of a job (R84, R90, R93, R104, R105, R108, R123, R136) -/

/-- The slot at a position, where a job may start on it. -/
def Dev.portIdle (d : Dev) (i : Nat) (x : Job) (pos : Nat) : Option (Nat × Nat) :=
  match (d.inst i).slotMap.getD pos none with
  | none => none
  | some p =>
    if !d.moving i pos && d.slotIdle p.1 p.2 && !d.slotPromised p.1 p.2 && d.engUp p.1 && !x.avoid.contains p.1 && d.slot p.1 p.2 = .inst i then some p
    else none

/-- The position has a slot, or will have one. -/
def Dev.portPlaced (d : Dev) (i pos : Nat) : Bool :=
  ((d.inst i).slotMap.getD pos none).isSome || d.moving i pos

/-- The position can never serve the job. -/
def Dev.portDead (d : Dev) (i : Nat) (x : Job) (pos : Nat) : Bool :=
  !d.portPlaced i pos ||
    (!d.moving i pos && (match (d.inst i).slotMap.getD pos none with
      | some p => x.avoid.contains p.1
      | none => true))

/-- The job needs both slots of a pair. -/
def Dev.paired (d : Dev) (i : Nat) (x : Job) : Bool := d.guarded i && stPaired (descOpcode x.desc)

/-- Ports of the slot arbiter: slots, or pairs. -/
def Dev.ports (d : Dev) (i : Nat) (x : Job) : Nat :=
  let n := (d.inst i).slotMap.length
  if d.paired i x then n / 2 else n

/-- What a job takes at a port: its slot and its partner's. -/
def Dev.portTakes (d : Dev) (i : Nat) (x : Job) (port : Nat) : Option ((Nat × Nat) × Option (Nat × Nat)) :=
  if d.paired i x then
    match d.portIdle i x (2 * port), d.portIdle i x (2 * port + 1) with
    | some a, some b => some (a, some b)
    | _, _ => none
  else (d.portIdle i x port).map (fun a => (a, none))

/-- R105, R93: no slot of the instance will ever take the job. -/
def Dev.noPort (d : Dev) (i : Nat) (x : Job) : Bool :=
  (List.range (d.ports i x)).all (fun q =>
    if d.paired i x then d.portDead i x (2 * q) || d.portDead i x (2 * q + 1) else d.portDead i x q)

/-- The idle pool slots of an engine (R90). -/
def Dev.poolIdle (d : Dev) (e : Nat) : List Nat :=
  (d.freeSlots e).filter (fun s => d.slotIdle e s && !d.slotPromised e s)

/-- The pool slot that a job takes. -/
def Dev.poolSlot (d : Dev) (i : Nat) (x : Job) : Option (Nat × Nat) :=
  let l := (d.worldEngines i).filter (fun e => d.engUp e && !x.avoid.contains e)
  let best := l.foldl (fun b e =>
    match b with
    | none => if (d.poolIdle e).isEmpty then none else some e
    | some f => if (d.poolIdle f).length < (d.poolIdle e).length then some e else some f) none
  best.bind (fun e => (d.poolIdle e).head?.map (fun s => (e, s)))

/-- R93: no engine of the class could take a job that an engine lost. -/
def Dev.noPool (d : Dev) (i : Nat) (x : Job) : Bool :=
  !x.avoid.isEmpty &&
    (d.worldEngines i).all (fun e => x.avoid.contains e || d.get (rEngState e) != stActive || (d.freeSlots e).isEmpty)

/-- The head job of an instance, ready to start on an engine slot. -/
def Dev.starter (d : Dev) (i : Nat) : Option (Nat × Job) :=
  match d.headJob i with
  | none => none
  | some j =>
    match d.job j with
    | none => none
    | some x => if d.jobReady i j && descOpcode x.desc != 0 && d.instClass i < 4 then some (j, x) else none

/-- The job cannot start anywhere. -/
def Dev.stuck (d : Dev) (i : Nat) (x : Job) : Bool := if d.get (rInstSlots i) = 0 then d.noPool i x else d.noPort i x

/-- Phase 3 on the slots taken: randomness from the DRBG that serves the primary's base die, then the policy of a key
generation (R123, R124, R136). -/
def Dev.startOn (d : Dev) (j : Nat) (x : Job) (p : Nat × Nat) (q : Option (Nat × Nat)) : Dev :=
  let op := descOpcode x.desc
  let sterling : Bool := d.instClass x.inst = 1
  let n := if sterling then stRandom op else 0
  match if n = 0 then some ([], d) else d.drbgDraw (p.1 / 16) n with
  | none => d.endJob j jsEntropyFailed 0
  | some (rand, d) =>
    if sterling && (keygenType op).isSome && d.secureDown then d.endJob j jsSecureDown 0
    else
      let d := if sterling && (keygenType op).isSome then
          match x.target with
          | some h =>
            { d with ks := { d.ks with inventory := if d.ks.inventory.contains h then d.ks.inventory else d.ks.inventory ++ [h] } }
          | none => d
        else d
      d.modJob j (fun x => { x with phase := phStage, slot := some p, partner := q, rand := rand })

/-- The start of the head job of an instance with reserved slots. -/
def Dev.startReserved (d : Dev) (i : Nat) : Dev :=
  match d.starter i with
  | none => d
  | some (j, x) =>
    if d.noPort i x then d.endJob j jsEngineFailed 0
    else
      match d.arbitrate (arbInstSlots i) (d.ports i x) (fun q => (d.portTakes i x q).isSome) with
      | (none, d) => d
      | (some q, d') =>
        match d.portTakes i x q with
        | some (a, b) => d'.startOn j x a b
        | none => d'

/-- Instances without reserved slots, of a class and a world. -/
def Dev.poolInsts (d : Dev) (c : Nat) (w : World) : List Nat :=
  (List.range 4096).filter (fun i =>
    d.get (rInstState i) != instFree && d.instClass i = c && d.instWorld i = w && d.get (rInstSlots i) = 0)

/-- The instance's head job can take a pool slot. -/
def Dev.poolAsks (d : Dev) (i : Nat) : Bool :=
  match d.starter i with
  | some (_, x) => (d.poolSlot i x).isSome
  | none => false

/-- The instance's head job has no engine left. -/
def Dev.poolStuck (d : Dev) (i : Nat) : Bool :=
  match d.starter i with
  | some (_, x) => d.noPool i x
  | none => false

/-- The start of a job on a pool slot. -/
def Dev.startPool (d : Dev) (c : Nat) (w : World) : Dev :=
  let l := d.poolInsts c w
  match l.find? (fun i => d.poolStuck i) with
  | some i =>
    (match d.starter i with
     | some (j, _) => d.endJob j jsEngineFailed 0
     | none => d)
  | none =>
    match d.arbitrate (arbPool c w) 4096 (fun i => l.contains i && d.poolAsks i) with
    | (none, d) => d
    | (some i, d') =>
      match d.starter i with
      | some (j, x) =>
        (match d.poolSlot i x with
         | some p => d'.startOn j x p none
         | none => d')
      | none => d'

/-- JOB_SLOT_START (R90, R104, R108). -/
def execJobSlotStart (src : SlotSource) (s : State) : Out :=
  match src with
  | .reserved i =>
    occursAt 90 (i < 4096)
      (fun d =>
        match d.starter i with
        | none => false
        | some (_, x) =>
          d.get (rInstSlots i) != 0 &&
            (d.noPort i x || (List.range (d.ports i x)).any (fun q => (d.portTakes i x q).isSome)))
      (fun d => d.startReserved i) s
  | .pool c w =>
    occursAt 90 (1 ≤ c && c ≤ 3) (fun d => (d.poolInsts c w).any (fun i => d.poolAsks i || d.poolStuck i))
      (fun d => d.startPool c w) s

/-! ## Staging (R113, R184) -/

/-- The blob of a key that a job uses; an error on its lines is a memory error of the job. -/
def Dev.stageBlob (d : Dev) (h : Nat) : InstIo × Dev :=
  let k := d.keyAt h
  let t := d.touch (unitUse (keyDie h)) (d.blobAddr k) k.blobLen
  match d.firstMarked (d.blobAddr k) k.blobLen with
  | some l => (.memory l, t.consumed 883 l)
  | none => (.ok (d.blobOf k), t)

/-- A staging read of a job: it goes on, or ends the job. -/
def Dev.stageRead (d : Dev) (j a n : Nat) (k : List Byte → Dev → Dev) : Dev :=
  match d.job j with
  | none => d
  | some x =>
    match d.instRead x.inst a n with
    | (.ok b, d) => k b d
    | (r, d) => d.failJob j r

/-- The blobs of a Sterling job. -/
def Dev.stageKeys (d : Dev) (j : Nat) (x : Job) : Dev :=
  let op := descOpcode x.desc
  let useA := (stUseA op).isSome && stNamesA x.desc
  match if useA then d.stageBlob (descKeyA x.desc) else (.ok [], d) with
  | (.ok a, d) =>
    (match if stNamesB x.desc then d.stageBlob (descKeyB x.desc) else (.ok [], d) with
     | (.ok b, d) => d.modJob j (fun x => { x with blobA := a, blobB := b, phase := phExecute })
     | (r, d) => d.failJob j r)
  | (r, d) => d.failJob j r

/-- Staging ends with the input of a job, the only operand or the last. -/
def Dev.stageInput (d : Dev) (j : Nat) (x : Job) : Dev :=
  d.stageRead j (descIn x.desc) (descInLen x.desc) (fun b d => d.modJob j (fun x => { x with input := b, phase := phExecute }))

/-- Staging of a Sterling job: the first 4 KiB of its input (R117), the auxiliary operand, the key blobs. -/
def Dev.stageSterling (d : Dev) (j : Nat) (x : Job) : Dev :=
  d.stageRead j (descIn x.desc) (min (descInLen x.desc) 4096) (fun b d =>
    (d.modJob j (fun x => { x with input := b })).stageRead j (descAux x.desc) (if stAux (descOpcode x.desc) then descAuxLen x.desc else 0)
      (fun b d => (d.modJob j (fun x => { x with aux := b })).stageKeys j x))

/-- Staging of a DEFLATE job: its context unless it starts a stream (R184), then its input, of a decompression as far as it is decoded. A
context that is not the job's needs no input. -/
def Dev.stageDeflate (d : Dev) (j : Nat) (x : Job) : Dev :=
  d.stageRead j (dfCtx x.desc) (if dfFirst x.desc then 0 else 36864) (fun c d =>
    let d := d.modJob j (fun x => { x with aux := c })
    if descOpcode x.desc = 1 then d.stageInput j x
    else
      match d.dfStream { x with aux := c } with
      | none => d.modJob j (fun x => { x with phase := phExecute })
      | some s =>
        match Dev.dfRead x s (descInLen x.desc / 64 + 2) d (descIn x.desc) [] with
        | (.ok b, d) => d.modJob j (fun x => { x with input := b, phase := phExecute })
        | (r, d) => d.failJob j r)

/-- JOB_STAGE_COMPLETE (R113, R160, R184). -/
def execJobStageComplete (job : Nat) (s : State) : Out :=
  occurs 113 (fun d => d.jobIs job (fun x => x.phase = phStage))
    (fun d =>
      match d.job job with
      | none => d
      | some x =>
        let c := d.instClass x.inst
        if c = 1 then d.stageSterling job x
        else if c = 3 then d.stageDeflate job x
        else d.stageInput job x) s

/-! ## The end of execution (R110, R113, R116, R135, R147) -/

/-- R110: the results of a pair differ. -/
def Dev.guardMismatch (d : Dev) (j : Nat) (x : Job) : Dev :=
  ((d.addSat rStGuardMismatches 1).raise kSterlingGuard (engSource (x.slot.getD (0, 0)).1) 0).modJob j
    (fun x => { x with status := jsGuardMismatch, out := [] })

/-- The results of a guarded pair differ, or their counts of attempts (R109). -/
def Job.differs (x : Job) : Bool := 
  x.partner.isSome && x.status = jsOk && x.out ++ leBytes 1 x.attempts != x.blobB

/-- The journal record of a Sterling job. -/
def Dev.jobRecord (d : Dev) (x : Job) : JnFields :=
  let b := x.desc
  let ok : Bool := x.status = jsOk
  { inst := x.inst, op := descOpcode b, status := x.status, tenant := d.get (rInstTenant x.inst), keyA := descKeyA b,
    genA := if ok && (keygenType (descOpcode b)).isSome then (x.genA + 1) % 2 ^ 16 else x.genA,
    genB := descGenB b, keyB := descKeyB b, restarted := x.restarted, guarded := x.partner.isSome, attempts := x.attempts,
    input := x.input ++ x.aux, output := if ok then x.out else [] }

/-- The slots that a job holds. -/
def Job.places (x : Job) : List (Nat × Nat) := x.slot.toList ++ x.partner.toList

/-- A journaled job appends its record and waits in phase 6; where the journal does not run it ends with JOURNAL_FULL. -/
def Dev.journalJob (d : Dev) (j : Nat) (x : Job) : Dev :=
  let b := (x.slot.getD (0, 0)).1 / 16
  if !d.jnRunning b then d.endJob j jsJournalFull 0
  else
    let r := d.jnAppend b (d.jobRecord x) x.places
    (r.2.modJob j (fun y => { y with phase := phJournal, journal := some (b, r.1), deadline := r.2.jnDeadline b,
                                     detail := r.1 })).ckCount

/-- A job whose execution has ended moves on. -/
def Dev.executed (d : Dev) (j : Nat) (x : Job) : Dev :=
  let op := descOpcode x.desc
  let c := d.instClass x.inst
  if c = 1 && stJournaled op then d.journalJob j x
  else if c = 1 then
    if x.status != jsOk then d.endJob j x.status x.detail
    else
      let d := match stTarget op, x.target with
        | some t, some h => d.activateKey (x.slot.getD (0, 0)).1 h t (descOpData x.desc % 2 ^ 32) 0 0 x.blobA
        | _, _ => d
      d.modJob j (fun x => { x with phase := phOutput, target := none })
  else if x.status != jsOk && x.out.isEmpty then d.endJob j x.status x.detail
  else d.modJob j (fun x => { x with phase := phOutput })

/-- JOB_EXECUTE_END (R116, R109, R110, R135, R147, R148). -/
def execJobExecuteEnd (job : Nat) (s : State) : Out :=
  occurs 116 (fun d => d.jobIs job (fun x => x.phase = phExecute && x.opDone))
    (fun d =>
      match d.job job with
      | none => d
      | some x =>
        let d := x.places.foldl (fun d p => d.add (rEngJobs p.1) 1) d
        let d := d.countEvent (engGroup (x.slot.getD (0, 0)).1) 4 (descInLen x.desc) (some (d.instWorld x.inst))
        if x.differs then
          let d := d.guardMismatch job x
          let d := match d.job job with
            | some y => d.executed job y
            | none => d
          x.places.foldl (fun d p => d.fenceAndTest p.1) d
        else d.executed job x) s

/-! ## Output (R86, R98, R184) -/

/-- A DEFLATE context as it is written, each part within a page: history, decoder state, then the 64-byte header in one write. -/
def ctxParts (a : Nat) (c : List Byte) : List (Nat × List Byte) :=
  (List.range 8).map (fun k => (a + 4096 * k, (c.drop (4096 * k)).take 4096))
    ++ [(a + 32832, c.drop 32832), (a + 32768, (c.drop 32768).take 64)]

/-- The parts written one after another, and the first that cannot be. -/
def Dev.writeParts (i : Nat) : List (Nat × List Byte) → Dev → Option (Nat × List Byte) × Dev
  | [], d => (none, d)
  | p :: r, d =>
    match d.instWrite i p.1 p.2 true with
    | ((.ok _, _), d) => Dev.writeParts i r d
    | (_, d) => (some p, d)

/-- The context is written behind the output (R184): where one of its parts cannot be, none is, and the job ends with that part's error. -/
def Dev.writeContext (d : Dev) (j : Nat) (x : Job) : Dev :=
  match Dev.writeParts x.inst (ctxParts (dfCtx x.desc) x.ctxOut) d with
  | (none, d) => d.endJob j x.status x.detail
  | (some p, _) => let w := d.instWrite x.inst p.1 p.2 true; w.2.failJob j w.1.1

/-- JOB_OUTPUT_DONE (R86, R113): a READ counts the entries whose bytes were written. DEDUCED (log 117). -/
def execJobOutputDone (job : Nat) (s : State) : Out :=
  occurs 86 (fun d => d.jobIs job (fun x => x.phase = phOutput))
    (fun d =>
      match d.job job with
      | none => d
      | some x =>
        let r := d.instWrite x.inst (descOut x.desc) x.out true
        let n := r.1.2
        let k := if d.instClass x.inst = 4 then n / jrEntrySize (d.get (rJrSource x.inst)) else x.copied
        let d := r.2.modJob job (fun x => { x with written := n, copied := k })
        let d := if d.instClass x.inst = 3 then d.add rDfBytesOut n else d
        let d := match x.slot with
          | some p => d.countEvent (engGroup p.1) 5 n (some (d.instWorld x.inst))
          | none => d
        match r.1.1 with
        | .ok _ => if x.ctxOut.isEmpty then d.endJob job x.status x.detail else d.writeContext job x
        | e => d.failJob job e) s

/-! ## Completion (R85, R115, R154, R165) -/

/-- The Result field (R115, R154, R175, R187). -/
def Dev.jobResult (d : Dev) (x : Job) : Nat :=
  let c := d.instClass x.inst
  if c = 1 then
    let made : Bool := (keygenType (descOpcode x.desc)).isSome && x.result != 0 && x.status != jsGuardMismatch
    let gen := if made then (x.genA + 1) % 2 ^ 16 else x.genA
    (if x.result = 0 then 0xFF else x.result - 1) + x.attempts * 2 ^ 8 + gen * 2 ^ 16
  else if c = 2 then elResult x
  else if c = 3 then (if x.opDone then x.result else d.dfIdle x)
  else if c = 4 then x.copied
  else x.result

/-- The completion record of a job. -/
def Dev.record (d : Dev) (x : Job) : List Byte :=
  leBytes 2 (descTag x.desc) ++ leBytes 1 x.status ++ leBytes 1 (boolNat (d.inst x.inst).phase) ++ leBytes 4 x.written
    ++ leBytes 8 x.detail ++ leBytes 8 (d.jobResult x) ++ leBytes 8 d.now

/-- A job leaves flight; an engine or a cluster that waits for it is drained, and a bank side that drains and has no other job becomes LOADED (R165). -/
def Dev.dropJob (d : Dev) (j : Nat) (x : Job) : Dev :=
  let y := d.inst x.inst
  let d := { d with jobs := tabErase d.jobs j }
  let d := d.setInst x.inst { y with queue := y.queue.filter (fun k => k != j) }
  let d := x.places.foldl (fun d p => (d.engDrained p.1).clusterDrained (engCluster p.1)) d
  match x.bank with
  | none => d
  | some (n, s) => if d.sideState n s = 3 && d.sideFree n s then d.set (rElbSideState n s) 1 else d

/-- The counts that a written record changes. -/
def Dev.countRecord (d : Dev) (x : Job) : Dev :=
  let i := x.inst
  let c := d.instClass i
  let op := descOpcode x.desc
  let ok : Bool := x.status = jsOk
  let d := d.add (rJobsCompleted i) 1
  let d := if x.status = jsSquashed then d.add (rJobsSquashed i) 1 else d
  let d := if c = 1 && ok && (op = 0x12 || op = 0x13) then d.add (rStSignsReleased i) 1 else d
  let d := if c = 2 && 0x40 ≤ x.status && x.status ≤ 0x4E then d.add rElJobErrors 1 else d
  let d := if c = 3 && 0x40 ≤ x.status && x.status ≤ 0x47 then d.add rDfJobErrors 1 else d
  let d := if c = 4 && ok && op = 1 then (d.jrFree (d.get (rJrSource i)) x.copied).add (rJrEntriesRead i) x.copied else d
  match x.slot with
  | some p =>
    let w := some (d.instWorld i)
    let d := d.countEvent (engGroup p.1) 1 1 w
    if ok then d else d.countEvent (engGroup p.1) 8 1 w
  | none => d

/-- COMPLETION_RECORD_WRITE (R85 to R87, R89, R115, R154). -/
def execCompletionRecordWrite (job : Nat) (s : State) : Out :=
  occurs 85 (fun d => d.jobIs job (fun x => x.phase = phComplete))
    (fun d =>
      match d.job job with
      | none => d
      | some x =>
        let i := x.inst
        let y := d.inst i
        let r := d.instWrite i (d.get (rCqBase i) + 32 * y.cqTail) (d.record x) true
        match r.1.1 with
        | .ok _ =>
          let d := r.2.dropJob job x
          let z := d.inst i
          let wraps : Bool := y.cqTail + 1 = d.cqSize i
          let d := d.setInst i { z with
            cqTail := if wraps then 0 else y.cqTail + 1, phase := if wraps then !y.phase else y.phase,
            unreleased := z.unreleased + 1,
            msis := if descIrq x.desc && d.flag (rMsiEnable i) then z.msis ++ [descTag x.desc] else z.msis }
          d.countRecord x
        | e => (r.2.dropJob job x).haltInst i e.status e.addr (descTag x.desc)) s

/-- The MSIs of an instance that are still on their way, where `n` messages were on theirs before its newest.
A line on its way to its memory controller is visible already. -/
def Dev.msiOnWay (d : Dev) (sent : List Instr) (n : Nat) : List Instr :=
  (sent.filter (fun m => d.fab.net.contains m)) ++ (d.fab.net.drop n).filter (fun m => (mcMessageLine m).isNone)

/-- MSI_SEND (R87): a translation fault stays in the IOMMU's queue; the other errors halt the instance (R89). -/
def execMsiSend (inst : Nat) (s : State) : Out :=
  occursAt 87 (inst < 4096) (fun d => !(d.inst inst).msis.isEmpty)
    (fun d =>
      let x := d.inst inst
      let d := d.setInst inst { x with msis := x.msis.drop 1 }
      let r := d.instWrite inst (d.get (rMsiAddr inst)) (leBytes 4 (d.get (rMsiData inst))) false
      let r := (r.1, r.2.setInst inst { r.2.inst inst with sent := r.2.msiOnWay x.sent d.fab.net.length })
      if haltsAlways r.1.1.status then r.2.haltInst inst r.1.1.status r.1.1.addr (x.msis.headD 0) else r.2) s

/-! ## Dirty logging (R97) -/

/-- Writing 1 to `dlControl`. -/
def Dev.dlStart (d : Dev) (i : Nat) : Reply :=
  if d.get (rDlControl i) = cmdRunning then (.busy, d)
  else if d.get (rDlPages i) != 0 && !d.inDram (d.get (rDlBitmap i)) ((d.get (rDlPages i) + 7) / 8) then (.range, d)
  else
    let x := d.inst i
    (.ok, ((d.setInst i { x with dlOn := true, dlWait := x.sent }).set (rDlBitsSet i) 0).set (rDlControl i) cmdRunning)

/-- Writing 0 to `dlControl`: no logged write is in progress between two commands. -/
def Dev.dlStop (d : Dev) (i : Nat) : Reply :=
  if d.get (rDlControl i) = cmdRunning then (.busy, d)
  else (.ok, (d.setInst i { d.inst i with dlOn := false }).set (rDlControl i) cmdDone)

/-- DL_START (R97). -/
def execDlStart (p : Path) (s : State) : Out :=
  writeCommand p 0x7804 0x01 1 (fun d _ => d.dlStart (d.selected 0x7800 p)) s

/-- DL_START_DONE (R97): every write issued before the command is visible. -/
def execDlStartDone (inst : Nat) (s : State) : Out :=
  occursAt 97 (inst < 4096) (fun d => d.get (rDlControl inst) = cmdRunning && d.delivered (d.inst inst).dlWait)
    (fun d => d.set (rDlControl inst) cmdDone) s

/-- DL_STOP (R97). -/
def execDlStop (p : Path) (s : State) : Out :=
  writeCommand p 0x7804 0x01 0 (fun d _ => d.dlStop (d.selected 0x7800 p)) s

end Sys2Proof.Machine
end

