-- ==== Sys2Proof/Machine/Power.lean ====
section
/-!
DEFINITION. Pins, rails, power and temperature (chapter 21): boundary scan (R436), rail monitors (R441), the package power limit (R442),
caps (R443, R444) and the thermal trip (R445).
-/
namespace Sys2Proof.Machine

/-! ## Rails (R441) -/

/-- RAIL_OUT_OF_TOLERANCE (R441): an armed main rail has been out of tolerance for 1 µs. The monitors stand on the IOD, source 880. -/
def execRailOutOfTolerance (rail : Nat) (s : State) : Out :=
  occursAt 441 (1 ≤ rail && rail < 8) (fun d => d.pins.rstN && bitAt d.pins.rails rail)
    (fun d => ({ d with pins := { d.pins with rails := bitClear d.pins.rails rail } }).raise kRailLost 880 0) s

/-- STANDBY_LOSS (R441, R379, R440): it raises nothing, empties the latch, and holds the package in power-on reset. -/
def execStandbyLoss (s : State) : Out :=
  occurs 441 (fun d => bitAt d.pins.rails 0)
    (fun d =>
      let d := d.afterReset [] false
      { d with pins := { d.pins with rails := bitClear d.pins.rails 0 } }) s

/-! ## Caps (R442 to R444) -/

/-- Every compute die runs at the step that is due. -/
def Dev.startSteps (d : Dev) : Dev := (List.range 12).foldl Dev.startStep d

/-- THROTTLE_N_FALL (R444): ignored in reset (Table 21-3). -/
def execThrottleNFall (s : State) : Out :=
  occurs 444 (fun d => d.pins.throttleN)
    (fun d =>
      let d := { d with pins := { d.pins with throttleN := false } }
      if d.pins.rstN then
        (({ d with power := { d.power with throttled := true, liftAt := none } }).set rThrottleInput 1).startSteps
      else d) s

/-- THROTTLE_N_RISE (R444). -/
def execThrottleNRise (s : State) : Out :=
  occurs 444 (fun d => !d.pins.throttleN)
    (fun d =>
      let d := ({ d with pins := { d.pins with throttleN := true } }).set rThrottleInput 0
      if d.power.throttled then { d with power := { d.power with liftAt := some (d.inMs 1) } } else d) s

/-- THROTTLE_LIFT (R444): 1 ms after THROTTLE_N rose. -/
def execThrottleLift (s : State) : Out :=
  occurs 444
    (fun d => match d.power.liftAt with
      | some t => t ≤ d.now
      | none => false)
    (fun d => ({ d with power := { d.power with throttled := false, liftAt := none } }).startSteps) s

/-- The compute dies that a sensor of a die caps. -/
def cappedBy (die : Nat) : List Nat :=
  if die < 12 then [die] else if die < 16 then (List.range 3).map (fun i => 3 * (die - 12) + i) else List.range 12

/-- Key of the cap that a sensor of a die sets on a compute die. -/
def capKey (die n : Nat) : Nat := 16 * die + n

/-- A sensor caps a compute die one step slower than it is to run; the caps of one sensor do not pass /8. -/
def Dev.capThermal (die : Nat) (d : Dev) (n : Nat) : Dev :=
  if 3 ≤ d.stepDue n then d
  else
    let d := { d with power := { d.power with thermalCap := tabPut d.power.thermalCap (capKey die n) (d.stepDue n + 1) } }
    (d.addWrap32 rThThrottleEvents).startStep n

/-- A cap lifts one step; one that no longer slows the die is gone. -/
def liftCap (t : Tab Nat) (k asked : Nat) : Tab Nat :=
  let c := tabGet t k 0 - 1
  if c ≤ asked then tabErase t k else tabPut t k c

/-- A thermal cap of a sensor lifts one step. -/
def Dev.liftThermal (die : Nat) (d : Dev) (n : Nat) : Dev :=
  if (tabFind d.power.thermalCap (capKey die n)).isNone then d
  else
    ({ d with power := { d.power with
        thermalCap := liftCap d.power.thermalCap (capKey die n) (d.get (rCclkStep n)) } }).startStep n

/-- A sensor of a die has given a reading; the hottest is shown. -/
def Dev.readTemp (d : Dev) (die temp : Nat) : Dev :=
  let t := tabPut d.power.temps die temp
  ({ d with power := { d.power with temps := t } }).set rThMaxNow (min 255 (t.foldl (fun (m : Nat) (e : Nat × Nat) => max m e.2) 0))

/-- A time kept for a die lies at least `ms` milliseconds back, or none is kept. -/
def Dev.spaced (d : Dev) (t : Tab Nat) (die ms : Nat) : Bool :=
  match tabFind t die with
  | some x => x + ms * 1000000 ≤ d.now
  | none => true

/-- A reading of a sensor of a die caps: it is at or above `thThrottle`, and its last cap lies 1 ms back. -/
def Dev.tooHot (d : Dev) (die temperature : Nat) : Bool :=
  d.pins.rstN && d.get rThThrottle ≤ temperature && d.spaced d.power.lastTherm die 1

/-- THERMAL_CAP_TICK (R444): a reading of a sensor point of a die; at or above `thThrottle` it caps. -/
def execThermalCapTick (die temperature : Nat) (s : State) : Out :=
  occursAt 444 (die < 17) (fun _ => true)
    (fun d =>
      if d.tooHot die temperature then
        let d := { d with power := { d.power with lastTherm := tabPut d.power.lastTherm die d.now } }
        (cappedBy die).foldl (Dev.capThermal die) (d.readTemp die temperature)
      else d.readTemp die temperature) s

/-- A reading of a sensor of a die lifts: it is below `thThrottle` − 5 °C, 10 ms after the sensor's last cap and its last lift. -/
def Dev.coolEnough (d : Dev) (die temperature : Nat) : Bool :=
  d.pins.rstN && temperature + 5 < d.get rThThrottle && d.spaced d.power.lastTherm die 10 && d.spaced d.power.lastCool die 10
    && d.power.thermalCap.any (fun e => e.1 / 16 = die)

/-- THERMAL_CAP_LIFT (R444): a reading of a sensor point of a die; below `thThrottle` − 5 °C it lifts. -/
def execThermalCapLift (die temperature : Nat) (s : State) : Out :=
  occursAt 444 (die < 17) (fun _ => true)
    (fun d =>
      if d.coolEnough die temperature then
        let d := { d with power := { d.power with lastCool := tabPut d.power.lastCool die d.now } }
        (cappedBy die).foldl (Dev.liftThermal die) (d.readTemp die temperature)
      else d.readTemp die temperature) s

/-- THERMAL_TRIP (R445): a sensor point is at 115 °C, whatever the state of PKG_RST_N. -/
def execThermalTrip (die point : Nat) (s : State) : Out :=
  occursAt 445 (die < 17 && point < 16) (fun _ => true)
    (fun d =>
      let d := { d.allPllsLost with power := { d.power with tripped := true },
                                    pins := { d.pins with thermtripN := false, fatalN := false } }
      (d.readTemp die 115).raise kThermalTrip (912 + 32 * die + point) 0) s

/-! ## The package power limit (R442) -/

/-- A compute die may be capped further. -/
def Dev.powerCapable (d : Dev) (n : Nat) : Bool := d.unit (.die n) = stActive && d.stepDue n < 3

/-- POWER_CAP_TICK (R442): the average over the window, in mW. While it exceeds the limit one die is capped one step slower, every 1 ms. -/
def execPowerCapTick (average : Nat) (s : State) : Out :=
  occurs 442 (fun d => d.pins.rstN && (d.power.lastPower = 0 || d.power.lastPower + 1000000 ≤ d.now))
    (fun d =>
      let d := { d.set rPkgPowerAvg (average % 2 ^ 32) with power := { d.power with lastPower := d.now } }
      if average ≤ d.get rPkgPowerLimit * 1000 then d.set rPkgPowerLimited 0
      else
        match d.arbitrate arbPowerCap 12 (fun n => d.powerCapable n) with
        | (some n, d) =>
          let d := { d with power := { d.power with powerCap := tabPut d.power.powerCap n (d.stepDue n + 1) } }
          (d.set rPkgPowerLimited 0).startStep n
        | (none, d) => d.set rPkgPowerLimited 1) s

/-- POWER_CAP_LIFT (R442): the average stays below 97 % of the limit; one cap lifts one step, over the same pointer. -/
def execPowerCapLift (average : Nat) (s : State) : Out :=
  occurs 442
    (fun d => d.pins.rstN && (d.power.lastLift = 0 || d.power.lastLift + 10000000 ≤ d.now))
    (fun d =>
      let d := d.set rPkgPowerAvg (average % 2 ^ 32)
      if d.get rPkgPowerLimit * 1000 * 97 ≤ average * 100 then d
      else
      let d := { d.set rPkgPowerLimited 0 with power := { d.power with lastLift := d.now } }
      match d.arbitrate arbPowerCap 12 (fun n => (tabFind d.power.powerCap n).isSome) with
      | (some n, d) =>
        ({ d with power := { d.power with powerCap := liftCap d.power.powerCap n (d.get (rCclkStep n)) } }).startStep n
      | (none, d) => d) s

/-! ## Boundary scan (R436) -/

/-- The levels that SAMPLE captures at contacts. The manual gives the contacts no numbers of their own, so each level is free. -/
def Dev.sampleContacts (d : Dev) : List Nat → List (Nat × Bool) × Dev
  | [] => ([], d)
  | c :: r =>
    let b := d.takeBool
    let t := b.2.sampleContacts r
    ((c, b.1) :: t.1, t.2)

/-- EXTEST (R436): it drives the pins while PKG_RST_N is low, and samples them while it is high. -/
def execExtest (levels : List (Nat × Bool)) (s : State) : Out :=
  occurs 436 (fun d => bitAt d.pins.rails 0 && bitAt d.pins.rails 2)
    (fun d =>
      if d.pins.rstN then
        let t := d.sampleContacts (levels.map (fun l => l.1))
        { t.2 with pins := { t.2.pins with sampled := t.1 } }
      else { d with pins := { d.pins with driven := levels } }) s

end Sys2Proof.Machine
end

