-- ==== Sys2Proof/Machine/DictWrite.lean ====
section
/-!
DEFINITION. What a write of a sub-entry does: the effect of its own chapter, or the value kept (R43, R448). The conditions up to
WRITE_ONCE and the permitted set come first (`guardWrite`).
-/
namespace Sys2Proof.Machine

/-! ## Numbers -/

/-- The code of `unitCommand`. -/
def unitCode (v : Nat) : UnitCmd :=
  if v = 0 then .nop else if v = 1 then .enable else if v = 2 then .quiesce else if v = 3 then .fence
  else if v = 4 then .reset else .powerOff

/-- A value is kept, or in a W1C sub-entry the bits written as 1 are cleared. `doorbellErrors` and DB_ERRORS are two counters of the same
events, and this clears only the former. DESIGN CHOICE (log 59). -/
def Dev.keep (d : Dev) (g : Reg) (a : Access) (v : Nat) : Dev :=
  match a with
  | .w1c => d.set g (bitsClear (d.get g) v)
  | _ => d.set g v

/-- A write that is taken only while `free` holds. -/
def Dev.whileFree (d : Dev) (free : Bool) (x : Dev) : Reply := if free then (.ok, x) else (.busy, d)

/-- R51, R52: a selector. -/
def Dev.select (d : Dev) (base : Nat) (p : Path) (v : Nat) : Reply :=
  if v < arrayCount base then (.ok, d.set (rArraySelectAt base p) v) else (.range, d)

/-- R79: the binding window. The class-specific sub-entries of an instance take their defaults when its class changes (log 43). -/
def Dev.bindWrite (d : Dev) (i : Nat) (g : Reg) (r : SubDesc) (v : Nat) : Reply :=
  let x := d.keep g r.acc v
  let x := if r.sub = 0x01 && v != d.get (rInstClass i) then
      { x with regs := tabDrop x.regs (fun k => keyIndex k = 0x7801 && keyElem k = i && 0x20 ≤ keySub k) }
    else x
  d.whileFree (d.get (rInstState i) = instFree) x

/-- `instCommand` (Table 03-7). -/
def Dev.instCommandWrite (d : Dev) (i v : Nat) : Reply :=
  if v = 1 then d.instCreate i else if v = 2 then d.instEnable i else if v = 3 then d.instQuiesce i false
  else if v = 4 then d.instQuiesce i true else d.instDestroy i

/-- The dirty-logging window (R97). -/
def Dev.dirtyWrite (d : Dev) (i : Nat) (g : Reg) (r : SubDesc) (v : Nat) : Reply :=
  if r.sub = 0x01 then (if v = 1 then d.dlStart i else d.dlStop i)
  else if r.sub = 0x05 then (.ok, d.keep g r.acc v)
  else d.whileFree (!(d.inst i).dlOn) (d.keep g r.acc v)

/-- `engCommand` (R106, R125, R126). -/
def Dev.engCommandWrite (d : Dev) (e v : Nat) : Reply :=
  d.engWrite e (fun d =>
    if v = 0 then (.ok, d.engDone e) else if v = 1 then d.engEnable e else if v = 2 then d.engQuiesce e
    else if v = 3 then d.engFence e else if v = 4 then d.engResetCmd e else d.engUpdate e)

/-- The key-slot window (R130, R131, R137, R144, R145). -/
def Dev.keyWrite (d : Dev) (h sub v : Nat) : Reply :=
  if sub = 0x06 then d.ksUseLimit h v
  else if sub = 0x0D then
    (if v = 1 then d.ksToggle h true else if v = 2 then d.ksToggle h false else if v = 3 then d.ksDestroy h else d.ksImport h)
  else d.ksProvision h sub v

/-- A bank (R164, R166). -/
def Dev.bankWrite (d : Dev) (n : Nat) (g : Reg) (r : SubDesc) (v : Nat) : Reply :=
  if r.sub = 0x05 then
    (if v = 1 then d.elbLoad n 0 else if v = 2 then d.elbLoad n 1 else if v = 3 then d.elbSwitch n
     else if v = 4 then d.elbUnload n 0 else d.elbUnload n 1)
  else d.whileFree (d.sideState n (r.sub - 1) = 0) (d.keep g r.acc v)

/-- A memory controller (R346, R347, R349). -/
def Dev.controllerWrite (d : Dev) (m : Nat) (g : Reg) (r : SubDesc) (v : Nat) : Reply :=
  if r.sub = 0x05 then (if v = 1 then d.mcSwitch m else d.mcSpare m (v = 3))
  else if r.sub = 0x10 then d.mcTestMode m v
  else (.ok, d.keep g r.acc v)

/-- `bootCommand` (Table 19-3). -/
def Dev.bootCommandWrite (d : Dev) (v : Nat) : Reply :=
  if v = 1 then d.bootActivate else if v = 2 then d.revokeKey 0 else if v = 3 then d.revokeKey 1
  else if v = 4 then d.advanceSvn else d.bootCheck

/-- The bandwidth object (R427). -/
def Dev.bandwidthWrite (d : Dev) (p : Path) (g : Reg) (r : SubDesc) (v : Nat) : Reply :=
  if r.sub = 0x01 then d.bwWrite p v
  else if r.sub = 0x03 || r.sub = 0x05 || r.sub = 0x06 then d.whileFree (d.get rBwState = 0) (d.keep g r.acc v)
  else (.ok, d.keep g r.acc v)

/-- A write that selects a feature the package lacks returns RANGE (R26). -/
def Dev.needsFeature (d : Dev) (b : Nat) (g : Reg) (r : SubDesc) (v : Nat) : Reply :=
  if v = 1 && !d.hasFeature b then (.range, d) else (.ok, d.keep g r.acc v)

/-- The effect of writing `fabOppositeRoute`: a change of a path (R307). -/
def Dev.routeWrite (d : Dev) (v : Nat) : Reply :=
  if v = 1 && !d.hasFeature 17 then (.range, d)
  else if d.get rFabOppositeRoute = v then (.ok, d)
  else (.ok, (d.set rFabOppositeRoute v).routesChanged d.routes)

/-- The effect of writing a number. -/
def Dev.writeNumber (d : Dev) (p : Path) (idx : Nat) (o : Obj) (r : SubDesc) (v : Nat) : Reply :=
  let g : Reg := ⟨subKey idx o p r.sub, r.dflt⟩
  let kept : Reply := (.ok, d.keep g r.acc v)
  match o with
  | .header u => d.unitCommand p u (unitCode v)
  | .clock n => d.cclkWrite n v
  | .addressMap => if r.sub = 0x06 then d.lockWrite .addrMapLocked v else kept
  | .localRegion n => if r.sub = 0x01 then d.lrEnableWrite n v else kept
  | .ringObject =>
    if r.sub = 0x0C then d.sessionCloseFrom p else if r.sub = 0x0D then d.sessionIdleTo v else kept
  | .instSelector => d.select 0x7800 p v
  | .selector base => d.select base p v
  | .instBinding i => d.bindWrite i g r v
  | .instQueue i =>
    d.whileFree (d.get (rInstState i) = instFree || d.get (rInstState i) = instReady) (d.keep g r.acc v)
  | .instStateWin i => if r.sub = 0x02 then d.instCommandWrite i v else kept
  | .instDirty i => d.dirtyWrite i g r v
  | .sterlingEngine e => d.engCommandWrite e v
  | .electrumEngine e => d.engCommandWrite (64 + e) v
  | .deflateEngine e => d.engCommandWrite (80 + e) v
  | .entropy b => if r.sub = 0x04 then d.esRestart b else kept
  | .keySlot h => d.keyWrite h r.sub v
  | .keyStore => if r.sub = 0x04 then d.lockWrite .ksLocked v else if r.sub = 0x05 then d.ksStart else kept
  | .checkpoint => if r.sub = 0x05 then d.ckCommandWrite else kept
  | .bank n => d.bankWrite n g r v
  | .coreMode _ => d.needsFeature 2 g r v
  | .mmioRegion n =>
    if r.sub = 0x01 then d.rgnEnableWrite n v else if r.sub ≤ 0x05 then d.rgnField n g v else kept
  | .pewterPkg =>
    if r.sub = 0x01 then d.pwEnable v else if r.sub = 0x03 then d.pwCommand p v else kept
  | .fabricPkg => if r.sub = 0x04 then d.routeWrite v else kept
  | .qosClass c => if r.sub ≤ 0x02 then (.ok, d.qosWrite c g v) else kept
  | .module m => if r.sub = 0x03 then d.sdCommand m v else kept
  | .controller m => d.controllerWrite m g r v
  | .secureSide =>
    if r.sub = 0x03 then d.kick v
    else if r.sub = 0x04 then (if v = 1 then d.tkRestart else d.declareDown)
    else kept
  | .worldRange n =>
    if r.sub = 0x01 then d.wrEnableTo n v else if r.sub ≤ 0x04 then d.wrField n g v else kept
  | .blockObject n => d.blkWrite n v
  | .irqObject => if r.sub = 0x02 then d.irqWrite v else kept
  | .debugObject => d.dbgWrite r.sub v
  | .fusibleObject => if r.sub = 0x06 then d.clearAllFrom (d.pathWorld p) else kept
  | .faultRecord e => d.frWrite e v
  | .kindObject k => if kindIsFixed k then (.range, d) else kept
  | .sourceObject n => if r.sub = 0x05 then d.srcClearAt n else kept
  | .partitionObject => if r.sub = 0x03 then d.verdict v else kept
  | .harfortLink l => if r.sub = 0x04 then d.hfCommand l v else kept
  | .bootObject => d.bootCommandWrite v
  | .attestation => d.attSign p
  | .counterReader => if r.sub = 0x01 then d.pcWrite v else kept
  | .counterGroup g' => if r.sub ≤ 0x09 then d.cgWrite g' r.sub v else kept
  | .bandwidth => d.bandwidthWrite p g r v
  | _ => kept

/-! ## DOMAIN values -/

/-- The effect of writing a DOMAIN, but for `sessionOpen`. -/
def Dev.writeDomain (d : Dev) (p : Path) (idx : Nat) (o : Obj) (r : SubDesc) (b : List Byte) : Reply :=
  let kept := d.setDom (subKey idx o p r.sub) b
  match o with
  | .ringObject => if byteAt b 0 < 4 then (.ok, kept) else (.range, d)
  | .sterlingPkg => (.ok, { kept with boot := { kept.boot with ucodeOk := false } })
  | .keySlot _ => d.whileFree (!d.keyWindowBusy) kept
  | .measurement => d.measExtend b
  | .controller _ => if r.sub = 0x04 && !(byteAt b 1 = 0 && (b.drop 24).all (fun x => x = 0)) then (.range, d) else (.ok, kept)
  | .attestation => d.whileFree (d.get rBootState = 5) kept
  | .bandwidth => d.whileFree (d.get rBwState = 0) kept
  | _ => (.ok, kept)

/-- A DOMAIN is committed: `sessionOpen` may go on to a verification. -/
def Dev.commitDomain (d : Dev) (p : Path) (tag idx : Nat) (o : Obj) (r : SubDesc) (b : List Byte) : Commit × Dev :=
  match o, p with
  | .ringObject, .ring n =>
    if r.sub = 0x0B then d.sessionCommit n tag b else let x := d.writeDomain p idx o r b; (.ended x.1, x.2)
  | _, _ => let x := d.writeDomain p idx o r b; (.ended x.1, x.2)

/-! ## Writes (R49, R383, R448) -/

/-- R383: the management firmware executes the action of a write. -/
def firmwareAction (o : Obj) (sub value : Nat) : Bool :=
  match o with
  | .ringObject => sub = 0x0B
  | .keySlot _ => sub = 0x0D && value = 4
  | .checkpoint => sub = 0x05
  | .bootObject => sub = 0x09
  | .attestation => sub = 0x03
  | .secureSide => sub = 0x04 && value = 1
  | _ => false

/-- The payload fits the type: a number has its type's size, a DOMAIN a length that its table allows (R448). -/
def lengthFits (t : SubTy) (n : Nat) : Bool :=
  match tySize t with
  | some k => n = k
  | none => domainTakes t n && n ≤ 65536

/-- A write that the conditions from WORLD on decide. -/
def Dev.writeValue (d : Dev) (p : Path) (tag idx : Nat) (o : Obj) (r : SubDesc) (b : List Byte) : TxEnd × Dev :=
  let v := if isDomain r.ty then 0 else leNat b
  match d.accessStatus p idx o r true v with
  | .ok =>
    if !rngTakes r.rng v then (.ended .range [], d)
    else
      let x := if isDomain r.ty then d.commitDomain p tag idx o r b
        else let y := d.writeNumber p idx o r v; (Commit.ended y.1, y.2)
      match x with
      | (.verifying, x) => (.waits, { x with resp := tabErase x.resp (pathNum p) })
      | (.ended st, x) =>
        if st = .ok && d.objSilent idx o then (.waits, d.unitHold p tag idx r.sub (some b)) else (.ended st [], x)
  | .world => (.ended .world [], d.raiseWorld p idx r.sub)
  | st => (.ended st [], d)

/-- The write of a whole value: a plain WRITE within the path's limit, or the commit of a staged image. -/
def Dev.writeWhole (d : Dev) (p : Path) (tag idx : Nat) (o : Obj) (r : SubDesc) (b : List Byte) : TxEnd × Dev :=
  if !lengthFits r.ty b.length then (.ended .length [], d)
  else if d.boot.mgmtDown && firmwareAction o r.sub (leNat (b.take 1)) then (.waits, d.firmwareHold p tag idx r.sub b)
  else d.writeValue p tag idx o r b

/-- A write of a whole value, however it came. -/
def Dev.writeAny (d : Dev) (p : Path) (tag idx sub : Nat) (b : List Byte) : TxEnd × Dev :=
  match d.objectAt p idx with
  | none => (.ended .noObject [], d)
  | some o =>
    match d.subDesc o sub with
    | none => (.ended .noSub [], d)
    | some r => d.writeWhole p tag idx o r b

/-- WRITE. -/
def Dev.writeTx (d : Dev) (p : Path) (tag idx sub : Nat) (b : List Byte) : TxEnd × Dev :=
  match d.objectAt p idx with
  | none => (.ended .noObject [], d)
  | some o =>
    match d.subDesc o sub with
    | none => (.ended .noSub [], d)
    | some r => if pathLimit p < b.length then (.ended .length [], d) else d.writeWhole p tag idx o r b

/-! ## Block writes (R60) -/

/-- The image that a path has staged for a DOMAIN. -/
def Dev.stagedImage (d : Dev) (p : Path) (k : Nat) : List Byte :=
  match d.staged.find? (fun x => x.path = pathNum p && x.key = k) with
  | some x => x.bytes
  | none => []

/-- A path's staged image of a DOMAIN is discarded. -/
def Dev.unstage (d : Dev) (p : Path) (k : Nat) : Dev :=
  { d with staged := d.staged.filter (fun x => !(x.path = pathNum p && x.key = k)) }

/-- A path stages an image for a DOMAIN. -/
def Dev.stageImage (d : Dev) (p : Path) (k : Nat) (b : List Byte) : Dev :=
  let d := d.unstage p k
  { d with staged := d.staged ++ [{ path := pathNum p, key := k, bytes := b }] }

/-- A segment that does not end the image. -/
def Dev.stageSegment (d : Dev) (p : Path) (idx : Nat) (o : Obj) (r : SubDesc) (image : List Byte) : TxEnd × Dev :=
  let k := subKey idx o p r.sub
  match d.accessStatus p idx o r true 0 with
  | .ok => (.ended .ok [], d.stageImage p k image)
  | .world => (.ended .world [], (d.unstage p k).raiseWorld p idx r.sub)
  | st => (.ended st [], d.unstage p k)

/-- WRITE_BLOCK: a segment at `offset`; the last one commits the image, which is discarded whatever the outcome. -/
def Dev.writeBlockTx (d : Dev) (p : Path) (tag idx sub offset : Nat) (b : List Byte) (last : Bool) : TxEnd × Dev :=
  match d.objectAt p idx with
  | none => (.ended .noObject [], d)
  | some o =>
    match d.subDesc o sub with
    | none => (.ended .noSub [], d)
    | some r =>
      let k := subKey idx o p sub
      let old := d.stagedImage p k
      if !isDomain r.ty then (.ended .type [], d)
      else if pathLimit p < b.length || offset != old.length || domainMax r.ty < offset + b.length || 65536 < offset + b.length then
        (.ended .length [], d.unstage p k)
      else if last then (d.unstage p k).writeWhole p tag idx o r (old ++ b)
      else d.stageSegment p idx o r (old ++ b)

end Sys2Proof.Machine
end

