-- ==== Sys2Proof/Machine/DictServer.lean ====
section
/-!
DEFINITION. Transactions of the dictionary server (R49, R50, R60, R67), transactions that wait for a unit or for the management
firmware (R49, R383), and the copies of the unit headers (R8, R66).
-/
namespace Sys2Proof.Machine

/-! ## The transactions as rows -/

/-- A transaction of a path: its response, where it has ended. -/
def Dev.finishTx (p : Path) (r : TxEnd × Dev) : Dev :=
  match r.1 with
  | .ended st data => r.2.respond p st data
  | .waits => r.2

/-- A transaction of a path as a command. -/
def dictRow (p : Path) (f : Dev → TxEnd × Dev) (s : State) : Out :=
  onPath p (fun d => Dev.finishTx p (f d)) s

/-- DICT_READ (R43, R49, R448). -/
def execDictRead (p : Path) (idx sub len : Nat) (s : State) : Out := dictRow p (fun d => d.readTx p 256 idx sub len) s

/-- DICT_WRITE (R43, R49, R448). -/
def execDictWrite (p : Path) (idx sub : Nat) (payload : List Byte) (s : State) : Out :=
  dictRow p (fun d => d.writeTx p 256 idx sub payload) s

/-- DICT_READ_BLOCK (R448). -/
def execDictReadBlock (p : Path) (idx sub offset len : Nat) (s : State) : Out :=
  dictRow p (fun d => d.readBlockTx p 256 idx sub offset len) s

/-- DICT_WRITE_BLOCK (R60). -/
def execDictWriteBlock (p : Path) (idx sub offset : Nat) (payload : List Byte) (last : Bool) (s : State) : Out :=
  dictRow p (fun d => d.writeBlockTx p 256 idx sub offset payload last) s

/-- SESSION_OPEN (R67): the commit of the image that the node has staged for `sessionOpen`. -/
def execSessionOpen (node : Nat) (s : State) : Out :=
  dictRow (.ring node) (fun d =>
    d.writeBlockTx (.ring node) 256 0x1100 0x0B (d.stagedImage (.ring node) domSessionOpen).length [] true) s

/-! ## Transactions that wait -/

/-- A transaction waits for a unit whose answer is overdue. -/
def Dev.overdue (d : Dev) (t : WaitTx) : Bool := !t.firmware && t.deadline ≤ d.now

/-- DICT_OWNER_TIMEOUT (R49): a transaction whose owning unit has not answered for 50 µs ends with TIMEOUT. -/
def execDictOwnerTimeout (s : State) : Out :=
  occurs 49 (fun d => d.waiting.any d.overdue)
    (fun d =>
      match d.waiting.find? d.overdue with
      | none => d
      | some t => ({ d with waiting := dropFirst d.overdue d.waiting }).answerPath t.path t.tag .timeout []) s

/-- A transaction that waited for the firmware completes. -/
def Dev.resumeTx (d : Dev) (t : WaitTx) : Dev :=
  match d.writeAny t.path t.tag t.idx t.sub (t.write.getD []) with
  | (.ended st data, d) => d.answerPath t.path t.tag st data
  | (.waits, d) => d

/-- MGMT_RESUME (R383): the management cores run again, and what waited for the firmware completes in the order of its arrival. -/
def execMgmtResume (s : State) : Out :=
  occurs 383 (fun d => d.boot.mgmtDown && !d.boot.mgmtFailed)
    (fun d =>
      let held := d.waiting.filter (fun t => t.firmware)
      let d := { d with boot := { d.boot with mgmtDown := false }, waiting := d.waiting.filter (fun t => !t.firmware) }
      held.foldl Dev.resumeTx (d.raise kMgmtLockstep 881 0)) s

/-! ## Unit headers (R8) -/

/-- `v` is `u` or a descendant of it (Table 00-2). -/
def unitWithin (u v : UnitRef) : Bool :=
  v = u || unitParent v = some u || (unitParent v).bind unitParent = some u || ((unitParent v).bind unitParent).bind unitParent = some u

/-- The units of the package below the package itself. -/
def allUnits : List UnitRef :=
  (List.range 240).map UnitRef.core ++ (List.range 6).map UnitRef.cluster ++ (List.range 17).map UnitRef.die ++ [.package]

/-- The states of the descendants of a unit. -/
def Dev.childBits (d : Dev) (u : UnitRef) : Nat :=
  (allUnits.filter (fun v => v != u && unitWithin u v)).foldl (fun m v => bitSet m (d.unit v)) 0

/-- The highest uncleared class in a unit and its descendants. -/
def Dev.summaryOf (d : Dev) (u : UnitRef) : Nat :=
  let m := (d.fus.log.filter (fun (e : Nat × FaultRec) => e.2.uncleared && unitWithin u (sourceUnit e.2.source))).foldl
    (fun (m : Nat) (e : Nat × FaultRec) => max m e.2.cls) 0
  (d.fus.folded.filter (fun (e : Nat × Nat) => unitWithin u (sourceUnit e.1))).foldl (fun (m : Nat) (e : Nat × Nat) => max m e.2) m

/-- The uncleared faults of a unit and its descendants. -/
def Dev.faultsOf (d : Dev) (u : UnitRef) : Nat :=
  let n := (d.fus.log.filter (fun (e : Nat × FaultRec) => e.2.uncleared && unitWithin u (sourceUnit e.2.source))).length
  min 0xFFFF_FFFF ((d.fus.folded.filter (fun (e : Nat × Nat) => unitWithin u (sourceUnit e.1))).foldl
    (fun (m : Nat) (e : Nat × Nat) => m + d.get (rSrcFolded e.1)) n)

/-- The unit of a counter group's block (Table 20-1). -/
def groupUnit (g : Nat) : UnitRef :=
  if g < 64 then .die (12 + g % 32 / 8)
  else if g < 128 then .cluster ((g - 64) / 16)
  else if g < 144 then .cluster 4
  else if g < 152 then .cluster 5
  else if g < 164 then .die 16
  else if g < 172 then .die (12 + (g - 164) / 2)
  else if g < 224 then sourceUnit (640 + (g - 172))
  else if g < 256 then .die 16
  else if g < 2560 then .die (12 + (g - 256) / 576)
  else .die 16

/-- A counter of a unit or a descendant has wrapped since its overflow bit was cleared: groups, and OF of the harts' selectors. -/
def Dev.overflowIn (d : Dev) (u : UnitRef) : Bool :=
  d.regs.any (fun (e : Nat × Nat) =>
      keyIndex e.1 = 0x9811 && keySub e.1 = 0x1B && e.2 != 0 && unitWithin u (groupUnit (keyElem e.1)))
    || d.harts.any (fun (e : Nat × Hart) =>
      unitWithin u (.core e.1) && (List.range 8).any (fun j => bitAt (e.2.csr (0x323 + j)) 63))

/-- Sampling is armed on a hart of a unit (R206). -/
def Dev.samplingIn (d : Dev) (u : UnitRef) : Bool :=
  d.harts.any (fun (e : Nat × Hart) => unitWithin u (.core e.1) && bitAt (e.2.csr 0x7C9) 0)

/-- `counterSummary`. -/
def Dev.counterBits (d : Dev) (u : UnitRef) : Nat :=
  boolNat (d.overflowIn u) + 2 * boolNat (d.flag rPcFrozen) + 4 * boolNat (d.samplingIn u)

/-- The copy of a unit's header follows the unit; its power is a free value (log 41). -/
def Dev.copyHeader (d : Dev) (u : UnitRef) : Dev :=
  let d := (d.set (rUnitState u) (d.unit u)).set (rChildStates u) (d.childBits u)
  let d := (d.set (rFaultSummary u) (d.summaryOf u)).set (rFaultCount u) (d.faultsOf u)
  let w := d.takeWord
  (w.2.set (rPowerMw u) (w.1.toNat % 2 ^ 32)).set (rCounterSummary u) (d.counterBits u)

/-- What NOTIFY frames have told of a sub-entry of the other packages' headers, folded. -/
def Dev.reported (d : Dev) (sub : Nat) (f : Nat → Nat → Nat) (x : Nat) : Nat :=
  (d.ring.reports.filter (fun (e : Nat × Nat) => e.1 % 256 = sub)).foldl (fun (m : Nat) (e : Nat × Nat) => f m e.2) x

/-- R66: node 0 builds the system header from the packages' headers. -/
def Dev.copySystem (d : Dev) : Dev :=
  let d := d.copyHeader .system
  let kids := bitSet (d.get (rChildStates .package)) (d.get (rUnitState .package))
  let kids := d.reported 0x02 bitSet (d.reported 0x03 (fun m v => m ||| v) kids)
  let d := (d.set (rChildStates .system) kids).set (rFaultSummary .system)
    (d.reported 0x04 max (max (d.get (rFaultSummary .package)) (d.summaryOf .system)))
  let add (sub x : Nat) := min 0xFFFF_FFFF (d.reported sub (fun m v => m + v) x)
  let d := (d.set (rFaultCount .system) (add 0x05 (d.faultsOf .system))).set (rPowerMw .system) (add 0x06 (d.get (rPowerMw .system)))
  d.set (rCounterSummary .system) (d.reported 0x07 (fun m v => m ||| v) (d.counterBits .system))

/-- Node 0 asks for a sub-entry of a package's header, unless it waits for one already (R62, R66). -/
def Dev.askHeader (d : Dev) (node sub : Nat) : Dev :=
  if d.ring.waits.any (fun w => w.frame.dest = node && w.frame.sub = sub) then d else d.request node cmdRead 0x1000 sub []

/-- Node 0 reads the headers of the other packages, at every update of the system header: when it does so the manual leaves open.
DESIGN CHOICE (log 57). -/
def Dev.askHeaders (d : Dev) : Dev :=
  ((List.range (d.get rPkgCount)).filter (fun q => q != d.pkg)).foldl (fun d q =>
    ([0x02, 0x03, 0x04, 0x05, 0x06, 0x07]).foldl (fun d sub => d.askHeader (Config.ringNodeOf q % 16) sub) d) d

/-- R66: a field of the package header that changed is told to `notifyNode`. -/
def Dev.notifyChange (d0 d : Dev) (g : Reg) (n : Nat) : Dev :=
  if d0.get g = d.get g then d else d.notify 0x1000 (keySub g.key) (leBytes n (d.get g))

/-- The copy of the package's header follows; where this package is its own `notifyNode` and node 0, the system header does at once. -/
def Dev.copyPackage (d0 : Dev) : Dev :=
  let d := d0.copyHeader .package
  let d := Dev.notifyChange d0 d (rUnitState .package) 1
  let d := Dev.notifyChange d0 d (rFaultSummary .package) 1
  let d := Dev.notifyChange d0 d (rChildStates .package) 4
  if d.flag rRingMaster && d.get rNotifyNode = d.get rRingNode then d.copySystem else d

/-- HEADER_COPY_UPDATE (R8, R66): within 20 µs of a change the management complex's copy of a header follows. -/
def execHeaderCopyUpdate (u : UnitRef) (s : State) : Out :=
  occursAt 8 (unitExists u) (fun d => u != UnitRef.system || d.flag rRingMaster)
    (fun d =>
      match u with
      | .package => d.copyPackage
      | .system => d.copySystem.askHeaders
      | _ => d.copyHeader u) s

end Sys2Proof.Machine
end

