-- ==== Sys2Proof/Machine/RingPort.lean ====
section
/-!
DEFINITION. The ring port: frames that arrive (R56 to R58, R61), NOTIFY (R66), SYNC and the alignment of Invar time (R65, R393 to R395),
the package's own requests (R62), and MR_ACTIVE (R70, R71).
-/
namespace Sys2Proof.Machine

/-! ## NOTIFY (R66) -/

/-- A NOTIFY frame at its destination: node 0 keeps what it tells of a package header, and the system header follows. -/
def Dev.takeNotify (d : Dev) (node idx sub value : Nat) : Dev :=
  if d.flag rRingMaster && idx = 0x1000 && 2 ≤ sub && sub ≤ 4 then
    ({ d with ring := { d.ring with reports := tabPut d.ring.reports (256 * node + sub) value } }).copySystem
  else d

/-- NOTIFY_RECEIVE (R66). -/
def execNotifyReceive (node idx sub value : Nat) (s : State) : Out :=
  occursAt 66 (node < 16) (fun _ => true) (fun d => if d.ring.driven then d.takeNotify node idx sub value else d) s

/-! ## SYNC (R65, R393 to R395) -/

/-- The nanoseconds that REFCLK has counted, which no offset moves. -/
def Dev.elapsed (d : Dev) : Nat := d.clock.root / 12

/-- One period between SYNC frames, in ns. -/
def syncPeriod : Nat := 1000000

/-- The next period begins; it ends with the tolerance of R393. -/
def Dev.syncPeriodFrom (d : Dev) : Dev :=
  { d with ring := { d.ring with periodEnd := d.elapsed + syncPeriod + 200 } }

/-- A measured offset as an I32. -/
def offsetBits (o : Int) : Nat := (o % (2 ^ 32 : Int)).toNat

/-- The first offset after package reset is applied at once (R394). -/
def Dev.stepInvar (d : Dev) (o : Int) : Dev :=
  let c := if 0 ≤ o then { d.clock with invar := d.clock.invar + o.toNat } else { d.clock with hold := (-o).toNat }
  let d := { d with clock := c, ring := { d.ring with firstDone := true } }
  d.addWrap32 rSyncSteps

/-- A later offset is slewed; what Invar still holds still for is not slewed again. -/
def Dev.slewInvar (d : Dev) (o : Int) : Dev :=
  let o := o + (d.clock.hold : Int)
  { d with clock := { d.clock with slew := o.natAbs, slewUp := if 0 ≤ o then true else false } }

/-- A SYNC arrives the period after the previous valid one, within 200 ns. -/
def Dev.syncInTime (d : Dev) (last : Nat) : Bool := last + syncPeriod ≤ d.elapsed + 200 && d.elapsed ≤ last + syncPeriod + 200

/-- A valid SYNC with payload `t`: its offset is measured and applied. -/
def Dev.syncApply (d : Dev) (t : Nat) : Dev :=
  let o : Int := (t : Int) + (d.get rSyncPathDelay : Int) - (d.now : Int)
  let d := (d.set rSyncOffset (offsetBits o)).set rSyncState 1
  if d.ring.firstDone then d.slewInvar o else d.stepInvar o

/-- A SYNC frame with payload `t` arrives at a package that is not node 0: the first after reset or FREE_RUNNING arms the check. One
outside its time makes its period one without a valid SYNC. -/
def Dev.takeSync (d : Dev) (t : Nat) : Dev :=
  if d.flag rRingMaster then d
  else
    let d0 := d.syncPeriodFrom
    let valid := { d0 with ring := { d0.ring with lastSync := some d.elapsed, missedRun := 0 } }
    match d.ring.lastSync with
    | none => valid
    | some last =>
      if d.syncInTime last then valid.syncApply t
      else { d0 with ring := { d0.ring with missedRun := d.ring.missedRun + 1 } }

/-- SYNC_RECEIVE (R58, R393, R394): a frame with a CRC error is dropped and counted. -/
def execSyncReceive (t : Nat) (crcOk : Bool) (s : State) : Out :=
  occursAt 393 (t < 2 ^ 64) (fun _ => true)
    (fun d => if !d.ring.driven then d else if crcOk then d.takeSync t else d.addSat rRingCrcErrors 1) s

/-- SYNC_SEND (R65): node 0 sends its time, first when it is on the ring, then 1 ms ± 50 ns after the previous SYNC. -/
def execSyncSend (s : State) : Out :=
  occurs 65 (fun d => d.flag rRingMaster && d.ring.driven && d.ring.nextSync ≤ d.elapsed + 50)
    (fun d =>
      let n := d.get rRingNode
      let d := (d.sendFrame (d.ownFrame n cmdSync 0 0 (leBytes 8 d.now))).nextFrame
      { d with ring := { d.ring with nextSync := d.elapsed + syncPeriod } }) s

/-- SYNC_PERIOD_MISSED (R65, R395): counted in `syncMissed` only while the package is on the ring. -/
def execSyncPeriodMissed (s : State) : Out :=
  occurs 65 (fun d => d.pins.rstN && !d.flag rRingMaster && d.ring.periodEnd < d.elapsed)
    (fun d =>
      let d := if d.ring.driven then d.addSat rSyncMissed 1 else d
      { d with ring := { d.ring with missedRun := d.ring.missedRun + 1, periodEnd := d.ring.periodEnd + syncPeriod } }) s

/-- SYNC_FREE_RUNNING (R395): Invar goes on at the REFCLK rate; the next SYNC arms the check again. -/
def execSyncFreeRunning (s : State) : Out :=
  occurs 395 (fun d => 10 ≤ d.ring.missedRun && !d.flag rRingMaster)
    (fun d =>
      let d := d.set rSyncState 2
      { d with clock := { d.clock with slew := 0 }, ring := { d.ring with missedRun := 0, lastSync := none } }) s

/-! ## Requests that the package answers (R57, R61) -/

/-- The transaction of a request. -/
def Dev.ringTx (d : Dev) (f : Frame) : TxEnd × Dev :=
  let p := Path.ring f.src
  match f.cmd with
  | 1 => d.readTx p f.seq f.idx f.sub f.len
  | 2 => d.writeTx p f.seq f.idx f.sub f.payload
  | 3 => d.readBlockTx p f.seq f.idx f.sub f.offset f.len
  | 4 => d.writeBlockTx p f.seq f.idx f.sub f.offset f.payload f.last
  | _ => (.ended .range [], d)

/-- A new request is executed; its response is sent when it ends. -/
def Dev.ringExecute (d : Dev) (f : Frame) : Dev :=
  let d := d.takeTurn (.ring f.src)
  match d.ringTx f with
  | (.ended st data, d) => (d.respond (.ring f.src) st data).ringReply f st data
  | (.waits, d) => { d with ring := { d.ring with executing := tabPut d.ring.executing (execKey f.src f.seq) f } }

/-- The response that is remembered for a repeated request. -/
def Dev.rememberedFor (d : Dev) (f : Frame) : Option Frame :=
  match tabFind d.ring.remembered f.src with
  | some r => if r.seq = f.seq then some r else none
  | none => none

/-- A request addressed to this node: a repeated one is not executed again (R61). -/
def Dev.ringRequest (d : Dev) (f : Frame) : Dev :=
  if (tabFind d.ring.executing (execKey f.src f.seq)).isSome then d
  else
    match d.rememberedFor f with
    | some r => d.sendFrame r
    | none => d.ringExecute f

/-- The request of the package's own that a response answers. -/
def Dev.answeredBy (d : Dev) (f : Frame) : Option RingWait := d.ring.waits.find? (fun w => w.frame.seq = f.seq && w.frame.dest = f.src)

/-- A read of a package's header ends with a status (R62, R66). -/
def Dev.headerRead (d : Dev) (node sub code : Nat) : Dev :=
  { d with ring := { d.ring with results := tabPut d.ring.results (256 * node + sub) code } }

/-- A response ends the request that it answers (R62): what node 0 reads of a header joins the system header (R66). -/
def Dev.ringResponse (d : Dev) (f : Frame) : Dev :=
  match d.answeredBy f with
  | none => d
  | some w =>
    let d := { d with ring := { d.ring with waits := dropFirst (fun x => x.frame.seq = f.seq && x.frame.dest = f.src) d.ring.waits } }
    let d := d.headerRead f.src w.frame.sub f.status
    if f.status = 0 && w.frame.idx = 0x1000 && d.flag rRingMaster then
      ({ d with ring := { d.ring with reports := tabPut d.ring.reports (256 * f.src + w.frame.sub) (leNat f.payload) } }).copySystem
    else d

/-! ## Frames (R58) -/

/-- The count of data bytes agrees with the length field; a READ_BLOCK request carries no payload (R56, R57). -/
def frameFits (f : Frame) : Bool := f.payload.length = f.len || (f.cmd = cmdReadBlock && !f.rsp && f.payload.isEmpty)

/-- This node sends a frame on. -/
def Dev.passesOn (d : Dev) (f : Frame) : Bool :=
  f.src != d.get rRingNode && (f.dest != d.get rRingNode || f.cmd = cmdSync)

/-- A forwarded frame leaves MR_OUT with an end (R59). -/
def Dev.passOn (d : Dev) (f : Frame) (e : FrameEnd) : Dev :=
  if d.passesOn f then { d.grantPort arbRingOut 2 0 with ring := { d.ring with outbox := d.ring.outbox ++ [(f, e)] } } else d

/-- A frame with this node's number as its source is removed; one that it did not send is counted (R64). The manual gives no means by which
a node knows its own frames; here a frame is the node's own where it equals one that the node has ever sent. DESIGN CHOICE (log 55). -/
def Dev.stripFrame (d : Dev) (f : Frame) : Dev :=
  if d.ring.outbox.contains (f, .good) then d
  else
    let d := d.addSat rRingForeignStrip 1
    if d.ring.stripSeen then d
    else ({ d with ring := { d.ring with stripSeen := true } }).raise kRingDupNode 882 0

/-- A frame that this node consumes. -/
def Dev.consumeFrame (d : Dev) (f : Frame) : Dev :=
  if f.cmd = cmdNotify then d.takeNotify f.src f.idx f.sub (leNat f.payload)
  else if f.rsp then d.ringResponse f
  else d.ringRequest f

/-- A good frame. -/
def Dev.takeFrame (d : Dev) (f : Frame) : Dev :=
  if f.src = d.get rRingNode then d.stripFrame f
  else if f.cmd = cmdSync then (if f.dest = f.src then (d.passOn f .good).takeSync (leNat f.payload) else d.passOn f .good)
  else if f.dest = d.get rRingNode then d.consumeFrame f
  else d.passOn f .good

/-- A frame arrives at a package that is on the ring. -/
def Dev.arrive (d : Dev) (f : Frame) (e : FrameEnd) : Dev :=
  match e with
  | .k307 => d.passOn f .k307
  | .bad => (d.addSat rRingCrcErrors 1).passOn f .k307
  | .good => if frameFits f then d.takeFrame f else (d.addSat rRingCrcErrors 1).passOn f .k307

/-- RING_FRAME_RECEIVE (R58); off the ring the package takes in no frame (R71). -/
def execRingFrameReceive (f : Frame) (e : FrameEnd) (s : State) : Out :=
  occursAt 58 (f.dest < 16 && f.src < 16 && f.seq < 256 && f.cmd < 8) (fun _ => true)
    (fun d => if d.ring.driven then d.arrive f e else d) s

/-- A request of the package's own awaits its response longer than `ringTimeout`. -/
def Dev.lateRequest (d : Dev) (seq : Nat) (w : RingWait) : Bool := w.frame.seq = seq && w.deadline ≤ d.now

/-- A request that is late is sent again, or ends with TIMEOUT (R62). -/
def Dev.resendRequest (d : Dev) (seq : Nat) (w : RingWait) : Dev :=
  let rest := dropFirst (d.lateRequest seq) d.ring.waits
  if w.resends < d.get rRingRetries then
    let w' := { w with resends := w.resends + 1, deadline := d.inUs (d.get rRingTimeout) }
    ({ d with ring := { d.ring with waits := rest ++ [w'] } }).sendFrame w.frame
  else ({ d with ring := { d.ring with waits := rest } }).headerRead w.frame.dest w.frame.sub (statusCode .timeout)

/-- RING_RESPONSE_TIMEOUT (R62). -/
def execRingResponseTimeout (seq : Nat) (s : State) : Out :=
  occurs 62 (fun d => d.ring.waits.any (d.lateRequest seq))
    (fun d =>
      match d.ring.waits.find? (d.lateRequest seq) with
      | some w => d.resendRequest seq w
      | none => d) s

/-! ## MR_ACTIVE (R70, R71) -/

/-- A package without MR_MASTER whose node straps read 0 takes no part in the ring (R63). -/
def Dev.onRing (d : Dev) : Bool := d.flag rRingMaster || d.get rRingNode != 0

/-- Every rail of the package is in tolerance. -/
def Dev.railsGood (d : Dev) : Bool := d.pins.rails = 255

/-- MR_ACTIVE_DRIVE (R70): powered, out of reset, the management core running, MR_IN with symbol lock and MR_OUT sending idles. -/
def execMrActiveDrive (s : State) : Out :=
  occurs 70 (fun d => d.pins.rstN && d.railsGood && !d.boot.mgmtFailed && !d.boot.mgmtDown && !d.ring.driven && d.onRing)
    (fun d =>
      let d := d.set rRingState 2
      { d with ring := { d.ring with lock := true, running := true, driven := true, terminated := true, nextSync := d.elapsed,
                                     periodEnd := d.elapsed + syncPeriod + 200 } }) s

/-- The package leaves the ring: its sessions close (R72), and its termination is off (R71). -/
def Dev.leaveRing (d : Dev) (st : Nat) : Dev :=
  let d := d.set rRingState st
  { d with ring := { d.ring with running := false, driven := false, terminated := false, sessions := [] } }

/-- What makes the package release MR_ACTIVE holds; the fall of PKG_RST_N is the event itself. -/
def Dev.releaseDue (d : Dev) : ReleaseCause → Bool
  | .packageReset => true
  | .mgmtFatal => d.boot.mgmtFailed
  | .railLoss => !d.railsGood

/-- MR_ACTIVE_RELEASE (R70). -/
def execMrActiveRelease (c : ReleaseCause) (s : State) : Out :=
  occurs 70 (fun d => d.ring.driven && d.releaseDue c) (fun d => d.leaveRing 0) s

/-- MR_IN_SYMBOL_LOCK_LOST (R70): the receiver goes on to seek lock. The manual does not say when `ringState` reads LOCKING; here it does
from a loss of lock while the package drives MR_ACTIVE until it drives it again, and DOWN from reset. DESIGN CHOICE (log 56). -/
def execMrInSymbolLockLost (s : State) : Out :=
  occurs 70 (fun d => d.ring.lock)
    (fun d =>
      let d := if d.ring.driven then d.leaveRing 1 else d
      { d with ring := { d.ring with lock := false } }) s

end Sys2Proof.Machine
end

