-- ==== Sys2Proof/Machine/Mailbox.lean ====
section
/-!
DEFINITION. The dictionary mailbox pages (R73 to R75, Table 02-10), and register writes that have no row of their own (R15, R43).
-/
namespace Sys2Proof.Machine

/-! ## Transactions of a page (R74) -/

/-- The payload that a page holds for a write. -/
def Mailbox.payload (m : Mailbox) : List Byte := padTo (m.xfer % 2 ^ 16) (padTo 2048 m.data)

/-- The transaction that MB_ADDR, MB_XFER and MB_CMD describe. -/
def Dev.mailboxTx (d : Dev) (w : World) (m : Mailbox) : TxEnd × Dev :=
  let p := Path.mailbox w
  let idx := field m.addr 8 16
  let sub := m.addr % 256
  let len := m.xfer % 2 ^ 16
  let off := m.xfer / 2 ^ 16
  match m.cmd % 8 with
  | 1 => d.readTx p 256 idx sub len
  | 2 => d.writeTx p 256 idx sub m.payload
  | 3 => d.readBlockTx p 256 idx sub off len
  | 4 => d.writeBlockTx p 256 idx sub off m.payload (bitAt m.cmd 3)
  | _ => (.ended .range [], d)

/-- A write of MB_CMD: discarded and counted while BUSY, else the transaction starts; it ends at once unless it waits. -/
def Dev.mailboxStart (d : Dev) (w : World) (value : Nat) : Dev :=
  let m := d.mailbox w
  if m.busy then d.addSat rMbCollisions 1
  else
    let m := { m with busy := true, cmd := value % 16 }
    match ((d.setMailbox w m).takeTurn (.mailbox w)).mailboxTx w m with
    | (.ended st data, d) => (d.respond (.mailbox w) st data).mailboxEnd w st data
    | (.waits, d) => d

/-- A write of a 4-byte register or data word of a page. -/
def Dev.mailboxWrite (d : Dev) (w : World) (off value : Nat) : Dev :=
  let m := d.mailbox w
  let v := value % 2 ^ 32
  if off = 0x008 then d.mailboxStart w v
  else if m.busy then d.addSat rMbCollisions 1
  else if off = 0x000 then d.setMailbox w { m with addr := v % 2 ^ 24 }
  else if off = 0x004 then d.setMailbox w { m with xfer := v }
  else if off = 0x010 then d.setMailbox w { m with irqen := v % 2 }
  else if 0x800 ≤ off && off < 0x1000 then d.setMailbox w { m with data := spliceBytes m.data (off - 0x800) (leBytes 4 v) }
  else d

/-- A read of a 4-byte register or data word of a page. -/
def Dev.mailboxRead (d : Dev) (w : World) (off : Nat) : Nat :=
  let m := d.mailbox w
  if off = 0x000 then m.addr
  else if off = 0x004 then m.xfer
  else if off = 0x008 then m.cmd
  else if off = 0x00C then boolNat m.busy * 2 ^ 31 + m.code
  else if off = 0x010 then m.irqen
  else if 0x800 ≤ off && off < 0x1000 then fieldLe (padTo 2048 m.data) (off - 0x800) 4
  else 0

/-- MAILBOX_COMMAND (R74). -/
def execMailboxCommand (page : World) (value : Nat) (s : State) : Out :=
  occurs 74 (fun _ => true)
    (fun d => (d.takeMsg (fun m => m = .mailboxCommand page value)).mailboxStart page (value % 2 ^ 32)) s

/-! ## Register writes without a row of their own -/

/-- The place of a register write exists. -/
def targetOk : RegTarget → Bool
  | .dict p _ _ _ => pathOk p
  | .csr k _ _ => k < 240
  | .mailbox _ off _ => off < 0x1000 && off % 4 = 0
  | .instPage i off _ _ => i < 4096 && off < 0x1000 && off % 4 = 0

/-- A CSR is written by an instruction, which a hart executes when it is free to. -/
def Dev.targetReady (d : Dev) : RegTarget → Bool
  | .csr k _ _ => d.ready k
  | _ => true

/-- The effect of a register write. -/
def Dev.registerWrite (d : Dev) (t : RegTarget) : Dev :=
  match t with
  | .dict p idx sub b => if d.pathLive p then Dev.finishTx p ((d.takeTurn p).writeTx p 256 idx sub b) else d
  | .csr k a v => d.csrInstruction k a v.toNat
  | .mailbox w off v => d.mailboxWrite w off v
  | .instPage i off w v => d.instPageWrite i off w v

/-- REGISTER_WRITE (R15, R43). -/
def execRegisterWrite (t : RegTarget) (s : State) : Out :=
  occursAt 43 (targetOk t) (fun d => d.targetReady t)
    (fun d => (d.takeMsg (fun m => m = .registerWrite t)).registerWrite t) s

end Sys2Proof.Machine
end

