-- ==== Sys2Proof/Machine/Mmio.lean ====
section
/-!
DEFINITION. Registers in the MMIO window (Table 01-11) as an access reaches them: instance pages, mailbox pages, IMSIC files, the APLIC,
the IOMMU, root ports; what the edges answer (R309, R353); the JTAG system-bus access (R75, R358). The registers of the APLIC, of the
IMSIC files and of the IOMMU lie where their specifications put them. PRESUMED (logs 20 and 24).
-/
namespace Sys2Proof.Machine

/-! ## What lies at an address -/

/-- A place in an MMIO window. -/
inductive IoPlace where
  | page (i off : Nat)
  | mailbox (w : World) (off : Nat)
  | imsic (k file off : Nat)
  /-- a domain of the APLIC: the machine domain or the supervisor domain -/
  | aplic (machine : Bool) (off : Nat)
  /-- the IOMMU's configuration header and its register set -/
  | iommuHeader (off : Nat)
  | iommuRegs (off : Nat)
  /-- BAR space behind a root port, or its configuration space -/
  | port (n : Nat) (config : Bool)
  | far (q : Nat)
  | nothing
deriving DecidableEq, Repr

/-- The place at an offset of this package's window. -/
def Dev.placeAt (d : Dev) (a off : Nat) : IoPlace :=
  if off < 0x0100_0000 then .page (off / 0x1000) (off % 0x1000)
  else if off < 0x0100_2000 then .mailbox (bitWorld ((off - 0x0100_0000) / 0x1000)) (off % 0x1000)
  else if off < 0x0300_0000 then
    let k := (off - 0x0200_0000) / 0x8000
    if k < 240 then .imsic k (off % 0x8000 / 0x1000) (off % 0x1000) else .nothing
  else if off < 0x0301_0000 then .aplic (off < 0x0300_8000) (off % 0x8000)
  else if off < 0x0001_0000_1000 then .iommuHeader (off % 0x1000)
  else if d.iommu.bar0 != 0 && d.iommu.bar0 ≤ a && a < d.iommu.bar0 + 0x1000 then .iommuRegs (a - d.iommu.bar0)
  else .port (Config.rootPortOf a) (off < 0x0100_0000_0000)

/-- The place at an address. -/
def Dev.ioPlace (d : Dev) (a : Nat) : IoPlace :=
  match d.region a with
  | .mmio off => d.placeAt a off
  | .remoteMmio q => .far q
  | _ => .nothing

/-- R223: the destination of an I/O access, as a number: root ports, then the on-package blocks, then those of other packages. -/
def Dev.ioDest (d : Dev) (a : Nat) : Nat :=
  match d.ioPlace a with
  | .port n _ => n
  | .page i _ => 1000 + d.instClass i
  | .mailbox _ _ => 1010
  | .aplic _ _ => 1011
  | .iommuHeader _ => 1012
  | .iommuRegs _ => 1012
  | .imsic k _ _ => 2000 + k
  | .nothing => 1013
  | .far q => 0x1_0000 + q * 2 ^ 36 + a % 0x1_0000_0000_0000 / 0x1000

/-- The router whose edge answers for a place (Table 13-2). -/
def edgeRouter : IoPlace → Nat
  | .aplic _ _ => 154
  | .iommuHeader _ => 153
  | .iommuRegs _ => 153
  | .port n _ => 144 + [4, 8, 7, 11].getD (n / 6) 4
  | .imsic k _ _ => 36 * (k / 60) + [10, 8, 6].getD (k / 20 % 3) 10
  | _ => 149

/-- A unit at whose edge requests are answered (Table 13-7). -/
def stateOffline (st : Nat) : Bool := st = stFenced || stateGone st

/-- R309: the endpoint of a place is out of service. A Sterling instance's page stands before no one cluster, so that it answers.
DEDUCED. -/
def Dev.ioOffline (d : Dev) (p : IoPlace) : Bool :=
  match p with
  | .page i _ => (d.instClass i = 2 && stateOffline (d.unit (.cluster 4))) || (d.instClass i = 3 && stateOffline (d.unit (.cluster 5)))
  | .imsic k _ _ => stateOffline (d.unit (.core k)) || stateOffline (d.unit (.die (k / 20)))
  | .port n _ => d.blockFenced (8 + n)
  | _ => false

/-- The answer to a place comes from outside the package. -/
def IoPlace.outside : IoPlace → Bool
  | .port _ _ => true
  | .far _ => true
  | _ => false

/-- R225: a BAR takes AMOSWAP and AMOADD; of another package's window, that package's edge judges. -/
def IoPlace.takesAtomics : IoPlace → Bool
  | .port _ config => !config
  | .far _ => true
  | _ => false

/-! ## The APLIC (R214, R360) -/

/-- A source belongs to a domain. -/
def Dev.aplicOwns (d : Dev) (machine : Bool) (n : Nat) : Bool := 1 ≤ n && n < 1024 && (d.irqWorldOf n = .tantalum) = machine

/-- The sources of a domain that a word of bits names. -/
def Dev.aplicNamed (d : Dev) (machine : Bool) (word v : Nat) : List Nat :=
  ((List.range 32).map (fun j => 32 * word + j)).filter (fun n => bitAt v (n % 32) && d.aplicOwns machine n)

/-- A source is no longer pending. -/
def Dev.aplicClear (d : Dev) (n : Nat) : Dev := { d with aplic := { d.aplic with pending := tabErase d.aplic.pending n } }

/-- A source is enabled or disabled. -/
def Dev.aplicEnable (on : Bool) (d : Dev) (n : Nat) : Dev :=
  ({ d with aplic := { d.aplic with
      enabled := if on then tabPut d.aplic.enabled n 1 else tabErase d.aplic.enabled n } }).aplicForward n

/-- A write of a register of a domain. -/
def Dev.aplicWrite (d : Dev) (m : Bool) (off v : Nat) : Dev :=
  let one (f : Dev → Nat → Dev) : Dev := if d.aplicOwns m v then f d v else d
  let many (base : Nat) (f : Dev → Nat → Dev) : Dev := (d.aplicNamed m ((off - base) / 4) v).foldl f d
  if off = 0 then { d with aplic := if m then { d.aplic with mmode := bitAt v 8 } else { d.aplic with smode := bitAt v 8 } }
  else if off < 0x1000 then
    if d.aplicOwns m (off / 4) then { d with aplic := { d.aplic with cfg := tabPut d.aplic.cfg (off / 4) (v % 2 ^ 11) } } else d
  else if 0x1C00 ≤ off && off < 0x1C80 then many 0x1C00 Dev.pendWired
  else if off = 0x1CDC || off = 0x2000 then one Dev.pendWired
  else if 0x1D00 ≤ off && off < 0x1D80 then many 0x1D00 Dev.aplicClear
  else if off = 0x1DDC then one Dev.aplicClear
  else if 0x1E00 ≤ off && off < 0x1E80 then many 0x1E00 (Dev.aplicEnable true)
  else if off = 0x1EDC then one (Dev.aplicEnable true)
  else if 0x1F00 ≤ off && off < 0x1F80 then many 0x1F00 (Dev.aplicEnable false)
  else if off = 0x1FDC then one (Dev.aplicEnable false)
  else if 0x3000 < off && off < 0x4000 then
    let n := (off - 0x3000) / 4
    if d.aplicOwns m n then ({ d with aplic := { d.aplic with target := tabPut d.aplic.target n v } }).aplicForward n else d
  else if m && 0x4000 ≤ off && off < 0x4000 + 32 * 240 && off % 32 < 12 then
    let j := off % 32 / 4
    { d with aplic := { d.aplic with idc := tabPut d.aplic.idc (4 * ((off - 0x4000) / 32) + j) (if j = 2 then v % 256 else v % 2) } }
  else d

/-- Bits of the sources of a domain. -/
def Dev.aplicBits (d : Dev) (m : Bool) (word : Nat) (t : Tab Nat) : Nat :=
  (List.range 32).foldl (fun x j =>
    if d.aplicOwns m (32 * word + j) && tabGet t (32 * word + j) 0 != 0 then bitSet x j else x) 0

/-- `topi` of a hart's delivery structure. -/
def Dev.aplicTopi (d : Dev) (k : Nat) : Nat :=
  match d.aplicTop k with
  | some n => n * 2 ^ 16 + tabGet d.aplic.target n 0 % 256
  | none => 0

/-- A claim: the top source is no longer pending; with none, a forced interrupt ends. -/
def Dev.aplicClaim (d : Dev) (k : Nat) : Dev :=
  match d.aplicTop k with
  | some n => d.aplicClear n
  | none => { d with aplic := { d.aplic with idc := tabErase d.aplic.idc (4 * k + 1) } }

/-- A read of a register of a domain. -/
def Dev.aplicRead (d : Dev) (m : Bool) (off : Nat) : Nat × Dev :=
  if off = 0 then (2 ^ 31 + boolNat (if m then d.aplic.mmode else d.aplic.smode) * 2 ^ 8 + boolNat (!m) * 4, d)
  else if off < 0x1000 then (if d.aplicOwns m (off / 4) then tabGet d.aplic.cfg (off / 4) 0 else 0, d)
  else if 0x1C00 ≤ off && off < 0x1C80 then (d.aplicBits m ((off - 0x1C00) / 4) d.aplic.pending, d)
  else if 0x1E00 ≤ off && off < 0x1E80 then (d.aplicBits m ((off - 0x1E00) / 4) d.aplic.enabled, d)
  else if 0x3000 < off && off < 0x4000 then
    (if d.aplicOwns m ((off - 0x3000) / 4) then tabGet d.aplic.target ((off - 0x3000) / 4) 0 else 0, d)
  else if m && 0x4000 ≤ off && off < 0x4000 + 32 * 240 then
    let k := (off - 0x4000) / 32
    let r := off % 32
    if r < 12 then (tabGet d.aplic.idc (4 * k + r / 4) 0, d)
    else if r = 0x18 then (d.aplicTopi k, d)
    else if r = 0x1C then (d.aplicTopi k, d.aplicClaim k)
    else (0, d)
  else (0, d)

/-! ## The IOMMU's registers (R248, log 24) -/

/-- A write of the configuration header: BAR0 is a 64-bit BAR of 4 KiB. -/
def Dev.iommuHeaderWrite (d : Dev) (off v : Nat) : Dev :=
  if off = 0x10 || off = 0x14 then { d with iommu := { d.iommu with bar0 := putHalf d.iommu.bar0 (off - 0x10) v / 4096 * 4096 } } else d

/-- A read of the configuration header: what the manual does not give is a free value. -/
def Dev.iommuHeaderRead (d : Dev) (off : Nat) : Nat × Dev :=
  if off = 0x10 then (d.iommu.bar0 % 2 ^ 32 + 4, d)
  else if off = 0x14 then (d.iommu.bar0 / 2 ^ 32, d)
  else
    let w := d.takeWord
    if off = 0x08 then (0x0806_0000 + w.1.toNat % 256 , w.2) else (w.1.toNat % 2 ^ 32, w.2)

/-! ## Words at a place -/

/-- Byte order reversed in a word: the big-endian register of an IMSIC file. -/
def swap4 (v : Nat) : Nat := leNat (leBytes 4 v).reverse

/-- A word written at a place, as it takes effect. -/
def Dev.ioPut (d : Dev) (p : IoPlace) (w : World) (v : Nat) : Dev :=
  match p with
  | .page i off => d.instPageWrite i off w v
  | .mailbox m off => d.mailboxWrite m off v
  | .imsic k f off => if off = 0 then d.receiveMsi k f v else if off = 4 then d.receiveMsi k f (swap4 v) else d
  | .aplic m off => d.aplicWrite m off v
  | .iommuHeader off => d.iommuHeaderWrite off v
  | .iommuRegs off => d.iommuRegWrite off v
  | _ => d

/-- A word read at a place; what lies outside the package gives a free value. -/
def Dev.ioTake (d : Dev) (p : IoPlace) (w : World) : Nat × Dev :=
  match p with
  | .page i off => d.instPageRead i off w
  | .mailbox m off => (d.mailboxRead m off, d)
  | .imsic _ _ _ => (0, d)
  | .aplic m off => d.aplicRead m off
  | .iommuHeader off => d.iommuHeaderRead off
  | .iommuRegs off => (d.iommu.regRead off, d)
  | .nothing => (0, d)
  | _ => let x := d.takeWord; (x.1.toNat % 2 ^ 32, x.2)

/-! ## JTAG (R75, R358) -/

/-- The invasive debug enable of a world. -/
def Dev.invasive (d : Dev) : World → Bool
  | .normal => d.flag rDbgNormInvasive
  | .tantalum => d.flag rDbgTanInvasive

/-- What the tool receives. -/
def Dev.toTool (d : Dev) (v : Option Nat) : Dev := { d with jtag := some v }

/-- The check point that refuses an access that no core makes: the home slice, or the edge of an I/O block (R450). -/
def Dev.checkSource (d : Dev) (a : Nat) : Nat := if (d.region a).isMemory then 500 + d.homeSlice a else 720 + edgeRouter (d.ioPlace a)

/-- A 4-byte access of the tool to memory; a home slice discards writes to what it protects (R142, R166). -/
def Dev.jtagMemory (d : Dev) (w : World) (a : Nat) (write : Option Nat) : Dev :=
  match d.remoteHome (lineAddr a), write with
  | some q, some _ => (d.sendRemote q 0 msgPartialWrite iodAgent (lineAddr a) w true).toTool (some 0)
  | some q, none => let x := (d.sendRemote q 0 msgReadShared iodAgent (lineAddr a) w false).takeWord; x.2.toTool (some (x.1.toNat % 2 ^ 32))
  | none, some v =>
    (match (linesOf a 4).find? (fun l => (d.guardedLine l).isSome) with
     | some l => (d.raiseGuarded (d.guardedLine l) (500 + d.homeSlice l) (max a l)).toTool none
     | none => (d.cohWrite (iodUse w) a (leBytes 4 v)).toTool (some 0))
  | none, none =>
    let r := d.cohRead a 4
    let d := d.touch (iodUse w) a 4
    if r.2 then d.toTool none else d.toTool (some (leNat r.1))

/-- A 4-byte access of the tool to a register. -/
def Dev.jtagIo (d : Dev) (w : World) (a : Nat) (write : Option Nat) : Dev :=
  let p := d.ioPlace a
  let open_ : Bool := match p with
    | .mailbox m _ => d.invasive m
    | _ => true
  if !open_ then d.toTool none
  else if d.ioOffline p then (d.add rFabTargetOffline 1).toTool none
  else
    match write with
    | some v => (d.ioPut p w v).toTool (some 0)
    | none => let x := d.ioTake p w; x.2.toTool (some x.1)

/-- The first byte of a 4-byte access that a check point refuses, and the rule's number. -/
def Dev.jtagRefused (d : Dev) (w : World) (a : Nat) : Option (Nat × Nat) :=
  [a, a + 3].findSome? (fun x => (d.refusedBy w x).map (fun n => (x, n)))

/-- JTAG_SYSBUS_ACCESS (R358, R352, R353): an access of 4 bytes at any address; the register blocks take aligned ones and answer others
with an error (log 45). DESIGN CHOICE: the manual gives no size (log 68). -/
def execJtagSysbusAccess (w : World) (addr : Nat) (write : Option Nat) (s : State) : Out :=
  occurs 358 (fun d => d.pins.rstN)
    (fun d =>
      if !d.invasive w then d.toTool none
      else
        match d.jtagRefused w addr with
        | some (a, n) => (d.noteRefusal n (d.checkSource a) a).toTool none
        | none =>
          if !(d.region addr).isMapped || !(d.region (addr + 3)).isMapped || d.shadowFile addr then d.toTool none
          else if (d.region addr).isMemory then d.jtagMemory w addr write
          else if addr % 4 = 0 then d.jtagIo w addr write
          else d.toTool none) s

end Sys2Proof.Machine
end

