-- ==== Sys2Proof/Machine/Access.lean ====
section
/-!
DEFINITION. Accesses of a hart to memory (R191, R220 to R222, R234, R252 to R255, R273): loads, stores into the store buffer, AMO, LR
and SC, cache-block operations. A hart executes in order; an access that must wait leaves the hart at its instruction, which is
presented again.
-/
namespace Sys2Proof.Machine

/-! ## Operands -/

/-- The hart, register, size and instruction length of an access; a vector element that is not the last has length 0 (log 21). -/
def accessOk (a : HartAccess) : Bool :=
  a.hart < 240 && (a.size = 1 || a.size = 2 || a.size = 4 || a.size = 8) && a.reg < 1088 && (a.ilen = 0 || a.ilen = 2 || a.ilen = 4)

/-- The same for AMO, LR and SC: words and doublewords. -/
def amoOk (a : HartAccess) : Bool := accessOk a && (a.size = 4 || a.size = 8) && a.reg < 32

/-- A loaded value as its register takes it. -/
def extended (size : Nat) (signed : Bool) (v : Nat) : Word :=
  if signed && bitAt v (8 * size - 1) then BitVec.ofNat 64 (v + 2 ^ 64 - 2 ^ (8 * size)) else BitVec.ofNat 64 v

/-- The unit of a register is Off. -/
def Hart.regClosed (h : Hart) (r : Nat) : Bool := if r < 32 then false else if r < 64 then h.unitOff 13 else h.unitOff 9

/-- A register's unit becomes Dirty. -/
def Hart.dirtied (h : Hart) (r : Nat) : Hart :=
  if r < 32 then h
  else
    let lo := if r < 64 then 13 else 9
    let h := h.setCsr 0x300 (fieldPut (h.csr 0x300) lo 2 3)
    if h.v then h.setCsr 0x200 (fieldPut (h.csr 0x200) lo 2 3) else h

/-- A loaded value reaches its register. -/
def Hart.loadReg (h : Hart) (r size : Nat) (signed : Bool) (v : Nat) : Hart := (h.setReg r size (extended size signed v)).dirtied r

/-- R191: the length of the first part of an access that crosses a 16-byte boundary. -/
def firstPart (va size : Nat) : Option Nat := if va / 16 = (va + size - 1) / 16 then none else some (16 - va % 16)

/-- The access with its pointer as pointer masking takes it (R188). -/
def Dev.pointer (d : Dev) (a : HartAccess) : HartAccess := { a with va := BitVec.ofNat 64 ((d.hart a.hart).effective a.va.toNat) }

/-! ## Reaching an address -/

/-- The access fault of an access (R35, R353, R211). -/
def Dev.refusedTrap (d : Dev) (k : Nat) (t : AccessType) (va : Nat) : Trap :=
  ⟨accessFault t, false, va, 0, 0, (d.hart k).accessMode.2⟩

/-- Translation and the checks of the final address (Table 10-4). -/
def Dev.reach (d : Dev) (k va : Nat) (t : AccessType) (amo : Bool) : Xlat × Dev :=
  match d.translate k va t amo with
  | (.ok pa pbmt hint, d) =>
    match d.finalCheck k pa t with
    | (true, d) => (.ok pa pbmt hint, d)
    | (false, d) => (.fault (d.refusedTrap k t va), d)
  | r => r

/-- How a part of an access ends. -/
inductive Got where
  | value (v : Nat)
  | fault
  | wait
deriving DecidableEq, Repr

/-- A request of the hart for a line. -/
def Dev.lineReq (d : Dev) (k line hint : Nat) : HomeReq :=
  { agent := k, line := line, world := (d.hart k).world, hint := hint, stream := (d.hart k).stream }

/-! ## Loads from memory (R220, R221) -/

/-- A buffered store holds data of a part of `n` bytes from `pa` on. -/
def StoreEntry.meets (e : StoreEntry) (pa n : Nat) : Bool :=
  !e.io && (e.kind = .plain || e.kind = .zero) && pa < e.pa + e.size && e.pa < pa + n

/-- R221: the youngest store that overlaps: its bytes where it holds them all, else the load waits. -/
def Hart.forwarded (h : Hart) (pa n : Nat) : Option Got :=
  (h.sbuf.reverse.find? (fun e => e.meets pa n)).map (fun e =>
    if e.pa ≤ pa && pa + n ≤ e.pa + e.size then .value (e.data / 256 ^ (pa - e.pa) % 256 ^ n) else .wait)

/-- The set of a line in the 64 KiB, 8-way L1D. -/
def l1dSet (line : Nat) : Nat := field line 6 7

/-- The L1D takes a line; the oldest of a full set leaves. -/
def Hart.fillL1d (h : Hart) (line : Nat) : Hart :=
  let same := h.l1d.filter (fun x => l1dSet x = l1dSet line)
  let old := if 8 ≤ same.length then h.l1d.erase (same.headD 0) else h.l1d
  { h with l1d := old ++ [line] }

/-- The L1D holds the line: an error is corrected, or the line is read again from the L2 (R253). -/
def Dev.l1dHit (d : Dev) (k line : Nat) (err : ArrayError) : Dev :=
  match err with
  | .none => d
  | .corrected => d.cacheCorrected k k line
  | .uncorrectable =>
    let h := d.hart k
    (d.setHart k ({ h with l1d := h.l1d.erase line }.fillL1d line)).cacheCorrected k k line

/-- The access met marked data (R254, R343). -/
def Dev.metMark (d : Dev) (k pa : Nat) : Got × Dev := (.fault, d.consumed k pa)

/-- The events of an L2 miss whose request is now on its way (Table 20-5). -/
def Dev.missEvents (d d' : Dev) (k line : Nat) (read : Bool) : Dev :=
  if ((d.hart k).line line).state = .i && ((d'.hart k).line line).state != .i then
    let x := d'.hartEvent k 4
    if read then x.hartEvent k 5 else x
  else d'

/-- The instruction of a hart asks for a line for reading. -/
def Dev.askShared (d : Dev) (k line hint : Nat) : Dev :=
  d.missEvents (d.wantShared k line (d.hart k).world hint (d.hart k).stream .inst) k line true

/-- A read of a line that the L2 may hold; `fill` tells that the L1D takes it. -/
def Dev.cachedRead (d : Dev) (k pa n hint : Nat) (err : ArrayError) (fill : Bool) : Got × Dev :=
  let line := lineAddr pa
  let l := (d.hart k).line line
  if (d.hart k).refused line .inst then (.fault, d.takeLineErr k line .inst)
  else if !l.state.readable then (.wait, d.askShared k line hint)
  else if d.pairError k err then (.wait, d.mismatch (d.leadOf k))
  else
    let v := fieldLe (lineBytes l.data) (pa % 64) n
    if (d.hart k).l1d.contains line && !l.mark then (.value v, d.l1dHit k line err)
    else
      let d := (d.hartEvent k 3).l2Error k line err
      if l.mark || (err = .uncorrectable && l.state = .m) then d.metMark k pa
      else if err = .uncorrectable then (.wait, d.askShared k line hint)
      else (.value v, if fill then d.setHart k ((d.hart k).fillL1d line) else d)

/-- A request of the hart that its home answers without the L2 (R234, R273): the answer, once it has come. -/
def Dev.homeOp (d : Dev) (k line flits : Nat) (m : Instr) : Got × Dev :=
  let h := d.hart k
  let mine (x : HomeAnswer) : Bool := x.line = line && x.store = isStoreOp m
  match h.homeDone.find? mine with
  | some x => (if x.ok then .value x.value else .fault, d.setHart k { h with homeDone := dropFirst mine h.homeDone })
  | none => if (d.opOf k line).isSome then (.wait, d) else (.wait, d.sendOp k line flits m)

/-- A load under NC or IO (R234): it is coherent and allocates in no cache. -/
def Dev.uncachedRead (d : Dev) (k pa n hint : Nat) (err : ArrayError) : Got × Dev :=
  let line := lineAddr pa
  if ((d.hart k).line line).state != .i || (d.hart k).refused line .inst then d.cachedRead k pa n hint err false
  else
    match d.homeOp k line 1 (.readShared (d.lineReq k line hint) true .none .none .none) with
    | (.value v, d) => (.value (v / 256 ^ (pa % 64) % 256 ^ n), d)
    | r => r

/-- A store of the hart to bytes of the part is on its way to the home of its line (R234). -/
def Hart.storeOnWay (h : Hart) (pa n : Nat) : Bool := h.tracker.any (fun x => x.home && pa < x.pa + x.size && x.pa < pa + n)

/-- A part of a load, within 16 bytes of memory. Under the I/O attribute it waits for every earlier store (R223). -/
def Dev.loadPart (d : Dev) (k pa n pbmt hint : Nat) (err : ArrayError) : Got × Dev :=
  if (pbmt = 2 && !(d.hart k).sbuf.isEmpty) || (d.hart k).storeOnWay pa n then (.wait, d)
  else
    match (d.hart k).forwarded pa n with
    | some g => (g, d)
    | none => if pbmt = 0 then d.cachedRead k pa n hint err true else d.uncachedRead k pa n hint err

/-- A load is done. -/
def Dev.finishLoad (d : Dev) (a : HartAccess) (v : Nat) : Dev :=
  let h := (d.hart a.hart).loadReg a.reg a.size a.signed v
  (d.setHart a.hart { h with half := none }).retire a.hart a.ilen

/-- A part of a load at a virtual address; `k` goes on with its value. A part that is not in memory is the work of `io`. -/
def Dev.loadAt (d : Dev) (a : HartAccess) (va n : Nat) (err : ArrayError) (io : Nat → Dev → Dev) (k : Nat → Dev → Dev) : Dev :=
  match d.reach a.hart va .load false with
  | (.wait, d) => d
  | (.fault t, d) => d.takeTrap a.hart t
  | (.ok pa pbmt hint, d) =>
    if !(d.region pa).isMemory then io pa d
    else
      match d.loadPart a.hart pa n pbmt hint err with
      | (.value v, d) => k v d
      | (.fault, d) => d.takeTrap a.hart (d.refusedTrap a.hart .load va)
      | (.wait, d) => d

/-- A load (R191, R220): one access, or two in turn. -/
def Dev.loadStep (d : Dev) (a : HartAccess) (err : ArrayError) (io : Nat → Dev → Dev) : Dev :=
  let h := d.hart a.hart
  let va := a.va.toNat
  if h.regClosed a.reg then d.illegal a.hart none
  else
    match firstPart va a.size with
    | none => d.loadAt a va a.size err io (fun v d => d.finishLoad a v)
    | some n =>
      let bad (va : Nat) (_ : Nat) (d : Dev) : Dev := d.takeTrap a.hart (d.refusedTrap a.hart .load va)
      match h.half with
      | none => d.loadAt a va n err (bad va) (fun v d => d.setHart a.hart { d.hart a.hart with half := some v })
      | some v0 => d.loadAt a (va + n) (a.size - n) err (bad (va + n)) (fun v d => d.finishLoad a (v0 + v * 256 ^ n))

/-! ## Stores into the store buffer (R220, R224) -/

/-- Entries of a store buffer (Table 08-3). -/
def storeBufferSize : Nat := 64

/-- An entry for a part of a store. -/
def Dev.storeEntry (d : Dev) (k pa size data pbmt hint : Nat) (kind : StoreKind) : StoreEntry :=
  { pa := pa, size := size, data := data, io := !(d.region pa).isMemory, world := (d.hart k).world, kind := kind, hint := hint,
    stream := (d.hart k).stream, pbmt := pbmt }

/-- The entries of a store join the buffer and it retires; while the buffer has no room for them it waits. -/
def Dev.enterStores (d : Dev) (k ilen : Nat) (l : List StoreEntry) : Dev :=
  let h := d.hart k
  if storeBufferSize < h.sbuf.length + l.length then d
  else (d.setHart k { h with sbuf := h.sbuf ++ l }).retire k ilen

/-- A store within one 16-byte block. A misaligned store to I/O takes an access fault. -/
def Dev.storeWhole (d : Dev) (a : HartAccess) (va v : Nat) : Dev :=
  match d.reach a.hart va .store false with
  | (.wait, d) => d
  | (.fault t, d) => d.takeTrap a.hart t
  | (.ok pa pbmt hint, d) =>
    if !(d.region pa).isMemory && pa % a.size != 0 then d.takeTrap a.hart (d.refusedTrap a.hart .store va)
    else d.enterStores a.hart a.ilen [d.storeEntry a.hart pa a.size v pbmt hint .plain]

/-- A store in two parts, both checked before either enters the buffer. -/
def Dev.storeSplit (d : Dev) (a : HartAccess) (va n v : Nat) : Dev :=
  match d.reach a.hart va .store false with
  | (.wait, d) => d
  | (.fault t, d) => d.takeTrap a.hart t
  | (.ok pa pb hint, d) =>
    match d.reach a.hart (va + n) .store false with
    | (.wait, d) => d
    | (.fault t, d) => d.takeTrap a.hart t
    | (.ok pa' pb' hint', d) =>
      if !(d.region pa).isMemory then d.takeTrap a.hart (d.refusedTrap a.hart .store va)
      else if !(d.region pa').isMemory then d.takeTrap a.hart (d.refusedTrap a.hart .store (va + n))
      else d.enterStores a.hart a.ilen [d.storeEntry a.hart pa n (v % 256 ^ n) pb hint .plain,
                                        d.storeEntry a.hart pa' (a.size - n) (v / 256 ^ n) pb' hint' .plain]

/-- STORE (R220, R191): the store is checked and retires into the store buffer. -/
def execStore (a : HartAccess) (s : State) : Out :=
  occursAt 220 (accessOk a) (fun d => d.ready a.hart)
    (fun d =>
      let h := d.hart a.hart
      let a := d.pointer a
      let va := a.va.toNat
      if h.regClosed a.reg then d.illegal a.hart none
      else
        let v := h.getReg a.reg a.size
        match firstPart va a.size with
        | none => d.storeWhole a va v
        | some n => d.storeSplit a va n v) s

/-! ## Ownership in the L2 (R222, R280) -/

/-- A line in the L2 is written. -/
def Dev.putL2 (d : Dev) (k line : Nat) (data : Line) (mark : Bool) : Dev :=
  d.setL2 k line { (d.hart k).line line with state := .m, data := data, mark := mark }

/-- The line, owned and good for an access that needs its bytes; the mark or a refusal is a fault. `whole` is an access that writes
all of it, and needs none. -/
def Dev.ownLine (d : Dev) (k line hint : Nat) (whole : Bool) : Got × Dev :=
  let l := (d.hart k).line line
  if (d.hart k).refused line .inst then (.fault, d.takeLineErr k line .inst)
  else if !l.state.owned then
    (.wait, d.missEvents (d.wantOwned k line (d.hart k).world hint (d.hart k).stream .inst) k line false)
  else if l.mark && !whole then d.metMark k line
  else (.value l.data.toNat, d)

/-- Bytes of a line replaced. -/
def lineWith (l : Line) (off n v : Nat) : Line := lineOf (spliceBytes (lineBytes l) off (leBytes n v))

/-! ## AMO, LR and SC (R222) -/

/-- The value of `size` bytes as a signed number. -/
def signedOf (size v : Nat) : Int := if v < 2 ^ (8 * size - 1) then (v : Int) else (v : Int) - (2 ^ (8 * size) : Nat)

/-- What an AMO writes. -/
def amoResult (op : AmoOp) (size old src : Nat) : Nat :=
  let m := 2 ^ (8 * size)
  match op with
  | .swap => src
  | .add => (old + src) % m
  | .xor => old ^^^ src
  | .and => old &&& src
  | .or => old ||| src
  | .min => if signedOf size old ≤ signedOf size src then old else src
  | .max => if signedOf size old ≤ signedOf size src then src else old
  | .minu => min old src
  | .maxu => max old src

/-- An AMO on memory: when the store buffer is drained and the line is owned. -/
def Dev.amoMemory (d : Dev) (a : HartAccess) (op : AmoOp) (src pa hint : Nat) : Dev :=
  let k := a.hart
  let line := lineAddr pa
  if !(d.hart k).drained then d
  else
    match d.ownLine k line hint false with
    | (.wait, d) => d
    | (.fault, d) => d.takeTrap k (d.refusedTrap k .store a.va.toNat)
    | (.value x, d) =>
      let old := x / 256 ^ (pa % 64) % 256 ^ a.size
      let l := (d.hart k).line line
      let d := d.putL2 k line (lineWith l.data (pa % 64) a.size (amoResult op a.size old src)) l.mark
      d.finishLoad { a with signed := true } old

/-- A misaligned AMO that crosses 16 bytes, and a misaligned LR or SC (R191). -/
def Dev.misalignedTrap (d : Dev) (k : Nat) (t : AccessType) (va : Nat) : Trap := ⟨misaligned t, false, va, 0, 0, (d.hart k).accessMode.2⟩

/-- An AMO (R191, R222). -/
def Dev.amoStep (d : Dev) (a : HartAccess) (op : AmoOp) (src : Nat) (io : Nat → Dev → Dev) : Dev :=
  let va := a.va.toNat
  if (firstPart va a.size).isSome then d.takeTrap a.hart (d.misalignedTrap a.hart .store va)
  else
    match d.reach a.hart va .store true with
    | (.wait, d) => d
    | (.fault t, d) => d.takeTrap a.hart t
    | (.ok pa _ hint, d) =>
      if (d.region pa).isMemory then d.amoMemory a op ((d.hart a.hart).getReg src a.size) pa hint else io pa d

/-- An LR on memory: ordered as a load, it reserves its line. It waits for a buffered store that overlaps. -/
def Dev.lrMemory (d : Dev) (a : HartAccess) (pa hint : Nat) : Dev :=
  let k := a.hart
  if ((d.hart k).forwarded pa a.size).isSome || (d.hart k).storeOnWay pa a.size then d
  else
    match d.cachedRead k pa a.size hint .none true with
    | (.wait, d) => d
    | (.fault, d) => d.takeTrap k (d.refusedTrap k .load a.va.toNat)
    | (.value v, d) => (d.setHart k { d.hart k with resv := some (lineAddr pa) }).finishLoad { a with signed := true } v

/-- An LR (R191, R222). -/
def Dev.lrStep (d : Dev) (a : HartAccess) (io : Nat → Dev → Dev) : Dev :=
  let va := a.va.toNat
  if va % a.size != 0 then d.takeTrap a.hart (d.misalignedTrap a.hart .load va)
  else
    match d.reach a.hart va .load false with
    | (.wait, d) => d
    | (.fault t, d) => d.takeTrap a.hart t
    | (.ok pa _ hint, d) => if (d.region pa).isMemory then d.lrMemory a pa hint else io pa d

/-- An SC ends: 0 for success, 1 for failure; the reservation goes. -/
def Dev.finishSc (d : Dev) (a : HartAccess) (v : Nat) : Dev :=
  (d.setHart a.hart { d.hart a.hart with resv := none }).finishLoad { a with size := 8, signed := false } v

/-- An SC on memory: with the store buffer empty, it writes where the reservation still holds once the line is owned. -/
def Dev.scMemory (d : Dev) (a : HartAccess) (src pa hint : Nat) : Dev :=
  let k := a.hart
  let line := lineAddr pa
  if !(d.hart k).drained then d
  else if (d.hart k).resv != some line then d.finishSc a 1
  else
    match d.ownLine k line hint false with
    | (.wait, d) => d
    | (.fault, d) => d.takeTrap k (d.refusedTrap k .store a.va.toNat)
    | (.value _, d) =>
      let l := (d.hart k).line line
      (d.putL2 k line (lineWith l.data (pa % 64) a.size src) l.mark).finishSc a 0

/-- An SC (R191, R222). -/
def Dev.scStep (d : Dev) (a : HartAccess) (src : Nat) (io : Nat → Dev → Dev) : Dev :=
  let va := a.va.toNat
  if va % a.size != 0 then d.takeTrap a.hart (d.misalignedTrap a.hart .store va)
  else
    match d.reach a.hart va .store false with
    | (.wait, d) => d
    | (.fault t, d) => d.takeTrap a.hart t
    | (.ok pa _ hint, d) =>
      if (d.region pa).isMemory then d.scMemory a ((d.hart a.hart).getReg src a.size) pa hint else io pa d

/-! ## Cache-block operations (R225, R273) -/

/-- The field of an environment register that enables an operation. -/
def envOpens (kind : StoreKind) (env : Nat) : Bool :=
  match kind with
  | .zero => bitAt env 7
  | .inval => field env 4 2 != 0
  | _ => bitAt env 6

/-- Legality of a cache-block operation in the hart's mode. -/
def Hart.cboLegal (h : Hart) (kind : StoreKind) : CsrLegal :=
  let opens (a : Nat) : Bool := envOpens kind (h.csr a)
  if h.priv = .m then .ok
  else if !opens 0x30A then .illegal
  else if h.v && !opens 0x60A then .virtual_
  else if h.priv = .u && !opens 0x10A then (if h.v then .virtual_ else .illegal)
  else .ok

/-- An operation on a line of memory that its home performs. -/
def Dev.cboAtHome (d : Dev) (a : HartAccess) (line flits : Nat) (m : Instr) : Dev :=
  match d.homeOp a.hart line flits m with
  | (.wait, d) => d
  | (.fault, d) => d.takeTrap a.hart (d.refusedTrap a.hart .store a.va.toNat)
  | (.value _, d) => d.retire a.hart a.ilen

/-- CBO.ZERO on cacheable memory: a full-line write under ownership, which clears the mark (R255). -/
def Dev.zeroLine (d : Dev) (a : HartAccess) (line hint : Nat) : Dev :=
  match d.ownLine a.hart line hint true with
  | (.wait, d) => d
  | (.fault, d) => d.takeTrap a.hart (d.refusedTrap a.hart .store a.va.toNat)
  | (.value _, d) => (d.putL2 a.hart line 0 false).retire a.hart a.ilen

/-- A cache-block operation on memory: it enters the store order after every earlier store. -/
def Dev.cboMemory (d : Dev) (a : HartAccess) (kind : StoreKind) (line pbmt hint : Nat) : Dev :=
  let r := d.lineReq a.hart line hint
  if !(d.hart a.hart).drained then d
  else
    match kind with
    | .clean => d.cboAtHome a line 1 (.lineMaintainClean r .none .none)
    | .zero => if pbmt = 0 then d.zeroLine a line hint else d.cboAtHome a line 2 (.invWrite r 0 false .none .none)
    | _ => d.cboAtHome a line 1 (.lineMaintainFlush r .none .none)

/-- A cache-block operation of the line that holds the address; on I/O it is a store. -/
def Dev.cboStep (d : Dev) (a : HartAccess) (kind : StoreKind) : Dev :=
  d.fenced a.hart ((d.hart a.hart).cboLegal kind) none (fun d =>
    let a := d.pointer a
    match d.reach a.hart a.va.toNat .store false with
    | (.wait, d) => d
    | (.fault t, d) => d.takeTrap a.hart t
    | (.ok pa pbmt hint, d) =>
      if (d.region pa).isMemory then d.cboMemory a kind (lineAddr pa) pbmt hint
      else d.enterStores a.hart a.ilen [d.storeEntry a.hart (lineAddr pa) 64 0 pbmt hint kind])

/-- CBO_CLEAN (R273). -/
def execCboClean (a : HartAccess) (s : State) : Out :=
  occursAt 273 (accessOk a) (fun d => d.ready a.hart) (fun d => d.cboStep a .clean) s

/-- CBO_FLUSH (R273). -/
def execCboFlush (a : HartAccess) (s : State) : Out :=
  occursAt 273 (accessOk a) (fun d => d.ready a.hart) (fun d => d.cboStep a .flush) s

/-- CBO_INVAL (R273): performed as CBO.FLUSH. -/
def execCboInval (a : HartAccess) (s : State) : Out :=
  occursAt 273 (accessOk a) (fun d => d.ready a.hart) (fun d => d.cboStep a .inval) s

/-- CBO_ZERO (R273). -/
def execCboZero (a : HartAccess) (s : State) : Out :=
  occursAt 273 (accessOk a) (fun d => d.ready a.hart) (fun d => d.cboStep a .zero) s

/-! ## FENCE (R226 to R228) -/

/-- `menvcfg`, `senvcfg` and `henvcfg`.FIOM: a fence of I/O accesses orders memory accesses too. PRESUMED (log 20). -/
def Hart.fiom (h : Hart) : Bool :=
  (h.priv != .m && bitAt (h.csr 0x30A) 0) || (h.priv = .u && bitAt (h.csr 0x10A) 0) || (h.v && bitAt (h.csr 0x60A) 0)

/-- R226: what the sets of a fence require holds. -/
def Hart.fenceDone (h : Hart) (p q : FenceSet) : Bool :=
  let w := p.w || (h.fiom && p.o)
  let r := q.r || (h.fiom && q.i)
  (!(w && r) || h.memVisible) && (!p.o || (h.tracker.isEmpty && !h.sbuf.any (fun e => e.io || e.pbmt = 2)))

/-- A set of a fence is empty. -/
def fenceEmpty (f : FenceSet) : Bool := !(f.i || f.o || f.r || f.w)

/-- FENCE (R226): with nothing to wait for it is done. -/
def execFence (hart : Nat) (pred succ : FenceSet) (tso : Bool) (s : State) : Out :=
  occursAt 226 (hart < 240) (fun d => d.ready hart)
    (fun d =>
      let h := d.hart hart
      if tso || fenceEmpty pred || fenceEmpty succ || h.fenceDone pred succ then d.retire hart 4
      else d.setHart hart { h with wait := .fence pred succ }) s

/-- What a stalled fence waits for has come. -/
def Hart.fenceFree (h : Hart) : Bool :=
  match h.wait with
  | .fence p q => h.fenceDone p q
  | .invalW => h.drained
  | _ => false

/-- FENCE_RELEASE (R226, R245). -/
def execFenceRelease (hart : Nat) (s : State) : Out :=
  occursAt 226 (hart < 240) (fun d => d.hartRuns hart && (d.hart hart).fenceFree)
    (fun d => (d.setHart hart { (d.hart hart) with wait := .none }).retire hart 4) s

/-- FENCE_I (R226): when the store buffer has drained, the L1I and the instructions already fetched go. -/
def execFenceI (hart : Nat) (s : State) : Out :=
  occursAt 226 (hart < 240) (fun d => d.ready hart)
    (fun d =>
      let h := d.hart hart
      if !h.drained then d else (d.setHart hart { h with l1i := [], fetched := [] }).retire hart 4) s

end Sys2Proof.Machine
end

