-- ==== Sys2Proof/Machine/Clock.lean ====
section
/-!
DEFINITION. The passing of time, one nanosecond of REFCLK a step (log 3): the root and Invar (R28, R394), what is counted per clock cycle
(R425, Tables 20-2 and 20-5), and the latch of the bandwidth counters at the first window (R426).
-/
namespace Sys2Proof.Machine

/-- R394: Invar after a nanosecond. A negative first offset holds it still; a later offset is slewed by 1 ns in 10,000. -/
def Clock.tick (c : Clock) : Clock :=
  let c := { c with root := c.root + 12 }
  if c.hold != 0 then { c with hold := c.hold - 1 }
  else if c.slew != 0 && c.root / 12 % 10000 = 0 then
    { c with invar := if c.slewUp then c.invar + 2 else c.invar, slew := c.slew - 1 }
  else { c with invar := c.invar + 1 }

/-! ## Per CCLK -/

/-- Table 01-7: the divisor of a CCLK step. -/
def cclkDivisor (step : Nat) : Nat := if step = 3 then 8 else 4 + step

/-- Cycles of a clock with a divisor that end in the nanosecond before `root`. -/
def cyclesIn (divisor root : Nat) : Nat := root / divisor - (root - 12) / divisor

/-- A hart event occurs `n` times. -/
def Dev.hartEvents (d : Dev) (k code n : Nat) : Dev := (List.range n).foldl (fun d _ => d.hartEvent k code) d

/-- The hart stalls at a FENCE. -/
def Hart.fencing (h : Hart) : Bool :=
  match h.wait with
  | .fence _ _ => true
  | _ => false

/-- `mcycle` and the events that are cycles of a state, over the cycles of a running hart. -/
def Dev.hartCycles (d : Dev) (k : Nat) : Dev :=
  if !d.hartRuns k then d
  else
    let n := cyclesIn (cclkDivisor (d.get (rCclkActive (k / 20)))) d.clock.root
    let h := d.hart k
    let d := if d.hartCounts k && !bitAt (h.csr 0x320) 0 then d.setHart k (h.setCsr 0xB00 (wrapAdd 64 (h.csr 0xB00) n)) else d
    let d := d.hartEvents k 1 n
    let d := if storeBufferSize ≤ h.sbuf.length then d.hartEvents k 0x0A n else d
    let d := if h.fencing then d.hartEvents k 0x0B n else d
    if 32 ≤ h.tracker.length then d.hartEvents k 0x0C n else d

/-! ## Per FCLK -/

/-- Home events 7 and 8: trackers open, and cycles with none free. -/
def Dev.homeCycles (d : Dev) (s n : Nat) : Dev :=
  let b := d.trackersBusy s
  let d := if b = 0 then d else d.countEvent s 7 (b * n) none
  if 192 ≤ b then d.countEvent s 8 n none else d

/-- Memory events 7 and 8: cycles with a request queued, and with requests held. -/
def Dev.mcCycles (d : Dev) (m n : Nat) : Dev :=
  if !d.mcQueued m then d
  else
    let d := d.countEvent (mcGroup m) 7 n none
    if (d.mc m).held || d.mcRunning m then d.countEvent (mcGroup m) 8 n none else d

/-- The cycles of every block that counts them. -/
def Dev.countCycles (d : Dev) : Dev :=
  let n := cyclesIn 5 d.clock.root
  let d := d.harts.foldl (fun (d : Dev) (e : Nat × Hart) => d.hartCycles e.1) d
  let d := d.homes.foldl (fun (d : Dev) (e : Nat × Home) => d.homeCycles e.1 n) d
  if d.fab.net.isEmpty then d else (List.range 20).foldl (fun (d : Dev) m => d.mcCycles m n) d

/-! ## Bandwidth windows (R426) -/

/-- The counters are latched at the first boundary; later a listed port that leaves service is no longer steady. -/
def Dev.bwTick (d : Dev) : Dev :=
  if d.cnt.armed then (if d.cnt.t0 ≤ d.now then d.bwLatch else d)
  else if d.get rBwState = 1 then { d with cnt := { d.cnt with steady := d.cnt.steady.filter (fun g => d.portServes g) } }
  else d

/-- One nanosecond passes. -/
def Dev.tick (d : Dev) : Dev := ({ d with clock := d.clock.tick }).countCycles.bwTick.ucodeTick

end Sys2Proof.Machine
end

