-- ==== Sys2Proof/Machine/DeviceAccess.lean ====
section
/-!
DEFINITION. Accesses of a hart to I/O regions (R217, R223 to R225, R227), and the store buffer's drain (R220, R224, R228). A request
waits for its injection point (R310, R311); it is sent when INJECTION_GRANT has brought its grant and it is presented again.
-/
namespace Sys2Proof.Machine

/-! ## What the edge answers -/

/-- The answer that the package itself gives; none where the target lies outside. A register takes accesses of 4 bytes, and one of 8
as two; other sizes get an error. DESIGN CHOICE (log 45). -/
def Dev.ioAnswer (d : Dev) (pa size : Nat) (kind : IoKind) (w : World) : Option RspStatus :=
  let p := d.ioPlace pa
  if d.ioOffline p then some .offline
  else if kind = .maintain then (match p with
      | .far _ => none
      | _ => some .ok)
  else if (d.refusedBy w pa).isSome then some .error
  else
    match kind with
    | .plain => if p.outside then none else if size = 4 || size = 8 then some .ok else some .error
    | .swap _ => if p.takesAtomics then none else some .error
    | .fetchAdd _ => if p.takesAtomics then none else some .error
    | _ => some .error

/-- The effects of an answer that is no OK, at the edge that gives it (R353, R309). -/
def Dev.edgeNotes (d : Dev) (pa : Nat) (w : World) (st : Option RspStatus) : Dev :=
  match st with
  | some .offline => d.add rFabTargetOffline 1
  | some .error => (match d.refusedBy w pa with
      | some n => d.noteRefusal n (720 + edgeRouter (d.ioPlace pa)) pa
      | none => d)
  | _ => d

/-! ## Injection (R223, R310) -/

/-- R223: every earlier access of the hart to the destination on the other of VN5 and VN6 has been accepted. -/
def Hart.accepted (h : Hart) (dest vn : Nat) : Bool := h.accepts.all (fun x => !(x.dest = dest && x.vn != vn))

/-- The grant of a request has come. -/
def Dev.granted (d : Dev) (m : Instr) : Bool := d.fab.net.contains m

/-- The request waits at the hart's injection point; it joins the queue once. -/
def Dev.askInjection (d : Dev) (k flits : Nat) (m : Instr) : Dev :=
  if (tabGet d.fab.injQ (corePoint k) []).any (fun r => r.initiator = k && r.msg = m) then d
  else d.inject (corePoint k) k (d.hartClass k) flits m none

/-- The tag of a request, and the hart with the next one (Table 13-3: 10 bits). -/
def Hart.takeTag (h : Hart) : Nat × Hart := (h.nextTag, { h with nextTag := (h.nextTag + 1) % 1024 })

/-- A sent access awaits its acceptance, unless TARGET_OFFLINE has stood for it; to another package it goes over Harfort. -/
def Dev.ioSent (d : Dev) (k tag pa vn : Nat) (w : World) (st : Option RspStatus) : Dev :=
  let h := d.hart k
  let d := if st = some .offline then d
    else d.setHart k { h with accepts := h.accepts ++ [{ tag := tag, dest := d.ioDest pa, vn := vn, deadline := d.inUs (d.get rToRegister) }] }
  match d.ioPlace pa with
  | .far q => d.hfSend q (ioFlit k tag pa vn (d.hartClass k) w) true
  | _ => d

/-! ## What a root port counts of the harts' accesses (Table 20-2, R425) -/

/-- An access with `out` bytes of data leaves a root port, where nothing before the port has answered it. -/
def Dev.portSent (d : Dev) (pa out : Nat) (st : Option RspStatus) : Dev :=
  match d.ioPlace pa with
  | .port n _ =>
    if st.isSome then d
    else
      let g := portRootGroup n
      ((d.countEvent g 2 1 none).countEvent g 4 out none).countBytes g 0 out none
  | _ => d

/-- The completion of an access, with `inn` bytes of data, comes to a root port; or none has come in time. -/
def Dev.portAnswered (d : Dev) (pa inn : Nat) (answer : Option RspStatus) (st : RspStatus) : Dev :=
  match d.ioPlace pa with
  | .port n _ =>
    let g := portRootGroup n
    if answer.isSome || st = .offline then d
    else if st = .timeout then d.countEvent g 5 1 none
    else
      let n := if st = .ok then inn else 0
      ((d.countEvent g 1 1 none).countEvent g 3 n none).countBytes g n 0 none
  | _ => d

/-! ## Loads and atomics (R223, R225) -/

/-- A load or atomic is sent to I/O: it is the oldest instruction, and every earlier store has left the store buffer. -/
def Dev.ioIssue (d : Dev) (a : HartAccess) (pa : Nat) (store : Bool) (kind : IoKind) (m : Instr) : Dev :=
  let k := a.hart
  let h := d.hart k
  if !h.drained || !h.accepted (d.ioDest pa) 6 then d
  else if !d.granted m then d.askInjection k 1 m
  else
    let d := d.takeMsg (fun x => x = m)
    let w := h.world
    let st := d.ioAnswer pa a.size kind w
    let t := h.takeTag
    let d := d.setHart k { t.2 with ioLoad := some { tag := t.1, pa := pa, size := a.size, reg := a.reg, signed := a.signed, ilen := a.ilen,
                                                     va := a.va, store := store, world := w, answer := st, kind := kind } }
    let d := if store then d else d.hartEvent k 0x0D
    let d := ((d.edgeNotes pa w st).portSent pa 0 st).ioSent k t.1 pa 6 w st
    let d := d.startTimer (.hartLoad k t.1) (d.timeoutOf pa)
    match st with
    | some r => d.post (.ioResponse k t.1 r 0)
    | none => d

/-- A load's work on I/O: a misaligned one takes an access fault. -/
def Dev.ioLoadPart (a : HartAccess) (m : Instr) (pa : Nat) (d : Dev) : Dev :=
  if pa % a.size != 0 then d.takeTrap a.hart (d.refusedTrap a.hart .load a.va.toNat) else d.ioIssue a pa false .plain m

/-- What an AMO asks of an I/O target (R225). -/
def amoIoKind (op : AmoOp) (v : Nat) : IoKind :=
  match op with
  | .swap => .swap v
  | .add => .fetchAdd v
  | _ => .otherAtomic

/-- LOAD (R220, R221; of an I/O address, R223). -/
def execLoad (a : HartAccess) (err : ArrayError) (s : State) : Out :=
  occursAt 220 (accessOk a) (fun d => d.ready a.hart) (fun d => let x := d.pointer a; d.loadStep x err (Dev.ioLoadPart x (.ioLoad a))) s

/-- IO_LOAD (R223). -/
def execIoLoad (a : HartAccess) (s : State) : Out :=
  occursAt 223 (accessOk a) (fun d => d.ready a.hart) (fun d => let x := d.pointer a; d.loadStep x .none (Dev.ioLoadPart x (.ioLoad a))) s

/-- AMO (R222, R225). -/
def execAmo (a : HartAccess) (op : AmoOp) (src : Nat) (s : State) : Out :=
  occursAt 222 (amoOk a && src < 32) (fun d => d.ready a.hart)
    (fun d =>
      let x := d.pointer a
      d.amoStep x op src (fun pa d =>
        if pa % x.size != 0 then d.takeTrap x.hart (d.refusedTrap x.hart .store x.va.toNat)
        else d.ioIssue { x with signed := true } pa true (amoIoKind op ((d.hart x.hart).getReg src x.size)) (.amo a op src))) s

/-- LR (R222, R225). -/
def execLr (a : HartAccess) (s : State) : Out :=
  occursAt 222 (amoOk a) (fun d => d.ready a.hart)
    (fun d => let x := d.pointer a; d.lrStep x (fun pa d => d.ioIssue { x with signed := true } pa false .otherAtomic (.lr a))) s

/-- SC (R222, R225). -/
def execSc (a : HartAccess) (src : Nat) (s : State) : Out :=
  occursAt 222 (amoOk a && src < 32) (fun d => d.ready a.hart)
    (fun d => let x := d.pointer a; d.scStep x src (fun pa d => d.ioIssue x pa true .otherAtomic (.sc a src))) s

/-! ## The store buffer's head -/

/-- The head leaves the store buffer. -/
def Dev.popStore (d : Dev) (k : Nat) : Dev :=
  let h := d.hart k
  d.setHart k { h with sbuf := h.sbuf.drop 1 }

/-- A store to cacheable memory: with ownership of its line it enters the store order; the bytes leave the mark of the line (R255). A
line that its home refused is left as it is (R228, R449). -/
def Dev.drainCached (d : Dev) (k : Nat) (e : StoreEntry) (err : ArrayError) : Dev :=
  let line := lineAddr e.pa
  let l := (d.hart k).line line
  if (d.hart k).refused line .store then (d.takeLineErr k line .store).popStore k
  else if !l.state.owned then d.missEvents (d.wantOwned k line e.world e.hint e.stream .store) k line false
  else if d.pairError k err then d.mismatch (d.leadOf k)
  else
    let d := d.l2Error k line err
    if err = .uncorrectable then d
    else (d.putL2 k line (lineWith l.data (e.pa % 64) e.size e.data) l.mark).popStore k

/-- The byte mask of a store in its line. -/
def storeMask (e : StoreEntry) : BitVec 64 := BitVec.ofNat 64 ((2 ^ e.size - 1) * 2 ^ (e.pa % 64))

/-- The request of a store that its home merges. -/
def StoreEntry.homeReq (e : StoreEntry) (k : Nat) : HomeReq :=
  { agent := k, line := lineAddr e.pa, world := e.world, hint := e.hint, stream := e.stream }

/-- The message of a store that its home merges. -/
def StoreEntry.merge (e : StoreEntry) (k : Nat) : Instr :=
  .partialWrite (e.homeReq k) (storeMask e) (lineWith 0 (e.pa % 64) e.size e.data) .none .none

/-- A store under the I/O attribute on memory (R234, R224): it moves to the tracker when its request goes to the home. -/
def Dev.drainHome (d : Dev) (k : Nat) (e : StoreEntry) : Dev :=
  if 32 ≤ (d.hart k).tracker.length || (d.opOf k (lineAddr e.pa)).isSome then d
  else
    let t := (d.hart k).takeTag
    let x : NonPosted := { tag := t.1, pa := e.pa, size := e.size, world := e.world, answer := none, kind := .plain, rgn := none, home := true }
    ((d.setHart k { t.2 with tracker := t.2.tracker ++ [x] }).popStore k).sendOp k (lineAddr e.pa) 2 (e.merge k)

/-- A store under NC or IO (R234): its home merges it. -/
def Dev.drainUncached (d : Dev) (k : Nat) (e : StoreEntry) : Dev :=
  if e.pbmt = 2 then d.drainHome k e
  else
    match d.homeOp k (lineAddr e.pa) 2 (e.merge k) with
    | (.wait, d) => d
    | (_, d) => d.popStore k

/-! ## Stores to I/O (R217, R224, R227) -/

/-- The words that a store writes. -/
def storeWords (e : StoreEntry) : List (Nat × Nat) :=
  if e.size = 4 then [(e.pa, e.data % 2 ^ 32)] else if e.size = 8 then [(e.pa, e.data % 2 ^ 32), (e.pa + 4, e.data / 2 ^ 32)] else []

/-- A posted store that is discarded at the edge (Table 13-7, R353): Fusible alone hears of it. -/
def Dev.postedLost (d : Dev) (e : StoreEntry) : Dev :=
  ((((d.add rFabPostedDiscarded 1).raiseAt kPostedError (720 + edgeRouter (d.ioPlace e.pa)) e.pa 0).countDropped e.pa)).countStoreError (d.rgnOf e.pa)

/-- The kind of a store to I/O. -/
def StoreEntry.ioKind (e : StoreEntry) : IoKind :=
  match e.kind with
  | .plain => .plain
  | .zero => .plain
  | _ => .maintain

/-- The words of a store take effect at their place, together and when the store is injected. DESIGN CHOICE (log 45). -/
def Dev.putWords (d : Dev) (w : World) (l : List (Nat × Nat)) : Dev := l.foldl (fun d x => d.ioPut (d.ioPlace x.1) w x.2) d

/-- A store to I/O is injected: a posted one is complete; a non-posted one moves to the tracker. -/
def Dev.ioStoreSent (d : Dev) (k : Nat) (e : StoreEntry) (posted : Bool) : Dev :=
  let st := d.ioAnswer e.pa e.size e.ioKind e.world
  let h := d.hart k
  let t := h.takeTag
  let d := d.setHart k { t.2 with sbuf := h.sbuf.drop 1 }
  let d := (d.edgeNotes e.pa e.world (if posted && st = some .offline then none else st)).portSent e.pa e.size st
  let d := d.ioSent k t.1 e.pa (if posted then 5 else 6) e.world st
  let rgn := d.rgnOf e.pa
  let d := if e.kind = .plain && st = some .ok then d.putWords e.world (storeWords e) else d
  if posted then
    if st = some .offline || st = some .error then d.postedLost e else d
  else
    let h := d.hart k
    let d := d.setHart k { h with
      tracker := h.tracker ++ [{ tag := t.1, pa := e.pa, size := e.size, world := e.world, answer := st, kind := e.ioKind, rgn := rgn }] }
    let d := d.startTimer (.hartStore k t.1) (d.timeoutOf e.pa)
    match st with
    | some r => d.post (.ioResponse k t.1 r 0)
    | none => d

/-- A store to I/O at the head: a full tracker holds a non-posted one, and an access on the other network that is not accepted holds
either. -/
def Dev.drainIo (d : Dev) (k : Nat) (e : StoreEntry) (err : ArrayError) : Dev :=
  let posted := d.ioPosted e.pa
  let h := d.hart k
  let m := Instr.storeBufferDrain k err
  if !h.accepted (d.ioDest e.pa) (if posted then 5 else 6) || (!posted && 32 ≤ h.tracker.length) then d
  else if !d.granted m then d.askInjection k (if 8 < e.size then 2 else 1) m
  else (d.takeMsg (fun x => x = m)).ioStoreSent k e posted

/-- STORE_BUFFER_DRAIN (R220, R224, R228): the head of a hart's store buffer, also after the core has stopped. -/
def execStoreBufferDrain (hart : Nat) (err : ArrayError) (s : State) : Out :=
  occursAt 220 (hart < 240) (fun d => !(d.hart hart).sbuf.isEmpty)
    (fun d =>
      match (d.hart hart).sbuf with
      | [] => d
      | e :: _ =>
        (if (d.hart hart).tracker.any (fun x => x.home) then d
         else if e.io then d.drainIo hart e .none
         else if e.pbmt = 0 || ((d.hart hart).line (lineAddr e.pa)).state != .i then d.drainCached hart e err
         else d.drainUncached hart e).coreSettle hart) s

/-! ## Acceptances (R223) -/

/-- The oldest access to a destination that awaits its acceptance no longer does. -/
def Dev.takeAcceptance (d : Dev) (k : Nat) (f : Acceptance → Bool) : Dev :=
  let h := d.hart k
  d.setHart k { h with accepts := dropFirst f h.accepts }

/-! ## Responses (R210, R211, R217) -/

/-- What a load of the package's own registers reads; one of 8 bytes is two words. -/
def Dev.ioValue (d : Dev) (pa size : Nat) (w : World) : Nat × Dev :=
  let a := d.ioTake (d.ioPlace pa) w
  if size = 8 then
    let b := a.2.ioTake (a.2.ioPlace (pa + 4)) w
    (a.1 % 2 ^ 32 + b.1 % 2 ^ 32 * 2 ^ 32, b.2)
  else a

/-- The load or atomic of a hart completes. -/
def Dev.ioLoadDone (d : Dev) (k : Nat) (x : IoLoadState) (st : RspStatus) (data : Nat) : Dev :=
  let d := ((d.setHart k { d.hart k with ioLoad := none }).stopTimer (.hartLoad k x.tag)).portAnswered x.pa x.size x.answer st
  if st = .ok then
    let v := if x.answer = some .ok then d.ioValue x.pa x.size x.world else (data % 256 ^ x.size, d)
    let d := v.2
    (d.setHart k ((d.hart k).loadReg x.reg x.size x.signed v.1)).retire k x.ilen
  else d.takeTrap k (d.refusedTrap k (if x.store then .store else .load) x.va.toNat)

/-- The CAUSE of a bus-error log (Table 08-10). -/
def busCause : RspStatus → Nat
  | .timeout => 1
  | .error => 2
  | .offline => 3
  | .ok => 0

/-- A non-posted store of a hart completes; an error is logged (R210). -/
def Dev.ioStoreDone (d : Dev) (k : Nat) (x : NonPosted) (st : RspStatus) : Dev :=
  let h := d.hart k
  let d := (d.setHart k { h with tracker := h.tracker.filter (fun y => y.tag != x.tag) }).stopTimer (.hartStore k x.tag)
  let d := d.portAnswered x.pa 0 x.answer st
  if st = .ok then d else (d.logBusError k (busCause st) x.pa x.size x.world).countStoreError x.rgn

/-- The tracker's entry of a tag. -/
def Hart.tracked (h : Hart) (tag : Nat) : Option NonPosted := h.tracker.find? (fun x => x.tag = tag && !x.home)

/-- The load of a tag. -/
def Hart.loading (h : Hart) (tag : Nat) : Option IoLoadState := h.ioLoad.filter (fun x => x.tag = tag)

/-- The status of a response: the package's own targets answer as they did when the request came to them, and a maintenance operation
finds no error (R225). -/
def responseStatus (answer : Option RspStatus) (kind : IoKind) (st : RspStatus) : RspStatus :=
  match answer with
  | some a => a
  | none => if kind = .maintain && st = .error then .ok else st

/-- A response of a request. -/
def isIoResponse (k tag : Nat) : Instr → Bool
  | .ioResponse a t _ _ => a = k && t = tag
  | _ => false

/-- A response comes to its load or store; TARGET_OFFLINE stands for the acceptance. -/
def Dev.ioAnswered (d : Dev) (k tag : Nat) (st : RspStatus) (data : Nat) : Dev :=
  let off (d : Dev) (r : RspStatus) : Dev := if r = .offline then d.takeAcceptance k (fun x => x.tag = tag) else d
  match (d.hart k).loading tag, (d.hart k).tracked tag with
  | some x, _ => let r := responseStatus x.answer x.kind st; (off d r).ioLoadDone k x r data
  | none, some x => let r := responseStatus x.answer x.kind st; (off d r).ioStoreDone k x r
  | none, none => d.lateResponse

/-- IO_RESPONSE (R210, R211, R217, R314). TIMEOUT never travels (R299). -/
def execIoResponse (hart tag : Nat) (status : RspStatus) (data : Word) (s : State) : Out :=
  occursAt 217 (hart < 240) (fun _ => status != .timeout)
    (fun d => ((d.takeMsg (isIoResponse hart tag)).ioAnswered hart tag status data.toNat).coreSettle hart) s

/-! ## The commands of acceptances -/

/-- IO_ACCEPTANCE (R223); one that comes after it counted as given has no effect. -/
def execIoAcceptance (hart dest : Nat) (s : State) : Out :=
  occursAt 223 (hart < 240) (fun _ => true) (fun d => d.takeAcceptance hart (fun x => x.dest = dest)) s

/-- IO_ACCEPTANCE_TIMEOUT (R223): after 50 µs it counts as given. -/
def execIoAcceptanceTimeout (hart dest : Nat) (s : State) : Out :=
  occursAt 223 (hart < 240)
    (fun d => (d.hart hart).accepts.any (fun x => x.dest = dest && x.deadline ≤ d.now))
    (fun d => (d.takeAcceptance hart (fun x => x.dest = dest && x.deadline ≤ d.now)).raise kAccessTimeout hart 0) s

end Sys2Proof.Machine
end

