-- ==== Sys2Proof/Machine/Expiry.lean ====
section
/-!
DEFINITION. Initiator timeouts (R312, R313; R210, R211, R227, R228 for harts).
-/
namespace Sys2Proof.Machine

/-- The source that reports an expired request: its initiator (R450). -/
def Dev.ownerSource (d : Dev) : ReqOwner → Nat
  | .hartStore k _ => k
  | .hartLoad k _ => k
  | .hartLine k _ => k
  | .homeRecall _ line => 500 + d.homeSlice line
  | .homeInv _ line => 500 + d.homeSlice line
  | .homeRead line => 500 + d.homeSlice line
  | .homeWrite line => 500 + d.homeSlice line
  | .inbound n _ => 696 + n

/-- The address of an expired request. -/
def Dev.ownerAddr (d : Dev) : ReqOwner → Nat
  | .hartStore k tag => (match (d.hart k).tracked tag with
      | some x => x.pa
      | none => 0)
  | .hartLoad k tag => (match (d.hart k).loading tag with
      | some x => x.pa
      | none => 0)
  | .hartLine _ line => line
  | .homeRecall _ line => line
  | .homeInv _ line => line
  | .homeRead line => line
  | .homeWrite line => line
  | .inbound _ line => line

/-- A home's recall expires: an answer without data. The memory copy of an X owner's line is marked, and the fault names the owner: a
core by its own source (log 46), another agent in the syndrome of the slice's record. -/
def Dev.recallExpired (d : Dev) (agent line : Nat) : Dev :=
  match d.txn line with
  | none => d
  | some _ =>
    let x := match d.dirEntry line with
      | some e => e.state = 2 && e.owner = agent
      | none => false
    let d := if x then
        (d.markLine line).raiseAt kRecallTimeout (if agent < 240 then agent else 500 + d.homeSlice line) line agent
      else d
    (d.updTxn line (fun t => { t with recalls := t.recalls.filter (fun a => a != agent) })).go line

/-- A home's Inv expires: it is answered. -/
def Dev.invExpired (d : Dev) (holder line : Nat) : Dev :=
  (d.updTxn line (fun t => { t with acks := t.acks.filter (fun a => a != holder) })).go line

/-- A home's read expires: the data is returned marked. -/
def Dev.readExpired (d : Dev) (line : Nat) : Dev :=
  match d.txn line with
  | none => d
  | some t => if t.memRead then d.withData line 0 true else d

/-- A home's write expires: the line is lost, and the transaction closes. -/
def Dev.writeExpired (d : Dev) (line : Nat) : Dev :=
  let d := d.loseLine line
  match d.txn line with
  | none => d
  | some t => if t.memWrite then (d.updTxn line (fun t => { t with memWrite := false })).finish line t else d

/-- The IOD's request expires: Completer Abort, where the request has a completion. -/
def Dev.inboundExpired (d : Dev) (n line : Nat) : Dev :=
  let read : Bool := match d.opOf iodAgent line with
    | some (.readShared _ _ _ _ _) => true
    | _ => false
  let d := { d with fab := { d.fab with ops := dropFirst (fun o => o.1 = iodAgent && o.2.1 = line) d.fab.ops } }
  if read then d.sendCompletion n false else d

/-- A hart's request to a home expires: the instruction that waits for it faults, or the store ends (R228); the line is as the home
holds it. -/
def Dev.lineExpired (d : Dev) (k line : Nat) : Dev :=
  let d := if (d.opOf k line).isSome then d.homeAnswer k line false 0 else (d.refuseLine k line).served k line
  d.coreSettle k

/-- R313: an expired request completes as if its target had answered TIMEOUT. -/
def Dev.expire (d : Dev) : ReqOwner → Dev
  | .hartStore k tag => (match (d.hart k).tracked tag with
      | some x => (d.ioStoreDone k x .timeout).coreSettle k
      | none => d)
  | .hartLoad k tag => (match (d.hart k).loading tag with
      | some x => (d.ioLoadDone k x .timeout 0).coreSettle k
      | none => d)
  | .hartLine k line => d.lineExpired k line
  | .homeRecall a line => d.recallExpired a line
  | .homeInv a line => d.invExpired a line
  | .homeRead line => d.readExpired line
  | .homeWrite line => d.writeExpired line
  | .inbound n line => d.inboundExpired n line

/-- INITIATOR_TIMEOUT (R313): the timer of an outstanding request runs out. -/
def execInitiatorTimeout (req : Nat) (s : State) : Out :=
  occurs 313
    (fun d => match tabFind d.fab.reqs req with
      | some r => r.deadline ≤ d.now
      | none => false)
    (fun d =>
      match tabFind d.fab.reqs req with
      | none => d
      | some r =>
        let a := d.ownerAddr r.owner
        let d := (d.add rFabTimeouts 1).raiseAt kAccessTimeout (d.ownerSource r.owner) a 0
        let d := { d with fab := { d.fab with reqs := tabErase d.fab.reqs req } }
        d.expire r.owner) s

end Sys2Proof.Machine
end

