-- ==== Sys2Proof/Machine/Sampling.lean ====
section
/-!
DEFINITION. Precise sampling (R206, R207, R429).
-/
namespace Sys2Proof.Machine

/-- The mode byte of a sampling record: the world is the one at the event. -/
def modeByte (b : Nat) (w : World) : Nat := bitPut b 4 (w = .tantalum)

/-- Fields of Table 20-4 that the operand may hold: a level, a TLB outcome, a privilege and an access that exist. -/
def sampleOk (r : List Byte) : Bool :=
  r.length = 64 && byteAt r 38 ≤ 10 && byteAt r 39 ≤ 5 && field (byteAt r 40) 6 2 != 2 && byteAt r 40 % 16 ≤ 4

/-- Table 20-4: what the operand says of the instruction, and what the hart and the device hold at its retirement. -/
def Dev.sampleRecord (d : Dev) (k j : Nat) (r : List Byte) (w : World) : List Byte :=
  let h := d.hart k
  let v := bitAt (byteAt r 40) 5
  let asid := field (h.csr (if v then 0x280 else 0x180)) 44 16
  let vmid := if v then field (h.csr 0x680) 44 14 else 0
  r.take 16 ++ leBytes 8 (fieldLe r 16 8 % 2 ^ 52) ++ leBytes 8 d.now ++ leBytes 4 (fieldLe r 32 4)
    ++ leBytes 2 (h.csr (0x320 + j) % 2 ^ 16)
    ++ leBytes 2 (fieldLe r 38 2) ++ leBytes 1 (modeByte (byteAt r 40) w) ++ zeros 1 ++ leBytes 2 k
    ++ leBytes 4 (vmid * 2 ^ 16 + asid) ++ leBytes 8 (h.csr 0xB00) ++ zeros 8

/-- R206: sampling stops with a reason, and the counter's OF bit is set; no record is due any more. -/
def Hart.stopSampling (h : Hart) (j reason : Nat) : Hart :=
  ({ h with sampleDue := [] }.setCsr 0x7C9 (fieldPut (bitPut (bitPut (h.csr 0x7C9) 0 false) 5 true) 6 2 reason)).setOverflow j

/-- The write of a record: a request of the hart, in its QoS class (R208), in the world of the event. -/
def Dev.recordUse (d : Dev) (k : Nat) (w : World) : MemUse := ⟨w, k, some (corePoint k, d.hartClass k), 0, 0⟩

/-- The device after a record write that a check refuses; none where all permit it. PMP sees an S-mode store; a record outside memory is
refused too. -/
def Dev.sampleRefused (d : Dev) (k a : Nat) (w : World) : Option Dev :=
  if !(d.hart k).pmpPermits .s .store a || !(d.region a).isMemory then some d
  else
    match d.refusedBy w a with
    | some n => some (d.noteRefusal n k a)
    | none => if (d.remoteHome a).isSome then none else d.storeRefused (d.recordUse k w) a 64

/-- A record is written: a line of this package, or a full-line write that goes to another. -/
def Dev.writeRecord (d : Dev) (k a : Nat) (w : World) (b : List Byte) : Dev :=
  match d.remoteHome a with
  | some q => (d.injectNow (corePoint k) (d.hartClass k) 1).sendRemote q 0 msgInvWrite k a w true
  | none => d.cohWrite (d.recordUse k w) a b

/-- Hart events that no command of the table brings about: mispredicted branches, L1I misses, loads by latency (Table 20-5). -/
def uncountedEvent (code : Nat) : Bool := code = 9 || code = 0x0F || code = 0x10

/-- The hart's code selects an event that the commands do not count. -/
def Hart.unseen (h : Hart) (j : Nat) : Bool := uncountedEvent (h.csr (0x320 + j) % 0x1_0000)

/-- COUNTER_OVERFLOW_SAMPLE (R206, R207, R429): the overflow that is due, or one of a counter whose event no command counts, which wraps
it. -/
def execCounterOverflowSample (hart counter : Nat) (record : List Byte) (w : World) (s : State) : Out :=
  occursAt 206 (hart < 240 && 3 ≤ counter && counter ≤ 10 && sampleOk record)
    (fun d => d.hartRuns hart && (d.hart hart).sampled counter
      && ((d.hart hart).sampleDue.contains (counter, w) || (d.hartCounts hart && d.nonInvasive w && (d.hart hart).unseen counter)))
    (fun d =>
      let h := d.hart hart
      let d := if h.sampleDue.contains (counter, w) then d.setHart hart { h with sampleDue := h.sampleDue.erase (counter, w) }
        else d.setHart hart (h.setCsr (0xB00 + counter) 0)
      let a := h.csr 0x7CC
      match d.sampleRefused hart a w with
      | some d => d.setHart hart ((d.hart hart).stopSampling counter 2)
      | none =>
        let d := d.writeRecord hart a w (d.sampleRecord hart counter record w)
        let h := (d.hart hart).setCsr 0x7CC ((a + 64) % 2 ^ 52)
        d.setHart hart (if h.csr 0x7CC = h.csr 0x7CB then h.stopSampling counter 1 else h)) s

end Sys2Proof.Machine
end

