-- ==== Sys2Proof/Machine/Dispatch.lean ====
section
/-!
DEFINITION. The dispatch of commands to their meanings, one arm for each constructor of `Instr`.
-/
namespace Sys2Proof.Machine

def exec (i : Instr) (s : State) : Host.Outcome State Fault Refusal :=
  match i with
  | .unitNop p u => Sys2Proof.Machine.execUnitNop p u s
  | .unitEnable p u => Sys2Proof.Machine.execUnitEnable p u s
  | .unitQuiesce p u => Sys2Proof.Machine.execUnitQuiesce p u s
  | .unitFence p u => Sys2Proof.Machine.execUnitFence p u s
  | .unitReset p u => Sys2Proof.Machine.execUnitReset p u s
  | .unitPowerOff p u => Sys2Proof.Machine.execUnitPowerOff p u s
  | .powerOffDrainDone u => Sys2Proof.Machine.execPowerOffDrainDone u s
  | .headerCopyUpdate u => Sys2Proof.Machine.execHeaderCopyUpdate u s
  | .cclkStepWrite p die value => Sys2Proof.Machine.execCclkStepWrite p die value s
  | .cclkDividerSwitch die => Sys2Proof.Machine.execCclkDividerSwitch die s
  | .stepVoltageSettled die => Sys2Proof.Machine.execStepVoltageSettled die s
  | .pllLockLost die => Sys2Proof.Machine.execPllLockLost die s
  | .refclkLost => Sys2Proof.Machine.execRefclkLost s
  | .lockObjectWrite p l value => Sys2Proof.Machine.execLockObjectWrite p l value s
  | .localRegionEnable p n value => Sys2Proof.Machine.execLocalRegionEnable p n value s
  | .rgnEnableWrite p value => Sys2Proof.Machine.execRgnEnableWrite p value s
  | .registerWrite t => Sys2Proof.Machine.execRegisterWrite t s
  | .ringFrameReceive f e => Sys2Proof.Machine.execRingFrameReceive f e s
  | .dictRead p idx sub len => Sys2Proof.Machine.execDictRead p idx sub len s
  | .dictWrite p idx sub payload => Sys2Proof.Machine.execDictWrite p idx sub payload s
  | .dictReadBlock p idx sub offset len => Sys2Proof.Machine.execDictReadBlock p idx sub offset len s
  | .dictWriteBlock p idx sub offset payload last => Sys2Proof.Machine.execDictWriteBlock p idx sub offset payload last s
  | .dictOwnerTimeout => Sys2Proof.Machine.execDictOwnerTimeout s
  | .notifyReceive node idx sub value => Sys2Proof.Machine.execNotifyReceive node idx sub value s
  | .syncSend => Sys2Proof.Machine.execSyncSend s
  | .syncReceive t crcOk => Sys2Proof.Machine.execSyncReceive t crcOk s
  | .syncPeriodMissed => Sys2Proof.Machine.execSyncPeriodMissed s
  | .syncFreeRunning => Sys2Proof.Machine.execSyncFreeRunning s
  | .ringResponseTimeout seq => Sys2Proof.Machine.execRingResponseTimeout seq s
  | .mailboxCommand page value => Sys2Proof.Machine.execMailboxCommand page value s
  | .jtagSysbusAccess w addr write => Sys2Proof.Machine.execJtagSysbusAccess w addr write s
  | .sessionChallenge node => Sys2Proof.Machine.execSessionChallenge node s
  | .sessionOpen node => Sys2Proof.Machine.execSessionOpen node s
  | .sessionVerifyDone node => Sys2Proof.Machine.execSessionVerifyDone node s
  | .sessionClose p => Sys2Proof.Machine.execSessionClose p s
  | .sessionIdleExpiry node => Sys2Proof.Machine.execSessionIdleExpiry node s
  | .sessionIdleWrite p value => Sys2Proof.Machine.execSessionIdleWrite p value s
  | .mrActiveDrive => Sys2Proof.Machine.execMrActiveDrive s
  | .mrActiveRelease c => Sys2Proof.Machine.execMrActiveRelease c s
  | .instCreate p => Sys2Proof.Machine.execInstCreate p s
  | .instEnable p => Sys2Proof.Machine.execInstEnable p s
  | .instResetDrain p => Sys2Proof.Machine.execInstResetDrain p s
  | .instResetSquash p => Sys2Proof.Machine.execInstResetSquash p s
  | .instDestroy p => Sys2Proof.Machine.execInstDestroy p s
  | .instResetDone inst => Sys2Proof.Machine.execInstResetDone inst s
  | .sqTailDoorbell inst w value => Sys2Proof.Machine.execSqTailDoorbell inst w value s
  | .cqHeadWrite inst w value => Sys2Proof.Machine.execCqHeadWrite inst w value s
  | .descriptorFetch inst => Sys2Proof.Machine.execDescriptorFetch inst s
  | .descriptorReceived inst => Sys2Proof.Machine.execDescriptorReceived inst s
  | .jobSlotStart src => Sys2Proof.Machine.execJobSlotStart src s
  | .jobStageComplete job => Sys2Proof.Machine.execJobStageComplete job s
  | .jobExecuteEnd job => Sys2Proof.Machine.execJobExecuteEnd job s
  | .jobOutputDone job => Sys2Proof.Machine.execJobOutputDone job s
  | .completionRecordWrite job => Sys2Proof.Machine.execCompletionRecordWrite job s
  | .msiSend inst => Sys2Proof.Machine.execMsiSend inst s
  | .dlStart p => Sys2Proof.Machine.execDlStart p s
  | .dlStartDone inst => Sys2Proof.Machine.execDlStartDone inst s
  | .dlStop p => Sys2Proof.Machine.execDlStop p s
  | .engineFailure eng why => Sys2Proof.Machine.execEngineFailure eng why s
  | .slotMoveComplete eng => Sys2Proof.Machine.execSlotMoveComplete eng s
  | .sterlingNop job => Sys2Proof.Machine.execSterlingNop job s
  | .falcon512Keygen job => Sys2Proof.Machine.execFalcon512Keygen job s
  | .falcon1024Keygen job => Sys2Proof.Machine.execFalcon1024Keygen job s
  | .falcon512Sign job => Sys2Proof.Machine.execFalcon512Sign job s
  | .falcon1024Sign job => Sys2Proof.Machine.execFalcon1024Sign job s
  | .falcon512Verify job => Sys2Proof.Machine.execFalcon512Verify job s
  | .falcon1024Verify job => Sys2Proof.Machine.execFalcon1024Verify job s
  | .ecdsaP256Verify job => Sys2Proof.Machine.execEcdsaP256Verify job s
  | .ecdsaP384Verify job => Sys2Proof.Machine.execEcdsaP384Verify job s
  | .shake128 job => Sys2Proof.Machine.execShake128 job s
  | .shake256 job => Sys2Proof.Machine.execShake256 job s
  | .cmacGenerate job => Sys2Proof.Machine.execCmacGenerate job s
  | .cmacVerify job => Sys2Proof.Machine.execCmacVerify job s
  | .pinTranslate job => Sys2Proof.Machine.execPinTranslate job s
  | .importFalcon512Public job => Sys2Proof.Machine.execImportFalcon512Public job s
  | .importFalcon1024Public job => Sys2Proof.Machine.execImportFalcon1024Public job s
  | .importP256Public job => Sys2Proof.Machine.execImportP256Public job s
  | .importP384Public job => Sys2Proof.Machine.execImportP384Public job s
  | .exportPublic job => Sys2Proof.Machine.execExportPublic job s
  | .keyCheck job => Sys2Proof.Machine.execKeyCheck job s
  | .drbgReseed b => Sys2Proof.Machine.execDrbgReseed b s
  | .esHealthFail b rct => Sys2Proof.Machine.execEsHealthFail b rct s
  | .esRestart p b value => Sys2Proof.Machine.execEsRestart p b value s
  | .esStartupDone b pass => Sys2Proof.Machine.execEsStartupDone b pass s
  | .engNop p eng => Sys2Proof.Machine.execEngNop p eng s
  | .engEnable p eng => Sys2Proof.Machine.execEngEnable p eng s
  | .engQuiesce p eng => Sys2Proof.Machine.execEngQuiesce p eng s
  | .engFence p eng => Sys2Proof.Machine.execEngFence p eng s
  | .engReset p eng => Sys2Proof.Machine.execEngReset p eng s
  | .engUpdate p eng => Sys2Proof.Machine.execEngUpdate p eng s
  | .updateDrainDone eng => Sys2Proof.Machine.execUpdateDrainDone eng s
  | .engineSelfTestDone eng pass => Sys2Proof.Machine.execEngineSelfTestDone eng pass s
  | .attKeyDerived b => Sys2Proof.Machine.execAttKeyDerived b s
  | .ksSuspend p => Sys2Proof.Machine.execKsSuspend p s
  | .ksResume p => Sys2Proof.Machine.execKsResume p s
  | .ksDestroy p => Sys2Proof.Machine.execKsDestroy p s
  | .ksEraseComplete handle => Sys2Proof.Machine.execKsEraseComplete handle s
  | .ksImport p => Sys2Proof.Machine.execKsImport p s
  | .importExecuteDone b => Sys2Proof.Machine.execImportExecuteDone b s
  | .ksStart p value => Sys2Proof.Machine.execKsStart p value s
  | .ksUseLimitWrite p value => Sys2Proof.Machine.execKsUseLimitWrite p value s
  | .ksProvisionWrite p sub value => Sys2Proof.Machine.execKsProvisionWrite p sub value s
  | .journalRingWrite b => Sys2Proof.Machine.execJournalRingWrite b s
  | .journalRecordVisible b => Sys2Proof.Machine.execJournalRecordVisible b s
  | .journalStallExpiry b seq => Sys2Proof.Machine.execJournalStallExpiry b seq s
  | .journalClose b => Sys2Proof.Machine.execJournalClose b s
  | .checkpointTimeTrigger => Sys2Proof.Machine.execCheckpointTimeTrigger s
  | .ckCommand p value => Sys2Proof.Machine.execCkCommand p value s
  | .checkpointSigned b => Sys2Proof.Machine.execCheckpointSigned b s
  | .journalNop job => Sys2Proof.Machine.execJournalNop job s
  | .journalRead job => Sys2Proof.Machine.execJournalRead job s
  | .journalReadWaitExpiry job => Sys2Proof.Machine.execJournalReadWaitExpiry job s
  | .electrumNop job => Sys2Proof.Machine.execElectrumNop job s
  | .electrumTranslate job => Sys2Proof.Machine.execElectrumTranslate job s
  | .electrumValidate job => Sys2Proof.Machine.execElectrumValidate job s
  | .tableLineFill eng slot line => Sys2Proof.Machine.execTableLineFill eng slot line s
  | .elbLoad0 p n => Sys2Proof.Machine.execElbLoad0 p n s
  | .elbLoad1 p n => Sys2Proof.Machine.execElbLoad1 p n s
  | .elbLoadDone n side => Sys2Proof.Machine.execElbLoadDone n side s
  | .elbSwitch p n => Sys2Proof.Machine.execElbSwitch p n s
  | .elbUnload0 p n => Sys2Proof.Machine.execElbUnload0 p n s
  | .elbUnload1 p n => Sys2Proof.Machine.execElbUnload1 p n s
  | .elbUnloadDone n side => Sys2Proof.Machine.execElbUnloadDone n side s
  | .deflateNop job => Sys2Proof.Machine.execDeflateNop job s
  | .compress job => Sys2Proof.Machine.execCompress job s
  | .decompress job => Sys2Proof.Machine.execDecompress job s
  | .load a err => Sys2Proof.Machine.execLoad a err s
  | .store a => Sys2Proof.Machine.execStore a s
  | .storeBufferDrain hart err => Sys2Proof.Machine.execStoreBufferDrain hart err s
  | .amo a op src => Sys2Proof.Machine.execAmo a op src s
  | .lr a => Sys2Proof.Machine.execLr a s
  | .sc a src => Sys2Proof.Machine.execSc a src s
  | .ioLoad a => Sys2Proof.Machine.execIoLoad a s
  | .ioAcceptance hart dest => Sys2Proof.Machine.execIoAcceptance hart dest s
  | .ioAcceptanceTimeout hart dest => Sys2Proof.Machine.execIoAcceptanceTimeout hart dest s
  | .ioResponse hart tag status data => Sys2Proof.Machine.execIoResponse hart tag status data s
  | .cboClean a => Sys2Proof.Machine.execCboClean a s
  | .cboFlush a => Sys2Proof.Machine.execCboFlush a s
  | .cboInval a => Sys2Proof.Machine.execCboInval a s
  | .cboZero a => Sys2Proof.Machine.execCboZero a s
  | .fence hart pred succ tso => Sys2Proof.Machine.execFence hart pred succ tso s
  | .fenceRelease hart => Sys2Proof.Machine.execFenceRelease hart s
  | .fenceI hart => Sys2Proof.Machine.execFenceI hart s
  | .wcall hart word => Sys2Proof.Machine.execWcall hart word s
  | .wcallEntry hart => Sys2Proof.Machine.execWcallEntry hart s
  | .wret hart => Sys2Proof.Machine.execWret hart s
  | .wretReturn hart => Sys2Proof.Machine.execWretReturn hart s
  | .ecall hart => Sys2Proof.Machine.execEcall hart s
  | .mbeinfoWrite hart viaS value => Sys2Proof.Machine.execMbeinfoWrite hart viaS value s
  | .samplingArm hart viaS value => Sys2Proof.Machine.execSamplingArm hart viaS value s
  | .counterOverflowSample hart counter record w => Sys2Proof.Machine.execCounterOverflowSample hart counter record w s
  | .msiReceive hart file identity => Sys2Proof.Machine.execMsiReceive hart file identity s
  | .lockstepMismatch lead => Sys2Proof.Machine.execLockstepMismatch lead s
  | .coreArrayError core array => Sys2Proof.Machine.execCoreArrayError core array s
  | .pageWalkStep hart n err => Sys2Proof.Machine.execPageWalkStep hart n err s
  | .sfenceVma hart rs1 rs2 => Sys2Proof.Machine.execSfenceVma hart rs1 rs2 s
  | .sinvalVma hart rs1 rs2 => Sys2Proof.Machine.execSinvalVma hart rs1 rs2 s
  | .hfenceVvma hart rs1 rs2 => Sys2Proof.Machine.execHfenceVvma hart rs1 rs2 s
  | .hfenceGvma hart rs1 rs2 => Sys2Proof.Machine.execHfenceGvma hart rs1 rs2 s
  | .hinvalVvma hart rs1 rs2 => Sys2Proof.Machine.execHinvalVvma hart rs1 rs2 s
  | .hinvalGvma hart rs1 rs2 => Sys2Proof.Machine.execHinvalGvma hart rs1 rs2 s
  | .sfenceWInval hart => Sys2Proof.Machine.execSfenceWInval hart s
  | .sfenceInvalIr hart => Sys2Proof.Machine.execSfenceInvalIr hart s
  | .fenceVmaComplete hart => Sys2Proof.Machine.execFenceVmaComplete hart s
  | .iommuTranslate r => Sys2Proof.Machine.execIommuTranslate r s
  | .iotinvalVma av gscid pscid => Sys2Proof.Machine.execIotinvalVma av gscid pscid s
  | .iotinvalGvma av gscid => Sys2Proof.Machine.execIotinvalGvma av gscid s
  | .iodirInvalDdt device => Sys2Proof.Machine.execIodirInvalDdt device s
  | .iodirInvalPdt device pasid => Sys2Proof.Machine.execIodirInvalPdt device pasid s
  | .iofenceC => Sys2Proof.Machine.execIofenceC s
  | .inboundPcieRequest r data => Sys2Proof.Machine.execInboundPcieRequest r data s
  | .pwEnableWrite p value => Sys2Proof.Machine.execPwEnableWrite p value s
  | .pwDrainDone errs => Sys2Proof.Machine.execPwDrainDone errs s
  | .pwPreload p => Sys2Proof.Machine.execPwPreload p s
  | .pwLock p => Sys2Proof.Machine.execPwLock p s
  | .pwUnlock p => Sys2Proof.Machine.execPwUnlock p s
  | .pwFlush p => Sys2Proof.Machine.execPwFlush p s
  | .pwCommandDone errs => Sys2Proof.Machine.execPwCommandDone errs s
  | .prefetchDataReturn slice line ok => Sys2Proof.Machine.execPrefetchDataReturn slice line ok s
  | .patrolScrub slice err badTags => Sys2Proof.Machine.execPatrolScrub slice err badTags s
  | .readShared r nc fltErr dirErr pwErr => Sys2Proof.Machine.execReadShared r nc fltErr dirErr pwErr s
  | .readOwn r fltErr dirErr pwErr => Sys2Proof.Machine.execReadOwn r fltErr dirErr pwErr s
  | .upgrade r fltErr dirErr pwErr => Sys2Proof.Machine.execUpgrade r fltErr dirErr pwErr s
  | .invWrite r data mark dirErr pwErr => Sys2Proof.Machine.execInvWrite r data mark dirErr pwErr s
  | .partialWrite r mask data dirErr pwErr => Sys2Proof.Machine.execPartialWrite r mask data dirErr pwErr s
  | .homeFetchAdd r size offset operand dirErr pwErr => Sys2Proof.Machine.execHomeFetchAdd r size offset operand dirErr pwErr s
  | .homeSwap r size offset operand dirErr pwErr => Sys2Proof.Machine.execHomeSwap r size offset operand dirErr pwErr s
  | .homeCas r size offset compare swap dirErr pwErr => Sys2Proof.Machine.execHomeCas r size offset compare swap dirErr pwErr s
  | .homeFetchOr r size offset operand dirErr pwErr => Sys2Proof.Machine.execHomeFetchOr r size offset operand dirErr pwErr s
  | .lineMaintainClean r dirErr pwErr => Sys2Proof.Machine.execLineMaintainClean r dirErr pwErr s
  | .lineMaintainFlush r dirErr pwErr => Sys2Proof.Machine.execLineMaintainFlush r dirErr pwErr s
  | .writeBackFull agent line data mark => Sys2Proof.Machine.execWriteBackFull agent line data mark s
  | .writeBackClean agent line => Sys2Proof.Machine.execWriteBackClean agent line s
  | .evictClean core line => Sys2Proof.Machine.execEvictClean core line s
  | .recallAckData agent line data mark => Sys2Proof.Machine.execRecallAckData agent line data mark s
  | .recallShare hart line err => Sys2Proof.Machine.execRecallShare hart line err s
  | .recallInv hart line discard err => Sys2Proof.Machine.execRecallInv hart line discard err s
  | .inv die line excepted => Sys2Proof.Machine.execInv die line excepted s
  | .recallAck agent line wbpend => Sys2Proof.Machine.execRecallAck agent line wbpend s
  | .invAck die line => Sys2Proof.Machine.execInvAck die line s
  | .grantAck agent line => Sys2Proof.Machine.execGrantAck agent line s
  | .cmpWrite agent line status => Sys2Proof.Machine.execCmpWrite agent line status s
  | .wbAck hart line => Sys2Proof.Machine.execWbAck hart line s
  | .retry agent line res => Sys2Proof.Machine.execRetry agent line res s
  | .retryGrant agent line => Sys2Proof.Machine.execRetryGrant agent line s
  | .dataShared agent line data mark => Sys2Proof.Machine.execDataShared agent line data mark s
  | .dataExclusive agent line data mark => Sys2Proof.Machine.execDataExclusive agent line data mark s
  | .atomicData agent line old => Sys2Proof.Machine.execAtomicData agent line old s
  | .reservationGrant slice agent => Sys2Proof.Machine.execReservationGrant slice agent s
  | .memoryReadData line data mark => Sys2Proof.Machine.execMemoryReadData line data mark s
  | .memoryWriteComplete line => Sys2Proof.Machine.execMemoryWriteComplete line s
  | .directoryPurge die => Sys2Proof.Machine.execDirectoryPurge die s
  | .flitReceive router port f c => Sys2Proof.Machine.execFlitReceive router port f c s
  | .linkReplayRequest router port => Sys2Proof.Machine.execLinkReplayRequest router port s
  | .routerBypass router bypassOk => Sys2Proof.Machine.execRouterBypass router bypassOk s
  | .injectionGrant point => Sys2Proof.Machine.execInjectionGrant point s
  | .initiatorTimeout req => Sys2Proof.Machine.execInitiatorTimeout req s
  | .vnOrderHoldRelease edge => Sys2Proof.Machine.execVnOrderHoldRelease edge s
  | .weladeDataFlit adapter f lcrcOk => Sys2Proof.Machine.execWeladeDataFlit adapter f lcrcOk s
  | .weladeUpdate adapter ack scredit qcredit => Sys2Proof.Machine.execWeladeUpdate adapter ack scredit qcredit s
  | .weladeNak adapter seq => Sys2Proof.Machine.execWeladeNak adapter seq s
  | .weladeReplay adapter seq => Sys2Proof.Machine.execWeladeReplay adapter seq s
  | .weladeResync adapter lost seq => Sys2Proof.Machine.execWeladeResync adapter lost seq s
  | .controlFlitSend adapter => Sys2Proof.Machine.execControlFlitSend adapter s
  | .nakRepeat adapter => Sys2Proof.Machine.execNakRepeat adapter s
  | .replayTimeout adapter => Sys2Proof.Machine.execReplayTimeout adapter s
  | .trainingActive adapter lowBad highBad => Sys2Proof.Machine.execTrainingActive adapter lowBad highBad s
  | .capabilityRecord adapter rec => Sys2Proof.Machine.execCapabilityRecord adapter rec s
  | .exchangeTimeout module => Sys2Proof.Machine.execExchangeTimeout module s
  | .trainingTimeout module => Sys2Proof.Machine.execTrainingTimeout module s
  | .sdRetrain p module => Sys2Proof.Machine.execSdRetrain p module s
  | .sdDisable p module => Sys2Proof.Machine.execSdDisable p module s
  | .sdEnable p module => Sys2Proof.Machine.execSdEnable p module s
  | .retrainDrainDone module => Sys2Proof.Machine.execRetrainDrainDone module s
  | .retrainDrainExpiry module => Sys2Proof.Machine.execRetrainDrainExpiry module s
  | .resyncTimeout module => Sys2Proof.Machine.execResyncTimeout module s
  | .mcLineRead line hint first second => Sys2Proof.Machine.execMcLineRead line hint first second s
  | .mcLineWrite line hint data mark => Sys2Proof.Machine.execMcLineWrite line hint data mark s
  | .mcAlert mc confirmed retrainOk => Sys2Proof.Machine.execMcAlert mc confirmed retrainOk s
  | .pageIdleClose mc bank => Sys2Proof.Machine.execPageIdleClose mc bank s
  | .mcSwitch p mc => Sys2Proof.Machine.execMcSwitch p mc s
  | .mcSwitchDone mc pass => Sys2Proof.Machine.execMcSwitchDone mc pass s
  | .mcSpareSoft p mc => Sys2Proof.Machine.execMcSpareSoft p mc s
  | .mcSpareHard p mc => Sys2Proof.Machine.execMcSpareHard p mc s
  | .mcSpareDone mc spareLeft => Sys2Proof.Machine.execMcSpareDone mc spareLeft s
  | .mcTestModeWrite p mc value => Sys2Proof.Machine.execMcTestModeWrite p mc value s
  | .blkToNormal p n => Sys2Proof.Machine.execBlkToNormal p n s
  | .blkToTantalum p n => Sys2Proof.Machine.execBlkToTantalum p n s
  | .handoverReleaseDone n => Sys2Proof.Machine.execHandoverReleaseDone n s
  | .irqToNormal p => Sys2Proof.Machine.execIrqToNormal p s
  | .irqToTantalum p => Sys2Proof.Machine.execIrqToTantalum p s
  | .wrEnableWrite p n value => Sys2Proof.Machine.execWrEnableWrite p n value s
  | .scrubListWrite p sub value => Sys2Proof.Machine.execScrubListWrite p sub value s
  | .debugEnableWrite p sub value => Sys2Proof.Machine.execDebugEnableWrite p sub value s
  | .watchdogKick p value => Sys2Proof.Machine.execWatchdogKick p value s
  | .watchdogExpiry => Sys2Proof.Machine.execWatchdogExpiry s
  | .secureLossHartAction hart => Sys2Proof.Machine.execSecureLossHartAction hart s
  | .tkRestart p => Sys2Proof.Machine.execTkRestart p s
  | .tkRestartDone selfTestOk => Sys2Proof.Machine.execTkRestartDone selfTestOk s
  | .tkDeclareDown p => Sys2Proof.Machine.execTkDeclareDown p s
  | .deferredResetApply hart => Sys2Proof.Machine.execDeferredResetApply hart s
  | .faultAccept corrected => Sys2Proof.Machine.execFaultAccept corrected s
  | .frAck p => Sys2Proof.Machine.execFrAck p s
  | .frClear p => Sys2Proof.Machine.execFrClear p s
  | .srcClear p source => Sys2Proof.Machine.execSrcClear p source s
  | .clearAll p => Sys2Proof.Machine.execClearAll p s
  | .urgentEscalation element => Sys2Proof.Machine.execUrgentEscalation element s
  | .foldedUrgentEscalation source => Sys2Proof.Machine.execFoldedUrgentEscalation source s
  | .regulatorPhaseLoss source => Sys2Proof.Machine.execRegulatorPhaseLoss source s
  | .mgmtLockstepMismatch verified => Sys2Proof.Machine.execMgmtLockstepMismatch verified s
  | .mgmtResume => Sys2Proof.Machine.execMgmtResume s
  | .harfortL0 link width => Sys2Proof.Machine.execHarfortL0 link width s
  | .harfortRecordReceive link rec => Sys2Proof.Machine.execHarfortRecordReceive link rec s
  | .harfortReplayLimit link => Sys2Proof.Machine.execHarfortReplayLimit link s
  | .harfortTrainLimit link => Sys2Proof.Machine.execHarfortTrainLimit link s
  | .hfRetrain p link => Sys2Proof.Machine.execHfRetrain p link s
  | .hfDisable p link => Sys2Proof.Machine.execHfDisable p link s
  | .hfEnable p link => Sys2Proof.Machine.execHfEnable p link s
  | .harfortResendTimeout peer => Sys2Proof.Machine.execHarfortResendTimeout peer s
  | .partitionHoldExpiry far => Sys2Proof.Machine.execPartitionHoldExpiry far s
  | .partVerdictContinue p => Sys2Proof.Machine.execPartVerdictContinue p s
  | .partVerdictFence p => Sys2Proof.Machine.execPartVerdictFence p s
  | .partitionDecideExpiry => Sys2Proof.Machine.execPartitionDecideExpiry s
  | .powerOn standbyWasOff => Sys2Proof.Machine.execPowerOn standbyWasOff s
  | .packageReset => Sys2Proof.Machine.execPackageReset s
  | .packageResetRelease straps found => Sys2Proof.Machine.execPackageResetRelease straps found s
  | .bootActivate p => Sys2Proof.Machine.execBootActivate p s
  | .activateDone => Sys2Proof.Machine.execActivateDone s
  | .bootRevokeKey0 p => Sys2Proof.Machine.execBootRevokeKey0 p s
  | .bootRevokeKey1 p => Sys2Proof.Machine.execBootRevokeKey1 p s
  | .bootAdvanceSvn p => Sys2Proof.Machine.execBootAdvanceSvn p s
  | .fuseBlowDone => Sys2Proof.Machine.execFuseBlowDone s
  | .bootCheck p => Sys2Proof.Machine.execBootCheck p s
  | .measExtend p payload => Sys2Proof.Machine.execMeasExtend p payload s
  | .attSign p => Sys2Proof.Machine.execAttSign p s
  | .attSigned b => Sys2Proof.Machine.execAttSigned b s
  | .dieResetComplete die pass features => Sys2Proof.Machine.execDieResetComplete die pass features s
  | .railOutOfTolerance rail => Sys2Proof.Machine.execRailOutOfTolerance rail s
  | .standbyLoss => Sys2Proof.Machine.execStandbyLoss s
  | .throttleNFall => Sys2Proof.Machine.execThrottleNFall s
  | .throttleNRise => Sys2Proof.Machine.execThrottleNRise s
  | .throttleLift => Sys2Proof.Machine.execThrottleLift s
  | .thermalCapTick die temperature => Sys2Proof.Machine.execThermalCapTick die temperature s
  | .thermalCapLift die temperature => Sys2Proof.Machine.execThermalCapLift die temperature s
  | .thermalTrip die point => Sys2Proof.Machine.execThermalTrip die point s
  | .powerCapTick average => Sys2Proof.Machine.execPowerCapTick average s
  | .powerCapLift average => Sys2Proof.Machine.execPowerCapLift average s
  | .cgEventWrite p sub value => Sys2Proof.Machine.execCgEventWrite p sub value s
  | .pcFreeze p => Sys2Proof.Machine.execPcFreeze p s
  | .freezeGatherDone => Sys2Proof.Machine.execFreezeGatherDone s
  | .pcUnfreeze p => Sys2Proof.Machine.execPcUnfreeze p s
  | .bwStart p => Sys2Proof.Machine.execBwStart p s
  | .bwStop p => Sys2Proof.Machine.execBwStop p s
  | .bwWindowEnd => Sys2Proof.Machine.execBwWindowEnd s
  | .mrInSymbolLockLost => Sys2Proof.Machine.execMrInSymbolLockLost s
  | .mret hart => Sys2Proof.Machine.execMret hart s
  | .interruptTaken hart cause => Sys2Proof.Machine.execInterruptTaken hart cause s
  | .harfortL0Lost link far => Sys2Proof.Machine.execHarfortL0Lost link far s
  | .extest levels => Sys2Proof.Machine.execExtest levels s

end Sys2Proof.Machine
end

