-- ==== Sys2Proof/Safety.lean ====
section
/-!
DEFINITION. What counts as a safe run, in the terms that statements use.
-/
namespace Sys2Proof.Machine

/-- A command completes: it answers a next state. -/
def Completes (i : Instr) (s : State) : Prop := ∃ t, exec i s = .next t

/-- A command leaves the waiting commands alone. -/
def KeepsQueue (i : Instr) : Prop := ∀ s t, exec i s = .next t → t.pending = s.pending

/-- A command answers a next state with the same waiting commands, whose device is `d`. -/
def Gives (i : Instr) (s : State) (d : Dev) : Prop := exec i s = .next { s with dev := d }

/-- A command answers a next state with the same waiting commands, whose device meets `post`. -/
def Reaches (i : Instr) (s : State) (post : Dev → Prop) : Prop := ∃ d, Gives i s d ∧ post d

/-- A command answers a next state with the same waiting commands, whose device is that of `s` but for what `f` changes. -/
def Does (i : Instr) (s : State) (f : Dev → Dev) : Prop := Gives i s (f s.dev)

/-- What a transaction of a path finds: its server has granted it, and the idle close of the path's session has been put off (R50, R68). -/
abbrev Dev.heard (d : Dev) (p : Path) : Dev := d.takeTurn p

/-- A write by a path meets none of the conditions that stand ahead of the sub-entry's own effect (R43, R46, R49, R67, R71), the
value is in the permitted set, and the object's unit answers. -/
def Dev.admits (d : Dev) (p : Path) (idx sub value : Nat) : Bool :=
  pathOk p && d.pathLive p && !(d.heard p).silentAt p idx
    && ((d.heard p).guardWrite p idx sub value (fun _ => (.ok, d))).1 == .ok

/-- The device with the answer OK recorded for a path. -/
abbrev Dev.ok (d : Dev) (p : Path) : Dev := d.respond p .ok []

/-- A path's last answer. -/
def Dev.answered (d : Dev) (p : Path) (st : Status) : Prop := tabFind d.resp (pathNum p) = some ⟨st, []⟩

/-- Memory, its marks, the fuses and the flash are as they were. -/
def Dev.stores (d e : Dev) : Prop :=
  e.mem = d.mem ∧ e.marks = d.marks ∧ e.fuses = d.fuses ∧ e.flash = d.flash ∧ e.flashBad = d.flashBad

/-- Every sub-entry reads as it did, but for those that `w` lists. -/
def Dev.regsBut (d e : Dev) (w : List Reg) : Prop := ∀ r : Reg, r.key ∉ w.map Reg.key → e.get r = d.get r

/-! ## What the statements speak of -/

/-- An import claims its slot, whose state was `st`. -/
def Dev.claimKey (d : Dev) (h st : Nat) : Dev := { d with ks := { d.ks with claims := d.ks.claims ++ [(h, st)] } }

/-- A unit can take a command of a path: the write reaches `unitCommand`, the unit kind supports the code, no command of the unit
runs and the parent is in service (R10 to R13). -/
def Dev.unitTakes (d : Dev) (p : Path) (u : UnitRef) (c : UnitCmd) : Bool :=
  unitExists u && d.admits p (headerIndex u) 0x08 (unitCmdCode c) && !d.unitShadow u && unitSupports u c
    && !d.unitRunning u && !d.unitBusy u c && !d.parentDown u

/-- The row of a unit command. -/
def unitInstr (p : Path) (u : UnitRef) : UnitCmd → Instr
  | .nop => .unitNop p u
  | .enable => .unitEnable p u
  | .quiesce => .unitQuiesce p u
  | .fence => .unitFence p u
  | .reset => .unitReset p u
  | .powerOff => .unitPowerOff p u

/-- An engine can take a command of a path: the write reaches `engCommand`, its cluster is ACTIVE and not in a hand-over, and no command
of it runs (R47, R126, R362). -/
def Dev.engTakes (d : Dev) (p : Path) (e code : Nat) : Prop :=
  e < 88 ∧ d.admits p (engIndex e) 0x02 code = true ∧ d.get (rBlkCommand (engCluster e)) ≠ cmdRunning ∧
    d.get (rEngCommand e) ≠ cmdRunning ∧ d.unit (.cluster (engCluster e)) = stActive

/-- The DRBG of a base die after an instantiation or a reseed: its state takes in 512 bits of the source, no call counts yet, and its
reseed time starts. -/
def Dev.seeded (d : Dev) (b : Nat) : Drbg :=
  let k := ctrSeed (d.drbg b).key (d.drbg b).v (d.takeBytes 64).1
  { ready := true, serving := true, calls := 0, lastSeed := d.now, key := k.1, v := k.2 }

/-- A Sterling job in its execute phase, with this opcode, whose operation is not done. Its input is whole in `x`, on the device `e`: an input
of up to 4 KiB has been staged, and of a longer one the rest has been read (R117). -/
def Dev.atWork (d : Dev) (j op : Nat) (x : Job) (e : Dev) : Prop :=
  d.sterlingTurn j op = true ∧
    ((d.job j = some x ∧ descInLen x.desc ≤ 4096 ∧ e = d) ∨
      (∃ y b f, d.job j = some y ∧ 4096 < descInLen y.desc ∧
        d.instRead y.inst (descIn y.desc + 4096) (descInLen y.desc - 4096) = (.ok b, f) ∧
        x = { y with input := y.input ++ b } ∧ e = f.setJob j x))

/-- What the blob of key A of a job unwraps to on the job's engine. -/
def Dev.keyOfA (d : Dev) (x : Job) : Option (List Byte) :=
  d.openBlob (x.slot.getD (0, 0)).1 (descKeyA x.desc) x.genA (d.keyAt (descKeyA x.desc)) x.blobA

/-- What the blob of key B of a job unwraps to on the job's engine. -/
def Dev.keyOfB (d : Dev) (x : Job) : Option (List Byte) :=
  d.openBlob (x.slot.getD (0, 0)).1 (descKeyB x.desc) (descGenB x.desc) (d.keyAt (descKeyB x.desc)) x.blobB

/-- The public key of a verification and the message behind it: the first bytes of the input where INLINE is set, else key A. -/
def Dev.verifies (d : Dev) (x : Job) (key msg : List Byte) : Prop :=
  if descInline x.desc then key = x.input.take (stPublicLen (descOpcode x.desc)) ∧ msg = x.input.drop (stPublicLen (descOpcode x.desc))
  else d.keyOfA x = some key ∧ msg = x.input

/-- What an ECDSA job signs: the message itself, or its SHA3 digest in hash modes 1 and 2. -/
def ecdsaDigest (x : Job) (msg : List Byte) : List Byte :=
  if descOpData x.desc % 2 ^ 8 = 1 then sha3_256 msg else if descOpData x.desc % 2 ^ 8 = 2 then sha3_384 msg else msg

/-- The device after the image of a bank side has been read for its verification. -/
def Dev.imageRead (d : Dev) (n k : Nat) : Dev :=
  let a := d.sideBase n k
  d.touch (iodUse .normal) a (if d.loadError a = 11 then 64 else (parseBank (d.cohRead a 64).1).length)

/-- The device after a line of a bank's tables has joined an engine's cache, read for instance `i`. -/
def Dev.lineCached (d : Dev) (i eng line : Nat) : Dev :=
  { d with tcache := tableFill d.tcache eng line }.touch (d.instUse i 1) line 64

/-- The hart of an access can execute it: the operands exist, the core runs and waits for nothing, and the register's unit is on. -/
def Dev.accessDue (d : Dev) (a : HartAccess) : Prop :=
  accessOk a = true ∧ d.ready a.hart = true ∧ (d.hart a.hart).regClosed a.reg = false

/-- The access lies in one 16-byte block and its address translates, with every check passed, to `pa`, which leaves the device `e`. -/
def Dev.reaches (d : Dev) (a : HartAccess) (t : AccessType) (amo : Bool) (pa pbmt hint : Nat) (e : Dev) : Prop :=
  firstPart a.va.toNat a.size = none ∧ d.reach a.hart a.va.toNat t amo = (.ok pa pbmt hint, e)

/-- The line of `pa` is in the hart's L2 in a state that allows the access, without a mark. -/
def Dev.holdsLine (d : Dev) (k pa : Nat) (owned : Bool) : Prop :=
  ((d.hart k).line (lineAddr pa)).mark = false ∧
    (if owned then ((d.hart k).line (lineAddr pa)).state.owned = true else ((d.hart k).line (lineAddr pa)).state.readable = true)

/-- The L2 holds the line, and no request of an instruction for it has been refused. -/
def Dev.hasLine (d : Dev) (k pa : Nat) (owned : Bool) : Prop :=
  (d.hart k).refused (lineAddr pa) .inst = false ∧ d.holdsLine k pa owned

/-- `size` bytes of the line of `pa` in the hart's L2. -/
def Dev.lineValue (d : Dev) (k pa size : Nat) : Nat :=
  fieldLe (lineBytes ((d.hart k).line (lineAddr pa)).data) (pa % 64) size

/-- After an access that retires: the program counter has moved past it, an integer destination other than x0 holds `v`, the other integer
registers and the other harts are as in `e`, and so are every sub-entry and all stores. -/
def Dev.retired (e t : Dev) (a : HartAccess) (v : Option Word) : Prop :=
  (t.hart a.hart).pc = (e.hart a.hart).pc + BitVec.ofNat 64 a.ilen ∧
    (∀ r, r < 32 → (t.hart a.hart).x r = (if r ≠ 0 ∧ r = a.reg then v.getD ((e.hart a.hart).x r) else (e.hart a.hart).x r)) ∧
    (∀ j, j ≠ a.hart → t.hart j = e.hart j) ∧ t.regs = e.regs ∧ e.stores t

/-- A translation fence may be executed by its hart: the core runs and waits for nothing, and the mode allows it. -/
def Dev.fenceDue (d : Dev) (k : Nat) (l : Hart → CsrLegal) : Prop :=
  k < 240 ∧ d.ready k = true ∧ l (d.hart k) = .ok

/-- A message of an agent on VN4 has left, or waits in its victim buffer behind an earlier one for the slice (R287). -/
def Dev.leaves (d : Dev) (k : Nat) (m : Instr) : Prop := m ∈ d.fab.net ∨ m ∈ (d.hart k).victims

/-- A request waits at an injection point. -/
def Dev.injects (d : Dev) (point init : Nat) (m : Instr) : Prop :=
  ∃ q ∈ tabGet d.fab.injQ point [], q.initiator = init ∧ q.msg = m

/-- A hart whose one walk has ended without a leaf: the pointers that the walk read stay cached. -/
def Hart.walkGone (h : Hart) (w : Walk) : Hart :=
  { h with walks := [], pwc := w.read.foldl (fun l x => pwcFill x l) h.pwc }

/-- A home can serve a request at once and its directory has no entry of the line: the line is homed here, no rule refuses the request, no
transaction of the line is open, no reservation stands against it, and a tracker and a way are free (R288). -/
def Dev.homeFree (d : Dev) (r : HomeReq) (k : TxnKind) : Prop :=
  d.reqOk r = true ∧ r.agent < 245 ∧ d.remoteHome r.line = none ∧ (d.homeRefusal r k).isNone = true ∧ atomicOk k = true ∧
    d.resv (d.homeSlice r.line) r.agent = none ∧ d.txn r.line = none ∧ d.lineReserved (d.homeSlice r.line) r.line r.agent = false ∧
    d.trackersBusy (d.homeSlice r.line) < 192 ∧ d.dirEntry r.line = none ∧ d.setFull r.line = false

/-- A core's request meets an entry of its die's filter that stays, or a free way. -/
def Dev.filterFree (d : Dev) (r : HomeReq) : Prop :=
  r.agent < 240 ∧ (∀ e, d.filterEntry (r.agent / 20) r.line = some e → e.leaving = 0) ∧
    (d.filterEntry (r.agent / 20) r.line = none → (d.filterSet (r.agent / 20) r.line).length < 12)

/-- Pewter serves and holds the line of the request as `p`; its slice has not lost the line. -/
def Dev.pewterHas (d : Dev) (r : HomeReq) (p : PwEntry) : Prop :=
  d.pewterServes = true ∧ d.pewterEntry r.line = some p ∧ p.line = r.line ∧ d.lineLost r.line = false

/-- The device whose next acceptance number has been taken (R374). -/
def Dev.numbered (d : Dev) : Dev := d.set rFsSequence ((d.get rFsSequence + 1) % 2 ^ 32)

/-- A fault of a kind waits at a source, where the source's queue of four had room. -/
def Dev.told (d e : Dev) (kind src : Nat) : Prop :=
  (d.faultQueue src).length < 4 → ∃ m ∈ e.faultQueue src, m.kind = kind

/-- The order hold of an edge is lifted. -/
def Dev.unheld (d : Dev) (e : Nat) : Dev := { d with fab := { d.fab with held := tabErase d.fab.held e } }

/-- The flit waits at a sending adapter, or stands in its retry buffer. -/
def Adapter.carries (a : Adapter) (f : Flit) : Prop := f ∈ a.txq ∨ ∃ r ∈ a.retry, r.flit = f

/-- A fuse that is blown in `f` is blown in `g`, and what no command blows is the same in both. -/
def Fuses.within (f g : Fuses) : Prop :=
  (f.revoked0 = true → g.revoked0 = true) ∧ (f.revoked1 = true → g.revoked1 = true) ∧ f.svn ≤ g.svn ∧
    g = { f with revoked0 := g.revoked0, revoked1 := g.revoked1, svn := g.svn }

end Sys2Proof.Machine
end

