-- ==== Sys2Proof/WellFormed.lean ====
section
/-!
DEFINITION. Which commands name only what the package has: the numbers of harts, dies, engines, instances, slices, links and pins
(Tables 00-1, 00-2, 03-1, 13-1, 14-10, 15-9, 17-2, 21-1), whole lines, and the fields of a frame or an instruction within their widths.
A meaning refuses a command that names what is not there (`noSuchOperand`), and no other.
-/
namespace Sys2Proof

open Sys2Proof.Machine

/-- Harts 0 to 239 (R2). -/
def hartOk (k : Nat) : Bool := k < 240
/-- Dies 0 to 16 (Table 01-1). -/
def dieOk (n : Nat) : Bool := n < 17
/-- Compute dies 0 to 11. -/
def computeDieOk (n : Nat) : Bool := n < 12
/-- Base dies 0 to 3. -/
def baseOk (b : Nat) : Bool := b < 4
/-- Engines: 64 Sterling, 16 Electrum, 8 DEFLATE. -/
def engineOk (e : Nat) : Bool := e < 88
/-- Instances (R76). -/
def instOk (i : Nat) : Bool := i < 4096
/-- Home slices. -/
def sliceOk (s : Nat) : Bool := s < 32
/-- Bank numbers of Electrum. -/
def bankOk (n : Nat) : Bool := n < 64
/-- Sides of a bank. -/
def sideOk (s : Nat) : Bool := s < 2
/-- Routers: 36 on each base die, 16 on the IOD. -/
def routerOk (n : Nat) : Bool := n < 160
/-- Modules and channels: 40 2D modules, then 8 channels for each compute die. -/
def moduleOk (m : Nat) : Bool := m < 136
/-- Ends of modules and channels. -/
def adapterOk (a : Nat) : Bool := a < 272
/-- Memory controllers: 12 DDR5 channels, then 8 HBM stacks. -/
def controllerOk (m : Nat) : Bool := m < 20
/-- Harfort links. -/
def linkOk (l : Nat) : Bool := l < 4
/-- Ring nodes. -/
def nodeOk (n : Nat) : Bool := n < 16
/-- Contacts (R431). -/
def contactOk (c : Nat) : Bool := c < 9216
/-- Integer registers. -/
def xregOk (r : Nat) : Bool := r < 32
/-- Coherence agents of this package and of the links (R276). -/
def agentOk (a : Nat) : Bool := a < 248
/-- A whole line. -/
def lineOk (a : Nat) : Bool := a % 64 = 0
/-- A path. -/
def Path.ok : Path → Bool
  | .ring n => nodeOk n
  | .mailbox _ => true
/-- A unit of Table 00-2. -/
def UnitRef.ok : UnitRef → Bool
  | .core k => hartOk k
  | .cluster c => c < 6
  | .die n => dieOk n
  | .package => true
  | .system => true
/-- Where a register write lands (R15): a word of a page, a CSR of a hart. -/
def RegTarget.ok : RegTarget → Bool
  | .dict p _ _ _ => p.ok
  | .csr k _ _ => hartOk k
  | .mailbox _ off _ => off < 0x1000 && off % 4 = 0
  | .instPage i off _ _ => instOk i && off < 0x1000 && off % 4 = 0
/-- The job start of an instance that there is, or of a shared pool of one of the three classes (R90). -/
def SlotSource.ok : SlotSource → Bool
  | .reserved i => instOk i
  | .pool c _ => 1 ≤ c && c ≤ 3
/-- A hart access: the hart and the register exist, and the size and the length are ones that an instruction has. -/
def HartAccess.ok (a : HartAccess) : Bool :=
  hartOk a.hart && (a.size = 1 || a.size = 2 || a.size = 4 || a.size = 8) && a.reg < 1088 && (a.ilen = 0 || a.ilen = 2 || a.ilen = 4)
/-- An AMO, LR or SC is of 4 or 8 bytes, into an integer register. -/
def HartAccess.atomicOk (a : HartAccess) : Bool := a.ok && (a.size = 4 || a.size = 8) && xregOk a.reg
/-- A home request is of an agent, for a whole line. -/
def HomeReq.ok (r : HomeReq) : Bool := lineOk r.line && agentOk r.agent
/-- A home atomic acts inside its line (R286). -/
def atomicFieldOk (size offset : Nat) : Bool := (size = 4 || size = 8) && offset % size = 0 && offset + size ≤ 64
/-- A request that is translated is of an instance or of a device at a root port (R247). -/
def IommuReq.ok (r : IommuReq) : Bool :=
  match r.inst with
  | some i => instOk i
  | none => r.port < 24

/-- The command names only what the package has. -/
def Instr.wellFormed : Instr → Bool
  | .unitNop p u => p.ok && u.ok
  | .unitEnable p u => p.ok && u.ok
  | .unitQuiesce p u => p.ok && u.ok
  | .unitFence p u => p.ok && u.ok
  | .unitReset p u => p.ok && u.ok
  | .unitPowerOff p u => p.ok && u.ok
  | .powerOffDrainDone u => u.ok
  | .headerCopyUpdate u => u.ok
  | .cclkStepWrite p die _ => p.ok && dieOk die
  | .cclkDividerSwitch die => computeDieOk die
  | .stepVoltageSettled die => computeDieOk die
  | .pllLockLost die => dieOk die
  | .refclkLost => true
  | .lockObjectWrite p _ _ => p.ok
  | .localRegionEnable p n _ => p.ok && n < 16
  | .rgnEnableWrite p _ => p.ok
  | .registerWrite t => t.ok
  | .ringFrameReceive f _ => f.dest < 16 && f.src < 16 && f.seq < 256 && f.cmd < 8
  | .dictRead p _ _ _ => p.ok
  | .dictWrite p _ _ _ => p.ok
  | .dictReadBlock p _ _ _ _ => p.ok
  | .dictWriteBlock p _ _ _ _ _ => p.ok
  | .dictOwnerTimeout => true
  | .notifyReceive node _ _ _ => nodeOk node
  | .syncSend => true
  | .syncReceive t _ => t < 2 ^ 64
  | .syncPeriodMissed => true
  | .syncFreeRunning => true
  | .ringResponseTimeout _ => true
  | .mailboxCommand _ _ => true
  | .jtagSysbusAccess _ _ _ => true
  | .sessionChallenge node => nodeOk node
  | .sessionOpen node => nodeOk node
  | .sessionVerifyDone node => nodeOk node
  | .sessionClose p => p.ok
  | .sessionIdleExpiry node => nodeOk node
  | .sessionIdleWrite p value => p.ok && value < 2 ^ 32
  | .mrActiveDrive => true
  | .mrActiveRelease _ => true
  | .instCreate p => p.ok
  | .instEnable p => p.ok
  | .instResetDrain p => p.ok
  | .instResetSquash p => p.ok
  | .instDestroy p => p.ok
  | .instResetDone inst => instOk inst
  | .sqTailDoorbell inst _ _ => instOk inst
  | .cqHeadWrite inst _ _ => instOk inst
  | .descriptorFetch inst => instOk inst
  | .descriptorReceived inst => instOk inst
  | .jobSlotStart src => src.ok
  | .jobStageComplete _ => true
  | .jobExecuteEnd _ => true
  | .jobOutputDone _ => true
  | .completionRecordWrite _ => true
  | .msiSend inst => instOk inst
  | .dlStart p => p.ok
  | .dlStartDone inst => instOk inst
  | .dlStop p => p.ok
  | .engineFailure eng _ => engineOk eng
  | .slotMoveComplete eng => engineOk eng
  | .sterlingNop _ => true
  | .falcon512Keygen _ => true
  | .falcon1024Keygen _ => true
  | .falcon512Sign _ => true
  | .falcon1024Sign _ => true
  | .falcon512Verify _ => true
  | .falcon1024Verify _ => true
  | .ecdsaP256Verify _ => true
  | .ecdsaP384Verify _ => true
  | .shake128 _ => true
  | .shake256 _ => true
  | .cmacGenerate _ => true
  | .cmacVerify _ => true
  | .pinTranslate _ => true
  | .importFalcon512Public _ => true
  | .importFalcon1024Public _ => true
  | .importP256Public _ => true
  | .importP384Public _ => true
  | .exportPublic _ => true
  | .keyCheck _ => true
  | .drbgReseed b => baseOk b
  | .esHealthFail b _ => baseOk b
  | .esRestart p b _ => p.ok && baseOk b
  | .esStartupDone b _ => baseOk b
  | .engNop p eng => p.ok && engineOk eng
  | .engEnable p eng => p.ok && engineOk eng
  | .engQuiesce p eng => p.ok && engineOk eng
  | .engFence p eng => p.ok && engineOk eng
  | .engReset p eng => p.ok && engineOk eng
  | .engUpdate p eng => p.ok && engineOk eng
  | .updateDrainDone eng => engineOk eng
  | .engineSelfTestDone eng _ => engineOk eng
  | .attKeyDerived b => baseOk b
  | .ksSuspend p => p.ok
  | .ksResume p => p.ok
  | .ksDestroy p => p.ok
  | .ksEraseComplete handle => handle < 1048576
  | .ksImport p => p.ok
  | .importExecuteDone b => baseOk b
  | .ksStart p _ => p.ok
  | .ksUseLimitWrite p _ => p.ok
  | .ksProvisionWrite p sub _ => p.ok && 0x07 ≤ sub && sub ≤ 0x0C
  | .journalRingWrite b => baseOk b
  | .journalRecordVisible b => baseOk b
  | .journalStallExpiry b _ => baseOk b
  | .journalClose b => baseOk b
  | .checkpointTimeTrigger => true
  | .ckCommand p _ => p.ok
  | .checkpointSigned b => baseOk b
  | .journalNop _ => true
  | .journalRead _ => true
  | .journalReadWaitExpiry _ => true
  | .electrumNop _ => true
  | .electrumTranslate _ => true
  | .electrumValidate _ => true
  | .tableLineFill eng slot _ => 64 ≤ eng && eng < 80 && slot < 8
  | .elbLoad0 p n => p.ok && bankOk n
  | .elbLoad1 p n => p.ok && bankOk n
  | .elbLoadDone n side => bankOk n && sideOk side
  | .elbSwitch p n => p.ok && bankOk n
  | .elbUnload0 p n => p.ok && bankOk n
  | .elbUnload1 p n => p.ok && bankOk n
  | .elbUnloadDone n side => bankOk n && sideOk side
  | .deflateNop _ => true
  | .compress _ => true
  | .decompress _ => true
  | .load a _ => a.ok
  | .store a => a.ok
  | .storeBufferDrain hart _ => hartOk hart
  | .amo a _ src => a.atomicOk && xregOk src
  | .lr a => a.atomicOk
  | .sc a src => a.atomicOk && xregOk src
  | .ioLoad a => a.ok
  | .ioAcceptance hart _ => hartOk hart
  | .ioAcceptanceTimeout hart _ => hartOk hart
  | .ioResponse hart _ _ _ => hartOk hart
  | .cboClean a => a.ok
  | .cboFlush a => a.ok
  | .cboInval a => a.ok
  | .cboZero a => a.ok
  | .fence hart _ _ _ => hartOk hart
  | .fenceRelease hart => hartOk hart
  | .fenceI hart => hartOk hart
  | .wcall hart word => hartOk hart && word < 2 ^ 32 && word % 128 = 0x0B
  | .wcallEntry hart => hartOk hart
  | .wret hart => hartOk hart
  | .wretReturn hart => hartOk hart
  | .ecall hart => hartOk hart
  | .mbeinfoWrite hart _ _ => hartOk hart
  | .samplingArm hart _ _ => hartOk hart
  | .counterOverflowSample hart counter record _ => hartOk hart && 3 ≤ counter && counter ≤ 10 && sampleOk record
  | .msiReceive hart file _ => hartOk hart && file < 8
  | .lockstepMismatch lead => lead < 240 && lead % 2 = 0
  | .coreArrayError core _ => hartOk core
  | .pageWalkStep hart _ _ => hartOk hart
  | .sfenceVma hart _ _ => hartOk hart
  | .sinvalVma hart _ _ => hartOk hart
  | .hfenceVvma hart _ _ => hartOk hart
  | .hfenceGvma hart _ _ => hartOk hart
  | .hinvalVvma hart _ _ => hartOk hart
  | .hinvalGvma hart _ _ => hartOk hart
  | .sfenceWInval hart => hartOk hart
  | .sfenceInvalIr hart => hartOk hart
  | .fenceVmaComplete hart => hartOk hart
  | .iommuTranslate r => r.ok
  | .iotinvalVma _ _ _ => true
  | .iotinvalGvma _ _ => true
  | .iodirInvalDdt _ => true
  | .iodirInvalPdt _ _ => true
  | .iofenceC => true
  | .inboundPcieRequest r _ => r.ok
  | .pwEnableWrite p _ => p.ok
  | .pwDrainDone _ => true
  | .pwPreload p => p.ok
  | .pwLock p => p.ok
  | .pwUnlock p => p.ok
  | .pwFlush p => p.ok
  | .pwCommandDone _ => true
  | .prefetchDataReturn slice _ _ => sliceOk slice
  | .patrolScrub slice _ _ => sliceOk slice
  | .readShared r _ _ _ _ => r.ok
  | .readOwn r _ _ _ => r.ok
  | .upgrade r _ _ _ => r.ok
  | .invWrite r _ _ _ _ => r.ok
  | .partialWrite r _ _ _ _ => r.ok
  | .homeFetchAdd r size offset _ _ _ => r.ok && atomicFieldOk size offset
  | .homeSwap r size offset _ _ _ => r.ok && atomicFieldOk size offset
  | .homeCas r size offset _ _ _ _ => r.ok && atomicFieldOk size offset
  | .homeFetchOr r size offset _ _ _ => r.ok && atomicFieldOk size offset
  | .lineMaintainClean r _ _ => r.ok
  | .lineMaintainFlush r _ _ => r.ok
  | .writeBackFull agent line _ _ => lineOk line && agentOk agent
  | .writeBackClean agent line => lineOk line && agentOk agent
  | .evictClean core line => lineOk line && (hartOk core || isRemoteAgent core)
  | .recallAckData agent line _ _ => lineOk line && agentOk agent
  | .recallShare hart _ _ => hartOk hart || isRemoteAgent hart
  | .recallInv hart _ _ _ => hartOk hart || isRemoteAgent hart
  | .inv die _ _ => computeDieOk die || isRemoteAgent die
  | .recallAck agent line _ => lineOk line && agentOk agent
  | .invAck die line => lineOk line && agentOk die
  | .grantAck agent line => lineOk line && agentOk agent
  | .cmpWrite agent line _ => lineOk line && agentOk agent
  | .wbAck hart _ => hartOk hart
  | .retry agent _ _ => agentOk agent
  | .retryGrant agent _ => agentOk agent
  | .dataShared agent _ _ _ => agentOk agent
  | .dataExclusive agent _ _ _ => agentOk agent
  | .atomicData agent line _ => lineOk line && agentOk agent
  | .reservationGrant slice agent => sliceOk slice && agentOk agent
  | .memoryReadData line _ _ => lineOk line
  | .memoryWriteComplete line => lineOk line
  | .directoryPurge die => computeDieOk die
  | .flitReceive router port _ _ => routerHasPort router port
  | .linkReplayRequest router port => routerHasPort router port
  | .routerBypass router _ => routerOk router
  | .injectionGrant point => point < 192
  | .initiatorTimeout _ => true
  | .vnOrderHoldRelease edge => edge < 24
  | .weladeDataFlit adapter _ _ => adapterOk adapter
  | .weladeUpdate adapter _ _ _ => adapterOk adapter
  | .weladeNak adapter _ => adapterOk adapter
  | .weladeReplay adapter _ => adapterOk adapter
  | .weladeResync adapter _ _ => adapterOk adapter
  | .controlFlitSend adapter => adapterOk adapter
  | .nakRepeat adapter => adapterOk adapter
  | .replayTimeout adapter => adapterOk adapter
  | .trainingActive adapter _ _ => adapterOk adapter
  | .capabilityRecord adapter _ => adapterOk adapter
  | .exchangeTimeout module => moduleOk module
  | .trainingTimeout module => moduleOk module
  | .sdRetrain p module => p.ok && module < 52
  | .sdDisable p module => p.ok && module < 52
  | .sdEnable p module => p.ok && module < 52
  | .retrainDrainDone module => moduleOk module
  | .retrainDrainExpiry module => moduleOk module
  | .resyncTimeout module => moduleOk module
  | .mcLineRead line _ _ _ => lineOk line
  | .mcLineWrite line _ _ _ => lineOk line
  | .mcAlert mc _ _ => controllerOk mc
  | .pageIdleClose mc _ => controllerOk mc
  | .mcSwitch p mc => p.ok && controllerOk mc
  | .mcSwitchDone mc _ => controllerOk mc
  | .mcSpareSoft p mc => p.ok && controllerOk mc
  | .mcSpareHard p mc => p.ok && controllerOk mc
  | .mcSpareDone mc _ => controllerOk mc
  | .mcTestModeWrite p mc _ => p.ok && controllerOk mc
  | .blkToNormal p n => p.ok && n < 34
  | .blkToTantalum p n => p.ok && n < 34
  | .handoverReleaseDone n => n < 34
  | .irqToNormal p => p.ok
  | .irqToTantalum p => p.ok
  | .wrEnableWrite p n _ => p.ok && n < 32
  | .scrubListWrite p sub _ => p.ok && 1 ≤ sub && sub ≤ 0x11
  | .debugEnableWrite p sub _ => p.ok && 1 ≤ sub && sub ≤ 4
  | .watchdogKick p _ => p.ok
  | .watchdogExpiry => true
  | .secureLossHartAction hart => hartOk hart
  | .tkRestart p => p.ok
  | .tkRestartDone _ => true
  | .tkDeclareDown p => p.ok
  | .deferredResetApply hart => hartOk hart
  | .faultAccept _ => true
  | .frAck p => p.ok
  | .frClear p => p.ok
  | .srcClear p source => p.ok && source < 1536
  | .clearAll p => p.ok
  | .urgentEscalation element => element < 4096
  | .foldedUrgentEscalation source => source < 1536
  | .regulatorPhaseLoss source => 1456 ≤ source && source < 1536
  | .mgmtLockstepMismatch _ => true
  | .mgmtResume => true
  | .harfortL0 link width => linkOk link && hfWidthOk width
  | .harfortRecordReceive link _ => linkOk link
  | .harfortReplayLimit link => linkOk link
  | .harfortTrainLimit link => linkOk link
  | .hfRetrain p link => p.ok && linkOk link
  | .hfDisable p link => p.ok && linkOk link
  | .hfEnable p link => p.ok && linkOk link
  | .harfortResendTimeout peer => linkOk peer
  | .partitionHoldExpiry _ => true
  | .partVerdictContinue p => p.ok
  | .partVerdictFence p => p.ok
  | .partitionDecideExpiry => true
  | .powerOn _ => true
  | .packageReset => true
  | .packageResetRelease _ _ => true
  | .bootActivate p => p.ok
  | .activateDone => true
  | .bootRevokeKey0 p => p.ok
  | .bootRevokeKey1 p => p.ok
  | .bootAdvanceSvn p => p.ok
  | .fuseBlowDone => true
  | .bootCheck p => p.ok
  | .measExtend p _ => p.ok
  | .attSign p => p.ok
  | .attSigned b => baseOk b
  | .dieResetComplete die _ _ => computeDieOk die
  | .railOutOfTolerance rail => 1 ≤ rail && rail < 8
  | .standbyLoss => true
  | .throttleNFall => true
  | .throttleNRise => true
  | .throttleLift => true
  | .thermalCapTick die _ => dieOk die
  | .thermalCapLift die _ => dieOk die
  | .thermalTrip die point => dieOk die && point < 16
  | .powerCapTick _ => true
  | .powerCapLift _ => true
  | .cgEventWrite p sub value => p.ok && 2 ≤ sub && sub ≤ 9 && value < 65536
  | .pcFreeze p => p.ok
  | .freezeGatherDone => true
  | .pcUnfreeze p => p.ok
  | .bwStart p => p.ok
  | .bwStop p => p.ok
  | .bwWindowEnd => true
  | .mrInSymbolLockLost => true
  | .mret hart => hartOk hart
  | .interruptTaken hart _ => hartOk hart
  | .harfortL0Lost link _ => linkOk link
  | .extest levels => levels.all (fun c => contactOk c.1)

end Sys2Proof
end

