-- ==== Sys2Proof/Certificates/Slice0/Obligations.lean ====
section
/-!
DEFINITION. The statements about the block, one for each group of commands and one for each promise about the whole.
-/
open Sys2Proof Sys2Proof.Machine

/-- The command at the front of the queue is the one that a step runs, with the rest of the queue left waiting. -/
def Obligations.StepRunsTheFrontCommand : Prop :=
  ∀ (c : Instr) (rest : List Instr) (d : Dev), step ⟨c :: rest, d⟩ = exec c ⟨rest, d⟩

/-- With no command waiting a step lets one nanosecond of Invar time pass (the model's choice, log 3): nothing is stored, and no path has a
new answer.
No command adds to the queue or takes from it: every next state has the same waiting commands.
A step takes exactly the front command off the queue, or leaves the queue empty.
Every command that names only what the package has (`Instr.wellFormed`) ends in a next state, in every state; any other command does so too,
or is refused because an operand names what the package does not have; no command faults. -/
def Obligations.TheQueueIsTakenFromTheFront : Prop :=
  (∀ d : Dev, ∃ e, step ⟨[], d⟩ = .next ⟨[], e⟩ ∧ e.clock = d.clock.tick ∧ d.stores e ∧ e.resp = d.resp) ∧
  (∀ i : Instr, KeepsQueue i) ∧
  (∀ s t : State, step s = .next t → t.pending = s.pending.tail) ∧
  (∀ (i : Instr) (s : State), (i.wellFormed = true → ∃ t, exec i s = .next t) ∧
    ((∃ t, exec i s = .next t) ∨ ∃ r, exec i s = .refused (.noSuchOperand r)))

/-- R14: the winner is the first requesting port at or after the pointer, wrapping past the highest port; the pointer moves to the port
after the winner, modulo the number of ports; with no request it does not move.
R14 bounds the wait of every port: a port that requests in every cycle is granted within as many grants as there are ports, whatever the
other ports do. `ptr c` is the pointer in cycle `c`. -/
def Obligations.ArbitersAreRoundRobinAndFair : Prop :=
  (∀ (d : Dev) (name n : Nat) (req : Nat → Bool), 0 < n → d.arbPtr name < n →
    ((∀ i, i < n → req i = false) → d.arbitrate name n req = (none, d)) ∧
    (∀ k, k < n → req ((d.arbPtr name + k) % n) = true → (∀ j, j < k → req ((d.arbPtr name + j) % n) = false) →
      (d.arbitrate name n req).1 = some ((d.arbPtr name + k) % n) ∧
      ((d.arbitrate name n req).2).arbPtr name = ((d.arbPtr name + k) % n + 1) % n ∧
      (∀ other, other ≠ name → ((d.arbitrate name n req).2).arbPtr other = d.arbPtr other))) ∧
  (∀ (n port : Nat) (req : Nat → Nat → Bool) (ptr : Nat → Nat), port < n → ptr 0 < n →
    (∀ c, req c port = true) →
    (∀ c w, arbWinner n (ptr c) (req c) = some w → ptr (c + 1) = arbNext n w) →
    ∃ c, c < n ∧ arbWinner n (ptr c) (req c) = some port)

/-- NOP ends at once with OK and DONE, and changes nothing else.
R10: a command to a unit whose earlier command reads RUNNING returns BUSY, and so does ENABLE of a unit that is QUIESCING; under a parent in
service nothing else changes then.
R11: a command to a unit whose parent is OFF, RESET, FENCED, BYPASSED or FAILED is refused: the write returns BUSY, a read then returns
REFUSED, and nothing else changes; shown where no command of the unit runs, since R10 then governs alone (the model's choice, log 50).
Every unit command to a unit of the package, on a path that exists, ends in a next state, whatever the unit's state. -/
def Obligations.UnitCommandsEndOrAreRefused : Prop :=
  (∀ (s : State) (p : Path) (u : UnitRef), s.dev.unitTakes p u .nop = true →
    Gives (.unitNop p u) s (((s.dev.heard p).set (rUnitCommand u) cmdDone).ok p)) ∧
  (∀ (s : State) (p : Path) (u : UnitRef) (c : UnitCmd), unitExists u = true →
    s.dev.admits p (headerIndex u) 0x08 (unitCmdCode c) = true → s.dev.unitShadow u = false → unitSupports u c = true →
    (s.dev.unitRunning u = true ∨ (c = .enable ∧ s.dev.unit u = stQuiescing)) →
    Reaches (unitInstr p u c) s (fun t => t.answered p .busy ∧
      (s.dev.parentDown u = false → t = (s.dev.heard p).respond p .busy []))) ∧
  (∀ (s : State) (p : Path) (u v : UnitRef) (c : UnitCmd), unitParent u = some v →
    (s.dev.unit v = stOff ∨ s.dev.unit v = stReset ∨ s.dev.unit v = stFenced ∨ s.dev.unit v = stBypassed ∨ s.dev.unit v = stFailed) →
    unitExists u = true → s.dev.admits p (headerIndex u) 0x08 (unitCmdCode c) = true → s.dev.unitShadow u = false →
    unitSupports u c = true → s.dev.unitRunning u = false →
    Gives (unitInstr p u c) s
      (((s.dev.heard p).set (rUnitCommand u) cmdRefused).respond p .busy [])) ∧
  (∀ (s : State) (p : Path) (u : UnitRef), pathOk p = true → unitExists u = true →
    Completes (.unitNop p u) s ∧ Completes (.unitEnable p u) s ∧ Completes (.unitQuiesce p u) s ∧
    Completes (.unitFence p u) s ∧ Completes (.unitReset p u) s ∧ Completes (.unitPowerOff p u) s)

/-- ENABLE starts a core that is READY: it is ACTIVE, its hart runs in M in the Tantalum world from `coreResetVector` with every other
register at its reset value and the MSIs that it took while READY, the command reads DONE, and every other sub-entry and all stores are as before.
FENCE and POWER_OFF of a READY core, and the end of the power-off: FENCE leaves the core FENCED with DONE and its hart stopped; POWER_OFF
leaves it FENCED with RUNNING; when nothing of the core is left, the core is OFF with DONE and its hart is at its reset values. Nothing is
stored on the way.
RESET of a core of which nothing is outstanding, written by the Tantalum world, or to a hart that does not execute Tantalum code: the core
is READY with DONE and its hart is at its reset values. A hart that executes Tantalum code is left running by a normal-world RESET, and the
reset is noted (R415); it is applied when the hart is next in the normal world. -/
def Obligations.CoresFollowTheirCommands : Prop :=
  (∀ (s : State) (p : Path) (k : Nat), s.dev.unitTakes p (.core k) .enable = true → s.dev.unit (.core k) = stReady →
    Reaches (.unitEnable p (.core k)) s (fun t =>
      t.answered p .ok ∧ t.unit (.core k) = stActive ∧ t.get (rUnitCommand (.core k)) = cmdDone ∧
      t.hart k = { Hart.reset with running := true, imsic := (s.dev.hart k).imsic,
                                   pc := BitVec.ofNat 64 (s.dev.get (rCoreResetVector k)) } ∧
      (∀ j, j ≠ k → t.hart j = s.dev.hart j) ∧
      s.dev.regsBut t [rUnitCommand (.core k)] ∧ s.dev.stores t)) ∧
  (∀ (s : State) (p : Path) (k : Nat), s.dev.unit (.die (k / 20)) ≠ stQuiescing →
    (s.dev.unitTakes p (.core k) .fence = true → s.dev.unit (.core k) = stReady → s.dev.pairMode k = false →
      Reaches (.unitFence p (.core k)) s (fun t => t.answered p .ok ∧ t.unit (.core k) = stFenced ∧
        t.get (rUnitCommand (.core k)) = cmdDone ∧ (t.hart k).running = false ∧ s.dev.stores t)) ∧
    (s.dev.unitTakes p (.core k) .powerOff = true → s.dev.unit (.core k) = stReady →
      Reaches (.unitPowerOff p (.core k)) s (fun t => t.answered p .ok ∧ t.unit (.core k) = stFenced ∧
        t.get (rUnitCommand (.core k)) = cmdRunning ∧ (t.hart k).running = false ∧ s.dev.stores t)) ∧
    (k < 240 → s.dev.unit (.core k) = stFenced → s.dev.get (rUnitCommand (.core k)) = cmdRunning →
      s.dev.coreDrained k = true →
      Reaches (.powerOffDrainDone (.core k)) s (fun t => t.unit (.core k) = stOff ∧
        t.get (rUnitCommand (.core k)) = cmdDone ∧ t.hart k = Hart.reset ∧ s.dev.stores t))) ∧
  (∀ (s : State) (p : Path) (k : Nat), s.dev.unit (.die (k / 20)) ≠ stQuiescing → s.dev.unit (.core k) ≠ stFailed →
    (s.dev.unitTakes p (.core k) .reset = true → s.dev.coreDrained k = true →
      (s.dev.pathWorld p = .tantalum ∨ s.dev.cutProtected k = false) →
      Reaches (.unitReset p (.core k)) s (fun t => t.answered p .ok ∧ t.unit (.core k) = stReady ∧
        t.get (rUnitCommand (.core k)) = cmdDone ∧ t.hart k = Hart.reset ∧ s.dev.stores t)) ∧
    (s.dev.unitTakes p (.core k) .reset = true → s.dev.pathWorld p = .normal → s.dev.cutProtected k = true →
      Gives (.unitReset p (.core k)) s ((((s.dev.heard p).set (rUnitCommand (.core k)) cmdRunning).setHart k
        { s.dev.hart k with deferred := true }).ok p)) ∧
    (k < 240 → (s.dev.hart k).deferred = true → s.dev.cutProtected k = false → s.dev.coreDrained k = true →
      s.dev.get (rUnitCommand (.core k)) = cmdRunning →
      Reaches (.deferredResetApply k) s (fun t => t.unit (.core k) = stReady ∧ t.hart k = Hart.reset ∧
        t.get (rUnitCommand (.core k)) = cmdDone ∧ s.dev.stores t)))

/-- A compute die whose cores have all stopped is READY, with DONE, as soon as QUIESCE is written; one with a core that still executes is
QUIESCING, with RUNNING. QUIESCE of an ACTIVE cluster leaves it READY with DONE where no job is on its engines, else QUIESCING with RUNNING;
of a cluster in another state it ends with DONE and changes nothing.
FENCE of a cluster or a compute die leaves it FENCED with DONE, RESET leaves a cluster in RESET with RUNNING, ENABLE of an ACTIVE cluster
ends with DONE and changes nothing; POWER_OFF of a cluster or a compute die leaves it FENCED with RUNNING, and of a compute die that is OFF
ends with DONE. RESET of a compute die that is not FAILED leaves it BYPASSED as soon as none of its cores executes, else QUIESCING, with
RUNNING.
R414, R27, R9: a compute die in reset that passes its self-test, and reports every feature of the package, is READY with its core mode
changed and its channels UP; one that does not is FAILED, its channels with it, and its command REFUSED. -/
def Obligations.DiesAndClustersFollowTheirCommands : Prop :=
  (∀ (s : State) (p : Path) (n : Nat), s.dev.unitTakes p (.die n) .quiesce = true → s.dev.unit (.die n) = stActive →
    s.dev.resetting.contains n = false →
    Reaches (.unitQuiesce p (.die n)) s (fun t =>
      t.answered p .ok ∧
      t.unit (.die n) = (if s.dev.dieBusy n then stQuiescing else stReady) ∧
      t.get (rUnitCommand (.die n)) = (if s.dev.dieBusy n then cmdRunning else cmdDone) ∧
      t.harts = s.dev.harts ∧ s.dev.regsBut t [rUnitCommand (.die n)] ∧ s.dev.stores t)) ∧
  (∀ (s : State) (p : Path),
    (∀ c, s.dev.unitTakes p (.cluster c) .fence = true → unitFenceable (s.dev.unit (.cluster c)) = true →
      Reaches (.unitFence p (.cluster c)) s (fun t => t.answered p .ok ∧ t.unit (.cluster c) = stFenced ∧
        t.get (rUnitCommand (.cluster c)) = cmdDone)) ∧
    (∀ c, s.dev.unitTakes p (.cluster c) .powerOff = true → unitFenceable (s.dev.unit (.cluster c)) = true →
      Reaches (.unitPowerOff p (.cluster c)) s (fun t => t.answered p .ok ∧ t.unit (.cluster c) = stFenced ∧
        t.get (rUnitCommand (.cluster c)) = cmdRunning)) ∧
    (∀ c, s.dev.unitTakes p (.cluster c) .quiesce = true →
      (s.dev.unit (.cluster c) = stActive →
        Reaches (.unitQuiesce p (.cluster c)) s (fun t => t.answered p .ok ∧
          t.unit (.cluster c) = (if t.clusterIdle c then stReady else stQuiescing) ∧
          t.get (rUnitCommand (.cluster c)) = (if t.clusterIdle c then cmdDone else cmdRunning))) ∧
      (s.dev.unit (.cluster c) ≠ stActive →
        Gives (.unitQuiesce p (.cluster c)) s (((s.dev.heard p).set (rUnitCommand (.cluster c)) cmdDone).ok p))) ∧
    (∀ c, s.dev.unitTakes p (.cluster c) .reset = true →
      Reaches (.unitReset p (.cluster c)) s (fun t => t.answered p .ok ∧ t.unit (.cluster c) = stReset ∧
        t.get (rUnitCommand (.cluster c)) = cmdRunning)) ∧
    (∀ c, s.dev.unitTakes p (.cluster c) .enable = true → s.dev.unit (.cluster c) = stActive →
      Gives (.unitEnable p (.cluster c)) s (((s.dev.heard p).set (rUnitCommand (.cluster c)) cmdDone).ok p)) ∧
    (∀ n, s.dev.unitTakes p (.die n) .powerOff = true → unitFenceable (s.dev.unit (.die n)) = true →
      Reaches (.unitPowerOff p (.die n)) s (fun t => t.answered p .ok ∧ t.unit (.die n) = stFenced ∧
        t.get (rUnitCommand (.die n)) = cmdRunning)) ∧
    (∀ n, s.dev.unitTakes p (.die n) .fence = true → unitFenceable (s.dev.unit (.die n)) = true →
      Reaches (.unitFence p (.die n)) s (fun t => t.answered p .ok ∧ t.unit (.die n) = stFenced ∧
        t.get (rUnitCommand (.die n)) = cmdDone)) ∧
    (∀ n, s.dev.unitTakes p (.die n) .reset = true → s.dev.unit (.die n) ≠ stFailed →
      Reaches (.unitReset p (.die n)) s (fun t => t.answered p .ok ∧
        t.unit (.die n) = (if t.dieBusy n then stQuiescing else stBypassed) ∧
        t.get (rUnitCommand (.die n)) = cmdRunning)) ∧
    (∀ n, s.dev.unitTakes p (.die n) .powerOff = true → s.dev.unit (.die n) = stOff →
      Gives (.unitPowerOff p (.die n)) s (((s.dev.heard p).set (rUnitCommand (.die n)) cmdDone).ok p))) ∧
  (∀ (s : State) (n features : Nat), n < 12 → s.dev.unit (.die n) = stBypassed → s.dev.get (rUnitCommand (.die n)) = cmdRunning →
    (bitsClear (s.dev.get rPkgFeatures) features = 0 →
      Reaches (.dieResetComplete n true features) s (fun t => t.unit (.die n) = stReady ∧ t.get (rUnitCommand (.die n)) = cmdDone ∧
        t.get (rCoreModeActive n) = s.dev.get (rCoreModeNext n) ∧ t.get (rPllState n) = 1 ∧
        (∀ i < 8, (t.chan (40 + 8 * n + i)).state = 5) ∧ s.dev.stores t)) ∧
    (∀ pass, (pass = false ∨ bitsClear (s.dev.get rPkgFeatures) features ≠ 0) →
      Reaches (.dieResetComplete n pass features) s (fun t => t.unit (.die n) = stFailed ∧
        t.get (rUnitCommand (.die n)) = cmdRefused ∧ (∀ i < 8, (t.chan (40 + 8 * n + i)).state = 7) ∧
        (bitsClear (s.dev.get rPkgFeatures) features ≠ 0 → s.dev.told t kDieFeaturesLost (680 + n)) ∧ s.dev.stores t)))

/-- A step write that nothing bars is taken with OK; where the PLL is locked and the step due is not in effect, a change to the slower of
the step and the cap begins (R31, R32, R443). Nothing else changes.
R32: while a change is in progress the write returns BUSY and nothing is queued; a step outside the package's features or its speed bin
returns RANGE, even then (R49).
R31: the divider switches at a root cycle whose count since PLL lock is a multiple of 120, toward a faster step only when the voltage has
settled, toward a slower one before that; `cclkActive` takes the new value at the switch, and `stepChanges` counts when the voltage has
settled. With both the change is over.
R30: a die whose PLL loses lock reads LOST; a compute die then reads FAILED, and a base die or the IOD raises `CLOCK_LOST` instead. Without
REFCLK every PLL of the package reads LOST. -/
def Obligations.CclkStepsChangeAsAsked : Prop :=
  (∀ (s : State) (p : Path) (n v : Nat), n < 17 → s.dev.admits p (0x3002 + 0x80 * n) 0x02 v = true →
    s.dev.stepBarred v = false → tabFind s.dev.power.changes n = none →
    Reaches (.cclkStepWrite p n v) s (fun t => t.answered p .ok ∧ t.get (rCclkStep n) = v ∧
      (s.dev.get (rPllState n) = 1 → max v (s.dev.capOf n) ≠ s.dev.get (rCclkActive n) →
        tabFind t.power.changes n = some ⟨max v (s.dev.capOf n), max v (s.dev.capOf n) < s.dev.get (rCclkActive n), false, false⟩) ∧
      (max v (s.dev.capOf n) = s.dev.get (rCclkActive n) → tabFind t.power.changes n = none) ∧
      s.dev.regsBut t [rCclkStep n] ∧ s.dev.stores t)) ∧
  (∀ (s : State) (p : Path) (n v : Nat), n < 17 → s.dev.admits p (0x3002 + 0x80 * n) 0x02 v = true →
    (s.dev.stepBarred v = true → Gives (.cclkStepWrite p n v) s ((s.dev.heard p).respond p .range [])) ∧
    (s.dev.stepBarred v = false → (tabFind s.dev.power.changes n).isSome = true →
      Gives (.cclkStepWrite p n v) s ((s.dev.heard p).respond p .busy []))) ∧
  (∀ (s : State) (n : Nat) (c : StepChange), n < 12 → tabFind s.dev.power.changes n = some c →
    (c.switched = false → (c.faster = true → c.settled = true) → s.dev.sinceLock n % 120 = 0 →
      Reaches (.cclkDividerSwitch n) s (fun t => t.get (rCclkActive n) = c.target ∧
        (c.settled = false → tabFind t.power.changes n = some { c with switched := true }) ∧
        (c.settled = true → s.dev.stepDue n = c.target → tabFind t.power.changes n = none) ∧
        s.dev.regsBut t [rCclkActive n] ∧ s.dev.stores t)) ∧
    (c.settled = false → (c.faster = true ∨ c.switched = true) →
      Reaches (.stepVoltageSettled n) s (fun t =>
        t.get (rStepChanges n) = (s.dev.get (rStepChanges n) + 1) % 2 ^ 32 ∧
        (c.switched = false → tabFind t.power.changes n = some { c with settled := true }) ∧
        (c.switched = true → s.dev.stepDue n = s.dev.get (rCclkActive n) → tabFind t.power.changes n = none) ∧
        s.dev.regsBut t [rStepChanges n] ∧ s.dev.stores t))) ∧
  (∀ s : State,
    (∀ n, n < 12 → s.dev.get (rPllState n) = 1 → s.dev.unit (.die n) ≠ stOff →
      Reaches (.pllLockLost n) s (fun t => t.get (rPllState n) = 2 ∧ t.unit (.die n) = stFailed)) ∧
    (∀ n, 12 ≤ n → n < 17 → s.dev.get (rPllState n) = 1 →
      Gives (.pllLockLost n) s ((s.dev.set (rPllState n) 2).raise kClockLost (if n < 16 then 480 + n else 880) 0)) ∧
    (s.dev.pins.refclk = true → s.dev.pins.rstN = true →
      Reaches .refclkLost s (fun t => (∀ n, n < 17 → t.get (rPllState n) = 2) ∧ t.pins = { s.dev.pins with refclk := false } ∧
        s.dev.stores t)))

/-- R46: a write of 1 to a lock object sets it, and a write of 0 has no effect; both return OK, whether or not the lock was set, as far as
the path's world and session let the write through.
R46: a write to a lock object never returns WRITE_ONCE, whatever the value and the path.
R39: enabling a local region whose base is above its limit, that overlaps another enabled one, or that covers HBM while `hbmInterleave` is 1
or outside its base die's 48 GiB returns RANGE and leaves it as it was; any other is enabled with OK.
R218: there are 256 descriptors, of which a path reaches the one it has selected at 0x2040 through window 0x2041. Enabling it returns RANGE
and leaves it disabled if its base is above its limit, any part of its range lies outside the MMIO space, or its range overlaps another
enabled descriptor; otherwise it is enabled with OK. -/
def Obligations.LocksAndRegionsObeyTheirRules : Prop :=
  (∀ (s : State) (p : Path) (l : LockObject) (v : Nat), s.dev.admits p (lockPlace l).1 (lockPlace l).2 v = true →
    (v = 1 → Gives (.lockObjectWrite p l v) s (((s.dev.heard p).set (rLock l) 1).ok p)) ∧
    (v ≠ 1 → Gives (.lockObjectWrite p l v) s ((s.dev.heard p).ok p))) ∧
  (∀ (s : State) (p : Path) (l : LockObject) (v : Nat), pathOk p = true → s.dev.pathLive p = true →
    ∃ d st, Gives (.lockObjectWrite p l v) s d ∧ tabFind d.resp (pathNum p) = some ⟨st, []⟩ ∧ st ≠ .writeOnce) ∧
  (∀ (s : State) (p : Path) (n : Nat), n < 16 → s.dev.admits p (0x2010 + n) 0x01 1 = true →
    let b := s.dev.get (rLrBase n)
    let l := s.dev.lrLimit n
    let h := s.dev.slotBase
    let die := h + s.dev.get (rLrBaseDie n) * 0xC_0000_0000
    let hbm := b ≤ h + 0x2F_FFFF_FFFF ∧ h ≤ l
    let bad := l < b ∨ (∃ m, m < 16 ∧ m ≠ n ∧ s.dev.flag (rLrEnable m) = true ∧ b ≤ s.dev.lrLimit m ∧ s.dev.get (rLrBase m) ≤ l)
      ∨ (hbm ∧ s.dev.get rHbmInterleave = 1)
      ∨ (hbm ∧ (max b h < die ∨ die + 0xC_0000_0000 ≤ min l (h + 0x2F_FFFF_FFFF)))
    let one := l < 0x4000_0000_0000 ∧ b / 0x1000_0000_0000 = l / 0x1000_0000_0000
    (bad → Gives (.localRegionEnable p n 1) s ((s.dev.heard p).respond p .range [])) ∧
    (¬ bad → one → Gives (.localRegionEnable p n 1) s (((s.dev.heard p).set (rLrEnable n) 1).ok p))) ∧
  (∀ (s : State) (p : Path), s.dev.admits p 0x2041 0x01 1 = true →
    let n := s.dev.selected 0x2040 p
    let b := s.dev.get (rRgnBase n)
    let l := s.dev.get (rRgnLimit n) ||| 0xFFF
    let bad := l < b ∨ b < 0x4_0000_0000_0000 ∨ 0x7_FFFF_FFFF_FFFF < l ∨
      (∃ m, m < 256 ∧ m ≠ n ∧ s.dev.flag (rRgnEnable m) = true ∧ b ≤ s.dev.get (rRgnLimit m) ||| 0xFFF ∧ s.dev.get (rRgnBase m) ≤ l)
    (bad → Gives (.rgnEnableWrite p 1) s ((s.dev.heard p).respond p .range [])) ∧
    (¬ bad → Gives (.rgnEnableWrite p 1) s (((s.dev.heard p).set (rRgnEnable n) 1).ok p)))

/-- R8: within 20 µs of a change the management complex's copy of a unit's header follows: it shows the unit's state, the states of its
descendants, the highest uncleared fault class below it and the number of uncleared faults. Nothing else of the dictionary changes but the
measured power and the counter summary.
R41: sub-index 0x00 of every object that answers, as long as nothing is kept under it, reads as the highest sub-index that the object
implements, in one byte, and the read changes nothing.
R49: an index at which no object stands gives NO_OBJECT, and a sub-index that the object lacks gives NO_SUB, for each of the four
transactions; nothing but the path's answer changes.
R51: a write of a selector selects an element for the writing path alone, and a read gives it back: shown of the fault log's selector,
0x9010, which needs no session. -/
def Obligations.ObjectsOfTheDictionary : Prop :=
  (∀ (s : State) (u : UnitRef), unitExists u = true → u ≠ .package → u ≠ .system →
    Reaches (.headerCopyUpdate u) s (fun t =>
      t.get (rUnitState u) = s.dev.unit u ∧ t.get (rChildStates u) = s.dev.childBits u ∧
      t.get (rFaultSummary u) = s.dev.summaryOf u ∧ t.get (rFaultCount u) = s.dev.faultsOf u ∧
      s.dev.regsBut t [rUnitState u, rChildStates u, rFaultSummary u, rFaultCount u, rPowerMw u, rCounterSummary u] ∧
      t.units = s.dev.units ∧ s.dev.stores t)) ∧
  (∀ (s : State) (p : Path) (idx : Nat) (o : Obj), pathOk p = true → s.dev.pathLive p = true →
    (s.dev.heard p).objectAt p idx = some o → (s.dev.heard p).silentAt p idx = false →
    tabFind s.dev.regs (subKey idx o p 0) = none →
    Gives (.dictRead p idx 0 0) s ((s.dev.heard p).respond p .ok (leBytes 1 (highestSub ((s.dev.heard p).subsAt o))))) ∧
  (∀ (s : State) (p : Path) (idx sub n off : Nat) (b : List Byte) (last : Bool), pathOk p = true → s.dev.pathLive p = true →
    ((s.dev.heard p).objectAt p idx = none →
      Gives (.dictRead p idx sub n) s ((s.dev.heard p).respond p .noObject []) ∧
      Gives (.dictWrite p idx sub b) s ((s.dev.heard p).respond p .noObject []) ∧
      Gives (.dictReadBlock p idx sub off n) s ((s.dev.heard p).respond p .noObject []) ∧
      Gives (.dictWriteBlock p idx sub off b last) s ((s.dev.heard p).respond p .noObject [])) ∧
    (∀ o, (s.dev.heard p).objectAt p idx = some o → (s.dev.heard p).subDesc o sub = none →
      Gives (.dictRead p idx sub n) s ((s.dev.heard p).respond p .noSub []) ∧
      Gives (.dictWrite p idx sub b) s ((s.dev.heard p).respond p .noSub []) ∧
      Gives (.dictReadBlock p idx sub off n) s ((s.dev.heard p).respond p .noSub []) ∧
      Gives (.dictWriteBlock p idx sub off b last) s ((s.dev.heard p).respond p .noSub []))) ∧
  (∀ (s : State) (p : Path) (v : Nat), pathOk p = true → s.dev.pathLive p = true → v < 4096 →
    Gives (.dictWrite p 0x9010 0x01 (leBytes 4 v)) s (((s.dev.heard p).set (rArraySelectAt 0x9010 p) v).ok p) ∧
    Gives (.registerWrite (.dict p 0x9010 0x01 (leBytes 4 v))) s
      ((((s.dev.takeMsg (fun m => m = .registerWrite (.dict p 0x9010 0x01 (leBytes 4 v)))).heard p).set (rArraySelectAt 0x9010 p) v).ok p) ∧
    (s.dev.selected 0x9010 p = v →
      Gives (.dictRead p 0x9010 0x01 0) s ((s.dev.heard p).respond p .ok (leBytes 4 v))))

/-- R60, R448: a segment of a DOMAIN that is not the last is staged for its path and answers OK, shown of `sessionOpen`; a segment whose
offset is not the length so far is turned away with LENGTH and the image is discarded. READ_BLOCK gives the bytes asked for, shown of the
measurement log's head.
R49: a transaction whose owning unit has not answered for 50 µs ends with TIMEOUT. -/
def Obligations.BlocksAreStagedAndAnswersComeInTime : Prop :=
  (∀ (s : State),
    (∀ (n : Nat) (b : List Byte), n < 16 → s.dev.ring.driven = true → b.length ≤ 256 →
      s.dev.stagedImage (.ring n) domSessionOpen = [] →
      Reaches (.dictWriteBlock (.ring n) 0x1100 0x0B 0 b false) s (fun t =>
        t.answered (.ring n) .ok ∧ t.stagedImage (.ring n) domSessionOpen = b ∧ t.regs = s.dev.regs ∧ s.dev.stores t)) ∧
    (∀ (n off : Nat) (b : List Byte), n < 16 → s.dev.ring.driven = true →
      off ≠ (s.dev.stagedImage (.ring n) domSessionOpen).length →
      Reaches (.dictWriteBlock (.ring n) 0x1100 0x0B off b false) s (fun t =>
        t.answered (.ring n) .length ∧ t.stagedImage (.ring n) domSessionOpen = [] ∧ t.regs = s.dev.regs ∧ s.dev.stores t)) ∧
    (∀ (p : Path) (off n : Nat), pathOk p = true → s.dev.pathLive p = true → n ≤ pathLimit p → off + n ≤ s.dev.measHead.length →
      Gives (.dictReadBlock p 0x2202 0x02 off n) s
        ((s.dev.heard p).respond p .ok ((s.dev.measHead.drop off).take n)))) ∧
  (∀ (s : State) (w : WaitTx) (rest : List WaitTx), s.dev.waiting = w :: rest → s.dev.overdue w = true →
    Reaches .dictOwnerTimeout s (fun t => t.answered w.path .timeout ∧ t.waiting = rest ∧ t.regs = s.dev.regs ∧ s.dev.stores t))

/-- R74: the transaction that a mailbox page describes runs when MB_CMD is written, and the page is free again when it ends: a READ of
sub-index 0x00 leaves the code 0 and one byte of data. While a page is BUSY the write is discarded and counted.
R73: a page's registers and data words take 4-byte writes while the page is free, and keep them; while it is BUSY the write is discarded and
counted in `mbCollisions`.
R352, R353, R358: an access of the debug tool needs the invasive enable of its world; where that is off, or a world range refuses it, the
tool gets an error and memory is not touched; a read that a home can serve gives the four bytes. -/
def Obligations.MailboxesAndTheDebugTool : Prop :=
  (∀ (s : State) (w : World) (value : Nat),
    ((s.dev.mailbox w).busy = true →
      Gives (.mailboxCommand w value) s ((s.dev.takeMsg (fun m => m = .mailboxCommand w value)).addSat rMbCollisions 1)) ∧
    (∀ o, (s.dev.mailbox w).busy = false → value % 8 = 1 → (s.dev.mailbox w).addr % 256 = 0 → (s.dev.mailbox w).xfer % 2 ^ 16 = 0 →
      s.dev.objectAt (.mailbox w) (field (s.dev.mailbox w).addr 8 16) = some o →
      s.dev.silentAt (.mailbox w) (field (s.dev.mailbox w).addr 8 16) = false →
      Reaches (.mailboxCommand w value) s (fun t => (t.mailbox w).busy = false ∧ (t.mailbox w).code = 0 ∧
        (t.mailbox w).xfer % 2 ^ 16 = 1 ∧ s.dev.stores t))) ∧
  (∀ (s : State) (w : World) (v : Nat), v < 2 ^ 32 →
    let d (off : Nat) := s.dev.takeMsg (fun m => m = .registerWrite (.mailbox w off v))
    ((s.dev.mailbox w).busy = false →
      Gives (.registerWrite (.mailbox w 0x000 v)) s ((d 0x000).setMailbox w { s.dev.mailbox w with addr := v % 2 ^ 24 }) ∧
      Gives (.registerWrite (.mailbox w 0x004 v)) s ((d 0x004).setMailbox w { s.dev.mailbox w with xfer := v }) ∧
      Gives (.registerWrite (.mailbox w 0x010 v)) s ((d 0x010).setMailbox w { s.dev.mailbox w with irqen := v % 2 }) ∧
      (∀ off, 0x800 ≤ off → off < 0x1000 → off % 4 = 0 →
        Reaches (.registerWrite (.mailbox w off v)) s (fun t => t.mailboxRead w off = v ∧ t.regs = s.dev.regs ∧ s.dev.stores t))) ∧
    ((s.dev.mailbox w).busy = true → ∀ off, off < 0x1000 → off % 4 = 0 →
      Gives (.registerWrite (.mailbox w off v)) s ((d off).addSat rMbCollisions 1))) ∧
  (∀ (s : State) (w : World) (a : Nat) (x : Option Nat), s.dev.pins.rstN = true →
    (s.dev.invasive w = false → Gives (.jtagSysbusAccess w a x) s (s.dev.toTool none)) ∧
    (∀ n, s.dev.invasive w = true → s.dev.refusedBy w a = some n →
      Gives (.jtagSysbusAccess w a x) s ((s.dev.noteRefusal n (s.dev.checkSource a) a).toTool none)) ∧
    (∀ b, s.dev.invasive w = true → s.dev.refusedBy w a = none → s.dev.refusedBy w (a + 3) = none → (s.dev.region a).isMemory = true →
      (s.dev.region (a + 3)).isMapped = true → s.dev.shadowFile a = false →
      s.dev.remoteHome (lineAddr a) = none → s.dev.cohRead a 4 = (b, false) →
      Gives (.jtagSysbusAccess w a none) s ((s.dev.touch (iodUse w) a 4).toTool (some (leNat b)))))

/-- R58, R71: off the ring the package takes in no frame, SYNC or NOTIFY; on the ring a frame with a bad CRC is counted and passed on with
the end mark, unless this node sent or consumes it.
R57, R61: a good READ request to this node for sub-index 0x00 of an object is answered on MR_OUT with a response of one byte under the
request's command and sequence number, and the response is remembered; the same request again is answered from memory. A frame for another
node passes on.
R62: a request of the package's own that gets no response within `ringTimeout` is sent again, up to `ringRetries` times, and then ends with TIMEOUT.
R66: what a NOTIFY frame tells node 0 of a package header is kept, and the system header follows from it. -/
def Obligations.RingFramesAreAnsweredAndRetried : Prop :=
  (∀ (s : State) (f : Frame), f.dest < 16 → f.src < 16 → f.seq < 256 → f.cmd < 8 →
    (s.dev.ring.driven = false → (∀ e, Gives (.ringFrameReceive f e) s s.dev) ∧
      (∀ t ok, t < 2 ^ 64 → Gives (.syncReceive t ok) s s.dev) ∧
      (∀ n idx sub v, n < 16 → Gives (.notifyReceive n idx sub v) s s.dev)) ∧
    (s.dev.ring.driven = true → s.dev.passesOn f = true →
      Reaches (.ringFrameReceive f .bad) s (fun t => t.get rRingCrcErrors = satAdd32 (s.dev.get rRingCrcErrors) 1 ∧
        t.ring.outbox = s.dev.ring.outbox ++ [(f, .k307)] ∧ s.dev.regsBut t [rRingCrcErrors] ∧ s.dev.stores t))) ∧
  (∀ (s : State) (f : Frame), f.dest < 16 → f.src < 16 → f.seq < 256 → f.cmd = cmdRead → f.rsp = false → f.len = 0 → f.payload = [] →
    s.dev.ring.driven = true → f.src ≠ s.dev.get rRingNode →
    (f.dest ≠ s.dev.get rRingNode →
      Reaches (.ringFrameReceive f .good) s (fun t => t.ring = { s.dev.ring with outbox := s.dev.ring.outbox ++ [(f, .good)] } ∧
        t.regs = s.dev.regs ∧ t.units = s.dev.units ∧ s.dev.stores t)) ∧
    (∀ r, f.dest = s.dev.get rRingNode → tabFind s.dev.ring.executing (execKey f.src f.seq) = none →
      tabFind s.dev.ring.remembered f.src = some r → r.seq = f.seq →
      Reaches (.ringFrameReceive f .good) s (fun t => t.ring = { s.dev.ring with outbox := s.dev.ring.outbox ++ [(r, .good)] } ∧
        t.regs = s.dev.regs ∧ t.units = s.dev.units ∧ s.dev.stores t)) ∧
    (∀ o, f.dest = s.dev.get rRingNode → tabFind s.dev.ring.executing (execKey f.src f.seq) = none →
      tabFind s.dev.ring.remembered f.src = none → f.sub = 0 →
      (s.dev.heard (.ring f.src)).objectAt (.ring f.src) f.idx = some o → s.dev.silentAt (.ring f.src) f.idx = false →
      Reaches (.ringFrameReceive f .good) s (fun t => ∃ v,
        t.ring.outbox = s.dev.ring.outbox ++ [(responseTo f .ok (leBytes 1 v), .good)] ∧
        tabFind t.ring.remembered f.src = some (responseTo f .ok (leBytes 1 v)) ∧ s.dev.stores t))) ∧
  (∀ (s : State) (w : RingWait) (rest : List RingWait), s.dev.ring.waits = w :: rest → w.deadline ≤ s.dev.now →
    (w.resends < s.dev.get rRingRetries → s.dev.ring.driven = true →
      Reaches (.ringResponseTimeout w.frame.seq) s (fun t =>
        t.ring.waits = rest ++ [{ w with resends := w.resends + 1, deadline := s.dev.now + s.dev.get rRingTimeout * 1000 }] ∧
        t.ring.outbox = s.dev.ring.outbox ++ [(w.frame, .good)] ∧ t.regs = s.dev.regs ∧ s.dev.stores t)) ∧
    (s.dev.get rRingRetries ≤ w.resends →
      Gives (.ringResponseTimeout w.frame.seq) s
        { s.dev with ring := { s.dev.ring with waits := rest, results := tabPut s.dev.ring.results (256 * w.frame.dest + w.frame.sub) (statusCode .timeout) } })) ∧
  (∀ (s : State) (n sub v : Nat), n < 16 → s.dev.ring.driven = true → 2 ≤ sub → sub ≤ 4 → s.dev.flag rRingMaster = true →
    Reaches (.notifyReceive n 0x1000 sub v) s (fun t => tabFind t.ring.reports (256 * n + sub) = some v ∧
      t.units = s.dev.units ∧ s.dev.stores t))

/-- R65, R393 to R395: node 0 sends its Invar time in a SYNC frame; another node takes the first SYNC after reset as the start of its check,
steps its time by the first offset that it measures, and slews later ones; a SYNC with a CRC error is counted; a period without a valid SYNC
is counted, and after ten the time runs free.
R70 to R72: a package that is powered, out of reset, with its management cores running and a place on the ring drives MR_ACTIVE; it releases
it, closes its sessions and leaves the ring when its reset falls, its management cores have failed or a rail is lost, and when MR_IN loses
symbol lock. -/
def Obligations.TimeAndTheRing : Prop :=
  (∀ s : State,
    (s.dev.flag rRingMaster = true → s.dev.ring.driven = true → s.dev.ring.nextSync ≤ s.dev.elapsed + 50 →
      Reaches .syncSend s (fun t => ∃ f, t.ring.outbox = s.dev.ring.outbox ++ [(f, .good)] ∧ f.cmd = cmdSync ∧
        f.dest = s.dev.get rRingNode ∧ f.src = s.dev.get rRingNode ∧ f.payload = leBytes 8 s.dev.now ∧
        t.ring.nextSync = s.dev.elapsed + 1000000 ∧ t.regs = s.dev.regs ∧ s.dev.stores t)) ∧
    (∀ x, x < 2 ^ 64 → s.dev.ring.driven = true → Gives (.syncReceive x false) s (s.dev.addSat rRingCrcErrors 1)) ∧
    (∀ x, x < 2 ^ 64 → s.dev.ring.driven = true → s.dev.flag rRingMaster = false → s.dev.ring.lastSync = none →
      Reaches (.syncReceive x true) s (fun t => t.ring.lastSync = some s.dev.elapsed ∧ t.ring.missedRun = 0 ∧
        t.clock = s.dev.clock ∧ t.regs = s.dev.regs ∧ s.dev.stores t)) ∧
    (∀ x last, x < 2 ^ 64 → s.dev.ring.driven = true → s.dev.flag rRingMaster = false → s.dev.ring.lastSync = some last →
      s.dev.syncInTime last = true → s.dev.ring.firstDone = false → s.dev.now ≤ x + s.dev.get rSyncPathDelay →
      Reaches (.syncReceive x true) s (fun t => t.now = x + s.dev.get rSyncPathDelay ∧ t.get rSyncState = 1 ∧
        t.ring.firstDone = true ∧ s.dev.regsBut t [rSyncState, rSyncOffset, rSyncSteps] ∧ s.dev.stores t)) ∧
    (∀ x last, x < 2 ^ 64 → s.dev.ring.driven = true → s.dev.flag rRingMaster = false → s.dev.ring.lastSync = some last →
      s.dev.syncInTime last = true → s.dev.ring.firstDone = true → s.dev.clock.hold = 0 → s.dev.now ≤ x + s.dev.get rSyncPathDelay →
      Reaches (.syncReceive x true) s (fun t => t.now = s.dev.now ∧ t.clock.slewUp = true ∧
        t.clock.slew = x + s.dev.get rSyncPathDelay - s.dev.now ∧ t.get rSyncState = 1 ∧
        s.dev.regsBut t [rSyncState, rSyncOffset] ∧ s.dev.stores t)) ∧
    (s.dev.pins.rstN = true → s.dev.flag rRingMaster = false → s.dev.ring.periodEnd < s.dev.elapsed →
      Reaches .syncPeriodMissed s (fun t => t.ring.missedRun = s.dev.ring.missedRun + 1 ∧
        t.get rSyncMissed = (if s.dev.ring.driven then satAdd32 (s.dev.get rSyncMissed) 1 else s.dev.get rSyncMissed) ∧
        s.dev.regsBut t [rSyncMissed] ∧ s.dev.stores t)) ∧
    (10 ≤ s.dev.ring.missedRun → s.dev.flag rRingMaster = false →
      Reaches .syncFreeRunning s (fun t => t.get rSyncState = 2 ∧ t.clock.slew = 0 ∧ t.now = s.dev.now ∧ t.ring.missedRun = 0 ∧
        t.ring.lastSync = none ∧ s.dev.regsBut t [rSyncState] ∧ s.dev.stores t))) ∧
  (∀ s : State,
    (s.dev.pins.rstN = true → s.dev.railsGood = true → s.dev.boot.mgmtFailed = false → s.dev.boot.mgmtDown = false →
      s.dev.ring.driven = false → s.dev.onRing = true →
      Reaches .mrActiveDrive s (fun t => t.ring.driven = true ∧ t.ring.lock = true ∧ t.get rRingState = 2 ∧
        s.dev.regsBut t [rRingState] ∧ s.dev.stores t)) ∧
    (∀ c, s.dev.ring.driven = true → s.dev.releaseDue c = true →
      Reaches (.mrActiveRelease c) s (fun t => t.ring.driven = false ∧ t.ring.sessions = [] ∧ t.get rRingState = 0 ∧
        s.dev.regsBut t [rRingState] ∧ s.dev.stores t)) ∧
    (s.dev.ring.lock = true → s.dev.ring.driven = true →
      Reaches .mrInSymbolLockLost s (fun t => t.ring.driven = false ∧ t.ring.lock = false ∧ t.ring.sessions = [] ∧ t.get rRingState = 1 ∧
        s.dev.regsBut t [rRingState] ∧ s.dev.stores t)))

/-- R67 to R69: a node's challenge is fresh and is kept for its commit; a commit without a challenge is turned away with ACCESS_DENIED; a
commit whose signature verifies opens the node's session in the role of its operator key, and one that does not opens none.
R68: a session closes when its node writes `sessionClose`, when it has been idle for `sessionIdle`, or when that time is set below its idle
time; the other sessions stay. -/
def Obligations.SessionsOpenAndClose : Prop :=
  (∀ (s : State) (n : Nat), n < 16 → s.dev.ring.driven = true →
    (∀ c e, (s.dev.heard (.ring n)).challengeFor n = some (c, e) →
      Gives (.sessionChallenge n) s (e.respond (.ring n) .ok c) ∧ tabFind e.ring.challenges n = some c) ∧
    ((s.dev.heard (.ring n)).challengeFor n = none → Gives (.sessionChallenge n) s ((s.dev.heard (.ring n)).respond (.ring n) .busy [])) ∧
    (∀ img, s.dev.boot.mgmtDown = false → s.dev.stagedImage (.ring n) domSessionOpen = img → img.length = 3074 →
      tabFind s.dev.ring.challenges n = none →
      Reaches (.sessionOpen n) s (fun t => t.answered (.ring n) .accessDenied ∧ t.session n = (s.dev.heard (.ring n)).session n ∧
        t.stagedImage (.ring n) domSessionOpen = [] ∧ s.dev.stores t)) ∧
    (∀ b o, s.dev.sessionDie n = some b → s.dev.openingOn b = some o → o.node = n →
      Reaches (.sessionVerifyDone n) s (fun t =>
        t.ring.sessions = (if o.verifies then tabPut s.dev.ring.sessions n ⟨o.role, s.dev.now⟩ else s.dev.ring.sessions) ∧
        t.answered (.ring n) (if o.verifies then .ok else .accessDenied) ∧ s.dev.stores t))) ∧
  (∀ (s : State) (n : Nat), n < 16 →
    (s.dev.admits (.ring n) 0x1100 0x0C 1 = true →
      Reaches (.sessionClose (.ring n)) s (fun t => t.answered (.ring n) .ok ∧ t.session n = none ∧ t.get rSessionClose = cmdDone ∧
        (∀ m, m ≠ n → t.session m = s.dev.session m) ∧ s.dev.regsBut t [rSessionClose] ∧ s.dev.stores t)) ∧
    (∀ x, tabFind s.dev.ring.sessions n = some x → x.last + s.dev.get rSessionIdle * 1000000 ≤ s.dev.now →
      Reaches (.sessionIdleExpiry n) s (fun t => t.session n = none ∧ (∀ m, m ≠ n → t.session m = s.dev.session m) ∧
        t.regs = s.dev.regs ∧ s.dev.stores t)) ∧
    (∀ p v, v < 2 ^ 32 → s.dev.admits p 0x1100 0x0D v = true →
      Reaches (.sessionIdleWrite p v) s (fun t => t.answered p .ok ∧ t.get rSessionIdle = v ∧
        (∀ e ∈ t.ring.sessions, s.dev.now ≤ e.2.last + v * 1000000) ∧ s.dev.regsBut t [rSessionIdle] ∧ s.dev.stores t)))

/-- R78 to R81, R94, R96: CREATE places the slots of a FREE instance and leaves it READY with its page at reset; ENABLE makes a READY
instance ACTIVE; RESET_DRAIN and RESET_SQUASH take it to QUIESCING; when nothing of it is left the reset ends in READY with indices 0 and
phase 1; DESTROY makes a READY instance FREE and gives its slots back.
R96: the reset of an instance ends when it has no job in flight, no MSI to send and none on its way: READY, indices 0, phase 1, counters of doorbell errors
0, and the command reads DONE. -/
def Obligations.InstancesFollowTheirCommands : Prop :=
  (∀ (s : State) (p : Path), let i := s.dev.selected 0x7800 p
    (∀ mine e, s.dev.admits p 0x7803 0x02 1 = true → s.dev.get (rInstState i) = instFree → s.dev.createBad i = false →
      (s.dev.heard p).placeInst i = some (mine, e) →
      Reaches (.instCreate p) s (fun t => t.answered p .ok ∧ t.get (rInstState i) = instReady ∧ t.get (rInstCommand i) = cmdDone ∧
        (t.inst i).slotMap = mine.map some ∧ (t.inst i).sqTail = 0 ∧ (t.inst i).sqHead = 0 ∧ (t.inst i).cqTail = 0 ∧
        (t.inst i).phase = true ∧ t.slots = e.slots ∧ (∀ k, k ≠ i → t.inst k = s.dev.inst k) ∧ s.dev.stores t)) ∧
    (s.dev.admits p 0x7803 0x02 2 = true → s.dev.get (rInstState i) = instReady → s.dev.get (rSqLog2 i) ≤ s.dev.get (rCqLog2 i) →
      s.dev.get (rSqBase i) % 4096 = 0 → s.dev.get (rCqBase i) % 4096 = 0 →
      Gives (.instEnable p) s ((((s.dev.heard p).set (rInstState i) instActive).set (rInstCommand i) cmdDone).ok p)) ∧
    (s.dev.admits p 0x7803 0x02 3 = true →
      (s.dev.get (rInstState i) = instReady ∨ s.dev.get (rInstState i) = instActive ∨ s.dev.get (rInstState i) = instHalted) →
      Reaches (.instResetDrain p) s (fun t => t.answered p .ok ∧ t.get (rInstState i) = instQuiescing ∧
        t.get (rInstCommand i) = cmdRunning ∧ t.inst i = { s.dev.inst i with squash := false } ∧ t.jobs = s.dev.jobs ∧
        s.dev.regsBut t [rInstState i, rInstCommand i, rHaltStatus i] ∧ s.dev.stores t)) ∧
    (s.dev.admits p 0x7803 0x02 4 = true →
      (s.dev.get (rInstState i) = instReady ∨ s.dev.get (rInstState i) = instActive ∨ s.dev.get (rInstState i) = instHalted) →
      (s.dev.inst i).queue = [] →
      Reaches (.instResetSquash p) s (fun t => t.answered p .ok ∧ t.get (rInstState i) = instQuiescing ∧
        t.get (rInstCommand i) = cmdRunning ∧ t.inst i = { s.dev.inst i with squash := true } ∧ t.jobs = s.dev.jobs ∧
        s.dev.regsBut t [rInstState i, rInstCommand i, rHaltStatus i] ∧ s.dev.stores t)) ∧
    (s.dev.admits p 0x7803 0x02 5 = true → s.dev.get (rInstState i) = instReady →
      Reaches (.instDestroy p) s (fun t => t.answered p .ok ∧ t.get (rInstState i) = instFree ∧ t.get (rInstCommand i) = cmdDone ∧
        (∀ e k, t.slot e k ≠ .inst i) ∧ (t.inst i).slotMap = [] ∧ t.jobs = s.dev.jobs ∧ s.dev.stores t))) ∧
  (∀ (s : State) (i : Nat), i < 4096 → s.dev.get (rInstState i) = instQuiescing → (s.dev.inst i).fetching = false →
    (s.dev.inst i).queue = [] → (s.dev.inst i).msis = [] → s.dev.delivered (s.dev.inst i).sent = true →
    Reaches (.instResetDone i) s (fun t => t.get (rInstState i) = instReady ∧ t.get (rInstCommand i) = cmdDone ∧
      (t.inst i).sqTail = 0 ∧ (t.inst i).sqHead = 0 ∧ (t.inst i).cqHead = 0 ∧ (t.inst i).cqTail = 0 ∧ (t.inst i).phase = true ∧
      (t.inst i).dbErrors = 0 ∧ (t.inst i).slotMap = (s.dev.inst i).slotMap ∧ (∀ k, k ≠ i → t.inst k = s.dev.inst k) ∧
      s.dev.regsBut t [rInstState i, rInstCommand i, rDoorbellErrors i] ∧ s.dev.stores t))

/-- R77, R82: a doorbell within the ring moves SQ_TAIL of an instance that is READY or ACTIVE, and CQ_HEAD releases the records that it
passes; one outside is discarded and counted; a normal-world write to a Tantalum instance changes nothing of it and raises WORLD_VIOLATION;
a FREE instance takes none.
R83: an ACTIVE instance with a descriptor waiting, a quota and a completion entry left begins a fetch; a descriptor that arrives well formed
joins the queue as a job of its instance, Sterling jobs before their key checks, and SQ_HEAD moves on; a fetch that fails halts the instance
with its status and address (R89). -/
def Obligations.DoorbellsAndDescriptorsMakeJobs : Prop :=
  (∀ (s : State) (i v : Nat) (w : World), i < 4096 → v < 2 ^ 16 →
    let d := s.dev.takeMsg (fun m => m = .sqTailDoorbell i w v)
    let e := s.dev.takeMsg (fun m => m = .cqHeadWrite i w v)
    (s.dev.get (rInstState i) = instFree → Gives (.sqTailDoorbell i w v) s d ∧ Gives (.cqHeadWrite i w v) s e) ∧
    (s.dev.get (rInstState i) ≠ instFree → s.dev.pageMismatch i w = true →
      Gives (.sqTailDoorbell i w v) s (d.raisePage i 0) ∧ Gives (.cqHeadWrite i w v) s (e.raisePage i 8)) ∧
    (s.dev.pageMismatch i w = false → (s.dev.get (rInstState i) = instReady ∨ s.dev.get (rInstState i) = instActive) →
      (v < s.dev.sqSize i → Gives (.sqTailDoorbell i w v) s (d.setInst i { s.dev.inst i with sqTail := v })) ∧
      (s.dev.sqSize i ≤ v → Gives (.sqTailDoorbell i w v) s (d.doorbellError i)) ∧
      (∀ k, v < s.dev.cqSize i → v ≠ (s.dev.inst i).cqHead →
        k = (v + s.dev.cqSize i - (s.dev.inst i).cqHead) % s.dev.cqSize i → k ≤ (s.dev.inst i).unreleased →
        Gives (.cqHeadWrite i w v) s
          (e.setInst i { s.dev.inst i with cqHead := v, unreleased := (s.dev.inst i).unreleased - k })) ∧
      (s.dev.cqSize i ≤ v → Gives (.cqHeadWrite i w v) s (e.doorbellError i)))) ∧
  (∀ (s : State) (i : Nat), i < 4096 →
    (s.dev.get (rInstState i) = instActive → (s.dev.inst i).fetching = false → (s.dev.inst i).sqHead ≠ (s.dev.inst i).sqTail →
      (s.dev.inst i).inFlight < s.dev.get (rInstQuota i) →
      (s.dev.inst i).inFlight < s.dev.cqSize i - (s.dev.inst i).unreleased →
      Gives (.descriptorFetch i) s (s.dev.setInst i { s.dev.inst i with fetching := true })) ∧
    (∀ b e, (s.dev.inst i).fetching = true →
      s.dev.instFetch i (s.dev.get (rSqBase i) + 64 * (s.dev.inst i).sqHead) = (.ok b, e) →
      (e.inst i).squash = false → e.decodeDesc i b = jsOk →
      Reaches (.descriptorReceived i) s (fun t => ∃ y, t.job e.nextJob = some y ∧ y.inst = i ∧ y.desc = b ∧
        y.phase = (if e.instClass i = 1 then phKey else phDispatch) ∧ t.nextJob = e.nextJob + 1 ∧
        (t.inst i).queue = (e.inst i).queue ++ [e.nextJob] ∧ (t.inst i).fetching = false ∧
        (t.inst i).sqHead = ((e.inst i).sqHead + 1) % e.sqSize i)) ∧
    (∀ r e, (s.dev.inst i).fetching = true →
      s.dev.instFetch i (s.dev.get (rSqBase i) + 64 * (s.dev.inst i).sqHead) = (r, e) → (∀ b, r ≠ .ok b) →
      Gives (.descriptorReceived i) s
        ((e.setInst i { s.dev.inst i with fetching := false }).haltInst i r.status r.addr 0)))

/-- R84, R90, R104: the head job of an instance starts on the slot that the instance's arbiter grants, or, without reserved slots, on the
pool slot that R90 chooses; it is then in its stage phase. Shown of jobs that draw no random bytes.
R113, R160, R184, R86: the phases of a job that is neither a Sterling job nor a DEFLATE continuation: staging reads its input; an operation
that is done and has output moves on to its output phase and is counted at its engine; the output written, its record is due.
R85, R87: the completion record of a job goes to the completion ring's tail with the ring's phase; the job has then left flight, the tail
moves on, wrapping with a change of phase, `jobsCompleted` counts it, and an MSI is due where the descriptor and the instance ask for one. -/
def Obligations.JobsRunToTheirRecords : Prop :=
  (∀ (s : State) (i j : Nat) (x : Job), i < 4096 → s.dev.starter i = some (j, x) →
    (s.dev.instClass x.inst ≠ 1 ∨ (stRandom (descOpcode x.desc) = 0 ∧ keygenType (descOpcode x.desc) = none)) →
    (∀ q a b e, s.dev.get (rInstSlots i) ≠ 0 → s.dev.noPort i x = false →
      s.dev.arbitrate (arbInstSlots i) (s.dev.ports i x) (fun q => (s.dev.portTakes i x q).isSome) = (some q, e) →
      s.dev.portTakes i x q = some (a, b) →
      Reaches (.jobSlotStart (.reserved i)) s (fun t =>
        t.job j = some { x with phase := phStage, slot := some a, partner := b, rand := [] } ∧ t.arb = e.arb ∧
        t.regs = s.dev.regs ∧ s.dev.stores t)) ∧
    (∀ c w pl e, 1 ≤ c → c ≤ 3 → (s.dev.poolInsts c w).find? (fun i => s.dev.poolStuck i) = none →
      s.dev.arbitrate (arbPool c w) 4096 (fun i => (s.dev.poolInsts c w).contains i && s.dev.poolAsks i) = (some i, e) →
      s.dev.poolSlot i x = some pl →
      Reaches (.jobSlotStart (.pool c w)) s (fun t =>
        t.job j = some { x with phase := phStage, slot := some pl, partner := none, rand := [] } ∧ t.arb = e.arb ∧
        t.regs = s.dev.regs ∧ s.dev.stores t))) ∧
  (∀ (s : State) (j : Nat) (x : Job), s.dev.job j = some x → s.dev.instClass x.inst = 2 →
    (∀ b e, x.phase = phStage → s.dev.instRead x.inst (descIn x.desc) (descInLen x.desc) = (.ok b, e) →
      Reaches (.jobStageComplete j) s (fun t => t.job j = some { x with input := b, phase := phExecute })) ∧
    (∀ pl, x.phase = phExecute → x.opDone = true → x.status = jsOk → x.slot = some pl → x.partner = none →
      64 ≤ pl.1 → pl.1 < 80 →
      Reaches (.jobExecuteEnd j) s (fun t => t.job j = some { x with phase := phOutput } ∧
        t.get (rEngJobs pl.1) = wrapAdd 64 (s.dev.get (rEngJobs pl.1)) 1 ∧ s.dev.stores t)) ∧
    (∀ b n e, x.phase = phOutput → x.ctxOut = [] → x.target = none →
      s.dev.instWrite x.inst (descOut x.desc) x.out true = ((.ok b, n), e) →
      Reaches (.jobOutputDone j) s (fun t => t.job j = some { x with written := n, phase := phComplete }))) ∧
  (∀ (s : State) (j : Nat) (x : Job) (b : List Byte) (n : Nat) (e : Dev), s.dev.job j = some x → x.inst < 4096 → x.phase = phComplete →
    s.dev.instWrite x.inst (s.dev.get (rCqBase x.inst) + 32 * (s.dev.inst x.inst).cqTail) (s.dev.record x) true = ((.ok b, n), e) →
    Reaches (.completionRecordWrite j) s (fun t => t.job j = none ∧
      (t.inst x.inst).cqTail = (if (s.dev.inst x.inst).cqTail + 1 = s.dev.cqSize x.inst then 0 else (s.dev.inst x.inst).cqTail + 1) ∧
      (t.inst x.inst).phase = (if (s.dev.inst x.inst).cqTail + 1 = s.dev.cqSize x.inst then !(s.dev.inst x.inst).phase
        else (s.dev.inst x.inst).phase) ∧
      (t.inst x.inst).unreleased = (s.dev.inst x.inst).unreleased + 1 ∧
      (t.inst x.inst).queue = (s.dev.inst x.inst).queue.filter (fun k => k != j) ∧
      t.get (rJobsCompleted x.inst) = wrapAdd 64 (s.dev.get (rJobsCompleted x.inst)) 1))

/-- R87, R97: an MSI that is due is sent and leaves the list; dirty logging starts with RUNNING, reads DONE once the instance's
earlier messages have arrived, and stops at once.
R93, R105: an engine that fails reads FAILED and raises its fault; one in reset reads RESET and tests itself; an instance's slot whose move
completes stands at its new place. -/
def Obligations.MsisDirtyLoggingAndMoves : Prop :=
  (∀ (s : State) (p : Path) (i : Nat), i < 4096 →
    (∀ tag rest, (s.dev.inst i).msis = tag :: rest →
      Reaches (.msiSend i) s (fun t => (t.inst i).msis = rest ∧ (t.inst i).queue = (s.dev.inst i).queue)) ∧
    (i = s.dev.selected 0x7800 p → s.dev.admits p 0x7804 0x01 1 = true → s.dev.get (rDlControl i) ≠ cmdRunning →
      (s.dev.get (rDlPages i) = 0 ∨ s.dev.inDram (s.dev.get (rDlBitmap i)) ((s.dev.get (rDlPages i) + 7) / 8) = true) →
      Gives (.dlStart p) s (((((s.dev.heard p).setInst i { s.dev.inst i with dlOn := true, dlWait := (s.dev.inst i).sent }).set
        (rDlBitsSet i) 0).set (rDlControl i) cmdRunning).ok p)) ∧
    (s.dev.get (rDlControl i) = cmdRunning → s.dev.delivered (s.dev.inst i).dlWait = true → Gives (.dlStartDone i) s (s.dev.set (rDlControl i) cmdDone)) ∧
    (i = s.dev.selected 0x7800 p → s.dev.admits p 0x7804 0x01 0 = true → s.dev.get (rDlControl i) ≠ cmdRunning →
      Gives (.dlStop p) s ((((s.dev.heard p).setInst i { s.dev.inst i with dlOn := false }).set (rDlControl i) cmdDone).ok p))) ∧
  (∀ (s : State) (e : Nat), e < 88 →
    (s.dev.get (rEngState e) ≠ stOff →
      Reaches (.engineFailure e .failed) s (fun t => t.get (rEngState e) = stFailed ∧ (t.eng e).task = .none) ∧
      Reaches (.engineFailure e .reset) s (fun t => t.get (rEngState e) = stReset ∧ (t.eng e).task = .selfTest)) ∧
    (∀ m, s.dev.moves.filter (fun m => m.eng = e) = [m] → m.inst ≠ 0xFFFE → m.pos < (s.dev.inst m.inst).slotMap.length →
      Reaches (.slotMoveComplete e) s (fun t => (∀ k ∈ t.moves, k.eng ≠ e) ∧
        (t.inst m.inst).slotMap.getD m.pos none = some m.place ∧ t.regs = s.dev.regs ∧ s.dev.stores t)))

/-- R106, R126: NOP ends with DONE; ENABLE of an ACTIVE engine changes nothing else, of a READY one makes it ACTIVE, of a FENCED one starts
its self-test with RUNNING; QUIESCE of an engine with jobs is QUIESCING with RUNNING, of one without READY with DONE, and of one that is not
ACTIVE changes nothing else; FENCE leaves it FENCED with DONE; RESET leaves it in RESET with RUNNING and a self-test.
R125, R410, R451: UPDATE of an ACTIVE Sterling engine whose image has been verified and is of the engines' epoch takes the engine to QUIESCING
with RUNNING; with an image of another epoch the command reads REFUSED and the engine stays as it is; an image not yet verified becomes work
of a management slot with RUNNING, or BUSY is returned where no slot is usable. When the engine's jobs have ended it tests itself, and the
end of the test makes it ACTIVE, or READY in a cluster that does not serve, under the new microcode, or FAILED. -/
def Obligations.EnginesFollowTheirCommands : Prop :=
  (∀ (s : State) (p : Path) (e : Nat),
    (s.dev.engTakes p e 0 → Gives (.engNop p e) s (((s.dev.heard p).set (rEngCommand e) cmdDone).ok p)) ∧
    (s.dev.engTakes p e 1 → s.dev.get (rEngState e) = stActive →
      Gives (.engEnable p e) s (((s.dev.heard p).set (rEngCommand e) cmdDone).ok p)) ∧
    (s.dev.engTakes p e 1 → s.dev.get (rEngState e) = stReady →
      Reaches (.engEnable p e) s (fun t => t.answered p .ok ∧ t.get (rEngState e) = stActive ∧ t.get (rEngCommand e) = cmdDone ∧
        t.jobs = s.dev.jobs ∧ s.dev.stores t)) ∧
    (s.dev.engTakes p e 1 → s.dev.get (rEngState e) = stFenced →
      Gives (.engEnable p e) s ((((s.dev.heard p).setEng e { s.dev.eng e with task := .selfTest, command := true }).set
        (rEngCommand e) cmdRunning).ok p)) ∧
    (s.dev.engTakes p e 2 → s.dev.get (rEngState e) = stActive →
      Reaches (.engQuiesce p e) s (fun t => t.answered p .ok ∧
        t.get (rEngState e) = (if s.dev.engBusy e then stQuiescing else stReady) ∧
        t.get (rEngCommand e) = (if s.dev.engBusy e then cmdRunning else cmdDone) ∧
        s.dev.regsBut t [rEngState e, rEngCommand e] ∧ t.jobs = s.dev.jobs ∧ s.dev.stores t)) ∧
    (s.dev.engTakes p e 2 → s.dev.get (rEngState e) ≠ stActive →
      Gives (.engQuiesce p e) s (((s.dev.heard p).set (rEngCommand e) cmdDone).ok p)) ∧
    (s.dev.engTakes p e 3 → fenceable (s.dev.get (rEngState e)) = true →
      Reaches (.engFence p e) s (fun t => t.answered p .ok ∧ t.get (rEngState e) = stFenced ∧ t.get (rEngCommand e) = cmdDone ∧
        (t.eng e).task = .none)) ∧
    (s.dev.engTakes p e 4 →
      Reaches (.engReset p e) s (fun t => t.answered p .ok ∧ t.get (rEngState e) = stReset ∧ t.get (rEngCommand e) = cmdRunning ∧
        (t.eng e).task = .selfTest ∧ (t.eng e).command = true))) ∧
  (∀ (s : State) (e : Nat),
    (∀ p, s.dev.engTakes p e 6 → s.dev.get (rEngState e) = stActive → s.dev.boot.ucodeOk = true →
      Config.ucodeEpoch (s.dev.dom domStUcodeImage []) = s.dev.get rStUcodeEpoch → s.dev.measRoom = true →
      (∀ w ∈ s.dev.mgmt, w.kind ≠ .ucode e) →
      Reaches (.engUpdate p e) s (fun t => t.answered p .ok ∧ t.get (rEngState e) = stQuiescing ∧ t.get (rEngCommand e) = cmdRunning ∧
        (t.eng e).task = .update)) ∧
    (∀ p, s.dev.engTakes p e 6 → s.dev.get (rEngState e) = stActive → s.dev.boot.ucodeOk = true →
      Config.ucodeEpoch (s.dev.dom domStUcodeImage []) ≠ s.dev.get rStUcodeEpoch →
      Gives (.engUpdate p e) s
        ((((s.dev.heard p).setEng e { s.dev.eng e with task := .none, command := false }).set (rEngCommand e) cmdRefused).ok p)) ∧
    (∀ p, s.dev.engTakes p e 6 → s.dev.get (rEngState e) = stActive → s.dev.boot.ucodeOk = false → s.dev.mgmtChoose false = none →
      Gives (.engUpdate p e) s ((s.dev.heard p).respond p .busy [])) ∧
    (∀ p b, s.dev.engTakes p e 6 → s.dev.get (rEngState e) = stActive → s.dev.boot.ucodeOk = false → s.dev.mgmtChoose false = some b →
      Reaches (.engUpdate p e) s (fun t => t.answered p .ok ∧ t.get (rEngState e) = stActive ∧ t.get (rEngCommand e) = cmdRunning ∧
        (t.eng e).task = .verify ∧ t.mgmt.length = s.dev.mgmt.length + 1 ∧ t.mgmtLoad b = s.dev.mgmtLoad b + 1 ∧
        s.dev.regsBut t [rEngCommand e] ∧ s.dev.stores t)) ∧
    (e < 88 → (s.dev.eng e).task = .update → s.dev.engBusy e = false →
      Gives (.updateDrainDone e) s (s.dev.setEng e { s.dev.eng e with task := .selfTest })) ∧
    (e < 88 → (s.dev.eng e).task = .selfTest →
      Reaches (.engineSelfTestDone e true) s (fun t =>
        t.get (rEngState e) = (if s.dev.clusterServes (engCluster e) then stActive else stReady) ∧ (t.eng e).task = .none ∧ s.dev.stores t ∧
        ((s.dev.eng e).command = true → t.get (rEngCommand e) = cmdDone) ∧
        ((s.dev.eng e).newVer ≠ 0 → t.get (rStEngUcodeVersion e) = (s.dev.eng e).newVer - 1)) ∧
      Reaches (.engineSelfTestDone e false) s (fun t => t.get (rEngState e) = stFailed ∧ (t.eng e).task = .none ∧
        ((s.dev.eng e).command = true → t.get (rEngCommand e) = cmdRefused))))

/-- R122, R123, R411: the health tests of an entropy source fail it, with a count for each test; `esRestart` starts it up again; a start-up
that passes makes it HEALTHY and instantiates its DRBG the first time; a DRBG reseeds at its reseed point while a source is healthy, and
stops serving otherwise. The attestation key is derived on a management slot that has none. -/
def Obligations.EntropyAndKeysOfTheEngines : Prop :=
  ∀ (s : State) (b : Nat), b < 4 →
    (∀ rct, s.dev.get (rEsState b) ≠ 2 →
      Reaches (.esHealthFail b rct) s (fun t => t.get (rEsState b) = 2 ∧
        t.get (if rct then rEsRctFails b else rEsAptFails b) = satAdd32 (s.dev.get (if rct then rEsRctFails b else rEsAptFails b)) 1 ∧
        s.dev.regsBut t [rEsState b, rEsRctFails b, rEsAptFails b, rEsRestart b, rSrcLost (496 + b)] ∧ s.dev.stores t)) ∧
    (∀ p, s.dev.admits p (0x7050 + b) 0x04 1 = true → s.dev.get (rEsRestart b) ≠ cmdRunning →
      Gives (.esRestart p b 1) s ((((s.dev.heard p).set (rEsState b) 0).set (rEsRestart b) cmdRunning).ok p)) ∧
    (s.dev.get (rEsState b) = 0 → (s.dev.drbg b).ready = false →
      Reaches (.esStartupDone b true) s (fun t => t.get (rEsState b) = 1 ∧
        t.drbg b = s.dev.seeded b ∧
        s.dev.regsBut t [rEsState b, rEsRestart b] ∧ s.dev.stores t)) ∧
    ((s.dev.drbg b).serving = true → (s.dev.drbg b).lastSeed + 100000000 ≤ s.dev.now →
      (s.dev.esHealthy b = true →
        Gives (.drbgReseed b) s (((s.dev.takeBytes 64).2.setDrbg b (s.dev.seeded b)).add (rDrbgReseeds b) 1)) ∧
      (s.dev.esHealthy b = false → Gives (.drbgReseed b) s (s.dev.setDrbg b { s.dev.drbg b with serving := false }))) ∧
    (∀ e, s.dev.mgmtEngine b = some e → s.dev.get (rEngState e) = stActive → tabFind s.dev.attKeys e = none →
      Reaches (.attKeyDerived b) s (fun t => tabFind t.attKeys e = some 1 ∧
        t.dom domAttPublicKey [] = padTo 1793 s.dev.attKeyPair.2 ∧ t.regs = s.dev.regs ∧ s.dev.stores t))

/-- Table 04-2: SHAKE128 and SHAKE256 of the input in the number of bytes that the operation data gives; CMAC of the input under key A, cut
to the length asked for; a CMAC check compares with the auxiliary operand. Each ends its operation with its status.
R112: a verification takes its public key from the input where INLINE is set, else from slot A; it ends with OK where the signature
verifies, else with VERIFY_FAILED and a reason; a key that does not decode ends it with BAD_KEY_ENCODING. An ECDSA job signs the message or
its digest, by its hash mode. -/
def Obligations.HashesMacsAndVerifications : Prop :=
  (∀ (s : State) (j : Nat) (x : Job) (e : Dev),
    (s.dev.atWork j 0x30 x e →
      Gives (.shake128 j) s (e.opEnd j { status := jsOk, out := shake128 x.input (descOpData x.desc % 2 ^ 32) })) ∧
    (s.dev.atWork j 0x31 x e →
      Gives (.shake256 j) s (e.opEnd j { status := jsOk, out := shake256 x.input (descOpData x.desc % 2 ^ 32) })) ∧
    (∀ m, s.dev.atWork j 0x40 x e → e.keyOfA x = some m →
      Gives (.cmacGenerate j) s (e.opEnd j { status := jsOk, out := (aesCmac m x.input).take (descOpData x.desc % 2 ^ 8) })) ∧
    (∀ m, s.dev.atWork j 0x41 x e → e.keyOfA x = some m →
      ((aesCmac m x.input).take x.aux.length = x.aux → Gives (.cmacVerify j) s (e.opEnd j { status := jsOk })) ∧
      ((aesCmac m x.input).take x.aux.length ≠ x.aux → Gives (.cmacVerify j) s (e.opEnd j { status := jsMacMismatch })))) ∧
  (∀ (s : State) (j : Nat) (x : Job) (e : Dev) (key msg : List Byte), e.verifies x key msg →
    (∀ h, s.dev.atWork j 0x14 x e → falconKey 9 key = some h →
      Gives (.falcon512Verify j) s (e.opEnd j (verifyEnd (falconCheck 9 h msg x.aux)))) ∧
    (∀ h, s.dev.atWork j 0x15 x e → falconKey 10 key = some h →
      Gives (.falcon1024Verify j) s (e.opEnd j (verifyEnd (falconCheck 10 h msg x.aux)))) ∧
    (∀ q, s.dev.atWork j 0x20 x e → decodePoint p256 key = some q →
      Gives (.ecdsaP256Verify j) s (e.opEnd j (verifyEnd (ecdsaCheck p256 q (ecdsaDigest x msg) x.aux)))) ∧
    (∀ q, s.dev.atWork j 0x21 x e → decodePoint p384 key = some q →
      Gives (.ecdsaP384Verify j) s (e.opEnd j (verifyEnd (ecdsaCheck p384 q (ecdsaDigest x msg) x.aux)))) ∧
    (s.dev.atWork j 0x14 x e → falconKey 9 key = none → Gives (.falcon512Verify j) s (e.opEnd j { status := jsBadKey })) ∧
    (s.dev.atWork j 0x15 x e → falconKey 10 key = none → Gives (.falcon1024Verify j) s (e.opEnd j { status := jsBadKey })) ∧
    (s.dev.atWork j 0x20 x e → decodePoint p256 key = none → Gives (.ecdsaP256Verify j) s (e.opEnd j { status := jsBadKey })) ∧
    (s.dev.atWork j 0x21 x e → decodePoint p384 key = none → Gives (.ecdsaP384Verify j) s (e.opEnd j { status := jsBadKey })))

/-- R112, R118, R119, R135: key generation gives a public key of its parameter set's length and the material of the key to create; signing
gives a signature of its length and the number of its attempt, once the engine's own check of it passes; a signing whose three attempts fail
ends with SIGN_EXHAUSTED and is counted; the first result that fails the check is counted and fences the engine. Shown of jobs without a
guard partner.
R111, R120, R121, R135: NOP ends with OK and takes no slot; a public key that decodes is imported as it is, and one that does not ends the
job with BAD_KEY_ENCODING; an export gives the public part of key A; PIN_TRANSLATE gives the block under key B, or PIN_FORMAT where the
plain PIN field fails a check.
R140: a key whose blob does not unwrap ends the operation with BAD_KEY_ENCODING and corrupts its slot. -/
def Obligations.KeysSignaturesAndPins : Prop :=
  (∀ (s : State) (j : Nat) (x : Job) (e : Dev), x.partner = none →
    (s.dev.atWork j 0x10 x e →
      ∀ k, k = falconKeyPair 9 x.rand → k.2.length = 897 ∧ k.1.length = 1281 ∧
        Gives (.falcon512Keygen j) s
          (e.opEnd j { status := jsOk, out := k.2, key := k.1 ++ k.2, partner := k.2 ++ leBytes 1 0 })) ∧
    (s.dev.atWork j 0x11 x e →
      ∀ k, k = falconKeyPair 10 x.rand → k.2.length = 1793 ∧ k.1.length = 2305 ∧
        Gives (.falcon1024Keygen j) s
          (e.opEnd j { status := jsOk, out := k.2, key := k.1 ++ k.2, partner := k.2 ++ leBytes 1 0 })) ∧
    (∀ m pl sig n f, s.dev.atWork j 0x12 x e → e.keyOfA x = some m → x.slot = some pl → pl.1 < 88 →
      e.engineSigns 9 (m.take 1281) (m.drop 1281) x.rand x.input = (some (sig, n), f) →
      (40 ≤ x.rand.length → sig.length = 666) ∧ 1 ≤ n ∧ n ≤ 3 ∧
      (signatureGood 9 (m.drop 1281) x.input sig = true →
        Gives (.falcon512Sign j) s (f.opEnd j { status := jsOk, out := sig, attempts := n, partner := sig ++ leBytes 1 n })) ∧
      (signatureGood 9 (m.drop 1281) x.input sig = false → x.selfFails = 0 →
        Reaches (.falcon512Sign j) s (fun t => t.get rStSelfCheckFails = satAdd32 (f.get rStSelfCheckFails) 1 ∧
          t.get (rEngState pl.1) = stFenced ∧ (t.eng pl.1).task = .selfTest))) ∧
    (∀ m pl sig n f, s.dev.atWork j 0x13 x e → e.keyOfA x = some m → x.slot = some pl →
      e.engineSigns 10 (m.take 2305) (m.drop 2305) x.rand x.input = (some (sig, n), f) →
      (40 ≤ x.rand.length → sig.length = 1280) ∧ 1 ≤ n ∧ n ≤ 3 ∧
      (signatureGood 10 (m.drop 2305) x.input sig = true →
        Gives (.falcon1024Sign j) s (f.opEnd j { status := jsOk, out := sig, attempts := n, partner := sig ++ leBytes 1 n }))) ∧
    (∀ m f, s.dev.atWork j 0x12 x e → e.keyOfA x = some m →
      e.engineSigns 9 (m.take 1281) (m.drop 1281) x.rand x.input = (none, f) →
      Gives (.falcon512Sign j) s ((f.addSat rStSignExhausted 1).opEnd j { status := jsSignExhausted, attempts := 3 })) ∧
    (∀ m f, s.dev.atWork j 0x13 x e → e.keyOfA x = some m →
      e.engineSigns 10 (m.take 2305) (m.drop 2305) x.rand x.input = (none, f) →
      Gives (.falcon1024Sign j) s ((f.addSat rStSignExhausted 1).opEnd j { status := jsSignExhausted, attempts := 3 }))) ∧
  (∀ (s : State) (j : Nat) (x : Job),
    s.dev.job j = some x → s.dev.instClass x.inst = 1 → descOpcode x.desc = 0 → s.dev.jobReady x.inst j = true → x.target = none →
      Gives (.sterlingNop j) s (s.dev.setJob j { x with phase := phComplete, status := jsOk, detail := 0 })) ∧
  (∀ (s : State) (j : Nat) (x : Job) (e : Dev),
    (s.dev.atWork j 0x60 x e → Gives (.importFalcon512Public j) s
      (e.opEnd j (if (falconKey 9 x.input).isSome then { status := jsOk, key := x.input } else { status := jsBadKey }))) ∧
    (s.dev.atWork j 0x61 x e → Gives (.importFalcon1024Public j) s
      (e.opEnd j (if (falconKey 10 x.input).isSome then { status := jsOk, key := x.input } else { status := jsBadKey }))) ∧
    (s.dev.atWork j 0x62 x e → Gives (.importP256Public j) s
      (e.opEnd j (if (decodePoint p256 x.input).isSome then { status := jsOk, key := x.input } else { status := jsBadKey }))) ∧
    (s.dev.atWork j 0x63 x e → Gives (.importP384Public j) s
      (e.opEnd j (if (decodePoint p384 x.input).isSome then { status := jsOk, key := x.input } else { status := jsBadKey }))) ∧
    (∀ m, s.dev.atWork j 0x68 x e → e.keyOfA x = some m →
      Gives (.exportPublic j) s (e.opEnd j { status := jsOk, out := publicOf (e.keyAt (descKeyA x.desc)).type m })) ∧
    (s.dev.atWork j 0x68 x e → e.keyOfA x = none →
      Gives (.exportPublic j) s ((e.corruptKey (descKeyA x.desc)).opEnd j { status := jsBadKey })) ∧
    (s.dev.atWork j 0x50 x e → e.keyOfA x = none → (e.keyOfB x).isSome = true →
      Gives (.pinTranslate j) s ((e.corruptKey (descKeyA x.desc)).opEnd j { status := jsBadKey })) ∧
    (∀ a b pan, s.dev.atWork j 0x50 x e → e.keyOfA x = some a → e.keyOfB x = some b → panField x.aux = some pan →
      (∀ out, pinTranslation a b pan x.input x.rand = some out →
        Gives (.pinTranslate j) s (e.opEnd j { status := jsOk, out := out })) ∧
      (pinTranslation a b pan x.input x.rand = none → Gives (.pinTranslate j) s (e.opEnd j { status := jsPinFormat }))))

/-- R92, R133, R134: phase 2 of a Sterling job: a job whose checks pass goes on to dispatch with the generation and the handles that they
found, and holds; one whose checks fail has its record due with the status of the first that fails; a handle outside the instance's range is
the first of them, KEY_RANGE.
R130, R131: SUSPEND takes an ACTIVE key to SUSPENDED and RESUME back, DESTROY an ACTIVE one to ERASING with RUNNING; in another state
SUSPEND and RESUME return BUSY. The erasure ends with zeros over the blob area, EMPTY and DONE. Each state is written to the slot's
descriptor in memory. -/
def Obligations.KeysGateJobsAndFollowCommands : Prop :=
  (∀ (s : State) (j : Nat) (x : Job), s.dev.job j = some x → x.phase = phKey → s.dev.instClass x.inst = 1 →
    (∀ a e, s.dev.keyPhase x.inst x.desc = (a, e) → a.status = 0 →
      Gives (.keyCheck j) s (e.setJob j { x with keyOk := true, genA := a.gen, holds := a.holds, target := a.target, phase := phDispatch })) ∧
    (∀ a e, s.dev.keyPhase x.inst x.desc = (a, e) → a.status ≠ 0 →
      Reaches (.keyCheck j) s (fun t => ∃ y, t.job j = some y ∧ y.phase = phComplete ∧ y.status = a.status)) ∧
    (stNamesA x.desc = true → s.dev.keyInRange x.inst (descKeyA x.desc) = false →
      Reaches (.keyCheck j) s (fun t => ∃ y, t.job j = some y ∧ y.phase = phComplete ∧ y.status = jsKeyRange ∧
        t.regs = s.dev.regs ∧ s.dev.stores t))) ∧
  (∀ (s : State) (p : Path) (h : Nat) (k : KeyDesc) (e : Dev), h = s.dev.keySelected p → (s.dev.heard p).keyFetch h = (k, e) →
    s.dev.ks.started = true → s.dev.get (rKsCommand h) ≠ cmdRunning →
    (s.dev.admits p 0x7101 0x0D 1 = true → k.state = ksActive →
      Gives (.ksSuspend p) s (((e.keyPut h { k with state := ksSuspended }).set (rKsCommand h) cmdDone).ok p)) ∧
    (s.dev.admits p 0x7101 0x0D 1 = true → k.state ≠ ksActive → Gives (.ksSuspend p) s (e.respond p .busy [])) ∧
    (s.dev.admits p 0x7101 0x0D 2 = true → k.state = ksSuspended →
      Gives (.ksResume p) s (((e.keyPut h { k with state := ksActive }).set (rKsCommand h) cmdDone).ok p)) ∧
    (s.dev.admits p 0x7101 0x0D 2 = true → k.state ≠ ksSuspended → Gives (.ksResume p) s (e.respond p .busy [])) ∧
    (s.dev.admits p 0x7101 0x0D 3 = true → k.state = ksActive →
      Gives (.ksDestroy p) s (((e.keyPut h { k with state := ksErasing }).set (rKsCommand h) cmdRunning).ok p)) ∧
    (s.dev.admits p 0x7101 0x0D 3 = true → k.state = ksEmpty →
      Gives (.ksDestroy p) s ((e.set (rKsCommand h) cmdDone).ok p)))

/-- R131, R137, R144: the erasure of a slot that no job holds ends; the use limit of a slot and, while it is EMPTY, its provisioning fields
are written to its descriptor; a provisioning write that sets a reserved bit returns RANGE.
R145, R451: an import whose image passes the checks claims its slot and becomes work of a management slot, with RUNNING; one that fails a
check reads REFUSED with the error; while no management slot may take journaled work it returns BUSY. The work's execution appends its
journal record and then waits for it.
R146: the key store starts when its regions are locked, in place and apart: the journals run from their genesis, and the first checkpoint is
triggered; a start whose regions are not returns RANGE, and a second start OK with no effect. -/
def Obligations.KeySlotsAreProvisionedAndImported : Prop :=
  (∀ (s : State) (h : Nat), s.dev.ks.started = true →
    (h < 1048576 → (s.dev.keyAt h).state = ksErasing → s.dev.keyHeld h = false →
      Gives (.ksEraseComplete h) s (((s.dev.cohWrite (unitUse (keyDie h)) (s.dev.blobAddr (s.dev.keyAt h)) (zeros (16 * (s.dev.keyAt h).blobCap))).keyPut h
        { s.dev.keyAt h with state := ksEmpty, type := 0, usage := 0, aesLen := 0, comps := 0, count := 0, limit := 0, blobLen := 0,
                             created := 0 }).set (rKsCommand h) cmdDone)) ∧
    (∀ p k e v, h = s.dev.keySelected p → (s.dev.heard p).keyFetch h = (k, e) →
      (s.dev.admits p 0x7101 0x06 v = true → Gives (.ksUseLimitWrite p v) s ((e.keyPut h { k with limit := v }).ok p)) ∧
      (s.dev.admits p 0x7101 0x07 v = true → k.state = ksEmpty →
        Gives (.ksProvisionWrite p 0x07 v) s ((e.keyPut h { k with tenant := v }).ok p)) ∧
      (s.dev.admits p 0x7101 0x09 v = true → k.state = ksEmpty →
        Gives (.ksProvisionWrite p 0x09 v) s ((e.keyPut h { k with usageMask := v }).ok p)) ∧
      (s.dev.admits p 0x7101 0x07 v = true → k.state ≠ ksEmpty →
        Gives (.ksProvisionWrite p 0x07 v) s (e.respond p .busy [])) ∧
      (s.dev.admits p 0x7101 0x08 v = true → v &&& 0x7000 ≠ 0 →
        Gives (.ksProvisionWrite p 0x08 v) s ((s.dev.heard p).respond p .range [])))) ∧
  (∀ (s : State),
    (∀ p, s.dev.admits p 0x7101 0x0D 4 = true → s.dev.boot.mgmtDown = false → s.dev.mgmtChoose true = none →
      Gives (.ksImport p) s ((s.dev.heard p).respond p .busy [])) ∧
    (∀ p h k e, h = s.dev.keySelected p → s.dev.admits p 0x7101 0x0D 4 = true → s.dev.boot.mgmtDown = false → s.dev.ks.started = true →
      s.dev.get (rKsCommand h) ≠ cmdRunning → s.dev.secureDown = false → (s.dev.mgmtChoose true).isSome = true →
      imageBad (s.dev.dom (domKsImage h) []) = true → (s.dev.heard p).keyFetch h = (k, e) →
      Gives (.ksImport p) s (((e.set (rKsImportError h) 1).set (rKsCommand h) cmdRefused).ok p)) ∧
    (∀ p h k d e f, h = s.dev.keySelected p → s.dev.admits p 0x7101 0x0D 4 = true → s.dev.boot.mgmtDown = false → s.dev.ks.started = true →
      s.dev.get (rKsCommand h) ≠ cmdRunning → s.dev.secureDown = false → (s.dev.mgmtChoose true).isSome = true →
      let image := s.dev.dom (domKsImage h) []
      imageBad image = false → d = (if byteAt image 0 = 2 then s.dev.heard p else ((s.dev.heard p).keyLoad (fieldLe image 8 4)).2) →
      d.keyFetch h = (k, e) → e.importError k image = 0 →
      ((e.keyPut h { k with state := ksPending }).claimKey h k.state).mgmtAdd (.import_ h) image false 0 = some f →
      Gives (.ksImport p) s ((f.set (rKsCommand h) cmdRunning).ok p) ∧ f.ks.claims = e.ks.claims ++ [(h, k.state)] ∧
        f.mgmt.length = e.mgmt.length + 1) ∧
    (∀ b w h, b < 4 → s.dev.mgmtFront b = some w → w.kind = .import_ h → w.seq = none → s.dev.mgmtUsable b true = true →
      Reaches (.importExecuteDone b) s (fun t =>
        t.get (rJnNextSeq b) = s.dev.get (rJnNextSeq b) + 1 ∧
        (s.dev.ck.retry = true → ∃ v, t.mgmtFront b = some v ∧ v.seq = some (s.dev.get (rJnNextSeq b)))))) ∧
  (∀ (s : State) (p : Path), s.dev.admits p 0x7060 0x05 1 = true →
    (s.dev.ks.started = true → Gives (.ksStart p 1) s ((s.dev.heard p).ok p)) ∧
    (s.dev.ks.started = false → s.dev.ksStartOk = false → Gives (.ksStart p 1) s ((s.dev.heard p).respond p .range [])) ∧
    (s.dev.ks.started = false → s.dev.ksStartOk = true →
      Reaches (.ksStart p 1) s (fun t => t.answered p .ok ∧ t.ks.started = true ∧ t.get rKsStart = cmdDone ∧
        t.ck.startTime = s.dev.now ∧
        (∀ b, b < 4 → t.get (rJnState b) = 1) ∧ s.dev.stores t)))

/-- R148, R149: the next staged record is issued where its entry of the ring is free; the oldest issued one becomes visible: it leaves the
staging buffer, and the job that waits for it goes on; a record that is not visible in its time ends its job with JOURNAL_FULL. A base die
that fails closes its journal, and its staged records are lost (R150).
R151, R152: a checkpoint is triggered by a command, or when its time has passed; while the secure side is down a trigger takes none; a
command while a checkpoint is in progress returns BUSY. Its signature on a management slot becomes a journal record for which it waits.
R153, R154: NOP of a read-out instance ends with OK; a READ copies the unread entries that fit its output and goes on to its output phase;
with no entry unread it waits for as long as it asks for, and then ends with none. -/
def Obligations.JournalsGateResultsAndAreRead : Prop :=
  (∀ (s : State) (b : Nat), b < 4 →
    (∀ r, s.dev.jnNext b = some r →
      Reaches (.journalRingWrite b) s (fun t =>
        (∀ y ∈ (t.journal b).staged, y.seq = r.seq → y.issued = true) ∧
        (t.journal b).staged.length = (s.dev.journal b).staged.length ∧ t.regs = s.dev.regs ∧ s.dev.stores t)) ∧
    (∀ r rest, (s.dev.journal b).staged = r :: rest → r.issued = true → s.dev.jobOf b r.seq = none → s.dev.mgmtOf b r.seq = none →
      Reaches (.journalRecordVisible b) s (fun t => (t.journal b).staged = rest ∧ (t.journal b).ringSeq = some r.seq ∧
        (t.journal b).ringHead = r.bytes.drop 96)) ∧
    (∀ seq j x, s.dev.jobOf b seq = some (j, x) → s.dev.job j = some x → x.deadline ≤ s.dev.now → x.target = none →
      Gives (.journalStallExpiry b seq) s (s.dev.setJob j { x with phase := phComplete, status := jsJournalFull })) ∧
    (s.dev.get (rJnState b) ≠ 2 →
      Reaches (.journalClose b) s (fun t => t.get (rJnState b) = 2 ∧ (t.journal b).staged = [] ∧
        t.unit (.die (12 + b)) = stFailed ∧ t.unit (.cluster b) = stFailed))) ∧
  (∀ s : State,
    (s.dev.ks.started = true → s.dev.ckBusy = false → s.dev.ck.lastTime + s.dev.get rCkTimeInterval * 1000000 ≤ s.dev.now →
      s.dev.secureDown = true → s.dev.get rCkCommand ≠ cmdRunning →
      Gives .checkpointTimeTrigger s { s.dev with ck := { s.dev.ck with wasDown := true, lastTime := s.dev.now } }) ∧
    (∀ e, s.dev.ks.started = true → s.dev.ckBusy = false → s.dev.ck.lastTime + s.dev.get rCkTimeInterval * 1000000 ≤ s.dev.now →
      s.dev.secureDown = false → s.dev.get rCkNumber - s.dev.ck.freed < s.dev.ckSize → s.dev.get rCkNumber ≠ 0 → s.dev.ck.wasDown = false →
      s.dev.ckLatched.mgmtAdd (.checkpoint s.dev.ckDue) (s.dev.ckBody s.dev.ckDue s.dev.now) false 0 = some e →
      Reaches .checkpointTimeTrigger s (fun t => t.mgmt = e.mgmt ∧ t.ck.retry = false ∧ t.regs = s.dev.regs ∧ s.dev.stores t)) ∧
    (∀ p, s.dev.admits p 0x706C 0x05 1 = true → s.dev.boot.mgmtDown = false → s.dev.ckBusy = true →
      Gives (.ckCommand p 1) s ((s.dev.heard p).respond p .busy [])) ∧
    (∀ p, s.dev.admits p 0x706C 0x05 1 = true → s.dev.boot.mgmtDown = false → s.dev.ks.started = true → s.dev.ckBusy = false →
      s.dev.get rCkCommand ≠ cmdRunning → s.dev.secureDown = true →
      Reaches (.ckCommand p 1) s (fun t => t.answered p .ok ∧ t.get rCkCommand = cmdRefused ∧ t.ck.wasDown = true ∧
        s.dev.regsBut t [rCkCommand] ∧ s.dev.stores t)) ∧
    (∀ b w rand e f, b < 4 → s.dev.mgmtRuns b MgmtKind.isCheckpoint = true → s.dev.mgmtFront b = some w →
      s.dev.drbgDraw b 72 = some (rand, e) →
      (e.engineSigns 10 s.dev.attKeyPair.1 s.dev.attKeyPair.2 rand w.data = (none, f) →
        Reaches (.checkpointSigned b) s (fun t => t.get (rJnNextSeq b) = s.dev.get (rJnNextSeq b) + 1 ∧
          t.get rStSignExhausted = satAdd32 (s.dev.get rStSignExhausted) 1)) ∧
      (∀ sig n, e.engineSigns 10 s.dev.attKeyPair.1 s.dev.attKeyPair.2 rand w.data = (some (sig, n), f) →
        signatureGood 10 s.dev.attKeyPair.2 w.data sig = true →
        Reaches (.checkpointSigned b) s (fun t => t.get (rJnNextSeq b) = s.dev.get (rJnNextSeq b) + 1 ∧
          ∃ v, t.mgmtFront b = some v ∧ v.seq = some (s.dev.get (rJnNextSeq b)) ∧ v.out = sig)))) ∧
  (∀ (s : State) (j : Nat) (x : Job), s.dev.job j = some x →
    let src := s.dev.get (rJrSource x.inst)
    let n := min (descCap x.desc / jrEntrySize src) (s.dev.jrUnread src)
    let copied : Job := { x with phase := phOutput, copied := n, detail := s.dev.jrNext src, status := jsOk, out := (List.range n).flatMap (fun k => s.dev.jrEntry src (s.dev.jrNext src + k)) }
    (s.dev.readoutReady j 0 = true → x.target = none →
      Gives (.journalNop j) s (s.dev.setJob j { x with phase := phComplete, status := jsOk, detail := 0 })) ∧
    (s.dev.readoutReady j 1 = true → s.dev.firstRead j = true → s.dev.jrUnread src ≠ 0 →
      Gives (.journalRead j) s ((s.dev.jrTouch src (s.dev.jrNext src) n).setJob j copied)) ∧
    (s.dev.readoutReady j 1 = true → s.dev.firstRead j = true → s.dev.jrUnread src = 0 → descOpData x.desc % 2 ^ 32 ≠ 0 →
      Gives (.journalRead j) s (s.dev.setJob j { x with phase := phExecute, deadline := s.dev.inUs (descOpData x.desc % 2 ^ 32) })) ∧
    (s.dev.readWaits j = true → x.deadline ≤ s.dev.now → Gives (.journalReadWaitExpiry j) s ((s.dev.jrTouch src (s.dev.jrNext src) n).setJob j copied)))

/-- R164: LOAD begins the verification of a side that is EMPTY or LOADED, with RUNNING; SWITCH makes the LOADED side ACTIVE and the ACTIVE
one LOADED, or DRAINING while a job is bound to it; UNLOAD empties a LOADED side at once and an ACTIVE one when no job is bound to it.
R164, R166: a verification reads the image; one that finds no error leaves the side LOADED, with the version of its image and DONE; one that
finds an error leaves it EMPTY, with the error's number and REFUSED; an unload that waited ends with the side EMPTY when no job is bound to it. -/
def Obligations.RuleBanksMoveAndAreVerified : Prop :=
  (∀ (s : State) (p : Path) (n : Nat), n < 64 →
    (s.dev.admits p (0x7220 + n) 0x05 1 = true → s.dev.get (rElbCommand n) ≠ cmdRunning → s.dev.sideState n 0 < 2 →
      Reaches (.elbLoad0 p n) s (fun t => t.answered p .ok ∧ t.get (rElbCommand n) = cmdRunning ∧
        t.side n 0 = { s.dev.side n 0 with loading := true } ∧ t.sideState n 0 = s.dev.sideState n 0 ∧
        s.dev.regsBut t [rElbCommand n] ∧ s.dev.stores t)) ∧
    (s.dev.admits p (0x7220 + n) 0x05 2 = true → s.dev.get (rElbCommand n) ≠ cmdRunning → s.dev.sideState n 1 < 2 →
      Reaches (.elbLoad1 p n) s (fun t => t.answered p .ok ∧ t.get (rElbCommand n) = cmdRunning ∧
        t.side n 1 = { s.dev.side n 1 with loading := true } ∧ s.dev.regsBut t [rElbCommand n] ∧ s.dev.stores t)) ∧
    (∀ k, k < 2 → s.dev.admits p (0x7220 + n) 0x05 3 = true → s.dev.get (rElbCommand n) ≠ cmdRunning → s.dev.sideState n k = 1 →
      s.dev.sideState n (1 - k) = 2 →
      Reaches (.elbSwitch p n) s (fun t => t.answered p .ok ∧ t.get (rElbCommand n) = cmdDone ∧ t.sideState n k = 2 ∧
        t.sideState n (1 - k) = (if s.dev.sideFree n (1 - k) then 1 else 3) ∧ t.bankVersion n = (s.dev.side n k).version ∧
        t.jobs = s.dev.jobs ∧ s.dev.regsBut t [rElbCommand n, rElbSideState n k, rElbSideState n (1 - k)] ∧ s.dev.stores t)) ∧
    (s.dev.admits p (0x7220 + n) 0x05 4 = true → s.dev.get (rElbCommand n) ≠ cmdRunning →
      (s.dev.sideState n 0 = 1 →
        Gives (.elbUnload0 p n) s ((((s.dev.heard p).set (rElbSide0State n) 0).set (rElbCommand n) cmdDone).ok p)) ∧
      (s.dev.sideState n 0 = 2 →
        Reaches (.elbUnload0 p n) s (fun t => t.answered p .ok ∧ t.get (rElbCommand n) = cmdRunning ∧ t.sideState n 0 = 2 ∧
          t.side n 0 = { s.dev.side n 0 with unloading := true }))) ∧
    (s.dev.admits p (0x7220 + n) 0x05 5 = true → s.dev.get (rElbCommand n) ≠ cmdRunning →
      (s.dev.sideState n 1 = 1 →
        Gives (.elbUnload1 p n) s ((((s.dev.heard p).set (rElbSide1State n) 0).set (rElbCommand n) cmdDone).ok p)) ∧
      (s.dev.sideState n 1 = 2 →
        Reaches (.elbUnload1 p n) s (fun t => t.answered p .ok ∧ t.get (rElbCommand n) = cmdRunning ∧ t.sideState n 1 = 2 ∧
          t.side n 1 = { s.dev.side n 1 with unloading := true })))) ∧
  (∀ (s : State) (n k : Nat), n < 64 → k < 2 →
    (∀ e, (s.dev.side n k).loading = true → e = s.dev.imageRead n k →
      (s.dev.loadError (s.dev.sideBase n k) = 0 →
        Reaches (.elbLoadDone n k) s (fun t => t.sideState n k = 1 ∧ t.get (rElbCommand n) = cmdDone ∧ t.get (rElbLoadError n) = 0 ∧
          (t.side n k).version = fieldLe (e.cohRead (s.dev.sideBase n k) 64).1 4 4 ∧ (t.side n k).loading = false ∧
          e.regsBut t [rElbSideState n k, rElbCommand n, rElbLoadError n] ∧ e.stores t)) ∧
      (s.dev.loadError (s.dev.sideBase n k) ≠ 0 →
        Reaches (.elbLoadDone n k) s (fun t => t.sideState n k = 0 ∧ t.get (rElbCommand n) = cmdRefused ∧
          t.get (rElbLoadError n) = s.dev.loadError (s.dev.sideBase n k) ∧ (t.side n k).version = 0 ∧
          (t.side n k).loading = false ∧ e.regsBut t [rElbSideState n k, rElbCommand n, rElbLoadError n] ∧ e.stores t))) ∧
    ((s.dev.side n k).unloading = true → s.dev.sideFree n k = true →
      Reaches (.elbUnloadDone n k) s (fun t => t.sideState n k = 0 ∧ t.get (rElbCommand n) = cmdDone ∧ (t.side n k).unloading = false ∧
        t.jobs = s.dev.jobs ∧ s.dev.regsBut t [rElbSideState n k, rElbCommand n] ∧ s.dev.stores t)))

/-- R158, R160 to R162, R175: NOP ends its job with OK; a job that is bound and whose interpretation ends without a missing line ends its
operation with the output and OK, or with the error's status; an unbound job whose bank accepts no bind ends with BANK_UNAVAILABLE; a
missing line of the tables joins the engine's cache and is counted. -/
def Obligations.ElectrumRunsItsTables : Prop :=
  ∀ (s : State) (j : Nat) (x : Job), s.dev.job j = some x → s.dev.instClass x.inst = 2 →
    (descOpcode x.desc = 0 → x.target = none → s.dev.jobReady x.inst j = true →
      Gives (.electrumNop j) s (s.dev.setJob j { x with phase := phComplete, status := jsOk, detail := 0 })) ∧
    (∀ b v, x.phase = phExecute → x.opDone = false → x.bank = some b → s.dev.elRun x = .ok v →
      (descOpcode x.desc = 1 →
        Reaches (.electrumTranslate j) s (fun t => (∃ y, t.job j = some y ∧ y.opDone = true ∧ y.status = jsOk ∧ y.out = v.out ∧
          elResult y = x.version + v.count * 2 ^ 32 + descProfile x.desc * 2 ^ 48 ∧ y.phase = phExecute) ∧ t.get rElBytesIn = wrapAdd 64 (s.dev.get rElBytesIn) v.parsed ∧
          s.dev.regsBut t [rElBytesIn] ∧ s.dev.stores t)) ∧
      (descOpcode x.desc = 2 →
        Reaches (.electrumValidate j) s (fun t => (∃ y, t.job j = some y ∧ y.opDone = true ∧ y.status = jsOk ∧ y.out = v.out ∧
          elResult y = x.version + v.count * 2 ^ 32 + descProfile x.desc * 2 ^ 48) ∧ s.dev.regsBut t [rElBytesIn] ∧ s.dev.stores t))) ∧
    (∀ b f, x.phase = phExecute → x.opDone = false → x.bank = some b → s.dev.elRun x = .error (.fail f) → descOpcode x.desc = 1 →
      Reaches (.electrumTranslate j) s (fun t => (∃ y, t.job j = some y ∧ y.opDone = true ∧ y.status = f.status ∧ y.out = f.out ∧
        (∀ o, f.off = some o → y.detail = o + f.fld * 2 ^ 32 + f.stage * 2 ^ 48 + f.st * 2 ^ 56)) ∧
        s.dev.regsBut t [rElBytesIn] ∧ s.dev.stores t)) ∧
    (x.phase = phExecute → x.opDone = false → x.bank = none → descOpcode x.desc = 2 →
      (bitAt (s.dev.get (rElBankMask x.inst)) (descBank x.desc) = false ∨ s.dev.activeSide (descBank x.desc) = none) →
      Reaches (.electrumValidate j) s (fun t => (∃ y, t.job j = some y ∧ y.opDone = true ∧ y.status = jsBankUnavailable ∧ y.bank = none) ∧
        t.regs = s.dev.regs ∧ s.dev.stores t)) ∧
    (∀ e k line, 64 ≤ e → e < 80 → k < 8 → s.dev.missing e k line = some (j, x) →
      Reaches (.tableLineFill e k line) s (fun t => (e, line) ∈ t.tcache ∧ line ∈ ((t.job j).getD x).seen ∧
        t.get rElTableMisses = wrapAdd 64 (s.dev.get rElTableMisses) 1 ∧ (s.dev.lineCached x.inst e line).stores t))

/-- R179, R180, R183, R186, R187: NOP ends its job with OK; COMPRESS and DECOMPRESS end their operation with the stream's bytes and with the
check and the total in the result; a segment whose context is not its own ends with CONTEXT_INVALID. -/
def Obligations.DeflateRunsItsStreams : Prop :=
  ∀ (s : State) (j : Nat) (x : Job), s.dev.job j = some x → s.dev.instClass x.inst = 3 →
    (descOpcode x.desc = 0 → x.target = none → s.dev.jobReady x.inst j = true →
      Gives (.deflateNop j) s (s.dev.setJob j { x with phase := phComplete, status := jsOk, detail := 0 })) ∧
    (∀ t0, x.phase = phExecute → x.opDone = false → descOpcode x.desc = 1 → s.dev.dfStream x = some t0 →
      Reaches (.compress j) s (fun t => (∃ y, t.job j = some y ∧ y.opDone = true ∧ y.status = jsOk ∧ y.detail = 0 ∧
        y.out = (dfCompress x.desc t0 x.input).1 ∧
        y.result = dfCheckRun (dfFraming x.desc) t0.check x.input + (t0.total + x.input.length) % 2 ^ 32 * 2 ^ 32 ∧
        (dfSingle x.desc = true → y.ctxOut = [])) ∧
        t.get rDfBytesIn = wrapAdd 64 (s.dev.get rDfBytesIn) x.input.length ∧ s.dev.regsBut t [rDfBytesIn] ∧ s.dev.stores t)) ∧
    (∀ t0, x.phase = phExecute → x.opDone = false → descOpcode x.desc = 2 → s.dev.dfStream x = some t0 →
      Reaches (.decompress j) s (fun t => ∃ y, t.job j = some y ∧ y.opDone = true ∧
        y.status = (dfDecompress x.desc t0 x.input).status ∧ y.out = (dfDecompress x.desc t0 x.input).run.output)) ∧
    (x.phase = phExecute → x.opDone = false → s.dev.dfStream x = none →
      (descOpcode x.desc = 1 → Reaches (.compress j) s (fun t => (∃ y, t.job j = some y ∧ y.opDone = true ∧
        y.status = jsContextInvalid ∧ y.out = []) ∧ t.regs = s.dev.regs ∧ s.dev.stores t)) ∧
      (descOpcode x.desc = 2 → Reaches (.decompress j) s (fun t => (∃ y, t.job j = some y ∧ y.opDone = true ∧
        y.status = jsContextInvalid ∧ y.out = []) ∧ t.regs = s.dev.regs ∧ s.dev.stores t)))

/-- R191, R220, R221, R234: a load of a line that the L2 holds takes its bytes, one of bytes that the youngest overlapping store of the
buffer holds takes those, and one under NC or IO takes the home's answer; a load that crosses a 16-byte boundary takes its two parts in
turn.
R217, R223: a load of an I/O register of this package that has its grant is sent with the hart's next tag, and its answer is under way; the
answer completes it. An error of the answer is an access fault of the load (R211). A store's entry leaves the tracker with its answer. An
acceptance, or its timeout after 50 µs, ends the wait of the oldest access to the destination. -/
def Obligations.HartsLoadFromMemoryAndRegisters : Prop :=
  (∀ (s : State) (b a : HartAccess) (pa hint : Nat) (e : Dev), a = s.dev.pointer b → s.dev.accessDue a → (e.region pa).isMemory = true →
    (s.dev.reaches a .load false pa 0 hint e → (e.hart a.hart).storeOnWay pa a.size = false →
      (e.hart a.hart).forwarded pa a.size = none → e.hasLine a.hart pa false →
      Reaches (.load b .none) s (fun t =>
        e.retired t a (some (extended a.size a.signed (e.lineValue a.hart pa a.size))) ∧ (t.hart a.hart).sbuf = (e.hart a.hart).sbuf)) ∧
    (∀ pbmt v, s.dev.reaches a .load false pa pbmt hint e → pbmt ≠ 2 → (e.hart a.hart).storeOnWay pa a.size = false →
      (e.hart a.hart).forwarded pa a.size = some (.value v) →
      Reaches (.load b .none) s (fun t =>
        e.retired t a (some (extended a.size a.signed v)) ∧ (t.hart a.hart).sbuf = (e.hart a.hart).sbuf)) ∧
    (∀ pbmt v, s.dev.reaches a .load false pa pbmt hint e → pbmt ≠ 0 → (e.hart a.hart).sbuf = [] →
      (e.hart a.hart).storeOnWay pa a.size = false → ((e.hart a.hart).line (lineAddr pa)).state = .i →
      (e.hart a.hart).refused (lineAddr pa) .inst = false →
      (e.hart a.hart).homeDone.find? (fun x => x.line = lineAddr pa && x.store = false) = some ⟨lineAddr pa, false, true, v⟩ →
      Reaches (.load b .none) s (fun t => e.retired t a (some (extended a.size a.signed (v / 256 ^ (pa % 64) % 256 ^ a.size))))) ∧
    (∀ n, firstPart a.va.toNat a.size = some n →
      ((s.dev.hart a.hart).half = none → s.dev.reach a.hart a.va.toNat .load false = (.ok pa 0 hint, e) →
        (e.hart a.hart).storeOnWay pa n = false → (e.hart a.hart).forwarded pa n = none → e.hasLine a.hart pa false →
        Reaches (.load b .none) s (fun t => (t.hart a.hart).half = some (e.lineValue a.hart pa n) ∧
          (t.hart a.hart).pc = (e.hart a.hart).pc ∧ (t.hart a.hart).xregs = (e.hart a.hart).xregs ∧ t.regs = e.regs ∧ e.stores t)) ∧
      (∀ v, (s.dev.hart a.hart).half = some v → s.dev.reach a.hart (a.va.toNat + n) .load false = (.ok pa 0 hint, e) →
        (e.hart a.hart).storeOnWay pa (a.size - n) = false → (e.hart a.hart).forwarded pa (a.size - n) = none →
        e.hasLine a.hart pa false →
        Reaches (.load b .none) s (fun t => (t.hart a.hart).half = none ∧
          e.retired t a (some (extended a.size a.signed (v + e.lineValue a.hart pa (a.size - n) * 256 ^ n))))))) ∧
  (∀ (s : State) (k : Nat), k < 240 →
    (∀ b a pa pbmt hint e, a = s.dev.pointer b → a.hart = k → s.dev.accessDue a → s.dev.reaches a .load false pa pbmt hint e →
      (e.region pa).isMemory = false → pa % a.size = 0 → (e.hart k).drained = true → (e.hart k).accepted (e.ioDest pa) 6 = true →
      e.granted (.ioLoad b) = true → e.ioAnswer pa a.size .plain (e.hart k).world = some .ok →
      Reaches (.ioLoad b) s (fun t => (∃ x, (t.hart k).ioLoad = some x ∧ x.tag = (e.hart k).nextTag ∧ x.pa = pa ∧ x.reg = a.reg ∧
        x.answer = some .ok) ∧ (t.hart k).pc = (e.hart k).pc ∧ Instr.ioResponse k (e.hart k).nextTag .ok 0 ∈ t.fab.net)) ∧
    (∀ tag x (data : Word), (s.dev.hart k).loading tag = some x → x.answer = none → x.size = 8 → x.reg < 32 →
      s.dev.unit (.core k) = stActive →
      Reaches (.ioResponse k tag .ok data) s (fun t => (t.hart k).ioLoad = none ∧
        (t.hart k).x x.reg = (if x.reg = 0 then 0 else data) ∧ (t.hart k).pc = (s.dev.hart k).pc + BitVec.ofNat 64 x.ilen)) ∧
    (∀ tag x (data : Word), (s.dev.hart k).loading tag = some x → x.answer = none → x.kind = .plain → x.store = false →
      s.dev.unit (.core k) = stActive →
      Reaches (.ioResponse k tag .error data) s (fun t => (t.hart k).ioLoad = none ∧ (t.hart k).xregs = (s.dev.hart k).xregs ∧
        (s.dev.trapTarget (s.dev.hart k) (exception 5 0) = .m → (t.hart k).csr 0x342 = 5 ∧ (t.hart k).csr 0x343 = x.va.toNat))) ∧
    (∀ tag x, (s.dev.hart k).loading tag = none → (s.dev.hart k).tracked tag = some x → x.answer = none →
      s.dev.unit (.core k) = stActive → (∀ n off, s.dev.ioPlace x.pa ≠ .port n off) →
      Reaches (.ioResponse k tag .ok 0) s (fun t => (t.hart k).tracked tag = none ∧ (t.hart k).sbuf = (s.dev.hart k).sbuf ∧
        t.regs = s.dev.regs ∧ s.dev.stores t)) ∧
    (∀ dest x rest, (s.dev.hart k).accepts = x :: rest → x.dest = dest →
      Gives (.ioAcceptance k dest) s (s.dev.setHart k { s.dev.hart k with accepts := rest })) ∧
    (∀ dest x rest, (s.dev.hart k).accepts = x :: rest → x.dest = dest → x.deadline ≤ s.dev.now →
      Gives (.ioAcceptanceTimeout k dest) s ((s.dev.setHart k { s.dev.hart k with accepts := rest }).raise kAccessTimeout k 0)))

/-- R191, R220, R224: a store enters the buffer, behind every earlier one, and retires without touching memory; one that crosses a 16-byte
boundary enters as two.
R220, R224, R228, R234: the oldest store of the buffer is written into a line that the L2 owns, and leaves the buffer; the rest of the line
is as it was. One under NC or IO leaves when its home has merged it, and a posted one to a register leaves when it is sent. -/
def Obligations.StoresDrainInOrder : Prop :=
  (∀ (s : State) (b a : HartAccess), a = s.dev.pointer b → s.dev.accessDue a →
    (∀ pa pbmt hint e, s.dev.reaches a .store false pa pbmt hint e → ((e.region pa).isMemory = true ∨ pa % a.size = 0) →
      (e.hart a.hart).sbuf.length < 64 →
      Reaches (.store b) s (fun t => e.retired t a none ∧ (t.hart a.hart).sbuf = (e.hart a.hart).sbuf ++
        [e.storeEntry a.hart pa a.size ((s.dev.hart a.hart).getReg a.reg a.size) pbmt hint .plain])) ∧
    (∀ n pa pb hint pa' pb' hint' e e', firstPart a.va.toNat a.size = some n →
      s.dev.reach a.hart a.va.toNat .store false = (.ok pa pb hint, e) →
      e.reach a.hart (a.va.toNat + n) .store false = (.ok pa' pb' hint', e') → (e'.region pa).isMemory = true →
      (e'.region pa').isMemory = true → (e'.hart a.hart).sbuf.length < 63 →
      Reaches (.store b) s (fun t => e'.retired t a none ∧ (t.hart a.hart).sbuf = (e'.hart a.hart).sbuf ++
        [e'.storeEntry a.hart pa n ((s.dev.hart a.hart).getReg a.reg a.size % 256 ^ n) pb hint .plain,
         e'.storeEntry a.hart pa' (a.size - n) ((s.dev.hart a.hart).getReg a.reg a.size / 256 ^ n) pb' hint' .plain]))) ∧
  (∀ (s : State) (k : Nat) (e : StoreEntry) (rest : List StoreEntry), k < 240 → (s.dev.hart k).sbuf = e :: rest →
    s.dev.unit (.core k) = stActive → (s.dev.hart k).tracker.any (fun x => x.home) = false →
    (e.io = false → (s.dev.hart k).refused (lineAddr e.pa) .store = false → ((s.dev.hart k).line (lineAddr e.pa)).state.owned = true →
      Reaches (.storeBufferDrain k .none) s (fun t => (t.hart k).sbuf = rest ∧ ((t.hart k).line (lineAddr e.pa)).state = .m ∧
        ((t.hart k).line (lineAddr e.pa)).data = lineWith ((s.dev.hart k).line (lineAddr e.pa)).data (e.pa % 64) e.size e.data ∧
        (∀ l, l ≠ lineAddr e.pa → (t.hart k).line l = (s.dev.hart k).line l) ∧ (t.hart k).pc = (s.dev.hart k).pc ∧
        (∀ j, j ≠ k → t.hart j = s.dev.hart j) ∧ t.regs = s.dev.regs ∧ s.dev.stores t)) ∧
    (e.io = false → e.pbmt ≠ 0 → e.pbmt ≠ 2 → ((s.dev.hart k).line (lineAddr e.pa)).state = .i →
      (∃ x, (s.dev.hart k).homeDone.find? (fun x => x.line = lineAddr e.pa && x.store = true) = some x) →
      Reaches (.storeBufferDrain k .none) s (fun t => (t.hart k).sbuf = rest ∧ t.regs = s.dev.regs ∧ s.dev.stores t)) ∧
    (e.io = false → e.pbmt = 2 → ((s.dev.hart k).line (lineAddr e.pa)).state = .i → (s.dev.hart k).tracker.length < 32 →
      s.dev.opOf k (lineAddr e.pa) = none →
      Reaches (.storeBufferDrain k .none) s (fun t => (t.hart k).sbuf = rest ∧ s.dev.stores t ∧
        ∃ x, (t.hart k).tracker = (s.dev.hart k).tracker ++ [x] ∧ x.home = true ∧ x.pa = e.pa ∧ x.size = e.size)) ∧
    (e.io = true → e.kind = .plain → s.dev.ioPosted e.pa = true → (s.dev.hart k).accepted (s.dev.ioDest e.pa) 5 = true →
      s.dev.granted (.storeBufferDrain k .none) = true → s.dev.ioAnswer e.pa e.size .plain e.world = some .ok →
      Reaches (.storeBufferDrain k .none) s (fun t => (t.hart k).sbuf = rest ∧ (t.hart k).tracker = (s.dev.hart k).tracker)))

/-- R222: with every earlier store visible and the line owned, an AMO writes the result and gives the old value, and SC writes where its
reservation still stands and gives 0; LR gives the value and reserves its line; an SC without the reservation gives 1 and writes nothing.
R191: an AMO that crosses 16 bytes and a misaligned LR or SC take the misaligned exception.
R225, R273: a cache-block operation on memory that its home has answered retires; CBO.ZERO of a line that the L2 owns makes it zero. A FENCE
whose sets require nothing more retires, and one that must wait retires when what it waits for has come; FENCE.I drops what was fetched when
every earlier store is visible (R226). -/
def Obligations.AtomicsMaintenanceAndFences : Prop :=
  (∀ (s : State) (b a : HartAccess) (src pa hint pbmt : Nat) (e : Dev), a = s.dev.pointer b → amoOk a = true →
    s.dev.ready a.hart = true → src < 32 →
    (∀ op, (firstPart a.va.toNat a.size).isSome = true →
      Gives (.amo b op src) s (s.dev.takeTrap a.hart (s.dev.misalignedTrap a.hart .store a.va.toNat))) ∧
    (a.va.toNat % a.size ≠ 0 →
      Gives (.lr b) s (s.dev.takeTrap a.hart (s.dev.misalignedTrap a.hart .load a.va.toNat)) ∧
      Gives (.sc b src) s (s.dev.takeTrap a.hart (s.dev.misalignedTrap a.hart .store a.va.toNat))) ∧
    ((e.region pa).isMemory = true → (e.hart a.hart).drained = true →
      (∀ op, s.dev.reaches a .store true pa pbmt hint e → pa % 64 + a.size ≤ 64 → e.hasLine a.hart pa true →
        Reaches (.amo b op src) s (fun t =>
          e.retired t a (some (extended a.size true (e.lineValue a.hart pa a.size))) ∧
          ((t.hart a.hart).line (lineAddr pa)).data = lineWith ((e.hart a.hart).line (lineAddr pa)).data (pa % 64) a.size
            (amoResult op a.size (e.lineValue a.hart pa a.size) ((e.hart a.hart).getReg src a.size)))) ∧
      (s.dev.reaches a .load false pa pbmt hint e → a.va.toNat % a.size = 0 → e.hasLine a.hart pa false →
        Reaches (.lr b) s (fun t => e.retired t a (some (extended a.size true (e.lineValue a.hart pa a.size))) ∧
          (t.hart a.hart).resv = some (lineAddr pa))) ∧
      (s.dev.reaches a .store false pa pbmt hint e → a.va.toNat % a.size = 0 → (e.hart a.hart).resv = some (lineAddr pa) →
        e.hasLine a.hart pa true →
        Reaches (.sc b src) s (fun t => e.retired t a (some 0) ∧ (t.hart a.hart).resv = none ∧
          ((t.hart a.hart).line (lineAddr pa)).data = lineWith ((e.hart a.hart).line (lineAddr pa)).data (pa % 64) a.size
            ((e.hart a.hart).getReg src a.size))) ∧
      (s.dev.reaches a .store false pa pbmt hint e → a.va.toNat % a.size = 0 → (e.hart a.hart).resv ≠ some (lineAddr pa) →
        Reaches (.sc b src) s (fun t => e.retired t a (some 1) ∧ (t.hart a.hart).resv = none ∧
          ∀ l, (t.hart a.hart).line l = (e.hart a.hart).line l)))) ∧
  (∀ (s : State) (b a : HartAccess) (pa pbmt hint v : Nat) (e : Dev), a = s.dev.pointer b → s.dev.ready a.hart = true →
    accessOk a = true →
    (s.dev.reach a.hart a.va.toNat .store false = (.ok pa pbmt hint, e) → (e.region pa).isMemory = true →
      (e.hart a.hart).drained = true →
      (e.hart a.hart).homeDone.find? (fun x => x.line = lineAddr pa && x.store = false) = some ⟨lineAddr pa, false, true, v⟩ →
      ((s.dev.hart a.hart).cboLegal .clean = .ok → Reaches (.cboClean b) s (fun t => e.retired t a none)) ∧
      ((s.dev.hart a.hart).cboLegal .flush = .ok → Reaches (.cboFlush b) s (fun t => e.retired t a none)) ∧
      ((s.dev.hart a.hart).cboLegal .inval = .ok → Reaches (.cboInval b) s (fun t => e.retired t a none))) ∧
    ((s.dev.hart a.hart).cboLegal .zero = .ok → s.dev.reach a.hart a.va.toNat .store false = (.ok pa 0 hint, e) →
      (e.region pa).isMemory = true → (e.hart a.hart).drained = true → (e.hart a.hart).refused (lineAddr pa) .inst = false →
      ((e.hart a.hart).line (lineAddr pa)).state.owned = true →
      Reaches (.cboZero b) s (fun t => e.retired t a none ∧ ((t.hart a.hart).line (lineAddr pa)).data = 0 ∧
        ((t.hart a.hart).line (lineAddr pa)).mark = false ∧ ((t.hart a.hart).line (lineAddr pa)).state = .m)) ∧
    (∀ p q tso, (tso = true ∨ fenceEmpty p = true ∨ fenceEmpty q = true ∨ (s.dev.hart a.hart).fenceDone p q = true) →
      Gives (.fence a.hart p q tso) s (s.dev.retire a.hart 4)) ∧
    (∀ p q, fenceEmpty p = false → fenceEmpty q = false → (s.dev.hart a.hart).fenceDone p q = false →
      Gives (.fence a.hart p q false) s (s.dev.setHart a.hart { s.dev.hart a.hart with wait := .fence p q })) ∧
    ((s.dev.hart a.hart).drained = true →
      Gives (.fenceI a.hart) s ((s.dev.setHart a.hart { s.dev.hart a.hart with l1i := [], fetched := [] }).retire a.hart 4))) ∧
  (∀ (s : State) (k : Nat), k < 240 → s.dev.hartRuns k = true → (s.dev.hart k).fenceFree = true →
    Gives (.fenceRelease k) s ((s.dev.setHart k { s.dev.hart k with wait := .none }).retire k 4))

/-- R202: WCALL from S outside a guest in the normal world waits until every earlier access is done; then `mwcepc`, `mwcfid` and `mwcstat`
save where it came from, interrupts are off, the world is Tantalum and the hart runs in M at `mwcvec`; its registers stay. While the secure
side is unavailable the call returns −16 in a0 (R364).
A word of the same opcode that is neither WCALL nor WRET is an illegal instruction (R201).
R203, R204, R357: WRET from M waits likewise, and then returns to S in the normal world at `mwcepc` with the saved interrupt enable; where
the scrub list names the call's function, every register but a0 and a1 then reads 0.
R200, R364, R366: ECALL that is not delegated takes an environment call into M, which saves the mode, the world and the program counter;
while the secure side is unavailable one from S returns −16 instead. MRET gives the saved ones back. An interrupt for M is taken like a
trap, with its cause. -/
def Obligations.WorldCallsAndTraps : Prop :=
  (∀ (s : State) (k : Nat), k < 240 →
    (s.dev.ready k = true → (s.dev.hart k).v = false → (s.dev.hart k).wcallOk = true →
      ((s.dev.hart k).idle = true → s.dev.secureDown = false) →
      Gives (.wcall k wcallWord) s (s.dev.setHart k { s.dev.hart k with wait := .wcall })) ∧
    (∀ w, s.dev.ready k = true → w < 2 ^ 32 → w % 128 = 0x0B → w ≠ wcallWord → w ≠ wretWord →
      Gives (.wcall k w) s (s.dev.takeTrap k (exception 2 w))) ∧
    (s.dev.hartRuns k = true → (s.dev.hart k).wait = .wcall → (s.dev.hart k).idle = true → s.dev.secureDown = false →
      Reaches (.wcallEntry k) s (fun t => (t.hart k).priv = .m ∧ (t.hart k).wait = .none ∧ (t.hart k).inWcall = true ∧
        (t.hart k).pc = BitVec.ofNat 64 ((s.dev.hart k).csr 0x7C1) ∧ (t.hart k).csr 0x7C2 = ((s.dev.hart k).pc + 4).toNat ∧
        (t.hart k).csr 0x7C3 = ((s.dev.hart k).x 17).toNat ∧ bitAt ((t.hart k).csr 0x7C4) 3 = bitAt ((s.dev.hart k).csr 0x300) 3 ∧
        bitAt ((t.hart k).csr 0x300) 3 = false ∧ (t.hart k).world = .tantalum ∧ (t.hart k).xregs = (s.dev.hart k).xregs ∧
        (t.hart k).fregs = (s.dev.hart k).fregs ∧ (∀ j, j ≠ k → t.hart j = s.dev.hart j) ∧ t.regs = s.dev.regs ∧ s.dev.stores t)) ∧
    (s.dev.hartRuns k = true → (s.dev.hart k).wait = .wcall → (s.dev.hart k).idle = true → s.dev.secureDown = true →
      Reaches (.wcallEntry k) s (fun t => (t.hart k).x 10 = 0xFFFF_FFFF_FFFF_FFF0 ∧ (t.hart k).priv = (s.dev.hart k).priv ∧
        (t.hart k).pc = (s.dev.hart k).pc + 4 ∧ (t.hart k).wait = .none ∧ t.regs = s.dev.regs ∧ s.dev.stores t))) ∧
  (∀ (s : State) (k : Nat), k < 240 →
    (s.dev.ready k = true → (s.dev.hart k).priv = .m →
      Gives (.wret k) s (s.dev.setHart k { s.dev.hart k with wait := .wret })) ∧
    (s.dev.hartRuns k = true → (s.dev.hart k).wait = .wret → (s.dev.hart k).idle = true →
      Reaches (.wretReturn k) s (fun t => (t.hart k).priv = .s ∧ (t.hart k).v = false ∧ (t.hart k).world = .normal ∧
        (t.hart k).wait = .none ∧ (t.hart k).pc = BitVec.ofNat 64 ((s.dev.hart k).csr 0x7C2) ∧
        bitAt ((t.hart k).csr 0x300) 3 = bitAt ((s.dev.hart k).csr 0x7C4) 3 ∧
        (s.dev.scrubs ((s.dev.hart k).csr 0x7C3) = false → (t.hart k).xregs = (s.dev.hart k).xregs ∧
          (t.hart k).fregs = (s.dev.hart k).fregs ∧ (t.hart k).vregs = (s.dev.hart k).vregs) ∧
        (s.dev.scrubs ((s.dev.hart k).csr 0x7C3) = true →
          (∀ r, (t.hart k).x r = (if r = 10 ∨ r = 11 then (s.dev.hart k).x r else 0)) ∧ (t.hart k).fregs = [] ∧
          (t.hart k).vregs = []) ∧
        (∀ j, j ≠ k → t.hart j = s.dev.hart j) ∧ t.regs = s.dev.regs ∧ s.dev.stores t))) ∧
  (∀ (s : State) (k : Nat), k < 240 →
    (s.dev.ready k = true → s.dev.secureDown = false → delegates ((s.dev.hart k).csr 0x302) (s.dev.hart k).ecallCause = false →
      Reaches (.ecall k) s (fun t => (t.hart k).priv = .m ∧ (t.hart k).v = false ∧ (t.hart k).world = .tantalum ∧
        (t.hart k).csr 0x342 = (s.dev.hart k).ecallCause ∧ (t.hart k).csr 0x341 = (s.dev.hart k).pc.toNat ∧
        field ((t.hart k).csr 0x300) 11 2 = privCode (s.dev.hart k).priv ∧ bitAt ((t.hart k).csr 0x300) 3 = false ∧
        bitAt ((t.hart k).csr 0x300) 7 = bitAt ((s.dev.hart k).csr 0x300) 3 ∧
        bitAt ((t.hart k).csr 0x7C0) 1 = ((s.dev.hart k).world == .tantalum) ∧
        (t.hart k).xregs = (s.dev.hart k).xregs ∧ (t.hart k).fregs = (s.dev.hart k).fregs ∧
        (∀ j, j ≠ k → t.hart j = s.dev.hart j) ∧ t.regs = s.dev.regs ∧ s.dev.stores t)) ∧
    (s.dev.ready k = true → s.dev.secureDown = true → (s.dev.hart k).priv = .s → (s.dev.hart k).v = false →
      Reaches (.ecall k) s (fun t => (t.hart k).x 10 = 0xFFFF_FFFF_FFFF_FFF0 ∧ (t.hart k).priv = .s ∧
        (t.hart k).pc = (s.dev.hart k).pc + 4 ∧ t.regs = s.dev.regs ∧ s.dev.stores t)) ∧
    (s.dev.ready k = true → (s.dev.hart k).priv = .m →
      Reaches (.mret k) s (fun t => (t.hart k).priv = codePriv (field ((s.dev.hart k).csr 0x300) 11 2) ∧
        (t.hart k).pc = BitVec.ofNat 64 ((s.dev.hart k).csr 0x341) ∧
        bitAt ((t.hart k).csr 0x300) 3 = bitAt ((s.dev.hart k).csr 0x300) 7 ∧ bitAt ((t.hart k).csr 0x300) 7 = true ∧
        ((t.hart k).priv ≠ .m → bitAt ((t.hart k).csr 0x7C0) 0 = bitAt ((s.dev.hart k).csr 0x7C0) 1) ∧
        (t.hart k).xregs = (s.dev.hart k).xregs ∧ (∀ j, j ≠ k → t.hart j = s.dev.hart j) ∧ t.regs = s.dev.regs ∧
        s.dev.stores t)) ∧
    (s.dev.ready k = true → (s.dev.hart k).priv ≠ .m → Gives (.mret k) s (s.dev.takeTrap k (exception 2 0x3020_0073)) ∧
      Gives (.wret k) s (s.dev.takeTrap k (exception 2 wretWord))) ∧
    (∀ c, s.dev.interruptible k = true → s.dev.nextInterrupt k = some c → s.dev.trapTarget (s.dev.hart k) (interruptTrap c) = .m →
      Reaches (.interruptTaken k c) s (fun t => (t.hart k).priv = .m ∧ (t.hart k).wait = .none ∧
        (t.hart k).csr 0x342 = 2 ^ 63 + c ∧ (t.hart k).csr 0x341 = (s.dev.hart k).pc.toNat ∧
        bitAt ((t.hart k).csr 0x300) 3 = false ∧ (t.hart k).xregs = (s.dev.hart k).xregs ∧ (t.hart k).sbuf = (s.dev.hart k).sbuf ∧
        (∀ j, j ≠ k → t.hart j = s.dev.hart j) ∧ t.regs = s.dev.regs ∧ s.dev.stores t)))

/-- R199, R206, R212: a legal write of `mbeinfo` with bit 63 clear empties the bus-error log of the hart's world and leaves the cause of the
last error; one of `mpsctl` arms the sampling of a counter from 3 to 10; an address that the mode may not write is an illegal instruction.
R206, R429: a sample that is due goes to the buffer's place, which moves on by 64 bytes.
R214, R215: an MSI to a file of a hart makes its identity pending; a core that is FENCED, BYPASSED, OFF or FAILED discards it, with a count.
R195, R196: a mismatch of a lockstep pair leaves its lead core FAILED and counts on both; an uncorrectable error in the arrays of a
core outside a pair leaves it FENCED, with no store left in its buffer, and ends a running command with REFUSED. One in the L1I is counted
and the core goes on (R252). -/
def Obligations.ErrorsSamplesAndInterruptFiles : Prop :=
  (∀ (s : State) (k : Nat), k < 240 →
    (∀ v : Word, s.dev.ready k = true → (s.dev.hart k).priv = .m → bitAt v.toNat 63 = false →
      Reaches (.mbeinfoWrite k false v) s (fun t => bitAt (t.hart k).log.info.toNat 63 = false ∧
        bitAt (t.hart k).log.info.toNat 62 = false ∧ field (t.hart k).log.info.toNat 16 8 = 0 ∧
        field (t.hart k).log.info.toNat 0 16 = field (s.dev.hart k).log.info.toNat 0 16 ∧
        (t.hart k).log.addr = (s.dev.hart k).log.addr ∧ (t.hart k).pc = (s.dev.hart k).pc + 4 ∧
        (t.hart k).xregs = (s.dev.hart k).xregs ∧ t.regs = s.dev.regs ∧ s.dev.stores t)) ∧
    (∀ v : Word, s.dev.ready k = true → (s.dev.hart k).priv = .m → bitAt v.toNat 0 = true → 3 ≤ field v.toNat 1 4 →
      field v.toNat 1 4 ≤ 10 →
      Reaches (.samplingArm k false v) s (fun t => (t.hart k).csr 0x7C9 = 2 * field v.toNat 1 4 + 1 ∧
        (t.hart k).pc = (s.dev.hart k).pc + 4 ∧ t.regs = s.dev.regs ∧ s.dev.stores t)) ∧
    (∀ v : Word, s.dev.ready k = true → (s.dev.hart k).priv ≠ .m →
      ∃ w e, Gives (.samplingArm k false v) s (e.takeTrap k (exception 2 w)) ∧
        Gives (.mbeinfoWrite k false v) s (e.takeTrap k (exception 2 w)) ∧ e = { s.dev with fresh := s.dev.fresh + 1 }) ∧
    (∀ j r w, 3 ≤ j → j ≤ 10 → sampleOk r = true → s.dev.hartRuns k = true → (s.dev.hart k).sampled j = true →
      (j, w) ∈ (s.dev.hart k).sampleDue →
      (s.dev.setHart k { s.dev.hart k with sampleDue := (s.dev.hart k).sampleDue.erase (j, w) }).sampleRefused k
        ((s.dev.hart k).csr 0x7CC) w = none →
      Reaches (.counterOverflowSample k j r w) s (fun t =>
        (t.hart k).csr 0x7CC = ((s.dev.hart k).csr 0x7CC + 64) % 2 ^ 52 ∧ (t.hart k).pc = (s.dev.hart k).pc))) ∧
  (∀ (s : State) (k f i : Nat), k < 240 → f < 8 → s.dev.isShadow k = false →
    (stateDropsMsi (s.dev.unit (.core k)) = false → 0 < i → i < 2048 →
      Reaches (.msiReceive k f i) s (fun t => i ∈ tabGet (t.hart k).imsic f [] ∧
        (∀ g, g ≠ f → tabGet (t.hart k).imsic g [] = tabGet (s.dev.hart k).imsic g []) ∧ (t.hart k).pc = (s.dev.hart k).pc ∧
        (∀ j, j ≠ k → t.hart j = s.dev.hart j) ∧ t.regs = s.dev.regs ∧ s.dev.stores t)) ∧
    (stateDropsMsi (s.dev.unit (.core k)) = true → 
      Gives (.msiReceive k f i) s ((s.dev.takeMsg (fun m => m = .msiReceive k f i)).addSat (rCoreMsiDropped k) 1))) ∧
  (∀ (s : State) (k : Nat), k < 240 →
    (k % 2 = 0 → s.dev.pairMode k = true → s.dev.unit (.core k) = stActive → s.dev.unit (.die (k / 20)) ≠ stQuiescing →
      Reaches (.lockstepMismatch k) s (fun t => t.unit (.core k) = stFailed ∧ (t.hart k).running = false ∧
        t.get (rCoreLockstepFails k) = satAdd32 (s.dev.get (rCoreLockstepFails k)) 1 ∧
        t.get (rCoreLockstepFails (pairOf k)) = satAdd32 (s.dev.get (rCoreLockstepFails (pairOf k))) 1)) ∧
    (∀ line, s.dev.hartRuns k = true →
      Reaches (.coreArrayError k (.l1i line)) s (fun t => t.get (rCoreArrayErrors k) = satAdd32 (s.dev.get (rCoreArrayErrors k)) 1 ∧
        (t.hart k).pc = (s.dev.hart k).pc ∧ (t.hart k).running = (s.dev.hart k).running ∧ s.dev.stores t)) ∧
    (s.dev.pairMode k = false → stateLive (s.dev.unit (.core k)) = true → s.dev.unit (.die (k / 20)) ≠ stQuiescing →
      Reaches (.coreArrayError k .own) s (fun t => (t.hart k).running = false ∧ (t.hart k).sbuf = [] ∧
        t.unit (.core k) = stFenced ∧
        (s.dev.get (rUnitCommand (.core k)) = cmdRunning → t.get (rUnitCommand (.core k)) = cmdRefused))))

/-- R244 to R246: SFENCE.VMA, HFENCE.VVMA and HFENCE.GVMA wait, and then drop every leaf and pointer that the operands name, of their
context alone, and what was fetched; SINVAL.VMA, HINVAL.VVMA and HINVAL.GVMA drop theirs at once; SFENCE.W.INVAL waits until every
earlier store is visible, and SFENCE.INVAL.IR drops what was fetched. In a mode that may not execute it, SFENCE.VMA is an illegal instruction.
R244: an SFENCE.VMA outside a guest leaves no leaf of its scope in any TLB of its hart, keeps every global leaf where an ASID is named, and
keeps every guest leaf.
R236 to R238: a step of a walk whose PTE is in the hart's L2 reads it: a pointer of the first stage takes the walk a level down, to the
table that it names; a leaf that permits the access and is not of a guest ends the walk, with its leaf in the TLBs; a PTE that is broken
ends it with a page fault, which the hart takes unless the walk was for no instruction known to execute (R239). -/
def Obligations.TranslationCachesAndWalks : Prop :=
  (∀ (s : State) (k : Nat) (a b : Option Word), let h := s.dev.hart k
    (s.dev.fenceDue k Hart.sfenceLegal →
      Gives (.sfenceVma k a b) s (s.dev.setHart k { h with wait := .inval (.vma h.v) a b }) ∧
      Gives (.sinvalVma k a b) s ((s.dev.setHart k (h.invalVma h.v a b)).retire k 4)) ∧
    (s.dev.fenceDue k (fun h => h.hfenceLegal false) →
      Gives (.hfenceVvma k a b) s (s.dev.setHart k { h with wait := .inval (.vma true) a b }) ∧
      Gives (.hinvalVvma k a b) s ((s.dev.setHart k (h.invalVma true a b)).retire k 4)) ∧
    (s.dev.fenceDue k (fun h => h.hfenceLegal true) →
      Gives (.hfenceGvma k a b) s (s.dev.setHart k { h with wait := .inval .gvma a b }) ∧
      Gives (.hinvalGvma k a b) s ((s.dev.setHart k (h.invalGvma a b)).retire k 4)) ∧
    (s.dev.fenceDue k Hart.svinvalLegal →
      (h.drained = true → Gives (.sfenceWInval k) s (s.dev.retire k 4)) ∧
      (h.drained = false → Gives (.sfenceWInval k) s (s.dev.setHart k { h with wait := .invalW })) ∧
      Gives (.sfenceInvalIr k) s ((s.dev.setHart k { h with fetched := [] }).retire k 4)) ∧
    (k < 240 → s.dev.ready k = true → h.sfenceLegal = .illegal → Gives (.sfenceVma k a b) s (s.dev.illegal k none)) ∧
    (∀ q, k < 240 → s.dev.hartRuns k = true → h.drained = true → h.walks = [] → h.wait = .inval q a b →
      Reaches (.fenceVmaComplete k) s (fun t => (t.hart k).wait = .none ∧ (t.hart k).fetched = [] ∧ (t.hart k).pc = h.pc + 4 ∧
        (t.hart k).tlb = (h.inval q a b).tlb ∧ (t.hart k).pwc = (h.inval q a b).pwc ∧ (t.hart k).xregs = h.xregs ∧
        (∀ j, j ≠ k → t.hart j = s.dev.hart j) ∧ t.regs = s.dev.regs ∧ s.dev.stores t))) ∧
  (∀ (h : Hart) (a b : Option Word) (e : TlbEntry),
    (e ∈ (h.invalVma false a b).tlb ↔ e ∈ h.tlb ∧ ¬(e.gstage = false ∧ e.v = false ∧ e.vmid = 0 ∧ inScope e a b = true)) ∧
    (e ∈ h.tlb → e.g = true → b ≠ none → e ∈ (h.invalVma false a b).tlb) ∧
    (e ∈ h.tlb → e.v = true → e ∈ (h.invalVma false a b).tlb) ∧
    (e ∈ h.tlb → e.gstage = true → e ∈ (h.invalVma false a b).tlb)) ∧
  (∀ (s : State) (k : Nat) (w : Walk) (a pte : Nat), k < 240 → s.dev.hartRuns k = true → (s.dev.hart k).walks = [w] → w.gw = none →
    w.ptePa = some a → w.v = false → (s.dev.region a).isMemory = true → (s.dev.hart k).pmpPermits .s .load a = true →
    s.dev.refusedBy w.world a = none → (s.dev.hart k).refused (lineAddr a) .walk = false → s.dev.holdsLine k a false → pte = s.dev.lineValue k a 8 →
    (pteBroken pte w.level = true → w.spec = true →
      Reaches (.pageWalkStep k 0 .none) s (fun t => (t.hart k).walks = [] ∧ (t.hart k).pc = (s.dev.hart k).pc ∧
        (t.hart k).tlb = (s.dev.hart k).tlb ∧ t.regs = s.dev.regs ∧ s.dev.stores t)) ∧
    (pteBroken pte w.level = true → w.spec = false →
      Gives (.pageWalkStep k 0 .none) s ((s.dev.setHart k ((s.dev.hart k).walkGone w)).takeTrap k
        (walkTrap (pageFault w.access) w.va false false 0))) ∧
    (pteBroken pte w.level = false → field pte 1 3 = 0 → 0 < w.level → w.gmode = 0 →
      Reaches (.pageWalkStep k 0 .none) s (fun t => ∃ x, (t.hart k).walks = [x] ∧ x.level = w.level - 1 ∧ x.table = ptePpn pte ∧
        x.va = w.va ∧ (t.hart k).pc = (s.dev.hart k).pc ∧ (t.hart k).tlb = (s.dev.hart k).tlb ∧ t.regs = s.dev.regs ∧
        s.dev.stores t)) ∧
    (pteBroken pte w.level = false → field pte 1 3 ≠ 0 → pteMisaligned pte w.level = false →
      (s.dev.hart k).ptePermits w pte = true →
      Reaches (.pageWalkStep k 0 .none) s (fun t => (t.hart k).walks = [] ∧ (t.hart k).pc = (s.dev.hart k).pc ∧
        (∃ e ∈ (t.hart k).tlb, e.va = w.va / 2 ^ e.log * 2 ^ e.log ∧ e.log = leafLog w.level (bitAt pte 63) ∧
          e.pa = leafBase pte w.level ∧ e.asid = w.asid ∧ e.r = bitAt pte 1 ∧ e.w = bitAt pte 2 ∧ e.x = bitAt pte 3 ∧
          e.u = bitAt pte 4) ∧
        (t.hart k).xregs = (s.dev.hart k).xregs ∧ s.dev.stores t)))

/-- R248, R249, R353: with the directory off every request of the IOMMU faults with cause 256; in bare mode an address that its world may
use and that is mapped changes nothing, and one of the other world is counted and faults; a cached translation is used and becomes the most
recently used. Every fault joins the fault queue with its device, process and address.
R35, R351, R449: an inbound request is translated; a write to memory goes to the line's home as an invalidating write and a read as a read
that allocates nowhere; a write to an interrupt file is an MSI; a request that faults goes no further. Shown in bare mode.
R250: IOTINVAL.VMA drops the cached translations of its GSCID, or without one those made without a G-stage, of its address and its PSCID, but
for global ones where a PSCID is named; IOTINVAL.GVMA those of its GSCID made with a G-stage; the directory invalidations drop the directory
entries and what was translated through them; IOFENCE.C is complete when no inbound request is left. Nothing but the IOMMU changes. -/
def Obligations.TheIommuAndInboundRequests : Prop :=
  (∀ (s : State) (r : IommuReq) (w : World) (dev : Nat) (pid : Option Nat), s.dev.ioReqOk r = true → s.dev.ioSource r = (w, dev, pid) →
    (s.dev.iommu.ddtMode = 0 →
      Gives (.iommuTranslate r) s (s.dev.ioFault w ⟨256, dev, pid, r.iova, ioTtyp r.ats r.write, 0⟩)) ∧
    (s.dev.iommu.ddtMode = 1 → r.ats = .untranslated → s.dev.refusedBy w r.iova = none → (s.dev.region r.iova).isMapped = true →
      s.dev.shadowFile r.iova = false → Gives (.iommuTranslate r) s s.dev) ∧
    (∀ n, s.dev.iommu.ddtMode = 1 → r.ats = .untranslated → s.dev.refusedBy w r.iova = some n → s.dev.iommu.queueOn ioFqcsr = false →
      Reaches (.iommuTranslate r) s (fun t =>
        t.iommu.faultq = s.dev.iommu.faultq ++ [⟨ioAccess r.write, dev, pid, r.iova, ioTtyp .untranslated r.write, 0⟩] ∧
        t.get (rWrViolations n) = satAdd32 (s.dev.get (rWrViolations n)) 1 ∧ s.dev.stores t)) ∧
    (∀ e, 2 ≤ s.dev.iommu.ddtMode → r.ats = .untranslated →
      s.dev.iommu.atc.find? (fun e => e.device = dev && e.pasid = pid && r.iova / 2 ^ e.log = e.iova / 2 ^ e.log && (!r.write || e.w)) = some e →
      s.dev.refusedBy w (e.pa + r.iova % 2 ^ e.log) = none → (s.dev.region (e.pa + r.iova % 2 ^ e.log)).isMapped = true →
      s.dev.shadowFile (e.pa + r.iova % 2 ^ e.log) = false →
      Reaches (.iommuTranslate r) s (fun t => t.iommu.atc = atcFill e s.dev.iommu.atc ∧ t.iommu.faultq = s.dev.iommu.faultq ∧
        t.iommu.ddtCache = s.dev.iommu.ddtCache ∧ t.regs = s.dev.regs ∧ s.dev.stores t))) ∧
  (∀ (s : State) (r : IommuReq) (w : World) (dev : Nat) (pid : Option Nat) (data : Option Line), r.inst = none → r.ats = .untranslated →
    s.dev.ioReqOk r = true → s.dev.ioSource r = (w, dev, pid) → r.write = data.isSome → r.iova % 64 = 0 →
    (s.dev.iommu.ddtMode = 1 → s.dev.refusedBy w r.iova = none → (s.dev.region r.iova).isMemory = true →
      Reaches (.inboundPcieRequest r data) s (fun t => t.fab.ops = s.dev.fab.ops ++ [(iodAgent, r.iova,
        match data with
        | some v => Instr.invWrite ⟨iodAgent, r.iova, w, 0, 0⟩ v false .none .none
        | none => Instr.readShared ⟨iodAgent, r.iova, w, 0, 0⟩ true .none .none .none)] ∧ t.iommu = s.dev.iommu ∧ s.dev.stores t)) ∧
    (∀ off v, s.dev.iommu.ddtMode = 1 → s.dev.refusedBy w r.iova = none → s.dev.shadowFile r.iova = false →
      s.dev.region r.iova = .mmio off → 0x0200_0000 ≤ off → off < 0x0278_0000 → data = some v →
      Reaches (.inboundPcieRequest r data) s (fun t =>
        Instr.msiReceive ((off - 0x0200_0000) / 0x8000) ((off - 0x0200_0000) % 0x8000 / 0x1000) (v.toNat % 2 ^ 32) ∈ t.fab.net ∧
        t.fab.ops = s.dev.fab.ops ∧ s.dev.stores t)) ∧
    (s.dev.iommu.ddtMode = 0 → s.dev.iommu.queueOn ioFqcsr = false →
      Reaches (.inboundPcieRequest r data) s (fun t => t.fab.ops = s.dev.fab.ops ∧ t.fab.net = s.dev.fab.net ∧
        t.iommu.faultq = s.dev.iommu.faultq ++ [⟨256, dev, pid, r.iova, ioTtyp .untranslated r.write, 0⟩] ∧ s.dev.stores t))) ∧
  (∀ (s : State),
    (∀ av g p, Reaches (.iotinvalVma av g p) s (fun t => t = { s.dev with iommu := t.iommu } ∧ t.iommu.ddtCache = s.dev.iommu.ddtCache ∧
      t.iommu.pdtCache = s.dev.iommu.pdtCache ∧ t.iommu.faultq = s.dev.iommu.faultq ∧
      ∀ e, e ∈ t.iommu.atc ↔ e ∈ s.dev.iommu.atc ∧ ¬(e.v = g.isSome ∧ (∀ x, g = some x → e.gscid = x) ∧
        (∀ a, av = some a → a / 2 ^ e.log = e.iova / 2 ^ e.log) ∧ ∀ q, p = some q → e.pscid = q ∧ e.g = false))) ∧
    (∀ av g, Reaches (.iotinvalGvma av g) s (fun t => t = { s.dev with iommu := t.iommu } ∧ t.iommu.ddtCache = s.dev.iommu.ddtCache ∧
      t.iommu.faultq = s.dev.iommu.faultq ∧ ∀ e, e ∈ t.iommu.atc ↔ e ∈ s.dev.iommu.atc ∧
        ¬(e.v = true ∧ ∀ x, g = some x → e.gscid = x))) ∧
    (∀ x, Reaches (.iodirInvalDdt (some x)) s (fun t => t = { s.dev with iommu := t.iommu } ∧ tabFind t.iommu.ddtCache x = none ∧
      t.iommu.faultq = s.dev.iommu.faultq ∧ (∀ k, k / 2 ^ 20 = x → tabFind t.iommu.pdtCache k = none) ∧
      ∀ e, e ∈ t.iommu.atc ↔ e ∈ s.dev.iommu.atc ∧ e.device ≠ x)) ∧
    Reaches (.iodirInvalDdt none) s (fun t => t = { s.dev with iommu := t.iommu } ∧ t.iommu.ddtCache = [] ∧ t.iommu.pdtCache = [] ∧
      t.iommu.atc = [] ∧ t.iommu.faultq = s.dev.iommu.faultq) ∧
    (∀ x p, Reaches (.iodirInvalPdt x p) s (fun t => t = { s.dev with iommu := t.iommu } ∧ t.iommu.ddtCache = s.dev.iommu.ddtCache ∧
      tabFind t.iommu.pdtCache (x * 2 ^ 20 + p) = none ∧
      ∀ e, e ∈ t.iommu.atc ↔ e ∈ s.dev.iommu.atc ∧ ¬(e.device = x ∧ e.proc = some p))) ∧
    (s.dev.inboundOpen = false → Reaches .iofenceC s (fun t => t = { s.dev with iommu := t.iommu } ∧ t.iommu.atc = s.dev.iommu.atc ∧
      t.iommu.ddtCache = s.dev.iommu.ddtCache ∧ t.iommu.pdtCache = s.dev.iommu.pdtCache ∧ t.iommu.faultq = s.dev.iommu.faultq)))

/-- R285, first rows: a cacheable read, an own and an upgrade of a line that nobody holds are answered with the line, exclusively, and the
directory names the requester its owner; the transaction stays open for the requester's GrantAck (R279). A read that does not cache is
answered with the line and leaves no entry.
R285, R286: a partial write merges its bytes into the line and a full-line write replaces it; the operations at home store their result and
answer the old value; CAS stores nothing where the comparison fails. Each ends its transaction at once when Pewter has taken the write, and
the directory holds no entry. -/
def Obligations.HomesGrantWriteAndOperate : Prop :=
  (∀ (s : State) (r : HomeReq) (p : PwEntry), s.dev.pewterHas r p →
    (let granted : Dev → Prop := fun t => Instr.dataExclusive r.agent r.line p.data p.mark ∈ t.fab.net ∧
        t.dirEntry r.line = some (s.dev.dirOwned r.line r.agent) ∧ (t.txn r.line).map (fun x => x.grantee) = some (some r.agent) ∧
        t.pewter = s.dev.pewter ∧ s.dev.stores t;
      (s.dev.homeFree r (.shared false) → s.dev.filterFree r → Reaches (.readShared r false .none .none .none) s granted) ∧
      (s.dev.homeFree r .own → s.dev.filterFree r →
        Reaches (.readOwn r .none .none .none) s granted ∧ Reaches (.upgrade r .none .none .none) s granted)) ∧
    (s.dev.homeFree r (.shared true) →
      Reaches (.readShared r true .none .none .none) s (fun t => Instr.dataShared r.agent r.line p.data p.mark ∈ t.fab.net ∧
        t.dirEntry r.line = none ∧ (t.txn r.line).map (fun x => x.grantee) = some (some r.agent) ∧ t.pewter = s.dev.pewter ∧
        s.dev.stores t))) ∧
  (∀ (s : State) (r : HomeReq) (p : PwEntry), s.dev.pewterHas r p →
    let wrote (data : Line) (mark : Bool) (m : Instr) (t : Dev) : Prop :=
      t.pewterEntry r.line = some ⟨r.line, true, mark, data⟩ ∧ m ∈ t.fab.net ∧ t.txn r.line = none ∧ t.dirEntry r.line = none ∧
        s.dev.stores t
    let old (off size : Nat) := lineField p.data off size
    (∀ data mark, s.dev.homeFree r (.invWrite data mark) →
      Reaches (.invWrite r data mark .none .none) s (wrote data mark (.cmpWrite r.agent r.line .ok))) ∧
    (∀ m data, s.dev.homeFree r (.partialWrite m data) →
      Reaches (.partialWrite r m data .none .none) s (wrote (mergeLine m p.data data) p.mark (.cmpWrite r.agent r.line .ok))) ∧
    (∀ size off v, s.dev.homeFree r (.fetchAdd size off v) →
      Reaches (.homeFetchAdd r size off v .none .none) s
        (wrote (putLineField p.data off size ((old off size + v) % 256 ^ size)) p.mark (.atomicData r.agent r.line (old off size)))) ∧
    (∀ size off v, s.dev.homeFree r (.swap size off v) →
      Reaches (.homeSwap r size off v .none .none) s
        (wrote (putLineField p.data off size v) p.mark (.atomicData r.agent r.line (old off size)))) ∧
    (∀ size off v, s.dev.homeFree r (.fetchOr size off v) →
      Reaches (.homeFetchOr r size off v .none .none) s
        (wrote (putLineField p.data off size (old off size ||| v)) p.mark (.atomicData r.agent r.line (old off size)))) ∧
    (∀ size off c v, s.dev.homeFree r (.cas size off c v) →
      (old off size = c → Reaches (.homeCas r size off c v .none .none) s
        (wrote (putLineField p.data off size v) p.mark (.atomicData r.agent r.line (old off size)))) ∧
      (old off size ≠ c → Reaches (.homeCas r size off c v .none .none) s (fun t => Instr.atomicData r.agent r.line (old off size) ∈ t.fab.net ∧
        t.pewter = s.dev.pewter ∧ t.txn r.line = none ∧ s.dev.stores t))))

/-- R273, R285: a clean of a line whose entry is clean is complete at once and changes no entry, and a flush of one in an unlocked segment
drops it; an entry that is dirty is written to memory first, and stays, clean, under CLEAN.
R285, R288, R289, R353: a request that a rule refuses is answered with an error and changes no line; one that meets an open transaction of
its line is answered with Retry, which records it where the agent's slot is free; an own of a line that dies share invalidates every one of
them. -/
def Obligations.HomesMaintainAndRefuse : Prop :=
  (∀ (s : State) (r : HomeReq) (p : PwEntry), s.dev.pewterHas r p →
    (s.dev.homeFree r .clean → p.dirty = false →
      Reaches (.lineMaintainClean r .none .none) s (fun t => Instr.cmpWrite r.agent r.line .ok ∈ t.fab.net ∧ t.pewterEntry r.line = some p ∧
        t.txn r.line = none ∧ s.dev.stores t)) ∧
    (s.dev.homeFree r .clean → p.dirty = true → (s.dev.place r.line).isSome = true →
      Reaches (.lineMaintainClean r .none .none) s (fun t => Instr.mcLineWrite r.line 0 p.data p.mark ∈ t.fab.net ∧
        t.pewterEntry r.line = some { p with dirty := false } ∧ (t.txn r.line).map (fun x => x.memWrite) = some true ∧ s.dev.stores t)) ∧
    (s.dev.homeFree r .flush → p.dirty = false → s.dev.segLocked r.line = false →
      Reaches (.lineMaintainFlush r .none .none) s (fun t => Instr.cmpWrite r.agent r.line .ok ∈ t.fab.net ∧ t.pewterEntry r.line = none ∧
        t.txn r.line = none ∧ s.dev.stores t)) ∧
    (s.dev.homeFree r .flush → p.dirty = true → s.dev.segLocked r.line = false → (s.dev.place r.line).isSome = true →
      Reaches (.lineMaintainFlush r .none .none) s (fun t => Instr.mcLineWrite r.line 0 p.data p.mark ∈ t.fab.net ∧ t.pewterEntry r.line = none ∧
        (t.txn r.line).map (fun x => x.memWrite) = some true ∧ s.dev.stores t))) ∧
  (∀ (s : State) (r : HomeReq), s.dev.reqOk r = true → r.agent < 245 → s.dev.remoteHome r.line = none →
    (∀ data mark, (s.dev.homeRefusal r (.invWrite data mark)).isSome = true →
      Reaches (.invWrite r data mark .none .none) s (fun t => Instr.cmpWrite r.agent r.line .error ∈ t.fab.net ∧ t.pewter = s.dev.pewter ∧
        t.txn r.line = s.dev.txn r.line ∧ t.dirEntry r.line = s.dev.dirEntry r.line ∧ s.dev.stores t)) ∧
    (∀ data mark, (s.dev.homeRefusal r (.invWrite data mark)).isNone = true → (s.dev.txn r.line).isSome = true →
      s.dev.resv (s.dev.homeSlice r.line) r.agent = none →
      Reaches (.invWrite r data mark .none .none) s (fun t => Instr.retry r.agent r.line true ∈ t.fab.net ∧
        t.resv (s.dev.homeSlice r.line) r.agent = some ⟨r.line, false, false⟩ ∧ t.txn r.line = s.dev.txn r.line ∧
        t.pewter = s.dev.pewter ∧ s.dev.stores t)) ∧
    (∀ e n, s.dev.filterFree r → (s.dev.homeRefusal r .own).isNone = true → s.dev.txn r.line = none →
      s.dev.resv (s.dev.homeSlice r.line) r.agent = none → s.dev.lineReserved (s.dev.homeSlice r.line) r.line r.agent = false →
      s.dev.trackersBusy (s.dev.homeSlice r.line) < 192 → s.dev.dirEntry r.line = some e → e.state = 1 → n < 12 →
      e.holders.testBit n = true → stateGone (s.dev.unit (.die n)) = false →
      Reaches (.readOwn r .none .none .none) s (fun t => Instr.inv n r.line (some r.agent) ∈ t.fab.net ∧
        (t.txn r.line).any (fun x => x.acks.contains n) = true ∧ s.dev.stores t)))

/-- R280, Table 12-3: data for a line that a core's L2 waits for fills it, shared or exclusively, with its mark, and is acknowledged to the
home. The answer of a home to another request of a core reaches the instruction or the store that waits for it, and the request is
outstanding no longer.
R280, Table 12-3: a recall for sharing leaves an owner's line in S, and one for invalidation leaves a modified line in I and loses a reservation of
it; the data of M goes home, after what the victim buffer holds for the slice, but not with DISCARD; a line in eviction answers that its writeback is under way. An Inv takes every S copy of
its die but the excepted core's and is acknowledged once. The end of a writeback leaves the line in I. -/
def Obligations.LinesMoveBetweenHolders : Prop :=
  (∀ (s : State) (k line : Nat) (data : Line) (mark : Bool), k < 240 → s.dev.unit (.core k) = stActive → s.dev.fromLost line = false →
    (s.dev.opOf k line = none → ((s.dev.hart k).line line).state = .is →
      Reaches (.dataShared k line data mark) s (fun t => ((t.hart k).line line).state = .s ∧ ((t.hart k).line line).data = data ∧
        ((t.hart k).line line).mark = mark ∧ Instr.grantAck k line ∈ t.fab.net ∧ s.dev.stores t)) ∧
    (((s.dev.hart k).line line).state.waits = true →
      Reaches (.dataExclusive k line data mark) s (fun t => ((t.hart k).line line).state = .e ∧ ((t.hart k).line line).data = data ∧
        ((t.hart k).line line).mark = mark ∧ Instr.grantAck k line ∈ t.fab.net ∧ s.dev.stores t)) ∧
    (∀ m, s.dev.opOf k line = some m → isStoreOp m = false →
      Reaches (.dataShared k line data mark) s (fun t =>
        (t.hart k).homeDone = (s.dev.hart k).homeDone ++ [⟨line, false, !mark, data.toNat⟩] ∧
        t.opOf k line = none ∧ Instr.grantAck k line ∈ t.fab.net ∧ s.dev.stores t)) ∧
    (∀ m st, s.dev.opOf k line = some m → isStoreOp m = false → line % 64 = 0 → st ≠ .ok → s.dev.storeWaits k line = false →
      Reaches (.cmpWrite k line .ok) s (fun t => (t.hart k).homeDone = (s.dev.hart k).homeDone ++ [⟨line, false, true, 0⟩] ∧
        t.opOf k line = none ∧ t.regs = s.dev.regs ∧ s.dev.stores t) ∧
      Reaches (.cmpWrite k line st) s (fun t => (t.hart k).homeDone = (s.dev.hart k).homeDone ++ [⟨line, false, false, 0⟩] ∧
        t.opOf k line = none ∧ s.dev.stores t)) ∧
    (∀ m, s.dev.opOf k line = some m → isStoreOp m = true → line % 64 = 0 →
      Reaches (.cmpWrite k line .ok) s (fun t => t.opOf k line = none ∧ t.regs = s.dev.regs ∧ s.dev.stores t ∧
        if (s.dev.hart k).tracker.any (fun x => x.home && lineAddr x.pa = line) = true
        then (t.hart k).tracker = (s.dev.hart k).tracker.filter (fun x => !(x.home && lineAddr x.pa = line))
        else (t.hart k).homeDone = (s.dev.hart k).homeDone ++ [⟨line, true, true, 0⟩])) ∧
    (∀ m old, s.dev.opOf k line = some m → isStoreOp m = false → line % 64 = 0 →
      Reaches (.atomicData k line old) s (fun t => (t.hart k).homeDone = (s.dev.hart k).homeDone ++ [⟨line, false, true, old⟩] ∧
        t.opOf k line = none ∧ t.regs = s.dev.regs ∧ s.dev.stores t))) ∧
  (∀ (s : State) (k line : Nat), k < 240 → s.dev.agentGone k = false → let l := (s.dev.hart k).line line
    (l.state = .m →
      Reaches (.recallShare k line .none) s (fun t => ((t.hart k).line line).state = .s ∧ ((t.hart k).line line).data = l.data ∧
        t.leaves k (.recallAckData k line l.data l.mark) ∧ t.regs = s.dev.regs ∧ s.dev.stores t)) ∧
    (l.state = .e →
      Reaches (.recallShare k line .none) s (fun t => ((t.hart k).line line).state = .s ∧ ((t.hart k).line line).data = l.data ∧
        Instr.recallAck k line false ∈ t.fab.net ∧ t.regs = s.dev.regs ∧ s.dev.stores t)) ∧
    (l.state = .ei ∨ l.state = .mi →
      Reaches (.recallShare k line .none) s (fun t => t.hart k = s.dev.hart k ∧ Instr.recallAck k line true ∈ t.fab.net)) ∧
    (∀ discard, l.state = .m → s.dev.filterLeaving k line = false →
      Reaches (.recallInv k line discard .none) s (fun t => ((t.hart k).line line).state = .i ∧ (t.hart k).resv ≠ some line ∧
        t.leaves k (if discard then .recallAck k line false else .recallAckData k line l.data l.mark) ∧ s.dev.stores t)) ∧
    (∀ n e x, n < 12 → k / 20 = n → stateGone (s.dev.unit (.die n)) = false → s.dev.filterEntry n line = some e → e.presence.testBit (k % 20) = true →
      (l.state = .s → x ≠ some k →
        Reaches (.inv n line x) s (fun t => ((t.hart k).line line).state = .i ∧ Instr.invAck n line ∈ t.fab.net ∧ s.dev.stores t)) ∧
      (x = some k →
        Reaches (.inv n line x) s (fun t => (t.hart k).line line = l ∧ Instr.invAck n line ∈ t.fab.net ∧ s.dev.stores t))) ∧
    ((l.state = .ei ∨ l.state = .mi) → s.dev.unit (.core k) = stActive →
      Reaches (.wbAck k line) s (fun t => ((t.hart k).line line).state = .i ∧ (t.hart k).pc = (s.dev.hart k).pc ∧
        (∀ j, j ≠ k → t.hart j = s.dev.hart j) ∧ t.regs = s.dev.regs ∧ s.dev.stores t)))

/-- R289, R290: a Retry leaves the line as it is, held where it records nothing; a RetryGrant has the request of the line's state, or the
core's other request for the line, injected again; a slice's reservation whose blocking condition is clear is granted, in turn over the agents, and sets a tracker aside.
R283, R285, R287: an owner's writeback of a modified line is written and frees the entry, and one of a clean line frees it; an EvictClean of
a die's last copy clears the die's bit; each writeback is acknowledged. Shown where Pewter holds the line and no transaction of it is open.
R296: the purge of a lost die leaves no entry of which the die is owner, and no S entry with the die's bit. -/
def Obligations.RetriesWritebacksAndPurge : Prop :=
  (∀ (s : State) (k line : Nat), k < 240 →
    (((s.dev.hart k).line line).state.waits = true → s.dev.opOf k line = none →
      Reaches (.retry k line true) s (fun t => t.hart k = s.dev.hart k ∧ t.fab.reserved = s.dev.fab.reserved ++ [(k, line)] ∧
        t.regs = s.dev.regs ∧ s.dev.stores t) ∧
      Reaches (.retry k line false) s (fun t => (t.hart k).line line = { (s.dev.hart k).line line with held := true } ∧
        t.regs = s.dev.regs ∧ s.dev.stores t)) ∧
    (∀ r m, s.dev.opOf k line = none → ((s.dev.hart k).line line).req = some r →
      requestFor ((s.dev.hart k).line line).state r = some m →
      Reaches (.retryGrant k line) s (fun t => t.injects (corePoint k) k m ∧ t.hart k = s.dev.hart k ∧ t.regs = s.dev.regs ∧
        s.dev.stores t)) ∧
    (∀ m, s.dev.opOf k line = some m →
      Reaches (.retryGrant k line) s (fun t => t.injects (corePoint k) k m ∧ t.hart k = s.dev.hart k ∧ t.regs = s.dev.regs ∧
        s.dev.stores t)) ∧
    (∀ n r, n < 32 → s.dev.resv n k = some r → (s.dev.arbitrate (arbReservation n) 256 (s.dev.resvReady n)).1 = some k →
      Reaches (.reservationGrant n k) s (fun t => t.resv n k = some { r with granted := true } ∧ Instr.retryGrant k r.line ∈ t.fab.net ∧
        t.get (rHsReservationsGranted n) = wrapAdd 64 (s.dev.get (rHsReservationsGranted n)) 1 ∧ s.dev.stores t))) ∧
  (∀ (s : State) (k line : Nat) (e : DirEntry) (p : PwEntry), k < 240 → line % 64 = 0 → (s.dev.region line).isMemory = true →
    s.dev.remoteHome line = none → s.dev.txn line = none → s.dev.dirEntry line = some e → s.dev.pewterServes = true →
    s.dev.pewterEntry line = some p →
    (∀ data mark, e.state = 2 → e.owner = k →
      Reaches (.writeBackFull k line data mark) s (fun t => t.pewterEntry line = some ⟨line, true, mark, data⟩ ∧ t.dirEntry line = none ∧
        Instr.wbAck k line ∈ t.fab.net ∧ s.dev.stores t)) ∧
    (e.state = 2 → e.owner = k →
      Reaches (.writeBackClean k line) s (fun t => t.pewter = s.dev.pewter ∧ t.dirEntry line = none ∧ Instr.wbAck k line ∈ t.fab.net ∧
        s.dev.stores t)) ∧
    (e.state = 1 → (∀ x ∈ s.dev.filterSet (k / 20) line, x.line = line → bitClear x.presence (k % 20) = 0) →
      Reaches (.evictClean k line) s (fun t => t.pewter = s.dev.pewter ∧ s.dev.stores t ∧
        (∀ x, t.dirEntry line = some x → x.holders.testBit (k / 20) = false)))) ∧
  (∀ (s : State) (n : Nat), n < 12 → (s.dev.unit (.die n) = stBypassed ∨ s.dev.unit (.die n) = stFailed) →
    Reaches (.directoryPurge n) s (fun t => t.ownedBy n = [] ∧
      ∀ h ∈ t.homes, ∀ c ∈ h.2.dir, ∀ e ∈ c.2, e.state ≠ 2 → e.holders.testBit n = false))

/-- R279, R285, of a line that Pewter holds: each answer that is not the last leaves the transaction waiting for the others, and a recall's
data is written; the last InvAck of an own grants the line exclusively and names the requester owner; GrantAck of the grantee closes the
transaction; data that an own read from memory is granted; the memory's acceptance of the home's full-line write completes it. -/
def Obligations.TransactionsRunToTheirEnd : Prop :=
  ∀ (s : State) (line : Nat) (x : Txn) (p : PwEntry), line % 64 = 0 → (s.dev.region line).isMemory = true → s.dev.remoteHome line = none →
    s.dev.txn line = some x → s.dev.pewterHas x.req p → x.req.line = line →
    (∀ a b, a ≠ b → x.recalls = [a, b] → a < 248 →
      Reaches (.recallAck a line false) s (fun t => (t.txn line).map (fun y => y.recalls) = some [b] ∧ s.dev.stores t)) ∧
    (∀ a b data mark, a ≠ b → x.recalls = [a, b] → a < 248 → x.kind = .own →
      Reaches (.recallAckData a line data mark) s (fun t => (t.txn line).map (fun y => y.recalls) = some [b] ∧
        t.pewterEntry line = some ⟨line, true, mark, data⟩ ∧ s.dev.stores t)) ∧
    (∀ n m, n ≠ m → x.acks = [n, m] → n < 248 →
      Reaches (.invAck n line) s (fun t => (t.txn line).map (fun y => y.acks) = some [m] ∧ s.dev.stores t)) ∧
    (∀ n, x.req.agent < 245 → x.kind = .own → x.acks = [n] → x.recalls = [] → x.hold = false → x.wbPend = false → x.memRead = false →
      x.memWrite = false → x.grantee = none → n < 248 →
      Reaches (.invAck n line) s (fun t => Instr.dataExclusive x.req.agent line p.data p.mark ∈ t.fab.net ∧
        (t.txn line).map (fun y => y.grantee) = some (some x.req.agent) ∧
        t.dirEntry line = some (s.dev.dirOwned line x.req.agent) ∧ s.dev.stores t)) ∧
    (∀ a, a < 248 → x.grantee = some a →
      Reaches (.grantAck a line) s (fun t => t.txn line = none ∧ t.dirEntry line = s.dev.dirEntry line ∧ t.regs = s.dev.regs ∧
        s.dev.stores t)) ∧
    (∀ data mark, x.req.agent < 245 → x.memRead = true → x.kind = .own →
      Reaches (.memoryReadData line data mark) s (fun t => Instr.dataExclusive x.req.agent line data mark ∈ t.fab.net ∧
        (t.txn line).map (fun y => y.grantee) = some (some x.req.agent) ∧ s.dev.stores t)) ∧
    (∀ data mark, x.req.agent < 245 → x.memWrite = true → x.kind = .invWrite data mark →
      (s.dev.takeMsg (fun m => m = .memoryWriteComplete line)).writeInFlight line = false →
      Reaches (.memoryWriteComplete line) s (fun t => Instr.cmpWrite x.req.agent line .ok ∈ t.fab.net ∧ t.txn line = none ∧
        s.dev.stores t))

/-- R271, R272: enabling Pewter while it is OFF makes it ACTIVE with no entry; disabling it while it is ACTIVE and no bank side is loaded
takes it to QUIESCING, and the end of the drain leaves it OFF and empty; every dirty entry is on its way to its controller then.
R268 to R270, Table 11-2: the commands begin with RUNNING; LOCK and UNLOCK have set or cleared their segments' bits in the selected slices
by then. The end of a PRELOAD of one line fills an empty entry with it, and that of a FLUSH leaves no entry of its segments in its slices
and every other entry.
R260 to R262, R265, R266: the data of a live prefetch, once its read is injected, joins its slice's side buffer, and a read that meets an
uncorrectable error fills nothing and leaves the line marked; the patrol scrubber moves on by one entry, and a corrected error and a bad
tag copy that it meets are counted. -/
def Obligations.PewterServesAndObeys : Prop :=
  (∀ (s : State) (p : Path),
    (s.dev.admits p 0x5840 0x01 1 = true → s.dev.get rPwState = stOff →
      Reaches (.pwEnableWrite p 1) s (fun t => t.answered p .ok ∧ t.get rPwState = stActive ∧ t.get rPwEnable = 1 ∧ t.pewter = [] ∧
        s.dev.regsBut t [rPwState, rPwEnable] ∧ s.dev.stores t)) ∧
    (s.dev.admits p 0x5840 0x01 0 = true → s.dev.get rPwState = stActive → s.dev.anySide = false →
      Reaches (.pwEnableWrite p 0) s (fun t => t.answered p .ok ∧ t.get rPwState = stQuiescing ∧ t.get rPwEnable = 0 ∧
        t.pewter = s.dev.pewter ∧ s.dev.regsBut t [rPwState, rPwEnable] ∧ s.dev.stores t)) ∧
    (s.dev.get rPwState = stQuiescing → (∀ e ∈ s.dev.pewter, (s.dev.place e.2.line).isSome = true) →
      (s.dev.pewter.map (fun e => e.1)).Nodup →
      Reaches (.pwDrainDone []) s (fun t => t.get rPwState = stOff ∧ t.pewter = [] ∧
        (∀ e ∈ s.dev.pewter, e.2.dirty = true → Instr.mcLineWrite e.2.line 0 e.2.data e.2.mark ∈ t.fab.net) ∧
        s.dev.regsBut t [rPwState] ∧ s.dev.stores t))) ∧
  (∀ (s : State) (p : Path), s.dev.get rPwCommand ≠ cmdRunning → s.dev.get rPwState = stActive →
    (s.dev.admits p 0x5840 0x03 1 = true → s.dev.preloadDenied p = false → s.dev.preloadRange p = false →
      Reaches (.pwPreload p) s (fun t => t.answered p .ok ∧ t.get rPwCommand = cmdRunning ∧
        t.pwJob = some (1, s.dev.get (rPwCmdBase p), s.dev.get (rPwCmdLength p)) ∧ t.pewter = s.dev.pewter ∧ s.dev.stores t)) ∧
    (∀ n g, n < 32 → g < 64 → s.dev.admits p 0x5840 0x03 2 = true → s.dev.segWorldDenied p = false →
      bitAt (s.dev.get (rPwCmdSlices p)) n = true → bitAt (s.dev.get (rPwCmdSegments p)) g = true →
      Reaches (.pwLock p) s (fun t => t.answered p .ok ∧ t.get rPwCommand = cmdRunning ∧ bitAt (t.get (rPwSegLocked n)) g = true ∧
        t.pewter = s.dev.pewter ∧ s.dev.stores t)) ∧
    (∀ n g, n < 32 → g < 64 → s.dev.admits p 0x5840 0x03 3 = true → s.dev.segWorldDenied p = false → s.dev.bankSelected p = false →
      bitAt (s.dev.get (rPwCmdSlices p)) n = true → bitAt (s.dev.get (rPwCmdSegments p)) g = true →
      Reaches (.pwUnlock p) s (fun t => t.answered p .ok ∧ t.get rPwCommand = cmdRunning ∧ bitAt (t.get (rPwSegLocked n)) g = false ∧
        t.pewter = s.dev.pewter ∧ s.dev.stores t)) ∧
    (s.dev.admits p 0x5840 0x03 4 = true → s.dev.segWorldDenied p = false → s.dev.bankSelected p = false →
      Reaches (.pwFlush p) s (fun t => t.answered p .ok ∧ t.get rPwCommand = cmdRunning ∧
        t.pwJob = some (4, s.dev.get (rPwCmdSlices p), s.dev.get (rPwCmdSegments p)) ∧ t.pewter = s.dev.pewter ∧ s.dev.stores t))) ∧
  (∀ (s : State), s.dev.get rPwCommand = cmdRunning →
    (∀ slices segs, s.dev.pwJob = some (4, slices, segs) → (∀ e ∈ s.dev.pewter, (s.dev.place e.2.line).isSome = true) →
      Reaches (.pwCommandDone []) s (fun t => t.get rPwCommand = cmdDone ∧ t.pwJob = none ∧
        (∀ e, e ∈ t.pewter ↔ e ∈ s.dev.pewter ∧ ¬(bitAt slices (e.1 / 2 ^ 19) = true ∧ bitAt segs (segmentOf (e.1 % 2 ^ 19)) = true)) ∧
        s.dev.regsBut t [rPwCommand] ∧ s.dev.stores t)) ∧
    (∀ base, s.dev.pwJob = some (1, base, 64) → s.dev.pewterEntry base = none → tabFind s.dev.pewter (s.dev.pewterKey base) = none →
      Reaches (.pwCommandDone []) s (fun t => t.get rPwCommand = cmdDone ∧ t.pwJob = none ∧
        t.pewterEntry base = some ⟨base, false, (s.dev.memView base).2 || s.dev.lineLost base, (s.dev.memView base).1⟩ ∧ s.dev.stores t))) ∧
  (∀ (s : State) (n line : Nat), n < 32 →
    ((s.dev.home n).prefetches = [(line, true)] → Instr.prefetchDataReturn n line true ∈ s.dev.fab.net →
      (s.dev.memView line).2 = false → s.dev.pewterActive = true → (s.dev.home n).sideBuf.length < 128 →
      Reaches (.prefetchDataReturn n line true) s (fun t => (t.home n).prefetches = [] ∧
        (t.home n).sideBuf = (s.dev.home n).sideBuf ++ [(line, (s.dev.memView line).1, .normal)] ∧ t.pewter = s.dev.pewter ∧
        s.dev.stores t)) ∧
    ((s.dev.home n).prefetches = [(line, true)] → Instr.prefetchDataReturn n line true ∈ s.dev.fab.net →
      Reaches (.prefetchDataReturn n line false) s (fun t => (t.home n).prefetches = [] ∧
        (t.home n).sideBuf = (s.dev.home n).sideBuf ∧ t.pewter = s.dev.pewter ∧ t.mem = s.dev.mem ∧
        ((s.dev.place line).isSome = true → t.memMark line = true))) ∧
    (∀ e, s.dev.get rPwScrubHours ≠ 0 → s.dev.pewterSlot n (s.dev.home n).scrubPos = some e → (s.dev.home n).scrubPos < 2 ^ 19 →
      Reaches (.patrolScrub n .none 0) s (fun t => (t.home n).scrubPos = ((s.dev.home n).scrubPos + 1) % 2 ^ 19 ∧
        t.pewter = s.dev.pewter ∧ t.regs = s.dev.regs ∧ s.dev.stores t) ∧
      Reaches (.patrolScrub n .none 1) s (fun t => t.get rPwTagRepairs = satAdd32 (s.dev.get rPwTagRepairs) 1 ∧
        t.pewter = s.dev.pewter ∧ s.dev.stores t) ∧
      Reaches (.patrolScrub n .corrected 0) s (fun t => t.get rPwCorrected = wrapAdd 64 (s.dev.get rPwCorrected) 1 ∧
        s.dev.told t kPewterCorrected (500 + n) ∧ t.pewter = s.dev.pewter ∧ s.dev.stores t)))

/-- R300, R305, R308: a clean flit goes on toward its destination; one without a path is reported. A flit in error, and each flit behind it,
waits for the replay, which gives each of them to the router again, in order. A router whose switch fails its self-check is bypassed; where
its bypass fails too, the fault is reported.
R307, R310, R311, R313: a flit that an order hold keeps back is sent on the new assignment when the old one is clear; the arbiter of an
injection point takes the next ready head request and its tokens; an expired request of a hart ends as if its target had answered TIMEOUT,
is counted and reported. -/
def Obligations.FlitsReachTheirRouters : Prop :=
  (∀ (s : State) (n q : Nat) (f : Flit), routerHasPort n q = true →
    (∀ a, tabGet (s.dev.router n).replaying q [] = [] → f.kind ≠ 3 → s.dev.hop n f = .cross a → a < 80 →
      s.dev.holdFor (routerMesh n).1 (a / 2) f = none →
      Reaches (.flitReceive n q f .clean) s (fun t => (t.adapter a).carries f ∧ (∀ b, b ≠ a → t.adapter b = s.dev.adapter b) ∧
        (t.router n).replaying = (s.dev.router n).replaying ∧ t.chans = s.dev.chans ∧ s.dev.stores t)) ∧
    (tabGet (s.dev.router n).replaying q [] = [] → f.kind ≠ 3 → s.dev.hop n f = .lost →
      Reaches (.flitReceive n q f .clean) s (fun t => s.dev.told t kFabricPartition (720 + n) ∧ t.adapters = s.dev.adapters ∧
        s.dev.stores t)) ∧
    (tabGet (s.dev.router n).replaying q [] = [] → tabGet (s.dev.router n).fails q 0 < 2 →
      Reaches (.flitReceive n q f .uncorrectable) s (fun t => tabGet (t.router n).replaying q [] = [f] ∧
        tabGet (t.router n).fails q 0 = tabGet (s.dev.router n).fails q 0 + 1 ∧
        t.get (rRtReplays n) = satAdd32 (s.dev.get (rRtReplays n)) 1 ∧ t.adapters = s.dev.adapters ∧
        s.dev.regsBut t [rRtReplays n] ∧ s.dev.stores t)) ∧
    (∀ c, tabGet (s.dev.router n).replaying q [] ≠ [] →
      Reaches (.flitReceive n q f c) s (fun t =>
        tabGet (t.router n).replaying q [] = tabGet (s.dev.router n).replaying q [] ++ [f] ∧ t.adapters = s.dev.adapters ∧
        t.regs = s.dev.regs ∧ s.dev.stores t)) ∧
    (tabGet (s.dev.router n).replaying q [] ≠ [] →
      Reaches (.linkReplayRequest n q) s (fun t => tabGet (t.router n).replaying q [] = [] ∧
        t.fab.net = s.dev.fab.net ++ (tabGet (s.dev.router n).replaying q []).map (fun g => Instr.flitReceive n q g .clean) ∧
        t.regs = s.dev.regs ∧ s.dev.stores t)) ∧
    (n < 160 → (s.dev.router n).bypassed = false →
      Reaches (.routerBypass n true) s (fun t => (t.router n).bypassed = true ∧ t.get (rRtState n) = stBypassed ∧
        s.dev.told t kRouterBypass (720 + n) ∧ s.dev.stores t)) ∧
    (n < 160 →
      Reaches (.routerBypass n false) s (fun t => t.router n = s.dev.router n ∧ s.dev.told t kMeshLinkLost (720 + n) ∧ s.dev.stores t))) ∧
  (∀ (s : State),
    (∀ e h m f c, e < 20 → tabFind s.dev.fab.held e = some h → h.flits = [(m, f)] →
      (∀ g ∈ h.waits, ∀ b < 20, g ∉ s.dev.orderedOut b) → s.dev.crossing s.dev.routes m f = some c → (s.dev.unheld e).holdFor m c f = none →
      Reaches (.vnOrderHoldRelease e) s (fun t => tabFind t.fab.held e = none ∧
        (t.adapter (2 * c + moduleEnd c m)).carries f ∧ s.dev.stores t)) ∧
    (∀ n i r, n < 192 → (s.dev.arbitrate (arbInjection n) 4096 (fun i => (s.dev.readyHead n i).isSome)).1 = some i →
      s.dev.readyHead n i = some r →
      Reaches (.injectionGrant n) s (fun t => t.fab.net = s.dev.fab.net ++ [r.msg] ∧
        tabGet t.fab.injQ n [] = dropFirst (fun x => x = r) (tabGet s.dev.fab.injQ n []) ∧
        tabFind t.fab.tokens (n * 64 + r.cls) = some (s.dev.tokensNow n r.cls - r.flits * 1024, s.dev.fclk) ∧
        t.arbPtr (arbInjection n) = arbNext 4096 i ∧
        (∀ o us, r.timer = some (o, us) → tabFind t.fab.reqs s.dev.fab.nextReq = some ⟨o, s.dev.inUs us⟩) ∧ s.dev.stores t)) ∧
    (∀ q k tag x until_, tabFind s.dev.fab.reqs q = some ⟨.hartLoad k tag, until_⟩ → until_ ≤ s.dev.now →
      (s.dev.hart k).loading tag = some x →
      Reaches (.initiatorTimeout q) s (fun t => t.get rFabTimeouts = wrapAdd 64 (s.dev.get rFabTimeouts) 1 ∧
        s.dev.told t kAccessTimeout k ∧ (t.hart k).loading tag = none ∧ s.dev.stores t)))

/-- R326, R328: a data flit in order is accepted: the expected sequence and the credit to return move on, and a flit from a 2D module enters
its router with VC raised by one. One with a bad LCRC is not: it is counted, and a NAK is due, from which on data flits are discarded until
REPLAY names the expected sequence. 64 slots without REPLAY repeat the NAK.
R324 to R328: UPDATE frees the acknowledged flits and returns the credits that its totals newly give; NAK, and 512 FCLK without
acknowledgement, have the buffered flits sent again, in order, after REPLAY; at the replay limit the module retrains, or fails without
LIVE_RETRAIN. A control flit carries the last accepted sequence, the totals, and the control that is due. -/
def Obligations.WeladeDeliversInOrder : Prop :=
  (∀ (s : State) (a : Nat) (f : Flit), a < 272 → (s.dev.chan (a / 2)).state = 5 → let x := s.dev.adapter a
    (x.discarding = false → a < 80 → f.vc < 3 →
      Reaches (.weladeDataFlit a f true) s (fun t => (t.adapter a).rxExpect = (x.rxExpect + 1) % 256 ∧ (t.adapter a).discarding = false ∧
        Instr.flitReceive (chanRouter (a / 2) (a % 2)).1 (chanRouter (a / 2) (a % 2)).2 { f with vc := f.vc + 1 } .clean ∈ t.fab.net ∧
        (if s.dev.sentShared a x.rxExpect then (t.adapter a).sret = (x.sret + 1) % 256
          else tabGet (t.adapter a).qret (flitQueue f) 0 = (tabGet x.qret (flitQueue f) 0 + 1) % 256) ∧ s.dev.stores t)) ∧
    (x.discarding = false → a < 80 → f.vc = 3 →
      Reaches (.weladeDataFlit a f true) s (fun t =>
        s.dev.told t kFabricPartition (720 + (chanRouter (a / 2) (a % 2)).1) ∧ s.dev.stores t)) ∧
    (x.discarding = false →
      Reaches (.weladeDataFlit a f false) s (fun t => t.adapter a = { x with
          discarding := true, nakSince := s.dev.fclk, due := x.due ++ [.nak x.rxExpect] } ∧
        t.get (rSdCrcErrors (chanModule (a / 2))) = wrapAdd 64 (s.dev.get (rSdCrcErrors (chanModule (a / 2)))) 1 ∧ s.dev.stores t)) ∧
    (x.discarding = true →
      Reaches (.weladeDataFlit a f true) s (fun t => t.adapters = s.dev.adapters ∧ t.regs = s.dev.regs ∧ s.dev.stores t) ∧
      Gives (.weladeReplay a x.rxExpect) s
        ((s.dev.takeMsg (fun m => m = .weladeReplay a x.rxExpect)).setAdapter a { x with
          discarding := false, due := x.due.filter (fun e => match e with
            | .nak _ => false
            | _ => true) })) ∧
    (∀ v, v ≠ x.rxExpect → Gives (.weladeReplay a v) s (s.dev.takeMsg (fun m => m = .weladeReplay a v))) ∧
    (x.discarding = true → x.nakSince + 64 ≤ s.dev.fclk →
      Gives (.nakRepeat a) s (s.dev.setAdapter a { x with nakSince := s.dev.fclk, due := x.due ++ [.nak x.rxExpect] }))) ∧
  (∀ (s : State) (a : Nat), a < 272 → (s.dev.chan (a / 2)).state = 5 → let x := s.dev.adapter a
    (∀ ack sc qc, x.txq = [] → (x.retry.any (fun r => r.seq = ack)) = true → qc.length = 32 →
      Reaches (.weladeUpdate a ack sc qc) s (fun t =>
        (t.adapter a).retry = (x.retry.dropWhile (fun r => r.seq != ack)).drop 1 ∧ (t.adapter a).acked = ack ∧
        (t.adapter a).replayRun = 0 ∧ (t.adapter a).shared = x.shared + totalDelta sc x.sseen ∧
        (∀ q < 32, tabGet (t.adapter a).dedicated q 0
          = tabGet x.dedicated q 0 + totalDelta (qc[q]?.getD 0) (tabGet x.qseen q 0)) ∧ t.regs = s.dev.regs ∧ s.dev.stores t)) ∧
    (∀ v, x.replayRun + 1 < s.dev.get rSdReplayLimit →
      Reaches (.weladeNak a v) s (fun t => (t.adapter a).due = x.due ++ [.replay v] ∧ (t.adapter a).replayRun = x.replayRun + 1 ∧
        t.fab.net = (s.dev.takeMsg (fun m => m = .weladeNak a v)).fab.net
          ++ (x.retry.dropWhile (fun r => r.seq != v)).map (fun r => Instr.weladeDataFlit (peerOf a) r.flit true) ∧
        t.get (rSdReplays (chanModule (a / 2))) = wrapAdd 64 (s.dev.get (rSdReplays (chanModule (a / 2)))) 1 ∧ s.dev.stores t)) ∧
    (∀ v, a < 80 → s.dev.get rSdReplayLimit ≤ x.replayRun + 1 →
      Reaches (.weladeNak a v) s (fun t => (t.chan (a / 2)).state = (if s.dev.hasFeature 1 then 6 else 7) ∧ s.dev.stores t)) ∧
    (∀ r, x.retry.head? = some r → r.sent + 512 ≤ s.dev.fclk → x.replayRun + 1 < s.dev.get rSdReplayLimit →
      Reaches (.replayTimeout a) s (fun t => (t.adapter a).due = x.due ++ [.replay r.seq] ∧
        t.fab.net = s.dev.fab.net ++ x.retry.map (fun r => Instr.weladeDataFlit (peerOf a) r.flit true) ∧ s.dev.stores t)) ∧
    (x.txq = [] →
      Reaches (.controlFlitSend a) s (fun t => (t.adapter a).due = x.due.drop 1 ∧ (t.adapter a).dataRun = 0 ∧
        Instr.weladeUpdate (peerOf a) ((x.rxExpect + 255) % 256) x.sret ((List.range 32).map (fun q => tabGet x.qret q 0)) ∈ t.fab.net ∧
        (∀ v, x.due.head? = some (.nak v) → Instr.weladeNak (peerOf a) v ∈ t.fab.net) ∧
        (∀ v, x.due.head? = some (.replay v) → Instr.weladeReplay (peerOf a) v ∈ t.fab.net) ∧
        (∀ l v, x.due.head? = some (.resync l v) → Instr.weladeResync (peerOf a) l v ∈ t.fab.net) ∧ s.dev.stores t)))

/-- R320, R329 to R331, Table 14-6: training that reaches ACTIVE with at most two failing lanes in each half takes the module to the
exchange at full width; one without a usable half, an exchange or a training out of time, trains again, and fails after the third
retraining. Records that pass every check bring the module UP with the credits they grant; one in error is awaited again.
R332, R333, Table 14-10: RETRAIN takes a module in service to RETRAIN, and when it has drained or 100 µs have passed it trains; DISABLE
takes it out of service at once; ENABLE trains one out of service. RESYNC has the flit of a lost module after the sequence that it names go
over the module that carries it now, and new flits no longer wait; after 20 µs without RESYNC the flits are counted as lost and
reported. -/
def Obligations.ModulesTrainLeaveAndReturn : Prop :=
  (∀ (s : State) (c : Nat), c < 40 → let x := s.dev.chan c
    (∀ e low high, e < 2 → x.state = 2 → low ≤ 2 → high ≤ 2 →
      Reaches (.trainingActive (2 * c + e) low high) s (fun t => (t.chan c).state = 3 ∧ (t.chan c).activeAt = s.dev.now ∧
        (t.adapter (2 * c + e)).width = 0x40 ∧ (t.adapter (2 * c + e)).repairs = low + high ∧ t.get (rSdState c) = 3 ∧ s.dev.stores t)) ∧
    (∀ (r0 r1 : CapRecord), x.state = 3 → (s.dev.adapter (2 * c + 1)).peerRec = some r0 → r1.crcOk = true →
      (s.dev.adapter (2 * c)).txq = [] → (s.dev.adapter (2 * c + 1)).txq = [] → s.dev.exchangeCheck c r0 r1 = 0 →
      Reaches (.capabilityRecord (2 * c) r1) s (fun t => (t.chan c).state = 5 ∧ t.get (rSdState c) = 5 ∧
        (t.adapter (2 * c)).shared = r1.shared ∧ (t.adapter (2 * c + 1)).shared = r0.shared ∧
        (∀ q < 32, tabGet (t.adapter (2 * c)).dedicated q 0 = r1.dedicated ∧ tabGet (t.adapter (2 * c + 1)).dedicated q 0 = r0.dedicated) ∧
        (x.command = true → t.get (rSdCommand c) = cmdDone) ∧ s.dev.stores t)) ∧
    (∀ (r0 r1 : CapRecord), x.state = 3 → (s.dev.adapter (2 * c + 1)).peerRec = some r0 → r1.crcOk = true →
      (s.dev.exchangeCheck c r0 r1 = 1 ∨ s.dev.exchangeCheck c r0 r1 = 2 ∨ s.dev.exchangeCheck c r0 r1 = 4) →
      Reaches (.capabilityRecord (2 * c) r1) s (fun t => (t.chan c).state = 7 ∧ s.dev.told t
        (if s.dev.exchangeCheck c r0 r1 = 1 then kWeladeVersion else if s.dev.exchangeCheck c r0 r1 = 2 then kWeladeTopology
          else kWeladeCredits) (640 + c) ∧ s.dev.stores t)) ∧
    (∀ (r : CapRecord) (e : Nat), e < 2 → x.state = 3 → r.crcOk = false → (s.dev.adapter (2 * c + e)).recFails < 3 →
      Reaches (.capabilityRecord (2 * c + e) r) s (fun t => t.chans = s.dev.chans ∧
        (t.adapter (2 * c + e)).recFails = (s.dev.adapter (2 * c + e)).recFails + 1 ∧ t.regs = s.dev.regs ∧ s.dev.stores t)) ∧
    (let again : Dev → Prop := fun t => (x.retrains < 3 → (t.chan c).state = 2 ∧ (t.chan c).retrains = x.retrains + 1) ∧
        (3 ≤ x.retrains → (t.chan c).state = 7 ∧ s.dev.told t kSolderWidthMismatch (640 + c)) ∧ s.dev.stores t;
      (∀ e low high, e < 2 → x.state = 2 → 2 < low → 2 < high → Reaches (.trainingActive (2 * c + e) low high) s again) ∧
      (x.state = 3 → x.activeAt + 100000 ≤ s.dev.now → Reaches (.exchangeTimeout c) s again) ∧
      (x.state = 2 ∨ x.state = 3 ∨ x.state = 4 → x.started + 2000000 ≤ s.dev.now → Reaches (.trainingTimeout c) s again))) ∧
  (∀ (s : State) (p : Path) (c : Nat), c < 40 → let x := s.dev.chan c
    (s.dev.admits p (moduleIndex c) 0x03 1 = true → s.dev.hasFeature 1 = true → s.dev.get (rSdCommand c) ≠ cmdRunning → x.state = 5 →
      Reaches (.sdRetrain p c) s (fun t => t.answered p .ok ∧ (t.chan c).state = 6 ∧ t.get (rSdCommand c) = cmdRunning ∧
        t.get (rSdRetrains c) = wrapAdd 64 (s.dev.get (rSdRetrains c)) 1 ∧ (∀ b, b ≠ c → t.chan b = s.dev.chan b) ∧ s.dev.stores t)) ∧
    (s.dev.admits p (moduleIndex c) 0x03 2 = true → s.dev.get (rSdCommand c) ≠ cmdRunning →
      Reaches (.sdDisable p c) s (fun t => t.answered p .ok ∧ (t.chan c).state = 0 ∧ t.get (rSdCommand c) = cmdDone ∧
        (∀ b, b ≠ c → t.chan b = s.dev.chan b) ∧ s.dev.stores t)) ∧
    (s.dev.admits p (moduleIndex c) 0x03 3 = true → s.dev.get (rSdCommand c) ≠ cmdRunning → x.state = 0 ∨ x.state = 7 →
      Reaches (.sdEnable p c) s (fun t => t.answered p .ok ∧ (t.chan c).state = 2 ∧ t.get (rSdCommand c) = cmdRunning ∧
        (∀ b, b ≠ c → t.chan b = s.dev.chan b) ∧ s.dev.stores t)) ∧
    (x.state = 6 → (s.dev.adapter (2 * c)).retry = [] → (s.dev.adapter (2 * c + 1)).retry = [] →
      Reaches (.retrainDrainDone c) s (fun t => (t.chan c).state = 2 ∧ (t.chan c).lostFlits = x.lostFlits ∧ s.dev.stores t)) ∧
    (x.state = 6 → x.drainEnd ≤ s.dev.now →
      Reaches (.retrainDrainExpiry c) s (fun t => (t.chan c).state = 2 ∧ (t.chan c).lostFlits = x.lostFlits
          ++ (s.dev.adapter (2 * c)).retry.map (fun r => (0, r)) ++ (s.dev.adapter (2 * c + 1)).retry.map (fun r => (1, r)) ∧
        s.dev.stores t)) ∧
    (∀ m e r r' l, m < 40 → e < 2 → chanEdge m = chanEdge c → (edgeChans (chanEdge c))[l]? = some c → x.lostFlits = [(e, r), (e, r')] →
      s.dev.crossing s.dev.routes (endMesh c e) r'.flit = some m → moduleEnd m (endMesh c e) = e →
      (∀ b ∈ edgeChans (chanEdge c), b ≠ c → (s.dev.chan b).lostFlits = []) →
      Reaches (.weladeResync (2 * m + e) l r.seq) s (fun t => (t.chan c).lostFlits = [] ∧ (t.adapter (2 * m + e)).carries r'.flit ∧
        (t.adapter (2 * m + e)).holdNew = false ∧ s.dev.stores t)) ∧
    (x.lostFlits ≠ [] → x.resyncEnd ≤ s.dev.now →
      Reaches (.resyncTimeout c) s (fun t => (t.chan c).lostFlits = [] ∧ s.dev.told t kSolderFlitsLost (640 + c) ∧
        t.get (rSdFlitsLost c) = satAdd32 (s.dev.get (rSdFlitsLost c)) x.lostFlits.length ∧ s.dev.stores t)))

/-- R387, R388: training that reaches L0 takes the link to the exchange of records, and a half width is reported. A record that passes every
check brings the link UP at its width; one with a CRC error is awaited again; a width that differs trains again, three times at most; any
other failed check, a fourth differing width, and the third failed training in a row, leaves the link FAILED with a fault.
R388, R392: eight failed replays, and the loss of L0, take a link in service to RETRAIN, counted; so does the RETRAIN command; DISABLE takes
a link out of service, and ENABLE trains one that is out. Flits for a package that have waited 20 µs without a path are discarded and
counted. -/
def Obligations.HarfortLinksComeAndGo : Prop :=
  (∀ (s : State) (l : Nat), l < 4 →
    (∀ w, hfWidthOk w = true → (s.dev.get (rHfState l) = 2 ∨ s.dev.get (rHfState l) = 6) → (s.dev.hfPeer l).isSome = true →
      Reaches (.harfortL0 l w) s (fun t => t.get (rHfState l) = 3 ∧ t.get (rHfWidth l) = 0 ∧ (t.hfLink l).width = w ∧
        (w ≠ 0x10 → s.dev.told t kHarfortLinkDegraded (hfSource l)) ∧ s.dev.stores t)) ∧
    (∀ (r : HfRecord), s.dev.get (rHfState l) = 3 →
      (r.crcOk = false → Gives (.harfortRecordReceive l r) s s.dev) ∧
      (r.crcOk = true → s.dev.hfCheck l r = 0 →
        Reaches (.harfortRecordReceive l r) s (fun t => t.get (rHfState l) = 5 ∧ t.get (rHfWidth l) = (s.dev.hfLink l).width ∧
          t.get (rHfCommand l) = (if s.dev.get (rHfCommand l) = cmdRunning then cmdDone else s.dev.get (rHfCommand l)) ∧ s.dev.stores t)) ∧
      (r.crcOk = true → s.dev.hfCheck l r = 5 → (s.dev.hfLink l).widthTries < 3 →
        Reaches (.harfortRecordReceive l r) s (fun t => t.get (rHfState l) = 2 ∧
          (t.hfLink l).widthTries = (s.dev.hfLink l).widthTries + 1 ∧ s.dev.stores t)) ∧
      (r.crcOk = true → s.dev.hfCheck l r ≠ 0 → (s.dev.hfCheck l r = 5 → 3 ≤ (s.dev.hfLink l).widthTries) →
        Reaches (.harfortRecordReceive l r) s (fun t => t.get (rHfState l) = 7 ∧ s.dev.told t kHarfortLinkLost (hfSource l) ∧
          s.dev.stores t))) ∧
    ((s.dev.get (rHfState l) = 2 ∨ s.dev.get (rHfState l) = 6) →
      Reaches (.harfortTrainLimit l) s (fun t => t.get (rHfState l) = 7 ∧ s.dev.told t kHarfortLinkLost (hfSource l) ∧ s.dev.stores t))) ∧
  (∀ (s : State) (p : Path) (l : Nat), l < 4 →
    (s.dev.hfUp l = true →
      Reaches (.harfortReplayLimit l) s (fun t => t.get (rHfState l) = 6 ∧
        t.get (rHfReplays l) = wrapAdd 64 (s.dev.get (rHfReplays l)) 8 ∧
        t.get (rHfRetrains l) = wrapAdd 32 (s.dev.get (rHfRetrains l)) 1 ∧ s.dev.stores t)) ∧
    (∀ far, s.dev.hfUp l = true →
      Reaches (.harfortL0Lost l far) s (fun t => t.get (rHfState l) = 6 ∧ t.get (rHfReplays l) = s.dev.get (rHfReplays l) ∧
        t.get (rHfRetrains l) = wrapAdd 32 (s.dev.get (rHfRetrains l)) 1 ∧ s.dev.stores t)) ∧
    (s.dev.admits p (0x6480 + l) 0x04 1 = true → s.dev.get (rHfCommand l) ≠ cmdRunning → s.dev.hfUp l = true →
      Reaches (.hfRetrain p l) s (fun t => t.answered p .ok ∧ t.get (rHfState l) = 6 ∧ t.get (rHfCommand l) = cmdRunning ∧
        s.dev.stores t)) ∧
    (s.dev.admits p (0x6480 + l) 0x04 2 = true → s.dev.get (rHfCommand l) ≠ cmdRunning →
      Reaches (.hfDisable p l) s (fun t => t.answered p .ok ∧ t.get (rHfState l) = 0 ∧ t.get (rHfWidth l) = 0 ∧
        t.get (rHfCommand l) = cmdDone ∧ s.dev.stores t)) ∧
    (s.dev.admits p (0x6480 + l) 0x04 3 = true → s.dev.get (rHfCommand l) ≠ cmdRunning → s.dev.hfEnableOk l = true →
      Reaches (.hfEnable p l) s (fun t => t.answered p .ok ∧ t.get (rHfState l) = 2 ∧ t.get (rHfCommand l) = cmdRunning ∧
        (t.hfLink l).widthTries = 0 ∧ s.dev.stores t)) ∧
    (∀ q, q < 4 → s.dev.resendExpired q l = true → (∀ m < 4, m ≠ l → s.dev.resendExpired q m = false) →
      Reaches (.harfortResendTimeout q) s (fun t => (t.hfLink l).unacked = (s.dev.hfLink l).unacked.filter (fun u => u.1 != q) ∧
        t.get rHfFlitsLost = satAdd32 (s.dev.get rHfFlitsLost) ((s.dev.hfLink l).waiting q).length ∧
        s.dev.regsBut t [rHfFlitsLost] ∧ s.dev.stores t)))

/-- R397 to R400: a package that has not reached another for `partHold` goes on at once where its half holds the master, and else enters
DECIDING until `partDecide` has passed; CONTINUE leaves it SPLIT, its record naming the packages outside its half, whose directory entries
are gone; FENCE, and the end of the time without a verdict, fence it: its cores are FENCED, and its links out of the half DISABLED. -/
def Obligations.SplitsAreDecided : Prop :=
  ∀ (s : State) (p : Path), let half := s.dev.reachMask
    let goesOn : Dev → Prop := fun t => t.get rPartState = 2 ∧ (∀ q, bitAt (t.get rPartLost) q = true ↔ q ∈ s.dev.outside half) ∧
      ∀ q ∈ s.dev.outside half, ∀ h ∈ t.homes, ∀ c ∈ h.2.dir, ∀ e ∈ c.2, e.state = 2 → e.owner ≠ s.dev.remoteAgent q
    let fenced : Dev → Prop := fun t => t.get rPartState = 3 ∧ s.dev.told t kPartitionLost 881 ∧
      (∀ k < 240, s.dev.pairMode k = false → s.dev.unit (.die (k / 20)) ≠ stQuiescing → s.dev.unit (.core k) = stActive → t.unit (.core k) = stFenced) ∧
      (∀ l < 4, ∀ q, s.dev.hfPeer l = some q → bitAt half q = false → t.get (rHfState l) = 0) ∧ s.dev.stores t
    let master := s.dev.get rPartMasterPkg
    (s.dev.get rPartState = 0 → s.dev.holdExpired = true → s.dev.part.far < 65536 →
      ((master < s.dev.get rPkgCount ∧ bitAt half master = true) → Reaches (.partitionHoldExpiry s.dev.part.far) s goesOn) ∧
      (¬(master < s.dev.get rPkgCount ∧ bitAt half master = true) →
        Reaches (.partitionHoldExpiry s.dev.part.far) s (fun t => t.get rPartState = 1 ∧
          t.part.decideEnd = s.dev.inUs (s.dev.get rPartDecide) ∧ s.dev.regsBut t [rPartState] ∧ s.dev.stores t))) ∧
    (s.dev.admits p 0x1208 0x03 1 = true → s.dev.get rPartState = 1 →
      Reaches (.partVerdictContinue p) s (fun t => t.answered p .ok ∧ goesOn t)) ∧
    (s.dev.admits p 0x1208 0x03 1 = true → s.dev.get rPartState ≠ 1 →
      Gives (.partVerdictContinue p) s ((s.dev.heard p).respond p .busy [])) ∧
    (s.dev.admits p 0x1208 0x03 2 = true → s.dev.get rPartState = 1 →
      Reaches (.partVerdictFence p) s (fun t => t.answered p .ok ∧ fenced t)) ∧
    (s.dev.get rPartState = 1 → s.dev.part.decideEnd ≤ s.dev.now → Reaches .partitionDecideExpiry s fenced)

/-- R338, R341, R343: a read of a line answers its home with the stored line: clean, corrected, or uncorrectable in both passes, which
counts, marks the stored line and answers marked; a stored mark is counted and answered marked, and a FAILED controller answers marked.
R342, R313, R340: a write stores the line with its mark and is confirmed; a FAILED controller stores nothing and the home loses the line. -/
def Obligations.ControllersReadAndWrite : Prop :=
  ∀ (s : State) (line hint : Nat) (p : Placement), s.dev.place line = some p → line % 64 = 0 → s.dev.mcTakes line = true →
    (s.dev.mcInOrder line false = true → s.dev.testLine p.mc line = false →
      (∀ second, s.dev.get (rMcState p.mc) ≠ stFailed → s.dev.memMark line = false →
        Reaches (.mcLineRead line hint .clean second) s (fun t =>
          t.fab.net = (s.dev.takeRead line).fab.net ++ [.memoryReadData line (s.dev.memLine line) false] ∧ s.dev.stores t)) ∧
      (∀ first second, s.dev.get (rMcState p.mc) ≠ stFailed → s.dev.memMark line = true →
        Reaches (.mcLineRead line hint first second) s (fun t =>
          t.fab.net = (s.dev.takeRead line).fab.net ++ [.memoryReadData line (s.dev.memLine line) true] ∧
          t.get (rMcMarkedReads p.mc) = wrapAdd 64 (s.dev.get (rMcMarkedReads p.mc)) 1 ∧ s.dev.stores t)) ∧
      (∀ loc multi second, s.dev.get (rMcState p.mc) ≠ stFailed → s.dev.memMark line = false →
        Reaches (.mcLineRead line hint (.corrected loc multi) second) s (fun t =>
          t.fab.net = (s.dev.takeRead line).fab.net ++ [.memoryReadData line (s.dev.memLine line) false] ∧
          t.get (rMcCorrected p.mc) = wrapAdd 64 (s.dev.get (rMcCorrected p.mc)) 1 ∧
          t.ceEntries p.mc = ceAppend (s.dev.ceEntries p.mc) (ceEntry loc multi false line s.dev.now) ∧
          s.dev.told t kMemoryCorrected (mcSource p.mc) ∧ s.dev.stores t)) ∧
      (s.dev.get (rMcState p.mc) ≠ stFailed → s.dev.memMark line = false →
        Reaches (.mcLineRead line hint .uncorrectable .uncorrectable) s (fun t =>
          t.fab.net = (s.dev.takeRead line).fab.net ++ [.memoryReadData line (s.dev.memLine line) true] ∧
          t.memMark line = true ∧ t.mem = s.dev.mem ∧
          t.get (rMcUncorrectable p.mc) = satAdd32 (s.dev.get (rMcUncorrectable p.mc)) 1 ∧
          s.dev.told t kMemoryUncorrectable (mcSource p.mc))) ∧
      (∀ first second, s.dev.get (rMcState p.mc) = stFailed →
        Reaches (.mcLineRead line hint first second) s (fun t =>
          t.fab.net = (s.dev.takeRead line).fab.net ++ [.memoryReadData line (s.dev.memLine line) true] ∧ s.dev.stores t))) ∧
    (∀ data mark, Memory.wf s.dev.mem = true → s.dev.mcInOrder line true = true → s.dev.get (rMcState p.mc) ≠ stFailed →
      Reaches (.mcLineWrite line hint data mark) s (fun t => t.memLine line = data ∧ t.memMark line = mark ∧
        (∀ a, (a < line ∨ line + 64 ≤ a) → memFind t.mem a = memFind s.dev.mem a) ∧
        t.fab.net = (s.dev.takeWrite line).fab.net ++ [.memoryWriteComplete line] ∧ t.fuses = s.dev.fuses ∧ t.flash = s.dev.flash)) ∧
    (∀ data mark, s.dev.mcInOrder line true = true → s.dev.get (rMcState p.mc) = stFailed →
      (s.dev.home (s.dev.homeSlice line)).lostLines.length < 64 →
      Reaches (.mcLineWrite line hint data mark) s (fun t => line ∈ (t.home (s.dev.homeSlice line)).lostLines ∧
        t.fab.net = (s.dev.takeWrite line).fab.net ++ [.memoryWriteComplete line] ∧ s.dev.stores t))

/-- R338 to R340, R346: a bank idle for `mcPageIdle` closes; an alert has the unconfirmed commands replayed, counted and reported, and the
eighth in succession retrains the controller, which fails where that does not succeed; the test mode begins only in poison mode with Pewter
OFF.
R347 to R350: SWITCH holds a controller's requests until the switch ends, which exchanges the active and the shadow rate, or is REFUSED with
a fault and changes neither; SPARE_SOFT, and SPARE_HARD in poison mode with nothing queued, replace the row of `mcSpareAddr`, or are REFUSED
where no spare is left. A command while one runs returns BUSY. -/
def Obligations.ControllersReplaySwitchAndSpare : Prop :=
  (∀ (s : State) (p : Path) (m : Nat), m < 20 → s.dev.get (rMcState m) ≠ stFailed →
    (∀ n ok, (if n ≠ 0 then 0 else (s.dev.mc m).replayRun) + 1 < 8 →
      Reaches (.mcAlert m n ok) s (fun t => (t.mc m).retryBuf = (s.dev.mc m).retryBuf.drop n ∧
        (t.mc m).replayRun = (if n ≠ 0 then 0 else (s.dev.mc m).replayRun) + 1 ∧
        t.get (rMcReplays m) = wrapAdd 64 (s.dev.get (rMcReplays m)) 1 ∧ t.get (rMcState m) = s.dev.get (rMcState m) ∧
        s.dev.told t kMemoryReplay (mcSource m) ∧ s.dev.stores t)) ∧
    ((s.dev.mc m).replayRun = 7 →
      Reaches (.mcAlert m 0 true) s (fun t => (t.mc m).replayRun = 0 ∧ t.get (rMcState m) = s.dev.get (rMcState m) ∧ s.dev.stores t) ∧
      Reaches (.mcAlert m 0 false) s (fun t => t.get (rMcState m) = stFailed ∧ s.dev.stores t)) ∧
    (∀ b row since, tabFind (s.dev.mc m).rows b = some (row, 0, since) → since + s.dev.get (rMcPageIdle m) ≤ s.dev.now →
      Gives (.pageIdleClose m b) s (s.dev.setMc m { s.dev.mc m with rows := tabErase (s.dev.mc m).rows b })) ∧
    (s.dev.admits p (controllerIndex m) 0x10 1 = true →
      (s.dev.flag rMemPoisonMode = true → s.dev.get rPwState = stOff →
        Gives (.mcTestModeWrite p m 1) s (((s.dev.heard p).set (rMcTestMode m) 1).ok p)) ∧
      ((s.dev.flag rMemPoisonMode = false ∨ s.dev.get rPwState ≠ stOff) →
        Gives (.mcTestModeWrite p m 1) s ((s.dev.heard p).respond p .busy [])))) ∧
  (∀ (s : State) (p : Path) (m : Nat), m < 20 →
    (s.dev.admits p (controllerIndex m) 0x05 1 = true → s.dev.rateOk m (s.dev.get (rMcShadowRate m)) = true →
      byteAt (s.dev.dom (domMcShadowTiming m) (1 :: zeros 63)) 0 = 1 →
      (s.dev.mcRunning m = false → s.dev.switchLimit m = false →
        Reaches (.mcSwitch p m) s (fun t => t.answered p .ok ∧ t.get (rMcCommand m) = cmdRunning ∧ (t.mc m).held = true ∧
          (t.mc m).rows = [] ∧ s.dev.regsBut t [rMcCommand m] ∧ s.dev.stores t)) ∧
      (s.dev.mcRunning m = true → Gives (.mcSwitch p m) s ((s.dev.heard p).respond p .busy []))) ∧
    (s.dev.mcRunning m = true → (s.dev.mc m).held = true →
      Reaches (.mcSwitchDone m true) s (fun t => t.get (rMcRate m) = s.dev.get (rMcShadowRate m) ∧
        t.get (rMcShadowRate m) = s.dev.get (rMcRate m) ∧ t.get (rMcCommand m) = cmdDone ∧ (t.mc m).held = false ∧ s.dev.stores t) ∧
      Reaches (.mcSwitchDone m false) s (fun t => t.get (rMcRate m) = s.dev.get (rMcRate m) ∧
        t.get (rMcShadowRate m) = s.dev.get (rMcShadowRate m) ∧ t.get (rMcCommand m) = cmdRefused ∧ (t.mc m).held = false ∧
        s.dev.told t kMemoryRateChange (mcSource m) ∧ s.dev.stores t)) ∧
    (s.dev.admits p (controllerIndex m) 0x05 2 = true → s.dev.spareAddrOk m = true → s.dev.mcRunning m = false →
      Reaches (.mcSpareSoft p m) s (fun t => t.answered p .ok ∧ t.get (rMcCommand m) = cmdRunning ∧ (t.mc m).hard = false ∧
        (t.mc m).spareAddr = s.dev.get (rMcSpareAddr m) ∧ s.dev.regsBut t [rMcCommand m] ∧ s.dev.stores t)) ∧
    (s.dev.admits p (controllerIndex m) 0x05 3 = true → s.dev.spareAddrOk m = true → s.dev.mcRunning m = false →
      s.dev.flag rMemPoisonMode = true → s.dev.mcQueued m = false →
      Reaches (.mcSpareHard p m) s (fun t => t.answered p .ok ∧ t.get (rMcCommand m) = cmdRunning ∧ (t.mc m).hard = true ∧
        (t.mc m).spareAddr = s.dev.get (rMcSpareAddr m) ∧ s.dev.regsBut t [rMcCommand m] ∧ s.dev.stores t)) ∧
    (∀ q, s.dev.mcRunning m = true → (s.dev.mc m).held = false → s.dev.place (s.dev.mc m).spareAddr = some q →
      Reaches (.mcSpareDone m true) s (fun t => t.get (rMcCommand m) = cmdDone ∧
        tabFind (t.mc m).spares (rowKey q) = some (if (s.dev.mc m).hard then 2 else 1) ∧ s.dev.stores t) ∧
      Reaches (.mcSpareDone m false) s (fun t => t.get (rMcCommand m) = cmdRefused ∧ t.get (rMcSpareError m) = 1 ∧
        t.mcs = s.dev.mcs ∧ s.dev.stores t)))

/-- R354, R357, R359: enabling a world range whose limit is below its base, or that meets another enabled range, returns RANGE and nothing
changes; otherwise the enable holds the value. Writing the scrub list and the debug enables likewise sets the one sub-entry; a debug enable
that a fuse keeps off cannot be set.
R361, Table 16-5: a hand-over to the other world begins with the release of the block: a cluster is QUIESCING, another block takes no new
request; when nothing of the old world is left in it, its world changes, it serves again, and the command reads DONE. A command to the world
that the block is in has no effect, and one while a command runs returns BUSY. A wired source changes world at once: its pending bit, enable
and target are cleared. -/
def Obligations.WorldsOfRangesBlocksAndSources : Prop :=
  (∀ (s : State) (p : Path) (v : Nat),
    (∀ n, n < 32 → s.dev.admits p (0x8010 + n) 0x01 v = true →
      (v = 1 → s.dev.wrBad n = true → Gives (.wrEnableWrite p n v) s ((s.dev.heard p).respond p .range [])) ∧
      (v = 1 → s.dev.wrBad n = false → Gives (.wrEnableWrite p n v) s (((s.dev.heard p).set (rWrEnable n) 1).ok p)) ∧
      (v = 0 → Gives (.wrEnableWrite p n v) s (((s.dev.heard p).set (rWrEnable n) 0).ok p))) ∧
    (∀ sub, 1 ≤ sub → sub ≤ 0x11 → s.dev.admits p 0x8030 sub v = true →
      Gives (.scrubListWrite p sub v) s (((s.dev.heard p).set (if sub = 0x11 then rScrubValid else rScrubFid (sub - 1)) v).ok p)) ∧
    (∀ sub, 1 ≤ sub → sub ≤ 4 → s.dev.admits p 0xA000 sub v = true →
      (v = 1 → bitAt s.dev.fuses.debugOff (sub - 1) = true → Gives (.debugEnableWrite p sub v) s ((s.dev.heard p).respond p .range [])) ∧
      ((v = 0 ∨ bitAt s.dev.fuses.debugOff (sub - 1) = false) →
        Gives (.debugEnableWrite p sub v) s (((s.dev.heard p).set (rDbgEnable sub) v).ok p)))) ∧
  (∀ (s : State) (p : Path) (n : Nat), n < 34 →
    (let handsOver : Instr → Nat → Prop := fun i w =>
      ((s.dev.get (rBlkCommand n) = cmdRunning ∨ s.dev.blockCommandRuns n = true) →
        Gives i s ((s.dev.heard p).respond p .busy [])) ∧
      (s.dev.get (rBlkCommand n) ≠ cmdRunning → s.dev.blockCommandRuns n = false →
        (s.dev.get (rBlkWorld n) = w → Gives i s ((s.dev.heard p).ok p)) ∧
        (s.dev.get (rBlkWorld n) ≠ w →
          Reaches i s (fun t => t.answered p .ok ∧ t.get (rBlkCommand n) = cmdRunning ∧ t.get (rBlkWorld n) = s.dev.get (rBlkWorld n) ∧
            (if n < 6 then t.unit (.cluster n) = stQuiescing else t.blockFenced n = true) ∧ s.dev.stores t)));
      (s.dev.admits p (0x8040 + n) 0x02 1 = true → handsOver (.blkToNormal p n) 0) ∧
      (s.dev.admits p (0x8040 + n) 0x02 2 = true → handsOver (.blkToTantalum p n) 1)) ∧
    (s.dev.get (rBlkCommand n) = cmdRunning → s.dev.blockReleased n = true →
      Reaches (.handoverReleaseDone n) s (fun t => t.get (rBlkWorld n) = 1 - s.dev.get (rBlkWorld n) ∧ t.get (rBlkCommand n) = cmdDone ∧
        (if n < 6 then t.unit (.cluster n) = stReady else t.blockFenced n = false) ∧ s.dev.stores t)) ∧
    (let q := s.dev.get rIrqSource
      let moves : Instr → World → Prop := fun i w =>
      ((q = 1 ∨ q = 2) → Gives i s ((s.dev.heard p).respond p .range [])) ∧
      (q ≠ 1 → q ≠ 2 → q < 1024 → s.dev.get rIrqCommand ≠ cmdRunning → s.dev.irqWorldOf q ≠ w →
        Reaches i s (fun t => t.answered p .ok ∧ t.irqWorldOf q = w ∧ t.get rIrqCommand = cmdDone ∧
          tabFind t.aplic.pending q = none ∧ tabFind t.aplic.enabled q = none ∧ tabFind t.aplic.target q = none ∧
          s.dev.regsBut t [rIrqWorld (q / 64), rIrqCommand] ∧ s.dev.stores t));
      (s.dev.admits p 0x8080 0x02 1 = true → moves (.irqToNormal p) .normal) ∧
      (s.dev.admits p 0x8080 0x02 2 = true → moves (.irqToTantalum p) .tantalum)))

/-- R364, R365: a kick before the deadline sets the next one, and the secure side serves; at or after it, and where the deadline passes
without one, the side is UNAVAILABLE: counted, timed, reported, and every hart that executes is to be handled. A hart within a world call is
returned from it with −16, scrubbed; one that runs Tantalum code is FENCED; another goes on.
R368, R410: RESTART in UNAVAILABLE begins where the measurement log has room, and is REFUSED where it has none; it ends counted and measured
where the active slot and its Tantalum image verify, and else REFUSED and UNAVAILABLE. DECLARE_DOWN makes the side UNAVAILABLE, with no
effect where it is already. -/
def Obligations.TheSecureSideIsWatchedAndRestarts : Prop :=
  (∀ (s : State) (p : Path),
    let lost : Dev → Prop := fun t => t.get rTkState = 2 ∧ t.get rTkExpiries = wrapAdd 32 (s.dev.get rTkExpiries) 1 ∧
      t.get rTkLastExpiry = s.dev.now ∧ t.tk.running = false ∧ s.dev.told t kSecureWatchdog 887 ∧
      (∀ k, (t.hart k).lossDue = (s.dev.hart k).running) ∧ s.dev.stores t
    (∀ v, s.dev.admits p 0x8000 0x03 v = true →
      (s.dev.watchdogDue = true → Reaches (.watchdogKick p v) s (fun t => t.answered p .busy ∧ lost t)) ∧
      (s.dev.watchdogDue = false → (s.dev.get rTkState = 0 ∨ s.dev.get rTkState = 1) → s.dev.ks.started = false →
        Reaches (.watchdogKick p v) s (fun t => t.answered p .ok ∧ t.get rTkState = 1 ∧ t.tk.running = true ∧
          t.tk.deadline = s.dev.inUs (s.dev.get rTkWatchdogPeriod) ∧ s.dev.regsBut t [rTkState, rTkWatchdogKick] ∧ s.dev.stores t)) ∧
      (s.dev.get rTkState = 2 → Gives (.watchdogKick p v) s ((s.dev.heard p).respond p .busy []))) ∧
    (s.dev.watchdogDue = true → Reaches .watchdogExpiry s lost) ∧
    (∀ k, k < 240 → (s.dev.hart k).lossDue = true → s.dev.hartRuns k = true →
      ((s.dev.hart k).priv = .m → (s.dev.hart k).inWcall = true →
        Reaches (.secureLossHartAction k) s (fun t => (t.hart k).priv = .s ∧ (t.hart k).inWcall = false ∧ (t.hart k).lossDue = false ∧
          (t.hart k).pc = BitVec.ofNat 64 ((s.dev.hart k).csr 0x7C2) ∧
          (∀ r, (t.hart k).x r = (if r = 10 then secureUnavailable else 0)) ∧ (t.hart k).fregs = [] ∧ (t.hart k).vregs = [] ∧
          t.get rTkForcedReturns = wrapAdd 32 (s.dev.get rTkForcedReturns) 1 ∧ s.dev.regsBut t [rTkForcedReturns] ∧ s.dev.stores t)) ∧
      ((s.dev.hart k).inWcall = false → (s.dev.hart k).world = .tantalum → s.dev.pairMode k = false →
        s.dev.unit (.die (k / 20)) ≠ stQuiescing →
        Reaches (.secureLossHartAction k) s (fun t => t.unit (.core k) = stFenced ∧ (t.hart k).running = false ∧
          (t.hart k).lostToTk = true ∧ s.dev.told t kCoreSecureLost k ∧ s.dev.stores t)) ∧
      ((s.dev.hart k).inWcall = false → (s.dev.hart k).world = .normal →
        Gives (.secureLossHartAction k) s (s.dev.setHart k { s.dev.hart k with lossDue := false })))) ∧
  (∀ (s : State) (p : Path),
    (s.dev.admits p 0x8000 0x04 1 = true →
      (s.dev.get rBootState = 5 → s.dev.get rTkState = 2 → s.dev.measRoom = true →
        Gives (.tkRestart p) s ((((s.dev.heard p).set rTkState 3).set rTkCommand cmdRunning).ok p)) ∧
      (s.dev.get rBootState = 5 → s.dev.get rTkState = 2 → s.dev.measRoom = false →
        Gives (.tkRestart p) s (((s.dev.heard p).set rTkCommand cmdRefused).ok p)) ∧
      ((s.dev.get rBootState ≠ 5 ∨ s.dev.get rTkState ≠ 2) → Gives (.tkRestart p) s ((s.dev.heard p).respond p .busy []))) ∧
    (∀ l, s.dev.get rTkState = 3 → s.dev.get rTkCommand = cmdRunning → s.dev.boot.activating = false → s.dev.boot.mgmtDown = false →
      let good := s.dev.slotResult (s.dev.get rBootSlotActive) = 0 ∧ s.dev.componentOk (s.dev.get rBootSlotActive) 3 = true ∧
        s.dev.measRoom = true
      (good → Reaches (.tkRestartDone l) s (fun t => t.get rTkCommand = cmdDone ∧ t.get rTkState = 3 ∧
        t.get rTkRestarts = wrapAdd 32 (s.dev.get rTkRestarts) 1 ∧ t.get rMeasCount = s.dev.get rMeasCount + 1 ∧
        t.fuses = s.dev.fuses ∧ t.flash = s.dev.flash)) ∧
      (¬good → Gives (.tkRestartDone l) s ((s.dev.set rTkState 2).set rTkCommand cmdRefused))) ∧
    (s.dev.admits p 0x8000 0x04 2 = true → s.dev.get rTkCommand ≠ cmdRunning → s.dev.get rBootState = 5 →
      (s.dev.get rTkState = 2 → Gives (.tkDeclareDown p) s ((s.dev.heard p).ok p)) ∧
      (s.dev.get rTkState ≠ 2 →
        Reaches (.tkDeclareDown p) s (fun t => t.answered p .ok ∧ t.get rTkState = 2 ∧ t.get rTkCommand = cmdDone ∧
          s.dev.told t kSecureWatchdog 887 ∧ (∀ k, (t.hart k).lossDue = (s.dev.hart k).running) ∧ s.dev.stores t))))

/-- R370, R372, R374, R375: Fusible takes the oldest message of the source whose turn it is, counts it under its kind and source, and stores
it as an uncleared record in a free element, under its class and the next acceptance number; ERR_N and FATAL_N show classes from 2 and from
5. With no element left the record folds into its source and is counted as lost. An error that the log's storage corrects is told.
R373, R378, R379: a record of class 3 takes the containment unit of its source out of service: a core is FENCED, a compute die FAILED, an
engine FENCED, a link FAILED. One of class 5 or 6 stops the clusters, which are FENCED, and the latch keeps one of class 6 while it has
room. -/
def Obligations.FaultsAreLoggedAndContained : Prop :=
  (∀ (corrected : Bool) (s : State) (x : Nat) (m : FaultMsg) (rest : List FaultMsg), x < 1536 → m.kind < 256 →
    (s.dev.fus.queues.any (fun q => !q.2.isEmpty && q.1 < 1536)) = true →
    (s.dev.arbitrate arbFusible 1536 (fun x => !(s.dev.faultQueue x).isEmpty)).1 = some x → s.dev.faultQueue x = m :: rest →
    let c := s.dev.classOf x m.kind
    let r : FaultRec := { msg := m, source := x, cls := c, state := 1, contained := c = 3 && containUnit x != .none, escalated := false, seq := s.dev.get rFsSequence, deadline := s.dev.inUs (s.dev.get rFsUrgentTime) }
    (∀ e, s.dev.numbered.logPlace = some e →
      Reaches (.faultAccept corrected) s (fun t => tabFind t.fus.log e = some r ∧ t.get rFsNewest = e ∧
        t.get (rKindCount m.kind) = wrapAdd 64 (s.dev.get (rKindCount m.kind)) 1 ∧
        t.get (rSrcCount x) = wrapAdd 64 (s.dev.get (rSrcCount x)) 1 ∧
        t.get rFsSequence = (s.dev.get rFsSequence + 1) % 2 ^ 32 ∧ t.arbPtr arbFusible = arbNext 1536 x ∧
        (c = 1 ∨ c = 2 ∨ c = 4 → corrected = false ∨ x ≠ 885 → t.faultQueue x = rest) ∧
        (c = 1 ∨ c = 2 ∨ c = 4 → corrected = true → x ≠ 885 → s.dev.told t kFusibleCorrected 885) ∧ (2 ≤ c → t.pins.errN = false) ∧ (5 ≤ c → t.pins.fatalN = false) ∧
        s.dev.stores t)) ∧
    (s.dev.numbered.logPlace = none → (c = 1 ∨ c = 2) →
      Reaches (.faultAccept corrected) s (fun t => t.fus.log = s.dev.fus.log ∧ t.get rFsLogLost = satAdd32 (s.dev.get rFsLogLost) 1 ∧
        t.get (rSrcFolded x) = satAdd32 (s.dev.get (rSrcFolded x)) 1 ∧
        tabFind t.fus.folded x = some (max c (tabGet s.dev.fus.folded x 0)) ∧ s.dev.stores t))) ∧
  (∀ (corrected : Bool) (s : State) (x : Nat) (m : FaultMsg) (rest : List FaultMsg), x < 1536 → m.kind < 256 →
    (s.dev.fus.queues.any (fun q => !q.2.isEmpty && q.1 < 1536)) = true →
    (s.dev.arbitrate arbFusible 1536 (fun x => !(s.dev.faultQueue x).isEmpty)).1 = some x → s.dev.faultQueue x = m :: rest →
    let c := s.dev.classOf x m.kind
    (c = 3 →
      (∀ k, containUnit x = .core k → s.dev.pairMode k = false → s.dev.unit (.core k) = stActive → s.dev.unit (.die (k / 20)) ≠ stQuiescing →
        Reaches (.faultAccept corrected) s (fun t => t.unit (.core k) = stFenced ∧ (t.hart k).running = false ∧ s.dev.stores t)) ∧
      (∀ n, containUnit x = .die n → s.dev.unit (.die n) ≠ stOff →
        Reaches (.faultAccept corrected) s (fun t => t.unit (.die n) = stFailed ∧ s.dev.stores t)) ∧
      (∀ e, containUnit x = .engine e → s.dev.get (rEngState e) = stActive →
        Reaches (.faultAccept corrected) s (fun t => t.get (rEngState e) = stFenced ∧ s.dev.stores t)) ∧
      (∀ l, containUnit x = .link l → Reaches (.faultAccept corrected) s (fun t => t.get (rHfState l) = 7 ∧ s.dev.stores t))) ∧
    (5 ≤ c → s.dev.fus.stopped = false →
      Reaches (.faultAccept corrected) s (fun t => t.fus.stopped = true ∧
        (∀ b < 6, s.dev.unit (.cluster b) = stActive → t.unit (.cluster b) = stFenced) ∧
        (c = 6 → s.dev.latch.length < 16 → t.latch.length = s.dev.latch.length + 1) ∧ (c = 5 → t.latch = s.dev.latch) ∧
        s.dev.stores t)))

/-- R376: ACK takes an uncleared URGENT record to ACKED, and CLEAR takes a record of classes 1 to 4 to CLEARED, on the element that the path
selected; another record, and an empty element, return RANGE. A source's CLEAR, and CLEAR_ALL, clear every such record of the sources they
cover.
R377, R378: an URGENT record that nothing has acknowledged by its deadline becomes FATAL, is counted, and stops the engines; so does a
folded URGENT class at its timer. -/
def Obligations.RecordsAreClearedOrEscalate : Prop :=
  (∀ (s : State) (p : Path), (∀ e, s.dev.urgentDue e = false) → (∀ x, s.dev.foldedDue x = false) →
    let e := s.dev.selected 0x9010 p
    let cleared : (Nat → Prop) → Dev → Prop := fun f t =>
      (∀ n r, tabFind s.dev.fus.log n = some r → f r.source → r.clearable = true → tabFind t.fus.log n = some { r with state := 3 }) ∧
      (∀ n r, tabFind s.dev.fus.log n = some r → ¬(f r.source ∧ r.clearable = true) → tabFind t.fus.log n = some r)
    (s.dev.admits p 0x9011 0x04 1 = true →
      (∀ r, tabFind s.dev.fus.log e = some r → r.state = 1 → r.cls = 4 →
        Reaches (.frAck p) s (fun t => t.answered p .ok ∧ tabFind t.fus.log e = some { r with state := 2 } ∧
          t.get (rFrCommand e) = cmdDone ∧ (∀ n, n ≠ e → tabFind t.fus.log n = tabFind s.dev.fus.log n) ∧ t.pins = s.dev.pins ∧
          s.dev.regsBut t [rFrCommand e] ∧ s.dev.stores t)) ∧
      (∀ r, tabFind s.dev.fus.log e = some r → (r.state ≠ 1 ∨ r.cls ≠ 4) →
        Gives (.frAck p) s ((s.dev.heard p).respond p .range [])) ∧
      (tabFind s.dev.fus.log e = none → Gives (.frAck p) s ((s.dev.heard p).respond p .range []))) ∧
    (s.dev.admits p 0x9011 0x04 2 = true →
      (∀ r, tabFind s.dev.fus.log e = some r → r.clearable = true →
        Reaches (.frClear p) s (fun t => t.answered p .ok ∧ tabFind t.fus.log e = some { r with state := 3 } ∧
          t.get (rFrCommand e) = cmdDone ∧ (∀ n, n ≠ e → tabFind t.fus.log n = tabFind s.dev.fus.log n) ∧
          t.pins.errN = !t.anyPending 2 ∧ s.dev.regsBut t [rFrCommand e] ∧ s.dev.stores t)) ∧
      (∀ r, tabFind s.dev.fus.log e = some r → r.state ≠ 3 → r.clearable = false →
        Gives (.frClear p) s ((s.dev.heard p).respond p .range []))) ∧
    (∀ x, x < 1536 → s.dev.admits p (0x9200 + x) 0x05 1 = true →
      Reaches (.srcClear p x) s (fun t => t.answered p .ok ∧ cleared (fun y => y = x) t ∧ t.get (rSrcCommand x) = cmdDone ∧
        (1 ≤ tabGet s.dev.fus.folded x 0 → tabGet s.dev.fus.folded x 0 ≤ 4 → tabFind t.fus.folded x = none ∧ t.get (rSrcFolded x) = 0) ∧
        t.pins.errN = !t.anyPending 2 ∧ s.dev.regsBut t [rSrcCommand x, rSrcFolded x] ∧ s.dev.stores t)) ∧
    (s.dev.admits p 0x9000 0x06 1 = true →
      Reaches (.clearAll p) s (fun t => t.answered p .ok ∧ cleared (fun y => s.dev.mayClear (s.dev.pathWorld p) y = true) t ∧
        t.get rFsCommand = cmdDone ∧ t.pins.errN = !t.anyPending 2 ∧ s.dev.stores t))) ∧
  (∀ (s : State),
    (∀ e r, e < 4096 → tabFind s.dev.fus.log e = some r → r.state = 1 → r.cls = 4 → r.deadline ≤ s.dev.now →
      Reaches (.urgentEscalation e) s (fun t => tabFind t.fus.log e = some { r with cls := 5, escalated := true } ∧
        t.get rFsEscalations = wrapAdd 32 (s.dev.get rFsEscalations) 1 ∧ t.fus.stopped = true ∧ t.pins.fatalN = false ∧
        t.pins.errN = false ∧ s.dev.stores t)) ∧
    (∀ x due, x < 1536 → tabFind s.dev.fus.timers x = some due → due ≤ s.dev.now → tabGet s.dev.fus.folded x 0 = 4 →
      Reaches (.foldedUrgentEscalation x) s (fun t => tabFind t.fus.folded x = some 5 ∧ tabFind t.fus.timers x = none ∧
        t.get rFsEscalations = wrapAdd 32 (s.dev.get rFsEscalations) 1 ∧ t.fus.stopped = true ∧ t.pins.fatalN = false ∧ s.dev.stores t)))

/-- R413, R379, R193, R440, R441, R445: power-on, a package reset and the loss of the standby rail leave the package in reset with memory
empty and every sub-entry at its default, but for the core mode that was written for a package reset; the fuses and the boot flash stay. The latch stays but where the standby rail was off, and so does a
thermal trip.
R404, R407, R409, R432, R433: at the release of PKG_RST_N the straps are sampled, and a slot that verifies boots, with every component
intact: its version runs, each of the five images that run is measured, the package is ACTIVE, and the cores that passed self-test start.
Without a slot that verifies the boot fails with a fault, and both results are shown; with records in the latch only the management firmware
runs, and the records are the log. -/
def Obligations.ThePackageResetsAndBoots : Prop :=
  (∀ (s : State),
    let kept : (Nat → Nat) → List FaultRec → Bool → Dev → Prop := fun modes l tripped t => t.fuses = s.dev.fuses ∧
      t.flash = s.dev.flash ∧ t.flashBad = s.dev.flashBad ∧ t.flashMode = s.dev.flashMode ∧
      (∀ n < 12, t.get (rCoreModeActive n) = modes n) ∧
      (∀ r : Reg, (∀ n < 12, r.key ≠ (rCoreModeActive n).key) → t.get r = r.dflt) ∧ t.doms = [] ∧ t.mem = [] ∧ t.harts = [] ∧ t.jobs = [] ∧ t.insts = [] ∧ t.units = [] ∧ t.fab.net = [] ∧ t.ring = Ring.reset ∧
      t.latch = l ∧ t.pins.rstN = false ∧ t.pins.fatalN = (l.isEmpty && !tripped) ∧ t.pins.thermtripN = !tripped ∧ t.power.tripped = tripped
    Reaches (.powerOn true) s (kept (fun _ => 0) [] false) ∧
    Reaches (.powerOn false) s (kept (fun _ => 0) s.dev.latch s.dev.power.tripped) ∧
    (bitAt s.dev.pins.rails 0 = true → Reaches .packageReset s
      (kept (fun n => if s.dev.get (rCoreModeNext n) = 1 then 1 else 0) s.dev.latch s.dev.power.tripped)) ∧
    (bitAt s.dev.pins.rails 0 = true → Reaches .standbyLoss s (fun t => kept (fun _ => 0) [] false t ∧ bitAt t.pins.rails 0 = false))) ∧
  (∀ (s : State) (raw : Nat) (x : BootFinding), s.dev.pins.rstN = false → bitAt s.dev.pins.rails 0 = true →
    let straps : Dev → Prop := fun t => t.pins.rstN = true ∧ t.get rStrapRaw = raw % 2 ^ 17 ∧
      t.get rPkgNumber = (strapPackage (raw % 2 ^ 17)).1 ∧ t.get rPkgCount = (strapPackage (raw % 2 ^ 17)).2.1 ∧
      t.get rStrapError = boolNat (strapPackage (raw % 2 ^ 17)).2.2 ∧ t.fuses = s.dev.fuses ∧ t.flash = s.dev.flash
    (∀ k, s.dev.latch = [] → s.dev.boot.latchHold = false → x.unlocked = [] → x.controllers = [] → s.dev.fuses.checkOk = true → s.dev.chooseSlot = some k →
      s.dev.componentOk k 2 = true → s.dev.componentOk k 3 = true → s.dev.componentOk k 4 = true →
      Reaches (.packageResetRelease raw x) s (fun t => straps t ∧ t.get rBootState = 5 ∧ t.get rBootSlotActive = k ∧
        t.get rMgmtFwVersion = s.dev.hdrVersion k ∧ t.get rMeasCount = s.dev.get rMeasCount + 5 ∧ t.unit .package = stActive ∧
        (∀ n < 17, ¬(n < 12 ∧ n ∈ x.dies) → t.unit (.die n) = stActive) ∧
        (∀ c < 240, c / 20 ∉ x.dies → c ∉ x.cores → (s.dev.pairMode c = true → pairOf c ∉ x.cores) → t.unit (.core c) = stActive))) ∧
    (s.dev.latch = [] → x.unlocked = [] → s.dev.fuses.checkOk = true → s.dev.chooseSlot = none →
      Reaches (.packageResetRelease raw x) s (fun t => straps t ∧ t.get rBootState = 6 ∧ s.dev.told t kMgmtFailed 881 ∧
        t.get rBootSlotResult0 = s.dev.slotResult 0 ∧ t.get rBootSlotResult1 = s.dev.slotResult 1 ∧ s.dev.stores t)) ∧
    (∀ r l k, s.dev.latch = r :: l → x.unlocked = [] → s.dev.fuses.checkOk = true → s.dev.chooseSlot = some k →
      Reaches (.packageResetRelease raw x) s (fun t => straps t ∧ t.get rBootState = 1 ∧
        t.fus.log = (r :: l).mapIdx (fun i r => (i, r)) ∧ s.dev.stores t)))

/-- R403, R406, R417: ACTIVATE and CHECK return BUSY outside RELEASED and while a boot command runs; CHECK shows both slots' results; ACTIVATE begins, and ends
with the other slot's firmware running and measured where that slot verifies and is newer, else REFUSED.
R406, Table 19-3: a key slot is revoked, and the security version advances, by a blow that takes up to 5 ms: it begins with RUNNING, and at
its end the one fuse is blown. The key slot that runs, the last one that is not revoked, and a version that does not advance return RANGE. -/
def Obligations.BootCommandsAndFuses : Prop :=
  (∀ (s : State) (p : Path), s.dev.boot.mgmtDown = false →
    ((s.dev.get rBootState ≠ 5 ∨ s.dev.get rBootCommand = cmdRunning) →
      (s.dev.admits p 0x2200 0x09 1 = true → Gives (.bootActivate p) s ((s.dev.heard p).respond p .busy [])) ∧
      (s.dev.admits p 0x2200 0x09 5 = true → Gives (.bootCheck p) s ((s.dev.heard p).respond p .busy []))) ∧
    (s.dev.admits p 0x2200 0x09 5 = true → s.dev.get rBootState = 5 → s.dev.get rBootCommand ≠ cmdRunning →
      Reaches (.bootCheck p) s (fun t => t.answered p .ok ∧ t.get rBootSlotResult0 = s.dev.slotResult 0 ∧
        t.get rBootSlotResult1 = s.dev.slotResult 1 ∧ t.get rBootVersion0 = s.dev.slotVersion 0 ∧
        t.get rBootVersion1 = s.dev.slotVersion 1 ∧ t.get rBootCommand = cmdDone ∧
        s.dev.regsBut t [rBootSlotResult0, rBootSlotResult1, rBootVersion0, rBootVersion1, rBootCommand] ∧ s.dev.stores t)) ∧
    (s.dev.admits p 0x2200 0x09 1 = true → s.dev.get rBootState = 5 → s.dev.get rBootCommand ≠ cmdRunning → s.dev.get rTkState ≠ 3 →
      (s.dev.mgmtAdd .bootSlot [] false 0).isSome = true →
      (s.dev.measRoom = true → Reaches (.bootActivate p) s (fun t => t.answered p .ok ∧ t.boot.activating = true ∧
        t.get rBootCommand = cmdRunning ∧ t.mgmt.length = s.dev.mgmt.length + 1 ∧ s.dev.regsBut t [rBootCommand] ∧ s.dev.stores t)) ∧
      (s.dev.measRoom = false → Gives (.bootActivate p) s (((s.dev.heard p).set rBootCommand cmdRefused).ok p))) ∧
    (∀ b, b < 4 → s.dev.boot.activating = true → s.dev.mgmtRuns b MgmtKind.isBoot = true →
      let k := 1 - s.dev.get rBootSlotActive
      let good := s.dev.slotResult k = 0 ∧ s.dev.get rMgmtFwVersion < s.dev.hdrVersion k ∧ s.dev.measRoom = true
      (good → Reaches .activateDone s (fun t => t.boot.activating = false ∧ t.get rBootSlotActive = k ∧
        t.get rMgmtFwVersion = s.dev.hdrVersion k ∧ t.boot.runSvn = s.dev.hdrSvn k ∧ t.get rMeasCount = s.dev.get rMeasCount + 1 ∧
        t.get rBootCommand = cmdDone ∧ s.dev.stores t)) ∧
      (¬good → Reaches .activateDone s (fun t => t.boot.activating = false ∧ t.get rBootSlotActive = s.dev.get rBootSlotActive ∧
        t.get rMgmtFwVersion = s.dev.get rMgmtFwVersion ∧ t.get rMeasCount = s.dev.get rMeasCount ∧
        t.get rBootCommand = cmdRefused ∧ s.dev.stores t)))) ∧
  (∀ (s : State) (p : Path), s.dev.boot.mgmtDown = false →
    let began : Blow → Dev → Prop := fun b t => t.answered p .ok ∧ t.boot.blow = b ∧ t.boot.blowEnd = s.dev.inMs 5 ∧
      t.get rBootCommand = cmdRunning ∧ s.dev.regsBut t [rBootCommand] ∧ s.dev.stores t
    let revokes : Instr → Nat → Bool → Blow → Prop := fun i j other b =>
      ((s.dev.boot.runKeySlot = j ∨ other = true) → Gives i s ((s.dev.heard p).respond p .range [])) ∧
      (s.dev.boot.runKeySlot ≠ j → other = false → s.dev.get rBootState = 5 → s.dev.get rBootCommand ≠ cmdRunning →
        Reaches i s (began b))
    (s.dev.admits p 0x2200 0x09 2 = true → revokes (.bootRevokeKey0 p) 0 s.dev.fuses.revoked1 .key0) ∧
    (s.dev.admits p 0x2200 0x09 3 = true → revokes (.bootRevokeKey1 p) 1 s.dev.fuses.revoked0 .key1) ∧
    (s.dev.admits p 0x2200 0x09 4 = true →
      (s.dev.boot.runSvn ≤ s.dev.fuses.svn → Gives (.bootAdvanceSvn p) s ((s.dev.heard p).respond p .range [])) ∧
      (s.dev.fuses.svn < s.dev.boot.runSvn → s.dev.get rBootState = 5 → s.dev.get rBootCommand ≠ cmdRunning →
        Reaches (.bootAdvanceSvn p) s (began (.svn s.dev.boot.runSvn)))) ∧
    (s.dev.boot.blow ≠ .none →
      Reaches .fuseBlowDone s (fun t => t.boot.blow = .none ∧ t.get rBootCommand = cmdDone ∧ s.dev.regsBut t [rBootCommand] ∧
        t.mem = s.dev.mem ∧ t.flash = s.dev.flash ∧
        (s.dev.boot.blow = .key0 → t.fuses = { s.dev.fuses with revoked0 := true }) ∧
        (s.dev.boot.blow = .key1 → t.fuses = { s.dev.fuses with revoked1 := true }) ∧
        (∀ n, n ≤ 64 → s.dev.fuses.svn ≤ n → s.dev.boot.blow = .svn n → t.fuses = { s.dev.fuses with svn := n }))))

/-- R409, R410, R412: an extension by software of kind 0x80 or above appends an entry to the measurement log, whose head is the digest of
the old head and the entry; it returns RANGE where the log is full. SIGN queues a report for a management slot.
R4, R118, R119, R412: a report's signature, and a checkpoint's, that its own check accepts becomes a journal record for which the work waits;
so does a signing whose three attempts all fail, with SIGN_EXHAUSTED. A first failed check fences the engine, a second is recorded as such.
What the engine computes is the standard's result or, where it computes wrongly, a free value (log 69). -/
def Obligations.MeasurementAndAttestation : Prop :=
  ∀ (s : State) (p : Path),
    (∀ b : List Byte, b.length = 33 → s.dev.admits p 0x2202 0x04 0 = true → 0x80 ≤ byteAt b 0 →
      (s.dev.measRoom = true → s.dev.get rBootState = 5 →
        Reaches (.measExtend p b) s (fun t => t.answered p .ok ∧ t.get rMeasCount = s.dev.get rMeasCount + 1 ∧
          t.measHead = shake256 (s.dev.measHead ++ measEntry (s.dev.get rMeasCount) (byteAt b 0) 0xFF 0 s.dev.now (b.drop 1)) 32 ∧
          s.dev.regsBut t [rMeasCount] ∧ s.dev.stores t)) ∧
      (s.dev.measRoom = false → Gives (.measExtend p b) s ((s.dev.heard p).respond p .range []))) ∧
    (s.dev.admits p 0x2203 0x03 1 = true → s.dev.boot.mgmtDown = false → s.dev.get rAttCommand ≠ cmdRunning → s.dev.secureDown = false →
      s.dev.get rBootState = 5 → s.dev.ks.started = true → (s.dev.mgmtAdd (.attest (pathNum p)) [] false 0).isSome = true →
      Reaches (.attSign p) s (fun t => t.answered p .ok ∧ t.get rAttCommand = cmdRunning ∧
        (∃ w, t.mgmt = s.dev.mgmt ++ [w] ∧ w.kind = .attest (pathNum p) ∧ w.data = s.dev.attBody p) ∧
        s.dev.regsBut t [rAttCommand] ∧ s.dev.stores t)) ∧
    (∀ b w rand e, b < 4 → s.dev.mgmtFront b = some w → w.seq = none → s.dev.mgmtUsable b true = true →
      s.dev.drbgDraw b 72 = some (rand, e) →
      let recorded : List Byte → Nat → Dev → Prop := fun out status t => t.get (rJnNextSeq b) = s.dev.get (rJnNextSeq b) + 1 ∧
        ∃ v, t.mgmtFront b = some v ∧ v.kind = w.kind ∧ v.seq = some (s.dev.get (rJnNextSeq b)) ∧ v.out = out ∧ v.status = status
      let signs : Dev → Prop := fun t =>
        match (e.engineSigns 10 e.attKeyPair.1 e.attKeyPair.2 rand w.data).1 with
        | none => recorded [] jsSignExhausted t
        | some (sig, _) => if signatureGood 10 e.attKeyPair.2 w.data sig = true then recorded sig 0 t
          else if w.fails = 0 then ∀ g, s.dev.mgmtEngine b = some g → t.get (rEngState g) = stFenced else recorded [] jsSelfCheck t
      (w.isAttest = true → Reaches (.attSigned b) s signs) ∧
      (w.kind.isCheckpoint = true → Reaches (.checkpointSigned b) s signs))

/-- R420 to R424: an event selector of the selected group takes the codes of the group's kind, and others return RANGE. FREEZE stops the
counters with a snapshot of every serving group and reads RUNNING until the reader has gathered; it has no effect where they are frozen, and
BUSY is returned while a command runs. UNFREEZE releases them.
R426 to R428: START begins windows at a whole microsecond; it returns RANGE for a list or ring that it cannot serve, and BUSY unless the
reader is STOPPED. STOP ends them. A window's end writes its entries, moves the tail past them and begins the next window; one for which the
ring has no room is lost and counted. -/
def Obligations.CountersFreezeAndWindows : Prop :=
  (∀ (s : State) (p : Path),
    (∀ sub v, 2 ≤ sub → sub ≤ 9 → v < 65536 → s.dev.admits p 0x9811 sub v = true →
      let g := s.dev.selected 0x9810 p
      (eventCode (s.dev.groupKind g) v = true → Gives (.cgEventWrite p sub v) s (((s.dev.heard p).set (rCgEvent g (sub - 2)) v).ok p)) ∧
      (eventCode (s.dev.groupKind g) v = false → Gives (.cgEventWrite p sub v) s ((s.dev.heard p).respond p .range []))) ∧
    (s.dev.admits p 0x9800 0x01 1 = true →
      (s.dev.get rPcCommand ≠ cmdRunning → s.dev.get rPcFrozen = 0 →
        Reaches (.pcFreeze p) s (fun t => t.answered p .ok ∧ t.get rPcFrozen = 1 ∧ t.get rPcFreezeTime = s.dev.now ∧
          t.get rPcCommand = cmdRunning ∧ t.cnt.gather = true ∧
          (∀ g < 2816, s.dev.groupServes g = true →
            tabFind t.cnt.snaps g = some ((List.range 8).map (fun j => s.dev.get (rCgCount g j)))) ∧ s.dev.stores t)) ∧
      (s.dev.get rPcCommand ≠ cmdRunning → s.dev.get rPcFrozen = 1 → Gives (.pcFreeze p) s ((s.dev.heard p).ok p)) ∧
      (s.dev.get rPcCommand = cmdRunning → Gives (.pcFreeze p) s ((s.dev.heard p).respond p .busy []))) ∧
    (s.dev.cnt.gather = true →
      Gives .freezeGatherDone s { s.dev.set rPcCommand cmdDone with cnt := { s.dev.cnt with gather := false } }) ∧
    (s.dev.admits p 0x9800 0x01 2 = true → s.dev.get rPcCommand ≠ cmdRunning →
      Gives (.pcUnfreeze p) s ((((s.dev.heard p).set rPcFrozen 0).set rPcCommand cmdDone).ok p))) ∧
  (∀ (s : State) (p : Path),
    (s.dev.admits p 0x9820 0x01 1 = true →
      (s.dev.bwBad = true → Gives (.bwStart p) s ((s.dev.heard p).respond p .range [])) ∧
      (s.dev.bwBad = false → s.dev.get rBwState ≠ 0 → Gives (.bwStart p) s ((s.dev.heard p).respond p .busy [])) ∧
      (s.dev.bwBad = false → s.dev.get rBwState = 0 →
        Reaches (.bwStart p) s (fun t => t.answered p .ok ∧ t.get rBwState = 1 ∧ t.get rBwRingTail = 0 ∧ t.get rBwCommand = cmdDone ∧
          t.cnt.t0 = (s.dev.now + 999) / 1000 * 1000 ∧ t.cnt.window = 0 ∧ t.cnt.bwWorld = s.dev.pathWorld p ∧
          (t.cnt.armed = true ↔ s.dev.now % 1000 ≠ 0) ∧ s.dev.regsBut t [rBwState, rBwRingTail, rBwCommand] ∧ s.dev.stores t))) ∧
    (s.dev.admits p 0x9820 0x01 2 = true →
      Gives (.bwStop p) s (({ ((s.dev.heard p).set rBwState 0).set rBwCommand cmdDone with cnt := { s.dev.cnt with armed := false } }).ok p)) ∧
    (s.dev.get rBwState = 1 → s.dev.cnt.armed = false → s.dev.windowEnd ≤ s.dev.now →
      (s.dev.bwFull = true →
        Reaches .bwWindowEnd s (fun t => t.get rBwWindowsLost = satAdd32 (s.dev.get rBwWindowsLost) 1 ∧ t.cnt.lostSince = true ∧
          t.cnt.window = s.dev.cnt.window + 1 ∧ t.cnt.latchIn = s.dev.cnt.bytesIn ∧ t.cnt.latchOut = s.dev.cnt.bytesOut ∧
          s.dev.regsBut t [rBwWindowsLost] ∧ s.dev.stores t)) ∧
      (s.dev.bwFull = false → (∀ w ∈ s.dev.bwWrites, s.dev.refusedBy s.dev.cnt.bwWorld w.1 = none ∧ s.dev.firstMarked w.1 w.2.length = none) →
        Reaches .bwWindowEnd s (fun t => t.get rBwRingTail = (s.dev.cnt.entry + s.dev.bwGroups.length + 1) % 2 ^ 32 ∧
          t.cnt.entry = (s.dev.cnt.entry + s.dev.bwGroups.length + 1) % 2 ^ 32 ∧ t.cnt.lostSince = false ∧
          t.cnt.window = s.dev.cnt.window + 1 ∧ t.cnt.latchIn = t.cnt.bytesIn ∧ t.get rBwState = 1 ∧
          t.fuses = s.dev.fuses ∧ t.flash = s.dev.flash))))

/-- R441, R445: an armed rail out of tolerance is lost with a fault; a sensor at 115 °C trips the package: THERMTRIP_N and FATAL_N are low,
every PLL is LOST, and the fault names the sensor. R436: boundary scan drives the pins in reset and samples them out of it.
R382, R383: the first lost phase of a regulator is reported, the second costs the compute die that it feeds, or is a lost rail where it is a
base die's. A lockstep mismatch of the management cores takes them down for 2 ms; a second within 1 s, or an image that does not verify,
loses them; when they run again, that is reported. Shown of the resumption with no transaction waiting for the firmware.
R442 to R444: THROTTLE_N low caps every compute die at /8 until 1 ms after it rises. A sensor at `thThrottle` caps its compute die one step
slower, counted, and lifts its cap by one step when it has cooled. While the average power exceeds the limit one die in turn is capped one
step slower, and below 97 % of it one cap lifts. -/
def Obligations.RailsRegulatorsAndCaps : Prop :=
  (∀ (s : State),
    (∀ r, 1 ≤ r → r < 8 → s.dev.pins.rstN = true → bitAt s.dev.pins.rails r = true →
      Reaches (.railOutOfTolerance r) s (fun t => t.pins = { s.dev.pins with rails := bitClear s.dev.pins.rails r } ∧
        s.dev.told t kRailLost 880 ∧ s.dev.stores t)) ∧
    (∀ n q, n < 17 → q < 16 →
      Reaches (.thermalTrip n q) s (fun t => t.power.tripped = true ∧ t.pins.thermtripN = false ∧ t.pins.fatalN = false ∧
        (∀ m < 17, t.get (rPllState m) = 2) ∧ s.dev.told t kThermalTrip (912 + 32 * n + q) ∧ s.dev.stores t)) ∧
    (∀ l, bitAt s.dev.pins.rails 0 = true → bitAt s.dev.pins.rails 2 = true →
      (s.dev.pins.rstN = false → Gives (.extest l) s { s.dev with pins := { s.dev.pins with driven := l } }) ∧
      (s.dev.pins.rstN = true → Reaches (.extest l) s (fun t => t.pins.sampled.map (fun x => x.1) = l.map (fun x => x.1) ∧
        t.pins.driven = s.dev.pins.driven ∧ t.regs = s.dev.regs ∧ s.dev.stores t)))) ∧
  (∀ (s : State),
    (∀ x, 1456 ≤ x → x < 1536 → tabGet s.dev.power.phases x 0 = 0 →
      let e : Dev := { s.dev with power := { s.dev.power with phases := tabPut s.dev.power.phases x 1 } }
      (e.phasesLost x = 1 → Reaches (.regulatorPhaseLoss x) s (fun t => t.power = e.power ∧ t.units = s.dev.units ∧
        s.dev.told t kRegulatorPhase x ∧ s.dev.stores t)) ∧
      (∀ n, (x - 1456) % 20 < 18 → n = 3 * ((x - 1456) / 20) + (x - 1456) % 20 / 6 → e.phasesLost x = 2 → s.dev.unit (.die n) ≠ stOff →
        Reaches (.regulatorPhaseLoss x) s (fun t => t.unit (.die n) = stFailed ∧ s.dev.told t kRegulatorLost x ∧ s.dev.stores t)) ∧
      (18 ≤ (x - 1456) % 20 → e.phasesLost x = 2 →
        Reaches (.regulatorPhaseLoss x) s (fun t => s.dev.told t kRailLost x ∧ t.units = s.dev.units ∧ s.dev.stores t))) ∧
    (s.dev.boot.mgmtFailed = false → s.dev.boot.mgmtDown = false → s.dev.pins.rstN = true →
      ((∀ u, s.dev.boot.lastMismatch = some u → u + 1000000000 ≤ s.dev.now) →
        Gives (.mgmtLockstepMismatch true) s { s.dev with boot := { s.dev.boot with
          lastMismatch := some s.dev.now, mgmtDown := true, mgmtUpAt := s.dev.inMs 2 } }) ∧
      (∀ u ok, s.dev.boot.lastMismatch = some u → s.dev.now < u + 1000000000 →
        Reaches (.mgmtLockstepMismatch ok) s (fun t => t.boot.mgmtFailed = true ∧ t.boot.mgmtDown = true ∧
          s.dev.told t kMgmtFailed 881 ∧ s.dev.stores t)) ∧
      Reaches (.mgmtLockstepMismatch false) s (fun t => t.boot.mgmtFailed = true ∧ t.boot.mgmtDown = true ∧
        s.dev.told t kMgmtFailed 881 ∧ s.dev.stores t)) ∧
    (s.dev.boot.mgmtDown = true → s.dev.boot.mgmtFailed = false → (s.dev.waiting.filter (fun w => w.firmware)) = [] →
      Reaches .mgmtResume s (fun t => t.boot.mgmtDown = false ∧ t.waiting = s.dev.waiting ∧ s.dev.told t kMgmtLockstep 881 ∧
        s.dev.stores t))) ∧
  (∀ (s : State),
    (s.dev.pins.throttleN = true → s.dev.pins.rstN = true →
      Reaches .throttleNFall s (fun t => t.pins.throttleN = false ∧ t.power.throttled = true ∧ t.power.liftAt = none ∧
        t.get rThrottleInput = 1 ∧ (∀ n, t.stepDue n = max (s.dev.get (rCclkStep n)) 3) ∧
        (∀ n < 12, s.dev.get (rPllState n) = 1 → tabFind s.dev.power.changes n = none → t.stepDue n ≠ s.dev.get (rCclkActive n) →
          tabFind t.power.changes n = some ⟨t.stepDue n, t.stepDue n < s.dev.get (rCclkActive n), false, false⟩) ∧ s.dev.regsBut t [rThrottleInput] ∧ s.dev.stores t)) ∧
    (s.dev.pins.throttleN = false → s.dev.power.throttled = true →
      Reaches .throttleNRise s (fun t => t.pins.throttleN = true ∧ t.power.throttled = true ∧ t.power.liftAt = some (s.dev.inMs 1) ∧
        t.get rThrottleInput = 0 ∧ s.dev.regsBut t [rThrottleInput] ∧ s.dev.stores t)) ∧
    (∀ u, s.dev.power.liftAt = some u → u ≤ s.dev.now →
      Reaches .throttleLift s (fun t => t.power.throttled = false ∧ t.power.liftAt = none ∧ t.regs = s.dev.regs ∧ s.dev.stores t)) ∧
    (∀ n temp, n < 12 → s.dev.pins.rstN = true → s.dev.get rThThrottle ≤ temp → s.dev.spaced s.dev.power.lastTherm n 1 = true →
      s.dev.stepDue n < 3 →
      Reaches (.thermalCapTick n temp) s (fun t => tabFind t.power.thermalCap (capKey n n) = some (s.dev.stepDue n + 1) ∧
        t.get rThThrottleEvents = wrapAdd 32 (s.dev.get rThThrottleEvents) 1 ∧ t.power.powerCap = s.dev.power.powerCap ∧
        s.dev.regsBut t [rThMaxNow, rThThrottleEvents] ∧ s.dev.stores t)) ∧
    (∀ n temp, n < 12 → s.dev.pins.rstN = true → temp + 5 < s.dev.get rThThrottle → s.dev.spaced s.dev.power.lastTherm n 10 = true →
      s.dev.spaced s.dev.power.lastCool n 10 = true → (tabFind s.dev.power.thermalCap (capKey n n)).isSome = true →
      Reaches (.thermalCapLift n temp) s (fun t => t.power.thermalCap
          = liftCap s.dev.power.thermalCap (capKey n n) (s.dev.get (rCclkStep n)) ∧ t.power.powerCap = s.dev.power.powerCap ∧
        s.dev.regsBut t [rThMaxNow] ∧ s.dev.stores t)) ∧
    (∀ mw, s.dev.pins.rstN = true → s.dev.power.lastPower + 1000000 ≤ s.dev.now →
      (mw ≤ s.dev.get rPkgPowerLimit * 1000 →
        Reaches (.powerCapTick mw) s (fun t => t.get rPkgPowerLimited = 0 ∧ t.get rPkgPowerAvg = mw % 2 ^ 32 ∧
          t.power.powerCap = s.dev.power.powerCap ∧ s.dev.regsBut t [rPkgPowerAvg, rPkgPowerLimited] ∧ s.dev.stores t)) ∧
      (∀ n, s.dev.get rPkgPowerLimit * 1000 < mw → (s.dev.arbitrate arbPowerCap 12 (fun n => s.dev.powerCapable n)).1 = some n →
        Reaches (.powerCapTick mw) s (fun t => t.power.powerCap = tabPut s.dev.power.powerCap n (s.dev.stepDue n + 1) ∧
          t.get rPkgPowerLimited = 0 ∧ t.arbPtr arbPowerCap = arbNext 12 n ∧
          s.dev.regsBut t [rPkgPowerAvg, rPkgPowerLimited] ∧ s.dev.stores t)) ∧
      (s.dev.get rPkgPowerLimit * 1000 < mw → (∀ n < 12, s.dev.powerCapable n = false) →
        Reaches (.powerCapTick mw) s (fun t => t.power.powerCap = s.dev.power.powerCap ∧ t.get rPkgPowerLimited = 1 ∧
          s.dev.regsBut t [rPkgPowerAvg, rPkgPowerLimited] ∧ s.dev.stores t))) ∧
    (∀ mw n, s.dev.pins.rstN = true → mw * 100 < s.dev.get rPkgPowerLimit * 1000 * 97 → s.dev.power.lastLift + 10000000 ≤ s.dev.now →
      (s.dev.arbitrate arbPowerCap 12 (fun n => (tabFind s.dev.power.powerCap n).isSome)).1 = some n →
      Reaches (.powerCapLift mw) s (fun t => t.power.powerCap = liftCap s.dev.power.powerCap n (s.dev.get (rCclkStep n)) ∧
        t.get rPkgPowerLimited = 0 ∧ s.dev.regsBut t [rPkgPowerAvg, rPkgPowerLimited] ∧ s.dev.stores t)))

/-- R48, R9: right after reset no command waits, every sub-entry reads its default, every unit is in RESET, memory lists nothing, and
PKG_RST_N is low; the fuses read as an unfused package's (the model's choice, log 6). -/
def Obligations.TheStateAfterReset : Prop :=
  State.reset.pending = [] ∧ (∀ r : Reg, State.reset.dev.get r = r.dflt) ∧ (∀ u : UnitRef, State.reset.dev.unit u = stReset) ∧
    Memory.wf State.reset.dev.mem = true ∧ State.reset.dev.mem = [] ∧ State.reset.dev.pins.rstN = false ∧
    (∀ c, (State.reset.dev.chan c).state = 1) ∧ (∀ k, (State.reset.dev.hart k).priv = .m ∧ (State.reset.dev.hart k).running = false) ∧
    State.reset.dev.fuses = Fuses.reset

/-- R49, R448: a row that stands for a write of the dictionary has the same outcome as that write, whatever the state, where the management
firmware runs and the object's unit answers. -/
def Obligations.RowsAreDictionaryWrites : Prop :=
  ∀ (s : State) (p : Path), s.dev.boot.mgmtDown = false → s.dev.pathLive p = true →
    ∀ i : Instr × Nat × Nat × List Byte,
      ((∃ c, c < 6 ∧ (i = (.unitNop p (.cluster c), headerIndex (.cluster c), 0x08, [0]) ∨
          i = (.unitEnable p (.cluster c), headerIndex (.cluster c), 0x08, [1]) ∨
          i = (.unitFence p (.cluster c), headerIndex (.cluster c), 0x08, [3]))) ∨
        (∃ n v : Nat, n < 17 ∧ v < 256 ∧ i = (.cclkStepWrite p n v, 0x3002 + 0x80 * n, 0x02, [BitVec.ofNat 8 v])) ∨
        (∃ m : Nat, m < 52 ∧ i = (.sdRetrain p m, moduleIndex m, 0x03, [1])) ∨
        (∃ n : Nat, n < 34 ∧ i = (.blkToTantalum p n, 0x8040 + n, 0x02, [2])) ∨
        i = (.pcFreeze p, 0x9800, 0x01, [1]) ∨ i = (.clearAll p, 0x9000, 0x06, [1]) ∨ i = (.tkRestart p, 0x8000, 0x04, [1])) →
      (s.dev.heard p).silentAt p i.2.1 = false →
      exec (.dictWrite p i.2.1 i.2.2.1 i.2.2.2) s = exec i.1 s

/-- R406: no step restores a fuse: whatever is blown before a step is blown after it, in every state and whatever the command; a step with
another command than FUSE_BLOW_DONE in front leaves the fuses as they are. -/
def Obligations.NoStepRestoresAFuse : Prop :=
  ∀ s t : State, step s = .next t →
    (∀ f : Fuses, f.within s.dev.fuses → f.within t.dev.fuses) ∧ (s.pending.head? ≠ some .fuseBlowDone → t.dev.fuses = s.dev.fuses)
end

