-- ==== Sys2Proof/Laws/State.lean ====
section
/-!
SUPPORT. What each update of the device leaves alone: one lemma for each update and field, true by `rfl`.
-/
namespace Sys2Proof.Machine

@[simp] theorem Dev.set_doms (d : Dev) (r : Reg) (v : Nat) : (d.set r v).doms = d.doms := rfl
@[simp] theorem Dev.set_units (d : Dev) (r : Reg) (v : Nat) : (d.set r v).units = d.units := rfl
@[simp] theorem Dev.set_mem (d : Dev) (r : Reg) (v : Nat) : (d.set r v).mem = d.mem := rfl
@[simp] theorem Dev.set_marks (d : Dev) (r : Reg) (v : Nat) : (d.set r v).marks = d.marks := rfl
@[simp] theorem Dev.set_clock (d : Dev) (r : Reg) (v : Nat) : (d.set r v).clock = d.clock := rfl
@[simp] theorem Dev.set_harts (d : Dev) (r : Reg) (v : Nat) : (d.set r v).harts = d.harts := rfl
@[simp] theorem Dev.set_insts (d : Dev) (r : Reg) (v : Nat) : (d.set r v).insts = d.insts := rfl
@[simp] theorem Dev.set_jobs (d : Dev) (r : Reg) (v : Nat) : (d.set r v).jobs = d.jobs := rfl
@[simp] theorem Dev.set_nextJob (d : Dev) (r : Reg) (v : Nat) : (d.set r v).nextJob = d.nextJob := rfl
@[simp] theorem Dev.set_slots (d : Dev) (r : Reg) (v : Nat) : (d.set r v).slots = d.slots := rfl
@[simp] theorem Dev.set_moves (d : Dev) (r : Reg) (v : Nat) : (d.set r v).moves = d.moves := rfl
@[simp] theorem Dev.set_engs (d : Dev) (r : Reg) (v : Nat) : (d.set r v).engs = d.engs := rfl
@[simp] theorem Dev.set_mgmt (d : Dev) (r : Reg) (v : Nat) : (d.set r v).mgmt = d.mgmt := rfl
@[simp] theorem Dev.set_attKeys (d : Dev) (r : Reg) (v : Nat) : (d.set r v).attKeys = d.attKeys := rfl
@[simp] theorem Dev.set_ks (d : Dev) (r : Reg) (v : Nat) : (d.set r v).ks = d.ks := rfl
@[simp] theorem Dev.set_jns (d : Dev) (r : Reg) (v : Nat) : (d.set r v).jns = d.jns := rfl
@[simp] theorem Dev.set_ck (d : Dev) (r : Reg) (v : Nat) : (d.set r v).ck = d.ck := rfl
@[simp] theorem Dev.set_drbgs (d : Dev) (r : Reg) (v : Nat) : (d.set r v).drbgs = d.drbgs := rfl
@[simp] theorem Dev.set_sides (d : Dev) (r : Reg) (v : Nat) : (d.set r v).sides = d.sides := rfl
@[simp] theorem Dev.set_tcache (d : Dev) (r : Reg) (v : Nat) : (d.set r v).tcache = d.tcache := rfl
@[simp] theorem Dev.set_dfSaved (d : Dev) (r : Reg) (v : Nat) : (d.set r v).dfSaved = d.dfSaved := rfl
@[simp] theorem Dev.set_paused (d : Dev) (r : Reg) (v : Nat) : (d.set r v).paused = d.paused := rfl
@[simp] theorem Dev.set_ring (d : Dev) (r : Reg) (v : Nat) : (d.set r v).ring = d.ring := rfl
@[simp] theorem Dev.set_mbox (d : Dev) (r : Reg) (v : Nat) : (d.set r v).mbox = d.mbox := rfl
@[simp] theorem Dev.set_staged (d : Dev) (r : Reg) (v : Nat) : (d.set r v).staged = d.staged := rfl
@[simp] theorem Dev.set_resp (d : Dev) (r : Reg) (v : Nat) : (d.set r v).resp = d.resp := rfl
@[simp] theorem Dev.set_waiting (d : Dev) (r : Reg) (v : Nat) : (d.set r v).waiting = d.waiting := rfl
@[simp] theorem Dev.set_fus (d : Dev) (r : Reg) (v : Nat) : (d.set r v).fus = d.fus := rfl
@[simp] theorem Dev.set_homes (d : Dev) (r : Reg) (v : Nat) : (d.set r v).homes = d.homes := rfl
@[simp] theorem Dev.set_pewter (d : Dev) (r : Reg) (v : Nat) : (d.set r v).pewter = d.pewter := rfl
@[simp] theorem Dev.set_pwJob (d : Dev) (r : Reg) (v : Nat) : (d.set r v).pwJob = d.pwJob := rfl
@[simp] theorem Dev.set_filters (d : Dev) (r : Reg) (v : Nat) : (d.set r v).filters = d.filters := rfl
@[simp] theorem Dev.set_fab (d : Dev) (r : Reg) (v : Nat) : (d.set r v).fab = d.fab := rfl
@[simp] theorem Dev.set_adapters (d : Dev) (r : Reg) (v : Nat) : (d.set r v).adapters = d.adapters := rfl
@[simp] theorem Dev.set_chans (d : Dev) (r : Reg) (v : Nat) : (d.set r v).chans = d.chans := rfl
@[simp] theorem Dev.set_hf (d : Dev) (r : Reg) (v : Nat) : (d.set r v).hf = d.hf := rfl
@[simp] theorem Dev.set_remote (d : Dev) (r : Reg) (v : Nat) : (d.set r v).remote = d.remote := rfl
@[simp] theorem Dev.set_mcs (d : Dev) (r : Reg) (v : Nat) : (d.set r v).mcs = d.mcs := rfl
@[simp] theorem Dev.set_iommu (d : Dev) (r : Reg) (v : Nat) : (d.set r v).iommu = d.iommu := rfl
@[simp] theorem Dev.set_tk (d : Dev) (r : Reg) (v : Nat) : (d.set r v).tk = d.tk := rfl
@[simp] theorem Dev.set_part (d : Dev) (r : Reg) (v : Nat) : (d.set r v).part = d.part := rfl
@[simp] theorem Dev.set_boot (d : Dev) (r : Reg) (v : Nat) : (d.set r v).boot = d.boot := rfl
@[simp] theorem Dev.set_cnt (d : Dev) (r : Reg) (v : Nat) : (d.set r v).cnt = d.cnt := rfl
@[simp] theorem Dev.set_dimms (d : Dev) (r : Reg) (v : Nat) : (d.set r v).dimms = d.dimms := rfl
@[simp] theorem Dev.set_pins (d : Dev) (r : Reg) (v : Nat) : (d.set r v).pins = d.pins := rfl
@[simp] theorem Dev.set_power (d : Dev) (r : Reg) (v : Nat) : (d.set r v).power = d.power := rfl
@[simp] theorem Dev.set_aplic (d : Dev) (r : Reg) (v : Nat) : (d.set r v).aplic = d.aplic := rfl
@[simp] theorem Dev.set_arb (d : Dev) (r : Reg) (v : Nat) : (d.set r v).arb = d.arb := rfl
@[simp] theorem Dev.set_resetting (d : Dev) (r : Reg) (v : Nat) : (d.set r v).resetting = d.resetting := rfl
@[simp] theorem Dev.set_jtag (d : Dev) (r : Reg) (v : Nat) : (d.set r v).jtag = d.jtag := rfl
@[simp] theorem Dev.set_fuses (d : Dev) (r : Reg) (v : Nat) : (d.set r v).fuses = d.fuses := rfl
@[simp] theorem Dev.set_latch (d : Dev) (r : Reg) (v : Nat) : (d.set r v).latch = d.latch := rfl
@[simp] theorem Dev.set_flash (d : Dev) (r : Reg) (v : Nat) : (d.set r v).flash = d.flash := rfl
@[simp] theorem Dev.set_flashBad (d : Dev) (r : Reg) (v : Nat) : (d.set r v).flashBad = d.flashBad := rfl
@[simp] theorem Dev.set_flashMode (d : Dev) (r : Reg) (v : Nat) : (d.set r v).flashMode = d.flashMode := rfl
@[simp] theorem Dev.set_fresh (d : Dev) (r : Reg) (v : Nat) : (d.set r v).fresh = d.fresh := rfl

@[simp] theorem Dev.setDom_regs (d : Dev) (k : Nat) (b : List Byte) : (d.setDom k b).regs = d.regs := rfl
@[simp] theorem Dev.setDom_units (d : Dev) (k : Nat) (b : List Byte) : (d.setDom k b).units = d.units := rfl
@[simp] theorem Dev.setDom_mem (d : Dev) (k : Nat) (b : List Byte) : (d.setDom k b).mem = d.mem := rfl
@[simp] theorem Dev.setDom_marks (d : Dev) (k : Nat) (b : List Byte) : (d.setDom k b).marks = d.marks := rfl
@[simp] theorem Dev.setDom_clock (d : Dev) (k : Nat) (b : List Byte) : (d.setDom k b).clock = d.clock := rfl
@[simp] theorem Dev.setDom_harts (d : Dev) (k : Nat) (b : List Byte) : (d.setDom k b).harts = d.harts := rfl
@[simp] theorem Dev.setDom_insts (d : Dev) (k : Nat) (b : List Byte) : (d.setDom k b).insts = d.insts := rfl
@[simp] theorem Dev.setDom_jobs (d : Dev) (k : Nat) (b : List Byte) : (d.setDom k b).jobs = d.jobs := rfl
@[simp] theorem Dev.setDom_nextJob (d : Dev) (k : Nat) (b : List Byte) : (d.setDom k b).nextJob = d.nextJob := rfl
@[simp] theorem Dev.setDom_slots (d : Dev) (k : Nat) (b : List Byte) : (d.setDom k b).slots = d.slots := rfl
@[simp] theorem Dev.setDom_moves (d : Dev) (k : Nat) (b : List Byte) : (d.setDom k b).moves = d.moves := rfl
@[simp] theorem Dev.setDom_engs (d : Dev) (k : Nat) (b : List Byte) : (d.setDom k b).engs = d.engs := rfl
@[simp] theorem Dev.setDom_mgmt (d : Dev) (k : Nat) (b : List Byte) : (d.setDom k b).mgmt = d.mgmt := rfl
@[simp] theorem Dev.setDom_attKeys (d : Dev) (k : Nat) (b : List Byte) : (d.setDom k b).attKeys = d.attKeys := rfl
@[simp] theorem Dev.setDom_ks (d : Dev) (k : Nat) (b : List Byte) : (d.setDom k b).ks = d.ks := rfl
@[simp] theorem Dev.setDom_jns (d : Dev) (k : Nat) (b : List Byte) : (d.setDom k b).jns = d.jns := rfl
@[simp] theorem Dev.setDom_ck (d : Dev) (k : Nat) (b : List Byte) : (d.setDom k b).ck = d.ck := rfl
@[simp] theorem Dev.setDom_drbgs (d : Dev) (k : Nat) (b : List Byte) : (d.setDom k b).drbgs = d.drbgs := rfl
@[simp] theorem Dev.setDom_sides (d : Dev) (k : Nat) (b : List Byte) : (d.setDom k b).sides = d.sides := rfl
@[simp] theorem Dev.setDom_tcache (d : Dev) (k : Nat) (b : List Byte) : (d.setDom k b).tcache = d.tcache := rfl
@[simp] theorem Dev.setDom_dfSaved (d : Dev) (k : Nat) (b : List Byte) : (d.setDom k b).dfSaved = d.dfSaved := rfl
@[simp] theorem Dev.setDom_paused (d : Dev) (k : Nat) (b : List Byte) : (d.setDom k b).paused = d.paused := rfl
@[simp] theorem Dev.setDom_ring (d : Dev) (k : Nat) (b : List Byte) : (d.setDom k b).ring = d.ring := rfl
@[simp] theorem Dev.setDom_mbox (d : Dev) (k : Nat) (b : List Byte) : (d.setDom k b).mbox = d.mbox := rfl
@[simp] theorem Dev.setDom_staged (d : Dev) (k : Nat) (b : List Byte) : (d.setDom k b).staged = d.staged := rfl
@[simp] theorem Dev.setDom_resp (d : Dev) (k : Nat) (b : List Byte) : (d.setDom k b).resp = d.resp := rfl
@[simp] theorem Dev.setDom_waiting (d : Dev) (k : Nat) (b : List Byte) : (d.setDom k b).waiting = d.waiting := rfl
@[simp] theorem Dev.setDom_fus (d : Dev) (k : Nat) (b : List Byte) : (d.setDom k b).fus = d.fus := rfl
@[simp] theorem Dev.setDom_homes (d : Dev) (k : Nat) (b : List Byte) : (d.setDom k b).homes = d.homes := rfl
@[simp] theorem Dev.setDom_pewter (d : Dev) (k : Nat) (b : List Byte) : (d.setDom k b).pewter = d.pewter := rfl
@[simp] theorem Dev.setDom_pwJob (d : Dev) (k : Nat) (b : List Byte) : (d.setDom k b).pwJob = d.pwJob := rfl
@[simp] theorem Dev.setDom_filters (d : Dev) (k : Nat) (b : List Byte) : (d.setDom k b).filters = d.filters := rfl
@[simp] theorem Dev.setDom_fab (d : Dev) (k : Nat) (b : List Byte) : (d.setDom k b).fab = d.fab := rfl
@[simp] theorem Dev.setDom_adapters (d : Dev) (k : Nat) (b : List Byte) : (d.setDom k b).adapters = d.adapters := rfl
@[simp] theorem Dev.setDom_chans (d : Dev) (k : Nat) (b : List Byte) : (d.setDom k b).chans = d.chans := rfl
@[simp] theorem Dev.setDom_hf (d : Dev) (k : Nat) (b : List Byte) : (d.setDom k b).hf = d.hf := rfl
@[simp] theorem Dev.setDom_remote (d : Dev) (k : Nat) (b : List Byte) : (d.setDom k b).remote = d.remote := rfl
@[simp] theorem Dev.setDom_mcs (d : Dev) (k : Nat) (b : List Byte) : (d.setDom k b).mcs = d.mcs := rfl
@[simp] theorem Dev.setDom_iommu (d : Dev) (k : Nat) (b : List Byte) : (d.setDom k b).iommu = d.iommu := rfl
@[simp] theorem Dev.setDom_tk (d : Dev) (k : Nat) (b : List Byte) : (d.setDom k b).tk = d.tk := rfl
@[simp] theorem Dev.setDom_part (d : Dev) (k : Nat) (b : List Byte) : (d.setDom k b).part = d.part := rfl
@[simp] theorem Dev.setDom_boot (d : Dev) (k : Nat) (b : List Byte) : (d.setDom k b).boot = d.boot := rfl
@[simp] theorem Dev.setDom_cnt (d : Dev) (k : Nat) (b : List Byte) : (d.setDom k b).cnt = d.cnt := rfl
@[simp] theorem Dev.setDom_dimms (d : Dev) (k : Nat) (b : List Byte) : (d.setDom k b).dimms = d.dimms := rfl
@[simp] theorem Dev.setDom_pins (d : Dev) (k : Nat) (b : List Byte) : (d.setDom k b).pins = d.pins := rfl
@[simp] theorem Dev.setDom_power (d : Dev) (k : Nat) (b : List Byte) : (d.setDom k b).power = d.power := rfl
@[simp] theorem Dev.setDom_aplic (d : Dev) (k : Nat) (b : List Byte) : (d.setDom k b).aplic = d.aplic := rfl
@[simp] theorem Dev.setDom_arb (d : Dev) (k : Nat) (b : List Byte) : (d.setDom k b).arb = d.arb := rfl
@[simp] theorem Dev.setDom_resetting (d : Dev) (k : Nat) (b : List Byte) : (d.setDom k b).resetting = d.resetting := rfl
@[simp] theorem Dev.setDom_jtag (d : Dev) (k : Nat) (b : List Byte) : (d.setDom k b).jtag = d.jtag := rfl
@[simp] theorem Dev.setDom_fuses (d : Dev) (k : Nat) (b : List Byte) : (d.setDom k b).fuses = d.fuses := rfl
@[simp] theorem Dev.setDom_latch (d : Dev) (k : Nat) (b : List Byte) : (d.setDom k b).latch = d.latch := rfl
@[simp] theorem Dev.setDom_flash (d : Dev) (k : Nat) (b : List Byte) : (d.setDom k b).flash = d.flash := rfl
@[simp] theorem Dev.setDom_flashBad (d : Dev) (k : Nat) (b : List Byte) : (d.setDom k b).flashBad = d.flashBad := rfl
@[simp] theorem Dev.setDom_flashMode (d : Dev) (k : Nat) (b : List Byte) : (d.setDom k b).flashMode = d.flashMode := rfl
@[simp] theorem Dev.setDom_fresh (d : Dev) (k : Nat) (b : List Byte) : (d.setDom k b).fresh = d.fresh := rfl

@[simp] theorem Dev.setUnit_regs (d : Dev) (u : UnitRef) (x : Nat) : (d.setUnit u x).regs = d.regs := rfl
@[simp] theorem Dev.setUnit_doms (d : Dev) (u : UnitRef) (x : Nat) : (d.setUnit u x).doms = d.doms := rfl
@[simp] theorem Dev.setUnit_mem (d : Dev) (u : UnitRef) (x : Nat) : (d.setUnit u x).mem = d.mem := rfl
@[simp] theorem Dev.setUnit_marks (d : Dev) (u : UnitRef) (x : Nat) : (d.setUnit u x).marks = d.marks := rfl
@[simp] theorem Dev.setUnit_clock (d : Dev) (u : UnitRef) (x : Nat) : (d.setUnit u x).clock = d.clock := rfl
@[simp] theorem Dev.setUnit_harts (d : Dev) (u : UnitRef) (x : Nat) : (d.setUnit u x).harts = d.harts := rfl
@[simp] theorem Dev.setUnit_insts (d : Dev) (u : UnitRef) (x : Nat) : (d.setUnit u x).insts = d.insts := rfl
@[simp] theorem Dev.setUnit_jobs (d : Dev) (u : UnitRef) (x : Nat) : (d.setUnit u x).jobs = d.jobs := rfl
@[simp] theorem Dev.setUnit_nextJob (d : Dev) (u : UnitRef) (x : Nat) : (d.setUnit u x).nextJob = d.nextJob := rfl
@[simp] theorem Dev.setUnit_slots (d : Dev) (u : UnitRef) (x : Nat) : (d.setUnit u x).slots = d.slots := rfl
@[simp] theorem Dev.setUnit_moves (d : Dev) (u : UnitRef) (x : Nat) : (d.setUnit u x).moves = d.moves := rfl
@[simp] theorem Dev.setUnit_engs (d : Dev) (u : UnitRef) (x : Nat) : (d.setUnit u x).engs = d.engs := rfl
@[simp] theorem Dev.setUnit_mgmt (d : Dev) (u : UnitRef) (x : Nat) : (d.setUnit u x).mgmt = d.mgmt := rfl
@[simp] theorem Dev.setUnit_attKeys (d : Dev) (u : UnitRef) (x : Nat) : (d.setUnit u x).attKeys = d.attKeys := rfl
@[simp] theorem Dev.setUnit_ks (d : Dev) (u : UnitRef) (x : Nat) : (d.setUnit u x).ks = d.ks := rfl
@[simp] theorem Dev.setUnit_jns (d : Dev) (u : UnitRef) (x : Nat) : (d.setUnit u x).jns = d.jns := rfl
@[simp] theorem Dev.setUnit_ck (d : Dev) (u : UnitRef) (x : Nat) : (d.setUnit u x).ck = d.ck := rfl
@[simp] theorem Dev.setUnit_drbgs (d : Dev) (u : UnitRef) (x : Nat) : (d.setUnit u x).drbgs = d.drbgs := rfl
@[simp] theorem Dev.setUnit_sides (d : Dev) (u : UnitRef) (x : Nat) : (d.setUnit u x).sides = d.sides := rfl
@[simp] theorem Dev.setUnit_tcache (d : Dev) (u : UnitRef) (x : Nat) : (d.setUnit u x).tcache = d.tcache := rfl
@[simp] theorem Dev.setUnit_dfSaved (d : Dev) (u : UnitRef) (x : Nat) : (d.setUnit u x).dfSaved = d.dfSaved := rfl
@[simp] theorem Dev.setUnit_paused (d : Dev) (u : UnitRef) (x : Nat) : (d.setUnit u x).paused = d.paused := rfl
@[simp] theorem Dev.setUnit_ring (d : Dev) (u : UnitRef) (x : Nat) : (d.setUnit u x).ring = d.ring := rfl
@[simp] theorem Dev.setUnit_mbox (d : Dev) (u : UnitRef) (x : Nat) : (d.setUnit u x).mbox = d.mbox := rfl
@[simp] theorem Dev.setUnit_staged (d : Dev) (u : UnitRef) (x : Nat) : (d.setUnit u x).staged = d.staged := rfl
@[simp] theorem Dev.setUnit_resp (d : Dev) (u : UnitRef) (x : Nat) : (d.setUnit u x).resp = d.resp := rfl
@[simp] theorem Dev.setUnit_waiting (d : Dev) (u : UnitRef) (x : Nat) : (d.setUnit u x).waiting = d.waiting := rfl
@[simp] theorem Dev.setUnit_fus (d : Dev) (u : UnitRef) (x : Nat) : (d.setUnit u x).fus = d.fus := rfl
@[simp] theorem Dev.setUnit_homes (d : Dev) (u : UnitRef) (x : Nat) : (d.setUnit u x).homes = d.homes := rfl
@[simp] theorem Dev.setUnit_pewter (d : Dev) (u : UnitRef) (x : Nat) : (d.setUnit u x).pewter = d.pewter := rfl
@[simp] theorem Dev.setUnit_pwJob (d : Dev) (u : UnitRef) (x : Nat) : (d.setUnit u x).pwJob = d.pwJob := rfl
@[simp] theorem Dev.setUnit_filters (d : Dev) (u : UnitRef) (x : Nat) : (d.setUnit u x).filters = d.filters := rfl
@[simp] theorem Dev.setUnit_fab (d : Dev) (u : UnitRef) (x : Nat) : (d.setUnit u x).fab = d.fab := rfl
@[simp] theorem Dev.setUnit_adapters (d : Dev) (u : UnitRef) (x : Nat) : (d.setUnit u x).adapters = d.adapters := rfl
@[simp] theorem Dev.setUnit_chans (d : Dev) (u : UnitRef) (x : Nat) : (d.setUnit u x).chans = d.chans := rfl
@[simp] theorem Dev.setUnit_hf (d : Dev) (u : UnitRef) (x : Nat) : (d.setUnit u x).hf = d.hf := rfl
@[simp] theorem Dev.setUnit_remote (d : Dev) (u : UnitRef) (x : Nat) : (d.setUnit u x).remote = d.remote := rfl
@[simp] theorem Dev.setUnit_mcs (d : Dev) (u : UnitRef) (x : Nat) : (d.setUnit u x).mcs = d.mcs := rfl
@[simp] theorem Dev.setUnit_iommu (d : Dev) (u : UnitRef) (x : Nat) : (d.setUnit u x).iommu = d.iommu := rfl
@[simp] theorem Dev.setUnit_tk (d : Dev) (u : UnitRef) (x : Nat) : (d.setUnit u x).tk = d.tk := rfl
@[simp] theorem Dev.setUnit_part (d : Dev) (u : UnitRef) (x : Nat) : (d.setUnit u x).part = d.part := rfl
@[simp] theorem Dev.setUnit_boot (d : Dev) (u : UnitRef) (x : Nat) : (d.setUnit u x).boot = d.boot := rfl
@[simp] theorem Dev.setUnit_cnt (d : Dev) (u : UnitRef) (x : Nat) : (d.setUnit u x).cnt = d.cnt := rfl
@[simp] theorem Dev.setUnit_dimms (d : Dev) (u : UnitRef) (x : Nat) : (d.setUnit u x).dimms = d.dimms := rfl
@[simp] theorem Dev.setUnit_pins (d : Dev) (u : UnitRef) (x : Nat) : (d.setUnit u x).pins = d.pins := rfl
@[simp] theorem Dev.setUnit_power (d : Dev) (u : UnitRef) (x : Nat) : (d.setUnit u x).power = d.power := rfl
@[simp] theorem Dev.setUnit_aplic (d : Dev) (u : UnitRef) (x : Nat) : (d.setUnit u x).aplic = d.aplic := rfl
@[simp] theorem Dev.setUnit_arb (d : Dev) (u : UnitRef) (x : Nat) : (d.setUnit u x).arb = d.arb := rfl
@[simp] theorem Dev.setUnit_resetting (d : Dev) (u : UnitRef) (x : Nat) : (d.setUnit u x).resetting = d.resetting := rfl
@[simp] theorem Dev.setUnit_jtag (d : Dev) (u : UnitRef) (x : Nat) : (d.setUnit u x).jtag = d.jtag := rfl
@[simp] theorem Dev.setUnit_fuses (d : Dev) (u : UnitRef) (x : Nat) : (d.setUnit u x).fuses = d.fuses := rfl
@[simp] theorem Dev.setUnit_latch (d : Dev) (u : UnitRef) (x : Nat) : (d.setUnit u x).latch = d.latch := rfl
@[simp] theorem Dev.setUnit_flash (d : Dev) (u : UnitRef) (x : Nat) : (d.setUnit u x).flash = d.flash := rfl
@[simp] theorem Dev.setUnit_flashBad (d : Dev) (u : UnitRef) (x : Nat) : (d.setUnit u x).flashBad = d.flashBad := rfl
@[simp] theorem Dev.setUnit_flashMode (d : Dev) (u : UnitRef) (x : Nat) : (d.setUnit u x).flashMode = d.flashMode := rfl
@[simp] theorem Dev.setUnit_fresh (d : Dev) (u : UnitRef) (x : Nat) : (d.setUnit u x).fresh = d.fresh := rfl

@[simp] theorem Dev.setBlock_regs (d : Dev) (n x : Nat) : (d.setBlock n x).regs = d.regs := rfl
@[simp] theorem Dev.setBlock_doms (d : Dev) (n x : Nat) : (d.setBlock n x).doms = d.doms := rfl
@[simp] theorem Dev.setBlock_mem (d : Dev) (n x : Nat) : (d.setBlock n x).mem = d.mem := rfl
@[simp] theorem Dev.setBlock_marks (d : Dev) (n x : Nat) : (d.setBlock n x).marks = d.marks := rfl
@[simp] theorem Dev.setBlock_clock (d : Dev) (n x : Nat) : (d.setBlock n x).clock = d.clock := rfl
@[simp] theorem Dev.setBlock_harts (d : Dev) (n x : Nat) : (d.setBlock n x).harts = d.harts := rfl
@[simp] theorem Dev.setBlock_insts (d : Dev) (n x : Nat) : (d.setBlock n x).insts = d.insts := rfl
@[simp] theorem Dev.setBlock_jobs (d : Dev) (n x : Nat) : (d.setBlock n x).jobs = d.jobs := rfl
@[simp] theorem Dev.setBlock_nextJob (d : Dev) (n x : Nat) : (d.setBlock n x).nextJob = d.nextJob := rfl
@[simp] theorem Dev.setBlock_slots (d : Dev) (n x : Nat) : (d.setBlock n x).slots = d.slots := rfl
@[simp] theorem Dev.setBlock_moves (d : Dev) (n x : Nat) : (d.setBlock n x).moves = d.moves := rfl
@[simp] theorem Dev.setBlock_engs (d : Dev) (n x : Nat) : (d.setBlock n x).engs = d.engs := rfl
@[simp] theorem Dev.setBlock_mgmt (d : Dev) (n x : Nat) : (d.setBlock n x).mgmt = d.mgmt := rfl
@[simp] theorem Dev.setBlock_attKeys (d : Dev) (n x : Nat) : (d.setBlock n x).attKeys = d.attKeys := rfl
@[simp] theorem Dev.setBlock_ks (d : Dev) (n x : Nat) : (d.setBlock n x).ks = d.ks := rfl
@[simp] theorem Dev.setBlock_jns (d : Dev) (n x : Nat) : (d.setBlock n x).jns = d.jns := rfl
@[simp] theorem Dev.setBlock_ck (d : Dev) (n x : Nat) : (d.setBlock n x).ck = d.ck := rfl
@[simp] theorem Dev.setBlock_drbgs (d : Dev) (n x : Nat) : (d.setBlock n x).drbgs = d.drbgs := rfl
@[simp] theorem Dev.setBlock_sides (d : Dev) (n x : Nat) : (d.setBlock n x).sides = d.sides := rfl
@[simp] theorem Dev.setBlock_tcache (d : Dev) (n x : Nat) : (d.setBlock n x).tcache = d.tcache := rfl
@[simp] theorem Dev.setBlock_dfSaved (d : Dev) (n x : Nat) : (d.setBlock n x).dfSaved = d.dfSaved := rfl
@[simp] theorem Dev.setBlock_paused (d : Dev) (n x : Nat) : (d.setBlock n x).paused = d.paused := rfl
@[simp] theorem Dev.setBlock_ring (d : Dev) (n x : Nat) : (d.setBlock n x).ring = d.ring := rfl
@[simp] theorem Dev.setBlock_mbox (d : Dev) (n x : Nat) : (d.setBlock n x).mbox = d.mbox := rfl
@[simp] theorem Dev.setBlock_staged (d : Dev) (n x : Nat) : (d.setBlock n x).staged = d.staged := rfl
@[simp] theorem Dev.setBlock_resp (d : Dev) (n x : Nat) : (d.setBlock n x).resp = d.resp := rfl
@[simp] theorem Dev.setBlock_waiting (d : Dev) (n x : Nat) : (d.setBlock n x).waiting = d.waiting := rfl
@[simp] theorem Dev.setBlock_fus (d : Dev) (n x : Nat) : (d.setBlock n x).fus = d.fus := rfl
@[simp] theorem Dev.setBlock_homes (d : Dev) (n x : Nat) : (d.setBlock n x).homes = d.homes := rfl
@[simp] theorem Dev.setBlock_pewter (d : Dev) (n x : Nat) : (d.setBlock n x).pewter = d.pewter := rfl
@[simp] theorem Dev.setBlock_pwJob (d : Dev) (n x : Nat) : (d.setBlock n x).pwJob = d.pwJob := rfl
@[simp] theorem Dev.setBlock_filters (d : Dev) (n x : Nat) : (d.setBlock n x).filters = d.filters := rfl
@[simp] theorem Dev.setBlock_fab (d : Dev) (n x : Nat) : (d.setBlock n x).fab = d.fab := rfl
@[simp] theorem Dev.setBlock_adapters (d : Dev) (n x : Nat) : (d.setBlock n x).adapters = d.adapters := rfl
@[simp] theorem Dev.setBlock_chans (d : Dev) (n x : Nat) : (d.setBlock n x).chans = d.chans := rfl
@[simp] theorem Dev.setBlock_hf (d : Dev) (n x : Nat) : (d.setBlock n x).hf = d.hf := rfl
@[simp] theorem Dev.setBlock_remote (d : Dev) (n x : Nat) : (d.setBlock n x).remote = d.remote := rfl
@[simp] theorem Dev.setBlock_mcs (d : Dev) (n x : Nat) : (d.setBlock n x).mcs = d.mcs := rfl
@[simp] theorem Dev.setBlock_iommu (d : Dev) (n x : Nat) : (d.setBlock n x).iommu = d.iommu := rfl
@[simp] theorem Dev.setBlock_tk (d : Dev) (n x : Nat) : (d.setBlock n x).tk = d.tk := rfl
@[simp] theorem Dev.setBlock_part (d : Dev) (n x : Nat) : (d.setBlock n x).part = d.part := rfl
@[simp] theorem Dev.setBlock_boot (d : Dev) (n x : Nat) : (d.setBlock n x).boot = d.boot := rfl
@[simp] theorem Dev.setBlock_cnt (d : Dev) (n x : Nat) : (d.setBlock n x).cnt = d.cnt := rfl
@[simp] theorem Dev.setBlock_dimms (d : Dev) (n x : Nat) : (d.setBlock n x).dimms = d.dimms := rfl
@[simp] theorem Dev.setBlock_pins (d : Dev) (n x : Nat) : (d.setBlock n x).pins = d.pins := rfl
@[simp] theorem Dev.setBlock_power (d : Dev) (n x : Nat) : (d.setBlock n x).power = d.power := rfl
@[simp] theorem Dev.setBlock_aplic (d : Dev) (n x : Nat) : (d.setBlock n x).aplic = d.aplic := rfl
@[simp] theorem Dev.setBlock_arb (d : Dev) (n x : Nat) : (d.setBlock n x).arb = d.arb := rfl
@[simp] theorem Dev.setBlock_resetting (d : Dev) (n x : Nat) : (d.setBlock n x).resetting = d.resetting := rfl
@[simp] theorem Dev.setBlock_jtag (d : Dev) (n x : Nat) : (d.setBlock n x).jtag = d.jtag := rfl
@[simp] theorem Dev.setBlock_fuses (d : Dev) (n x : Nat) : (d.setBlock n x).fuses = d.fuses := rfl
@[simp] theorem Dev.setBlock_latch (d : Dev) (n x : Nat) : (d.setBlock n x).latch = d.latch := rfl
@[simp] theorem Dev.setBlock_flash (d : Dev) (n x : Nat) : (d.setBlock n x).flash = d.flash := rfl
@[simp] theorem Dev.setBlock_flashBad (d : Dev) (n x : Nat) : (d.setBlock n x).flashBad = d.flashBad := rfl
@[simp] theorem Dev.setBlock_flashMode (d : Dev) (n x : Nat) : (d.setBlock n x).flashMode = d.flashMode := rfl
@[simp] theorem Dev.setBlock_fresh (d : Dev) (n x : Nat) : (d.setBlock n x).fresh = d.fresh := rfl

@[simp] theorem Dev.setHart_regs (d : Dev) (k : Nat) (h : Hart) : (d.setHart k h).regs = d.regs := rfl
@[simp] theorem Dev.setHart_doms (d : Dev) (k : Nat) (h : Hart) : (d.setHart k h).doms = d.doms := rfl
@[simp] theorem Dev.setHart_units (d : Dev) (k : Nat) (h : Hart) : (d.setHart k h).units = d.units := rfl
@[simp] theorem Dev.setHart_mem (d : Dev) (k : Nat) (h : Hart) : (d.setHart k h).mem = d.mem := rfl
@[simp] theorem Dev.setHart_marks (d : Dev) (k : Nat) (h : Hart) : (d.setHart k h).marks = d.marks := rfl
@[simp] theorem Dev.setHart_clock (d : Dev) (k : Nat) (h : Hart) : (d.setHart k h).clock = d.clock := rfl
@[simp] theorem Dev.setHart_insts (d : Dev) (k : Nat) (h : Hart) : (d.setHart k h).insts = d.insts := rfl
@[simp] theorem Dev.setHart_jobs (d : Dev) (k : Nat) (h : Hart) : (d.setHart k h).jobs = d.jobs := rfl
@[simp] theorem Dev.setHart_nextJob (d : Dev) (k : Nat) (h : Hart) : (d.setHart k h).nextJob = d.nextJob := rfl
@[simp] theorem Dev.setHart_slots (d : Dev) (k : Nat) (h : Hart) : (d.setHart k h).slots = d.slots := rfl
@[simp] theorem Dev.setHart_moves (d : Dev) (k : Nat) (h : Hart) : (d.setHart k h).moves = d.moves := rfl
@[simp] theorem Dev.setHart_engs (d : Dev) (k : Nat) (h : Hart) : (d.setHart k h).engs = d.engs := rfl
@[simp] theorem Dev.setHart_mgmt (d : Dev) (k : Nat) (h : Hart) : (d.setHart k h).mgmt = d.mgmt := rfl
@[simp] theorem Dev.setHart_attKeys (d : Dev) (k : Nat) (h : Hart) : (d.setHart k h).attKeys = d.attKeys := rfl
@[simp] theorem Dev.setHart_ks (d : Dev) (k : Nat) (h : Hart) : (d.setHart k h).ks = d.ks := rfl
@[simp] theorem Dev.setHart_jns (d : Dev) (k : Nat) (h : Hart) : (d.setHart k h).jns = d.jns := rfl
@[simp] theorem Dev.setHart_ck (d : Dev) (k : Nat) (h : Hart) : (d.setHart k h).ck = d.ck := rfl
@[simp] theorem Dev.setHart_drbgs (d : Dev) (k : Nat) (h : Hart) : (d.setHart k h).drbgs = d.drbgs := rfl
@[simp] theorem Dev.setHart_sides (d : Dev) (k : Nat) (h : Hart) : (d.setHart k h).sides = d.sides := rfl
@[simp] theorem Dev.setHart_tcache (d : Dev) (k : Nat) (h : Hart) : (d.setHart k h).tcache = d.tcache := rfl
@[simp] theorem Dev.setHart_dfSaved (d : Dev) (k : Nat) (h : Hart) : (d.setHart k h).dfSaved = d.dfSaved := rfl
@[simp] theorem Dev.setHart_paused (d : Dev) (k : Nat) (h : Hart) : (d.setHart k h).paused = d.paused := rfl
@[simp] theorem Dev.setHart_ring (d : Dev) (k : Nat) (h : Hart) : (d.setHart k h).ring = d.ring := rfl
@[simp] theorem Dev.setHart_mbox (d : Dev) (k : Nat) (h : Hart) : (d.setHart k h).mbox = d.mbox := rfl
@[simp] theorem Dev.setHart_staged (d : Dev) (k : Nat) (h : Hart) : (d.setHart k h).staged = d.staged := rfl
@[simp] theorem Dev.setHart_resp (d : Dev) (k : Nat) (h : Hart) : (d.setHart k h).resp = d.resp := rfl
@[simp] theorem Dev.setHart_waiting (d : Dev) (k : Nat) (h : Hart) : (d.setHart k h).waiting = d.waiting := rfl
@[simp] theorem Dev.setHart_fus (d : Dev) (k : Nat) (h : Hart) : (d.setHart k h).fus = d.fus := rfl
@[simp] theorem Dev.setHart_homes (d : Dev) (k : Nat) (h : Hart) : (d.setHart k h).homes = d.homes := rfl
@[simp] theorem Dev.setHart_pewter (d : Dev) (k : Nat) (h : Hart) : (d.setHart k h).pewter = d.pewter := rfl
@[simp] theorem Dev.setHart_pwJob (d : Dev) (k : Nat) (h : Hart) : (d.setHart k h).pwJob = d.pwJob := rfl
@[simp] theorem Dev.setHart_filters (d : Dev) (k : Nat) (h : Hart) : (d.setHart k h).filters = d.filters := rfl
@[simp] theorem Dev.setHart_fab (d : Dev) (k : Nat) (h : Hart) : (d.setHart k h).fab = d.fab := rfl
@[simp] theorem Dev.setHart_adapters (d : Dev) (k : Nat) (h : Hart) : (d.setHart k h).adapters = d.adapters := rfl
@[simp] theorem Dev.setHart_chans (d : Dev) (k : Nat) (h : Hart) : (d.setHart k h).chans = d.chans := rfl
@[simp] theorem Dev.setHart_hf (d : Dev) (k : Nat) (h : Hart) : (d.setHart k h).hf = d.hf := rfl
@[simp] theorem Dev.setHart_remote (d : Dev) (k : Nat) (h : Hart) : (d.setHart k h).remote = d.remote := rfl
@[simp] theorem Dev.setHart_mcs (d : Dev) (k : Nat) (h : Hart) : (d.setHart k h).mcs = d.mcs := rfl
@[simp] theorem Dev.setHart_iommu (d : Dev) (k : Nat) (h : Hart) : (d.setHart k h).iommu = d.iommu := rfl
@[simp] theorem Dev.setHart_tk (d : Dev) (k : Nat) (h : Hart) : (d.setHart k h).tk = d.tk := rfl
@[simp] theorem Dev.setHart_part (d : Dev) (k : Nat) (h : Hart) : (d.setHart k h).part = d.part := rfl
@[simp] theorem Dev.setHart_boot (d : Dev) (k : Nat) (h : Hart) : (d.setHart k h).boot = d.boot := rfl
@[simp] theorem Dev.setHart_cnt (d : Dev) (k : Nat) (h : Hart) : (d.setHart k h).cnt = d.cnt := rfl
@[simp] theorem Dev.setHart_dimms (d : Dev) (k : Nat) (h : Hart) : (d.setHart k h).dimms = d.dimms := rfl
@[simp] theorem Dev.setHart_pins (d : Dev) (k : Nat) (h : Hart) : (d.setHart k h).pins = d.pins := rfl
@[simp] theorem Dev.setHart_power (d : Dev) (k : Nat) (h : Hart) : (d.setHart k h).power = d.power := rfl
@[simp] theorem Dev.setHart_aplic (d : Dev) (k : Nat) (h : Hart) : (d.setHart k h).aplic = d.aplic := rfl
@[simp] theorem Dev.setHart_arb (d : Dev) (k : Nat) (h : Hart) : (d.setHart k h).arb = d.arb := rfl
@[simp] theorem Dev.setHart_resetting (d : Dev) (k : Nat) (h : Hart) : (d.setHart k h).resetting = d.resetting := rfl
@[simp] theorem Dev.setHart_jtag (d : Dev) (k : Nat) (h : Hart) : (d.setHart k h).jtag = d.jtag := rfl
@[simp] theorem Dev.setHart_fuses (d : Dev) (k : Nat) (h : Hart) : (d.setHart k h).fuses = d.fuses := rfl
@[simp] theorem Dev.setHart_latch (d : Dev) (k : Nat) (h : Hart) : (d.setHart k h).latch = d.latch := rfl
@[simp] theorem Dev.setHart_flash (d : Dev) (k : Nat) (h : Hart) : (d.setHart k h).flash = d.flash := rfl
@[simp] theorem Dev.setHart_flashBad (d : Dev) (k : Nat) (h : Hart) : (d.setHart k h).flashBad = d.flashBad := rfl
@[simp] theorem Dev.setHart_flashMode (d : Dev) (k : Nat) (h : Hart) : (d.setHart k h).flashMode = d.flashMode := rfl
@[simp] theorem Dev.setHart_fresh (d : Dev) (k : Nat) (h : Hart) : (d.setHart k h).fresh = d.fresh := rfl

@[simp] theorem Dev.setInst_regs (d : Dev) (i : Nat) (x : Inst) : (d.setInst i x).regs = d.regs := rfl
@[simp] theorem Dev.setInst_doms (d : Dev) (i : Nat) (x : Inst) : (d.setInst i x).doms = d.doms := rfl
@[simp] theorem Dev.setInst_units (d : Dev) (i : Nat) (x : Inst) : (d.setInst i x).units = d.units := rfl
@[simp] theorem Dev.setInst_mem (d : Dev) (i : Nat) (x : Inst) : (d.setInst i x).mem = d.mem := rfl
@[simp] theorem Dev.setInst_marks (d : Dev) (i : Nat) (x : Inst) : (d.setInst i x).marks = d.marks := rfl
@[simp] theorem Dev.setInst_clock (d : Dev) (i : Nat) (x : Inst) : (d.setInst i x).clock = d.clock := rfl
@[simp] theorem Dev.setInst_harts (d : Dev) (i : Nat) (x : Inst) : (d.setInst i x).harts = d.harts := rfl
@[simp] theorem Dev.setInst_jobs (d : Dev) (i : Nat) (x : Inst) : (d.setInst i x).jobs = d.jobs := rfl
@[simp] theorem Dev.setInst_nextJob (d : Dev) (i : Nat) (x : Inst) : (d.setInst i x).nextJob = d.nextJob := rfl
@[simp] theorem Dev.setInst_slots (d : Dev) (i : Nat) (x : Inst) : (d.setInst i x).slots = d.slots := rfl
@[simp] theorem Dev.setInst_moves (d : Dev) (i : Nat) (x : Inst) : (d.setInst i x).moves = d.moves := rfl
@[simp] theorem Dev.setInst_engs (d : Dev) (i : Nat) (x : Inst) : (d.setInst i x).engs = d.engs := rfl
@[simp] theorem Dev.setInst_mgmt (d : Dev) (i : Nat) (x : Inst) : (d.setInst i x).mgmt = d.mgmt := rfl
@[simp] theorem Dev.setInst_attKeys (d : Dev) (i : Nat) (x : Inst) : (d.setInst i x).attKeys = d.attKeys := rfl
@[simp] theorem Dev.setInst_ks (d : Dev) (i : Nat) (x : Inst) : (d.setInst i x).ks = d.ks := rfl
@[simp] theorem Dev.setInst_jns (d : Dev) (i : Nat) (x : Inst) : (d.setInst i x).jns = d.jns := rfl
@[simp] theorem Dev.setInst_ck (d : Dev) (i : Nat) (x : Inst) : (d.setInst i x).ck = d.ck := rfl
@[simp] theorem Dev.setInst_drbgs (d : Dev) (i : Nat) (x : Inst) : (d.setInst i x).drbgs = d.drbgs := rfl
@[simp] theorem Dev.setInst_sides (d : Dev) (i : Nat) (x : Inst) : (d.setInst i x).sides = d.sides := rfl
@[simp] theorem Dev.setInst_tcache (d : Dev) (i : Nat) (x : Inst) : (d.setInst i x).tcache = d.tcache := rfl
@[simp] theorem Dev.setInst_dfSaved (d : Dev) (i : Nat) (x : Inst) : (d.setInst i x).dfSaved = d.dfSaved := rfl
@[simp] theorem Dev.setInst_paused (d : Dev) (i : Nat) (x : Inst) : (d.setInst i x).paused = d.paused := rfl
@[simp] theorem Dev.setInst_ring (d : Dev) (i : Nat) (x : Inst) : (d.setInst i x).ring = d.ring := rfl
@[simp] theorem Dev.setInst_mbox (d : Dev) (i : Nat) (x : Inst) : (d.setInst i x).mbox = d.mbox := rfl
@[simp] theorem Dev.setInst_staged (d : Dev) (i : Nat) (x : Inst) : (d.setInst i x).staged = d.staged := rfl
@[simp] theorem Dev.setInst_resp (d : Dev) (i : Nat) (x : Inst) : (d.setInst i x).resp = d.resp := rfl
@[simp] theorem Dev.setInst_waiting (d : Dev) (i : Nat) (x : Inst) : (d.setInst i x).waiting = d.waiting := rfl
@[simp] theorem Dev.setInst_fus (d : Dev) (i : Nat) (x : Inst) : (d.setInst i x).fus = d.fus := rfl
@[simp] theorem Dev.setInst_homes (d : Dev) (i : Nat) (x : Inst) : (d.setInst i x).homes = d.homes := rfl
@[simp] theorem Dev.setInst_pewter (d : Dev) (i : Nat) (x : Inst) : (d.setInst i x).pewter = d.pewter := rfl
@[simp] theorem Dev.setInst_pwJob (d : Dev) (i : Nat) (x : Inst) : (d.setInst i x).pwJob = d.pwJob := rfl
@[simp] theorem Dev.setInst_filters (d : Dev) (i : Nat) (x : Inst) : (d.setInst i x).filters = d.filters := rfl
@[simp] theorem Dev.setInst_fab (d : Dev) (i : Nat) (x : Inst) : (d.setInst i x).fab = d.fab := rfl
@[simp] theorem Dev.setInst_adapters (d : Dev) (i : Nat) (x : Inst) : (d.setInst i x).adapters = d.adapters := rfl
@[simp] theorem Dev.setInst_chans (d : Dev) (i : Nat) (x : Inst) : (d.setInst i x).chans = d.chans := rfl
@[simp] theorem Dev.setInst_hf (d : Dev) (i : Nat) (x : Inst) : (d.setInst i x).hf = d.hf := rfl
@[simp] theorem Dev.setInst_remote (d : Dev) (i : Nat) (x : Inst) : (d.setInst i x).remote = d.remote := rfl
@[simp] theorem Dev.setInst_mcs (d : Dev) (i : Nat) (x : Inst) : (d.setInst i x).mcs = d.mcs := rfl
@[simp] theorem Dev.setInst_iommu (d : Dev) (i : Nat) (x : Inst) : (d.setInst i x).iommu = d.iommu := rfl
@[simp] theorem Dev.setInst_tk (d : Dev) (i : Nat) (x : Inst) : (d.setInst i x).tk = d.tk := rfl
@[simp] theorem Dev.setInst_part (d : Dev) (i : Nat) (x : Inst) : (d.setInst i x).part = d.part := rfl
@[simp] theorem Dev.setInst_boot (d : Dev) (i : Nat) (x : Inst) : (d.setInst i x).boot = d.boot := rfl
@[simp] theorem Dev.setInst_cnt (d : Dev) (i : Nat) (x : Inst) : (d.setInst i x).cnt = d.cnt := rfl
@[simp] theorem Dev.setInst_dimms (d : Dev) (i : Nat) (x : Inst) : (d.setInst i x).dimms = d.dimms := rfl
@[simp] theorem Dev.setInst_pins (d : Dev) (i : Nat) (x : Inst) : (d.setInst i x).pins = d.pins := rfl
@[simp] theorem Dev.setInst_power (d : Dev) (i : Nat) (x : Inst) : (d.setInst i x).power = d.power := rfl
@[simp] theorem Dev.setInst_aplic (d : Dev) (i : Nat) (x : Inst) : (d.setInst i x).aplic = d.aplic := rfl
@[simp] theorem Dev.setInst_arb (d : Dev) (i : Nat) (x : Inst) : (d.setInst i x).arb = d.arb := rfl
@[simp] theorem Dev.setInst_resetting (d : Dev) (i : Nat) (x : Inst) : (d.setInst i x).resetting = d.resetting := rfl
@[simp] theorem Dev.setInst_jtag (d : Dev) (i : Nat) (x : Inst) : (d.setInst i x).jtag = d.jtag := rfl
@[simp] theorem Dev.setInst_fuses (d : Dev) (i : Nat) (x : Inst) : (d.setInst i x).fuses = d.fuses := rfl
@[simp] theorem Dev.setInst_latch (d : Dev) (i : Nat) (x : Inst) : (d.setInst i x).latch = d.latch := rfl
@[simp] theorem Dev.setInst_flash (d : Dev) (i : Nat) (x : Inst) : (d.setInst i x).flash = d.flash := rfl
@[simp] theorem Dev.setInst_flashBad (d : Dev) (i : Nat) (x : Inst) : (d.setInst i x).flashBad = d.flashBad := rfl
@[simp] theorem Dev.setInst_flashMode (d : Dev) (i : Nat) (x : Inst) : (d.setInst i x).flashMode = d.flashMode := rfl
@[simp] theorem Dev.setInst_fresh (d : Dev) (i : Nat) (x : Inst) : (d.setInst i x).fresh = d.fresh := rfl

@[simp] theorem Dev.setJob_regs (d : Dev) (j : Nat) (x : Job) : (d.setJob j x).regs = d.regs := rfl
@[simp] theorem Dev.setJob_doms (d : Dev) (j : Nat) (x : Job) : (d.setJob j x).doms = d.doms := rfl
@[simp] theorem Dev.setJob_units (d : Dev) (j : Nat) (x : Job) : (d.setJob j x).units = d.units := rfl
@[simp] theorem Dev.setJob_mem (d : Dev) (j : Nat) (x : Job) : (d.setJob j x).mem = d.mem := rfl
@[simp] theorem Dev.setJob_marks (d : Dev) (j : Nat) (x : Job) : (d.setJob j x).marks = d.marks := rfl
@[simp] theorem Dev.setJob_clock (d : Dev) (j : Nat) (x : Job) : (d.setJob j x).clock = d.clock := rfl
@[simp] theorem Dev.setJob_harts (d : Dev) (j : Nat) (x : Job) : (d.setJob j x).harts = d.harts := rfl
@[simp] theorem Dev.setJob_insts (d : Dev) (j : Nat) (x : Job) : (d.setJob j x).insts = d.insts := rfl
@[simp] theorem Dev.setJob_nextJob (d : Dev) (j : Nat) (x : Job) : (d.setJob j x).nextJob = d.nextJob := rfl
@[simp] theorem Dev.setJob_slots (d : Dev) (j : Nat) (x : Job) : (d.setJob j x).slots = d.slots := rfl
@[simp] theorem Dev.setJob_moves (d : Dev) (j : Nat) (x : Job) : (d.setJob j x).moves = d.moves := rfl
@[simp] theorem Dev.setJob_engs (d : Dev) (j : Nat) (x : Job) : (d.setJob j x).engs = d.engs := rfl
@[simp] theorem Dev.setJob_mgmt (d : Dev) (j : Nat) (x : Job) : (d.setJob j x).mgmt = d.mgmt := rfl
@[simp] theorem Dev.setJob_attKeys (d : Dev) (j : Nat) (x : Job) : (d.setJob j x).attKeys = d.attKeys := rfl
@[simp] theorem Dev.setJob_ks (d : Dev) (j : Nat) (x : Job) : (d.setJob j x).ks = d.ks := rfl
@[simp] theorem Dev.setJob_jns (d : Dev) (j : Nat) (x : Job) : (d.setJob j x).jns = d.jns := rfl
@[simp] theorem Dev.setJob_ck (d : Dev) (j : Nat) (x : Job) : (d.setJob j x).ck = d.ck := rfl
@[simp] theorem Dev.setJob_drbgs (d : Dev) (j : Nat) (x : Job) : (d.setJob j x).drbgs = d.drbgs := rfl
@[simp] theorem Dev.setJob_sides (d : Dev) (j : Nat) (x : Job) : (d.setJob j x).sides = d.sides := rfl
@[simp] theorem Dev.setJob_tcache (d : Dev) (j : Nat) (x : Job) : (d.setJob j x).tcache = d.tcache := rfl
@[simp] theorem Dev.setJob_dfSaved (d : Dev) (j : Nat) (x : Job) : (d.setJob j x).dfSaved = d.dfSaved := rfl
@[simp] theorem Dev.setJob_paused (d : Dev) (j : Nat) (x : Job) : (d.setJob j x).paused = d.paused := rfl
@[simp] theorem Dev.setJob_ring (d : Dev) (j : Nat) (x : Job) : (d.setJob j x).ring = d.ring := rfl
@[simp] theorem Dev.setJob_mbox (d : Dev) (j : Nat) (x : Job) : (d.setJob j x).mbox = d.mbox := rfl
@[simp] theorem Dev.setJob_staged (d : Dev) (j : Nat) (x : Job) : (d.setJob j x).staged = d.staged := rfl
@[simp] theorem Dev.setJob_resp (d : Dev) (j : Nat) (x : Job) : (d.setJob j x).resp = d.resp := rfl
@[simp] theorem Dev.setJob_waiting (d : Dev) (j : Nat) (x : Job) : (d.setJob j x).waiting = d.waiting := rfl
@[simp] theorem Dev.setJob_fus (d : Dev) (j : Nat) (x : Job) : (d.setJob j x).fus = d.fus := rfl
@[simp] theorem Dev.setJob_homes (d : Dev) (j : Nat) (x : Job) : (d.setJob j x).homes = d.homes := rfl
@[simp] theorem Dev.setJob_pewter (d : Dev) (j : Nat) (x : Job) : (d.setJob j x).pewter = d.pewter := rfl
@[simp] theorem Dev.setJob_pwJob (d : Dev) (j : Nat) (x : Job) : (d.setJob j x).pwJob = d.pwJob := rfl
@[simp] theorem Dev.setJob_filters (d : Dev) (j : Nat) (x : Job) : (d.setJob j x).filters = d.filters := rfl
@[simp] theorem Dev.setJob_fab (d : Dev) (j : Nat) (x : Job) : (d.setJob j x).fab = d.fab := rfl
@[simp] theorem Dev.setJob_adapters (d : Dev) (j : Nat) (x : Job) : (d.setJob j x).adapters = d.adapters := rfl
@[simp] theorem Dev.setJob_chans (d : Dev) (j : Nat) (x : Job) : (d.setJob j x).chans = d.chans := rfl
@[simp] theorem Dev.setJob_hf (d : Dev) (j : Nat) (x : Job) : (d.setJob j x).hf = d.hf := rfl
@[simp] theorem Dev.setJob_remote (d : Dev) (j : Nat) (x : Job) : (d.setJob j x).remote = d.remote := rfl
@[simp] theorem Dev.setJob_mcs (d : Dev) (j : Nat) (x : Job) : (d.setJob j x).mcs = d.mcs := rfl
@[simp] theorem Dev.setJob_iommu (d : Dev) (j : Nat) (x : Job) : (d.setJob j x).iommu = d.iommu := rfl
@[simp] theorem Dev.setJob_tk (d : Dev) (j : Nat) (x : Job) : (d.setJob j x).tk = d.tk := rfl
@[simp] theorem Dev.setJob_part (d : Dev) (j : Nat) (x : Job) : (d.setJob j x).part = d.part := rfl
@[simp] theorem Dev.setJob_boot (d : Dev) (j : Nat) (x : Job) : (d.setJob j x).boot = d.boot := rfl
@[simp] theorem Dev.setJob_cnt (d : Dev) (j : Nat) (x : Job) : (d.setJob j x).cnt = d.cnt := rfl
@[simp] theorem Dev.setJob_dimms (d : Dev) (j : Nat) (x : Job) : (d.setJob j x).dimms = d.dimms := rfl
@[simp] theorem Dev.setJob_pins (d : Dev) (j : Nat) (x : Job) : (d.setJob j x).pins = d.pins := rfl
@[simp] theorem Dev.setJob_power (d : Dev) (j : Nat) (x : Job) : (d.setJob j x).power = d.power := rfl
@[simp] theorem Dev.setJob_aplic (d : Dev) (j : Nat) (x : Job) : (d.setJob j x).aplic = d.aplic := rfl
@[simp] theorem Dev.setJob_arb (d : Dev) (j : Nat) (x : Job) : (d.setJob j x).arb = d.arb := rfl
@[simp] theorem Dev.setJob_resetting (d : Dev) (j : Nat) (x : Job) : (d.setJob j x).resetting = d.resetting := rfl
@[simp] theorem Dev.setJob_jtag (d : Dev) (j : Nat) (x : Job) : (d.setJob j x).jtag = d.jtag := rfl
@[simp] theorem Dev.setJob_fuses (d : Dev) (j : Nat) (x : Job) : (d.setJob j x).fuses = d.fuses := rfl
@[simp] theorem Dev.setJob_latch (d : Dev) (j : Nat) (x : Job) : (d.setJob j x).latch = d.latch := rfl
@[simp] theorem Dev.setJob_flash (d : Dev) (j : Nat) (x : Job) : (d.setJob j x).flash = d.flash := rfl
@[simp] theorem Dev.setJob_flashBad (d : Dev) (j : Nat) (x : Job) : (d.setJob j x).flashBad = d.flashBad := rfl
@[simp] theorem Dev.setJob_flashMode (d : Dev) (j : Nat) (x : Job) : (d.setJob j x).flashMode = d.flashMode := rfl
@[simp] theorem Dev.setJob_fresh (d : Dev) (j : Nat) (x : Job) : (d.setJob j x).fresh = d.fresh := rfl

@[simp] theorem Dev.setEng_regs (d : Dev) (e : Nat) (x : Eng) : (d.setEng e x).regs = d.regs := rfl
@[simp] theorem Dev.setEng_doms (d : Dev) (e : Nat) (x : Eng) : (d.setEng e x).doms = d.doms := rfl
@[simp] theorem Dev.setEng_units (d : Dev) (e : Nat) (x : Eng) : (d.setEng e x).units = d.units := rfl
@[simp] theorem Dev.setEng_mem (d : Dev) (e : Nat) (x : Eng) : (d.setEng e x).mem = d.mem := rfl
@[simp] theorem Dev.setEng_marks (d : Dev) (e : Nat) (x : Eng) : (d.setEng e x).marks = d.marks := rfl
@[simp] theorem Dev.setEng_clock (d : Dev) (e : Nat) (x : Eng) : (d.setEng e x).clock = d.clock := rfl
@[simp] theorem Dev.setEng_harts (d : Dev) (e : Nat) (x : Eng) : (d.setEng e x).harts = d.harts := rfl
@[simp] theorem Dev.setEng_insts (d : Dev) (e : Nat) (x : Eng) : (d.setEng e x).insts = d.insts := rfl
@[simp] theorem Dev.setEng_jobs (d : Dev) (e : Nat) (x : Eng) : (d.setEng e x).jobs = d.jobs := rfl
@[simp] theorem Dev.setEng_nextJob (d : Dev) (e : Nat) (x : Eng) : (d.setEng e x).nextJob = d.nextJob := rfl
@[simp] theorem Dev.setEng_slots (d : Dev) (e : Nat) (x : Eng) : (d.setEng e x).slots = d.slots := rfl
@[simp] theorem Dev.setEng_moves (d : Dev) (e : Nat) (x : Eng) : (d.setEng e x).moves = d.moves := rfl
@[simp] theorem Dev.setEng_mgmt (d : Dev) (e : Nat) (x : Eng) : (d.setEng e x).mgmt = d.mgmt := rfl
@[simp] theorem Dev.setEng_attKeys (d : Dev) (e : Nat) (x : Eng) : (d.setEng e x).attKeys = d.attKeys := rfl
@[simp] theorem Dev.setEng_ks (d : Dev) (e : Nat) (x : Eng) : (d.setEng e x).ks = d.ks := rfl
@[simp] theorem Dev.setEng_jns (d : Dev) (e : Nat) (x : Eng) : (d.setEng e x).jns = d.jns := rfl
@[simp] theorem Dev.setEng_ck (d : Dev) (e : Nat) (x : Eng) : (d.setEng e x).ck = d.ck := rfl
@[simp] theorem Dev.setEng_drbgs (d : Dev) (e : Nat) (x : Eng) : (d.setEng e x).drbgs = d.drbgs := rfl
@[simp] theorem Dev.setEng_sides (d : Dev) (e : Nat) (x : Eng) : (d.setEng e x).sides = d.sides := rfl
@[simp] theorem Dev.setEng_tcache (d : Dev) (e : Nat) (x : Eng) : (d.setEng e x).tcache = d.tcache := rfl
@[simp] theorem Dev.setEng_dfSaved (d : Dev) (e : Nat) (x : Eng) : (d.setEng e x).dfSaved = d.dfSaved := rfl
@[simp] theorem Dev.setEng_paused (d : Dev) (e : Nat) (x : Eng) : (d.setEng e x).paused = d.paused := rfl
@[simp] theorem Dev.setEng_ring (d : Dev) (e : Nat) (x : Eng) : (d.setEng e x).ring = d.ring := rfl
@[simp] theorem Dev.setEng_mbox (d : Dev) (e : Nat) (x : Eng) : (d.setEng e x).mbox = d.mbox := rfl
@[simp] theorem Dev.setEng_staged (d : Dev) (e : Nat) (x : Eng) : (d.setEng e x).staged = d.staged := rfl
@[simp] theorem Dev.setEng_resp (d : Dev) (e : Nat) (x : Eng) : (d.setEng e x).resp = d.resp := rfl
@[simp] theorem Dev.setEng_waiting (d : Dev) (e : Nat) (x : Eng) : (d.setEng e x).waiting = d.waiting := rfl
@[simp] theorem Dev.setEng_fus (d : Dev) (e : Nat) (x : Eng) : (d.setEng e x).fus = d.fus := rfl
@[simp] theorem Dev.setEng_homes (d : Dev) (e : Nat) (x : Eng) : (d.setEng e x).homes = d.homes := rfl
@[simp] theorem Dev.setEng_pewter (d : Dev) (e : Nat) (x : Eng) : (d.setEng e x).pewter = d.pewter := rfl
@[simp] theorem Dev.setEng_pwJob (d : Dev) (e : Nat) (x : Eng) : (d.setEng e x).pwJob = d.pwJob := rfl
@[simp] theorem Dev.setEng_filters (d : Dev) (e : Nat) (x : Eng) : (d.setEng e x).filters = d.filters := rfl
@[simp] theorem Dev.setEng_fab (d : Dev) (e : Nat) (x : Eng) : (d.setEng e x).fab = d.fab := rfl
@[simp] theorem Dev.setEng_adapters (d : Dev) (e : Nat) (x : Eng) : (d.setEng e x).adapters = d.adapters := rfl
@[simp] theorem Dev.setEng_chans (d : Dev) (e : Nat) (x : Eng) : (d.setEng e x).chans = d.chans := rfl
@[simp] theorem Dev.setEng_hf (d : Dev) (e : Nat) (x : Eng) : (d.setEng e x).hf = d.hf := rfl
@[simp] theorem Dev.setEng_remote (d : Dev) (e : Nat) (x : Eng) : (d.setEng e x).remote = d.remote := rfl
@[simp] theorem Dev.setEng_mcs (d : Dev) (e : Nat) (x : Eng) : (d.setEng e x).mcs = d.mcs := rfl
@[simp] theorem Dev.setEng_iommu (d : Dev) (e : Nat) (x : Eng) : (d.setEng e x).iommu = d.iommu := rfl
@[simp] theorem Dev.setEng_tk (d : Dev) (e : Nat) (x : Eng) : (d.setEng e x).tk = d.tk := rfl
@[simp] theorem Dev.setEng_part (d : Dev) (e : Nat) (x : Eng) : (d.setEng e x).part = d.part := rfl
@[simp] theorem Dev.setEng_boot (d : Dev) (e : Nat) (x : Eng) : (d.setEng e x).boot = d.boot := rfl
@[simp] theorem Dev.setEng_cnt (d : Dev) (e : Nat) (x : Eng) : (d.setEng e x).cnt = d.cnt := rfl
@[simp] theorem Dev.setEng_dimms (d : Dev) (e : Nat) (x : Eng) : (d.setEng e x).dimms = d.dimms := rfl
@[simp] theorem Dev.setEng_pins (d : Dev) (e : Nat) (x : Eng) : (d.setEng e x).pins = d.pins := rfl
@[simp] theorem Dev.setEng_power (d : Dev) (e : Nat) (x : Eng) : (d.setEng e x).power = d.power := rfl
@[simp] theorem Dev.setEng_aplic (d : Dev) (e : Nat) (x : Eng) : (d.setEng e x).aplic = d.aplic := rfl
@[simp] theorem Dev.setEng_arb (d : Dev) (e : Nat) (x : Eng) : (d.setEng e x).arb = d.arb := rfl
@[simp] theorem Dev.setEng_resetting (d : Dev) (e : Nat) (x : Eng) : (d.setEng e x).resetting = d.resetting := rfl
@[simp] theorem Dev.setEng_jtag (d : Dev) (e : Nat) (x : Eng) : (d.setEng e x).jtag = d.jtag := rfl
@[simp] theorem Dev.setEng_fuses (d : Dev) (e : Nat) (x : Eng) : (d.setEng e x).fuses = d.fuses := rfl
@[simp] theorem Dev.setEng_latch (d : Dev) (e : Nat) (x : Eng) : (d.setEng e x).latch = d.latch := rfl
@[simp] theorem Dev.setEng_flash (d : Dev) (e : Nat) (x : Eng) : (d.setEng e x).flash = d.flash := rfl
@[simp] theorem Dev.setEng_flashBad (d : Dev) (e : Nat) (x : Eng) : (d.setEng e x).flashBad = d.flashBad := rfl
@[simp] theorem Dev.setEng_flashMode (d : Dev) (e : Nat) (x : Eng) : (d.setEng e x).flashMode = d.flashMode := rfl
@[simp] theorem Dev.setEng_fresh (d : Dev) (e : Nat) (x : Eng) : (d.setEng e x).fresh = d.fresh := rfl

@[simp] theorem Dev.setJournal_regs (d : Dev) (b : Nat) (x : Journal) : (d.setJournal b x).regs = d.regs := rfl
@[simp] theorem Dev.setJournal_doms (d : Dev) (b : Nat) (x : Journal) : (d.setJournal b x).doms = d.doms := rfl
@[simp] theorem Dev.setJournal_units (d : Dev) (b : Nat) (x : Journal) : (d.setJournal b x).units = d.units := rfl
@[simp] theorem Dev.setJournal_mem (d : Dev) (b : Nat) (x : Journal) : (d.setJournal b x).mem = d.mem := rfl
@[simp] theorem Dev.setJournal_marks (d : Dev) (b : Nat) (x : Journal) : (d.setJournal b x).marks = d.marks := rfl
@[simp] theorem Dev.setJournal_clock (d : Dev) (b : Nat) (x : Journal) : (d.setJournal b x).clock = d.clock := rfl
@[simp] theorem Dev.setJournal_harts (d : Dev) (b : Nat) (x : Journal) : (d.setJournal b x).harts = d.harts := rfl
@[simp] theorem Dev.setJournal_insts (d : Dev) (b : Nat) (x : Journal) : (d.setJournal b x).insts = d.insts := rfl
@[simp] theorem Dev.setJournal_jobs (d : Dev) (b : Nat) (x : Journal) : (d.setJournal b x).jobs = d.jobs := rfl
@[simp] theorem Dev.setJournal_nextJob (d : Dev) (b : Nat) (x : Journal) : (d.setJournal b x).nextJob = d.nextJob := rfl
@[simp] theorem Dev.setJournal_slots (d : Dev) (b : Nat) (x : Journal) : (d.setJournal b x).slots = d.slots := rfl
@[simp] theorem Dev.setJournal_moves (d : Dev) (b : Nat) (x : Journal) : (d.setJournal b x).moves = d.moves := rfl
@[simp] theorem Dev.setJournal_engs (d : Dev) (b : Nat) (x : Journal) : (d.setJournal b x).engs = d.engs := rfl
@[simp] theorem Dev.setJournal_mgmt (d : Dev) (b : Nat) (x : Journal) : (d.setJournal b x).mgmt = d.mgmt := rfl
@[simp] theorem Dev.setJournal_attKeys (d : Dev) (b : Nat) (x : Journal) : (d.setJournal b x).attKeys = d.attKeys := rfl
@[simp] theorem Dev.setJournal_ks (d : Dev) (b : Nat) (x : Journal) : (d.setJournal b x).ks = d.ks := rfl
@[simp] theorem Dev.setJournal_ck (d : Dev) (b : Nat) (x : Journal) : (d.setJournal b x).ck = d.ck := rfl
@[simp] theorem Dev.setJournal_drbgs (d : Dev) (b : Nat) (x : Journal) : (d.setJournal b x).drbgs = d.drbgs := rfl
@[simp] theorem Dev.setJournal_sides (d : Dev) (b : Nat) (x : Journal) : (d.setJournal b x).sides = d.sides := rfl
@[simp] theorem Dev.setJournal_tcache (d : Dev) (b : Nat) (x : Journal) : (d.setJournal b x).tcache = d.tcache := rfl
@[simp] theorem Dev.setJournal_dfSaved (d : Dev) (b : Nat) (x : Journal) : (d.setJournal b x).dfSaved = d.dfSaved := rfl
@[simp] theorem Dev.setJournal_paused (d : Dev) (b : Nat) (x : Journal) : (d.setJournal b x).paused = d.paused := rfl
@[simp] theorem Dev.setJournal_ring (d : Dev) (b : Nat) (x : Journal) : (d.setJournal b x).ring = d.ring := rfl
@[simp] theorem Dev.setJournal_mbox (d : Dev) (b : Nat) (x : Journal) : (d.setJournal b x).mbox = d.mbox := rfl
@[simp] theorem Dev.setJournal_staged (d : Dev) (b : Nat) (x : Journal) : (d.setJournal b x).staged = d.staged := rfl
@[simp] theorem Dev.setJournal_resp (d : Dev) (b : Nat) (x : Journal) : (d.setJournal b x).resp = d.resp := rfl
@[simp] theorem Dev.setJournal_waiting (d : Dev) (b : Nat) (x : Journal) : (d.setJournal b x).waiting = d.waiting := rfl
@[simp] theorem Dev.setJournal_fus (d : Dev) (b : Nat) (x : Journal) : (d.setJournal b x).fus = d.fus := rfl
@[simp] theorem Dev.setJournal_homes (d : Dev) (b : Nat) (x : Journal) : (d.setJournal b x).homes = d.homes := rfl
@[simp] theorem Dev.setJournal_pewter (d : Dev) (b : Nat) (x : Journal) : (d.setJournal b x).pewter = d.pewter := rfl
@[simp] theorem Dev.setJournal_pwJob (d : Dev) (b : Nat) (x : Journal) : (d.setJournal b x).pwJob = d.pwJob := rfl
@[simp] theorem Dev.setJournal_filters (d : Dev) (b : Nat) (x : Journal) : (d.setJournal b x).filters = d.filters := rfl
@[simp] theorem Dev.setJournal_fab (d : Dev) (b : Nat) (x : Journal) : (d.setJournal b x).fab = d.fab := rfl
@[simp] theorem Dev.setJournal_adapters (d : Dev) (b : Nat) (x : Journal) : (d.setJournal b x).adapters = d.adapters := rfl
@[simp] theorem Dev.setJournal_chans (d : Dev) (b : Nat) (x : Journal) : (d.setJournal b x).chans = d.chans := rfl
@[simp] theorem Dev.setJournal_hf (d : Dev) (b : Nat) (x : Journal) : (d.setJournal b x).hf = d.hf := rfl
@[simp] theorem Dev.setJournal_remote (d : Dev) (b : Nat) (x : Journal) : (d.setJournal b x).remote = d.remote := rfl
@[simp] theorem Dev.setJournal_mcs (d : Dev) (b : Nat) (x : Journal) : (d.setJournal b x).mcs = d.mcs := rfl
@[simp] theorem Dev.setJournal_iommu (d : Dev) (b : Nat) (x : Journal) : (d.setJournal b x).iommu = d.iommu := rfl
@[simp] theorem Dev.setJournal_tk (d : Dev) (b : Nat) (x : Journal) : (d.setJournal b x).tk = d.tk := rfl
@[simp] theorem Dev.setJournal_part (d : Dev) (b : Nat) (x : Journal) : (d.setJournal b x).part = d.part := rfl
@[simp] theorem Dev.setJournal_boot (d : Dev) (b : Nat) (x : Journal) : (d.setJournal b x).boot = d.boot := rfl
@[simp] theorem Dev.setJournal_cnt (d : Dev) (b : Nat) (x : Journal) : (d.setJournal b x).cnt = d.cnt := rfl
@[simp] theorem Dev.setJournal_dimms (d : Dev) (b : Nat) (x : Journal) : (d.setJournal b x).dimms = d.dimms := rfl
@[simp] theorem Dev.setJournal_pins (d : Dev) (b : Nat) (x : Journal) : (d.setJournal b x).pins = d.pins := rfl
@[simp] theorem Dev.setJournal_power (d : Dev) (b : Nat) (x : Journal) : (d.setJournal b x).power = d.power := rfl
@[simp] theorem Dev.setJournal_aplic (d : Dev) (b : Nat) (x : Journal) : (d.setJournal b x).aplic = d.aplic := rfl
@[simp] theorem Dev.setJournal_arb (d : Dev) (b : Nat) (x : Journal) : (d.setJournal b x).arb = d.arb := rfl
@[simp] theorem Dev.setJournal_resetting (d : Dev) (b : Nat) (x : Journal) : (d.setJournal b x).resetting = d.resetting := rfl
@[simp] theorem Dev.setJournal_jtag (d : Dev) (b : Nat) (x : Journal) : (d.setJournal b x).jtag = d.jtag := rfl
@[simp] theorem Dev.setJournal_fuses (d : Dev) (b : Nat) (x : Journal) : (d.setJournal b x).fuses = d.fuses := rfl
@[simp] theorem Dev.setJournal_latch (d : Dev) (b : Nat) (x : Journal) : (d.setJournal b x).latch = d.latch := rfl
@[simp] theorem Dev.setJournal_flash (d : Dev) (b : Nat) (x : Journal) : (d.setJournal b x).flash = d.flash := rfl
@[simp] theorem Dev.setJournal_flashBad (d : Dev) (b : Nat) (x : Journal) : (d.setJournal b x).flashBad = d.flashBad := rfl
@[simp] theorem Dev.setJournal_flashMode (d : Dev) (b : Nat) (x : Journal) : (d.setJournal b x).flashMode = d.flashMode := rfl
@[simp] theorem Dev.setJournal_fresh (d : Dev) (b : Nat) (x : Journal) : (d.setJournal b x).fresh = d.fresh := rfl

@[simp] theorem Dev.setHome_regs (d : Dev) (s : Nat) (x : Home) : (d.setHome s x).regs = d.regs := rfl
@[simp] theorem Dev.setHome_doms (d : Dev) (s : Nat) (x : Home) : (d.setHome s x).doms = d.doms := rfl
@[simp] theorem Dev.setHome_units (d : Dev) (s : Nat) (x : Home) : (d.setHome s x).units = d.units := rfl
@[simp] theorem Dev.setHome_mem (d : Dev) (s : Nat) (x : Home) : (d.setHome s x).mem = d.mem := rfl
@[simp] theorem Dev.setHome_marks (d : Dev) (s : Nat) (x : Home) : (d.setHome s x).marks = d.marks := rfl
@[simp] theorem Dev.setHome_clock (d : Dev) (s : Nat) (x : Home) : (d.setHome s x).clock = d.clock := rfl
@[simp] theorem Dev.setHome_harts (d : Dev) (s : Nat) (x : Home) : (d.setHome s x).harts = d.harts := rfl
@[simp] theorem Dev.setHome_insts (d : Dev) (s : Nat) (x : Home) : (d.setHome s x).insts = d.insts := rfl
@[simp] theorem Dev.setHome_jobs (d : Dev) (s : Nat) (x : Home) : (d.setHome s x).jobs = d.jobs := rfl
@[simp] theorem Dev.setHome_nextJob (d : Dev) (s : Nat) (x : Home) : (d.setHome s x).nextJob = d.nextJob := rfl
@[simp] theorem Dev.setHome_slots (d : Dev) (s : Nat) (x : Home) : (d.setHome s x).slots = d.slots := rfl
@[simp] theorem Dev.setHome_moves (d : Dev) (s : Nat) (x : Home) : (d.setHome s x).moves = d.moves := rfl
@[simp] theorem Dev.setHome_engs (d : Dev) (s : Nat) (x : Home) : (d.setHome s x).engs = d.engs := rfl
@[simp] theorem Dev.setHome_mgmt (d : Dev) (s : Nat) (x : Home) : (d.setHome s x).mgmt = d.mgmt := rfl
@[simp] theorem Dev.setHome_attKeys (d : Dev) (s : Nat) (x : Home) : (d.setHome s x).attKeys = d.attKeys := rfl
@[simp] theorem Dev.setHome_ks (d : Dev) (s : Nat) (x : Home) : (d.setHome s x).ks = d.ks := rfl
@[simp] theorem Dev.setHome_jns (d : Dev) (s : Nat) (x : Home) : (d.setHome s x).jns = d.jns := rfl
@[simp] theorem Dev.setHome_ck (d : Dev) (s : Nat) (x : Home) : (d.setHome s x).ck = d.ck := rfl
@[simp] theorem Dev.setHome_drbgs (d : Dev) (s : Nat) (x : Home) : (d.setHome s x).drbgs = d.drbgs := rfl
@[simp] theorem Dev.setHome_sides (d : Dev) (s : Nat) (x : Home) : (d.setHome s x).sides = d.sides := rfl
@[simp] theorem Dev.setHome_tcache (d : Dev) (s : Nat) (x : Home) : (d.setHome s x).tcache = d.tcache := rfl
@[simp] theorem Dev.setHome_dfSaved (d : Dev) (s : Nat) (x : Home) : (d.setHome s x).dfSaved = d.dfSaved := rfl
@[simp] theorem Dev.setHome_paused (d : Dev) (s : Nat) (x : Home) : (d.setHome s x).paused = d.paused := rfl
@[simp] theorem Dev.setHome_ring (d : Dev) (s : Nat) (x : Home) : (d.setHome s x).ring = d.ring := rfl
@[simp] theorem Dev.setHome_mbox (d : Dev) (s : Nat) (x : Home) : (d.setHome s x).mbox = d.mbox := rfl
@[simp] theorem Dev.setHome_staged (d : Dev) (s : Nat) (x : Home) : (d.setHome s x).staged = d.staged := rfl
@[simp] theorem Dev.setHome_resp (d : Dev) (s : Nat) (x : Home) : (d.setHome s x).resp = d.resp := rfl
@[simp] theorem Dev.setHome_waiting (d : Dev) (s : Nat) (x : Home) : (d.setHome s x).waiting = d.waiting := rfl
@[simp] theorem Dev.setHome_fus (d : Dev) (s : Nat) (x : Home) : (d.setHome s x).fus = d.fus := rfl
@[simp] theorem Dev.setHome_pewter (d : Dev) (s : Nat) (x : Home) : (d.setHome s x).pewter = d.pewter := rfl
@[simp] theorem Dev.setHome_pwJob (d : Dev) (s : Nat) (x : Home) : (d.setHome s x).pwJob = d.pwJob := rfl
@[simp] theorem Dev.setHome_filters (d : Dev) (s : Nat) (x : Home) : (d.setHome s x).filters = d.filters := rfl
@[simp] theorem Dev.setHome_fab (d : Dev) (s : Nat) (x : Home) : (d.setHome s x).fab = d.fab := rfl
@[simp] theorem Dev.setHome_adapters (d : Dev) (s : Nat) (x : Home) : (d.setHome s x).adapters = d.adapters := rfl
@[simp] theorem Dev.setHome_chans (d : Dev) (s : Nat) (x : Home) : (d.setHome s x).chans = d.chans := rfl
@[simp] theorem Dev.setHome_hf (d : Dev) (s : Nat) (x : Home) : (d.setHome s x).hf = d.hf := rfl
@[simp] theorem Dev.setHome_remote (d : Dev) (s : Nat) (x : Home) : (d.setHome s x).remote = d.remote := rfl
@[simp] theorem Dev.setHome_mcs (d : Dev) (s : Nat) (x : Home) : (d.setHome s x).mcs = d.mcs := rfl
@[simp] theorem Dev.setHome_iommu (d : Dev) (s : Nat) (x : Home) : (d.setHome s x).iommu = d.iommu := rfl
@[simp] theorem Dev.setHome_tk (d : Dev) (s : Nat) (x : Home) : (d.setHome s x).tk = d.tk := rfl
@[simp] theorem Dev.setHome_part (d : Dev) (s : Nat) (x : Home) : (d.setHome s x).part = d.part := rfl
@[simp] theorem Dev.setHome_boot (d : Dev) (s : Nat) (x : Home) : (d.setHome s x).boot = d.boot := rfl
@[simp] theorem Dev.setHome_cnt (d : Dev) (s : Nat) (x : Home) : (d.setHome s x).cnt = d.cnt := rfl
@[simp] theorem Dev.setHome_dimms (d : Dev) (s : Nat) (x : Home) : (d.setHome s x).dimms = d.dimms := rfl
@[simp] theorem Dev.setHome_pins (d : Dev) (s : Nat) (x : Home) : (d.setHome s x).pins = d.pins := rfl
@[simp] theorem Dev.setHome_power (d : Dev) (s : Nat) (x : Home) : (d.setHome s x).power = d.power := rfl
@[simp] theorem Dev.setHome_aplic (d : Dev) (s : Nat) (x : Home) : (d.setHome s x).aplic = d.aplic := rfl
@[simp] theorem Dev.setHome_arb (d : Dev) (s : Nat) (x : Home) : (d.setHome s x).arb = d.arb := rfl
@[simp] theorem Dev.setHome_resetting (d : Dev) (s : Nat) (x : Home) : (d.setHome s x).resetting = d.resetting := rfl
@[simp] theorem Dev.setHome_jtag (d : Dev) (s : Nat) (x : Home) : (d.setHome s x).jtag = d.jtag := rfl
@[simp] theorem Dev.setHome_fuses (d : Dev) (s : Nat) (x : Home) : (d.setHome s x).fuses = d.fuses := rfl
@[simp] theorem Dev.setHome_latch (d : Dev) (s : Nat) (x : Home) : (d.setHome s x).latch = d.latch := rfl
@[simp] theorem Dev.setHome_flash (d : Dev) (s : Nat) (x : Home) : (d.setHome s x).flash = d.flash := rfl
@[simp] theorem Dev.setHome_flashBad (d : Dev) (s : Nat) (x : Home) : (d.setHome s x).flashBad = d.flashBad := rfl
@[simp] theorem Dev.setHome_flashMode (d : Dev) (s : Nat) (x : Home) : (d.setHome s x).flashMode = d.flashMode := rfl
@[simp] theorem Dev.setHome_fresh (d : Dev) (s : Nat) (x : Home) : (d.setHome s x).fresh = d.fresh := rfl

@[simp] theorem Dev.setRouter_regs (d : Dev) (n : Nat) (x : Router) : (d.setRouter n x).regs = d.regs := rfl
@[simp] theorem Dev.setRouter_doms (d : Dev) (n : Nat) (x : Router) : (d.setRouter n x).doms = d.doms := rfl
@[simp] theorem Dev.setRouter_units (d : Dev) (n : Nat) (x : Router) : (d.setRouter n x).units = d.units := rfl
@[simp] theorem Dev.setRouter_mem (d : Dev) (n : Nat) (x : Router) : (d.setRouter n x).mem = d.mem := rfl
@[simp] theorem Dev.setRouter_marks (d : Dev) (n : Nat) (x : Router) : (d.setRouter n x).marks = d.marks := rfl
@[simp] theorem Dev.setRouter_clock (d : Dev) (n : Nat) (x : Router) : (d.setRouter n x).clock = d.clock := rfl
@[simp] theorem Dev.setRouter_harts (d : Dev) (n : Nat) (x : Router) : (d.setRouter n x).harts = d.harts := rfl
@[simp] theorem Dev.setRouter_insts (d : Dev) (n : Nat) (x : Router) : (d.setRouter n x).insts = d.insts := rfl
@[simp] theorem Dev.setRouter_jobs (d : Dev) (n : Nat) (x : Router) : (d.setRouter n x).jobs = d.jobs := rfl
@[simp] theorem Dev.setRouter_nextJob (d : Dev) (n : Nat) (x : Router) : (d.setRouter n x).nextJob = d.nextJob := rfl
@[simp] theorem Dev.setRouter_slots (d : Dev) (n : Nat) (x : Router) : (d.setRouter n x).slots = d.slots := rfl
@[simp] theorem Dev.setRouter_moves (d : Dev) (n : Nat) (x : Router) : (d.setRouter n x).moves = d.moves := rfl
@[simp] theorem Dev.setRouter_engs (d : Dev) (n : Nat) (x : Router) : (d.setRouter n x).engs = d.engs := rfl
@[simp] theorem Dev.setRouter_mgmt (d : Dev) (n : Nat) (x : Router) : (d.setRouter n x).mgmt = d.mgmt := rfl
@[simp] theorem Dev.setRouter_attKeys (d : Dev) (n : Nat) (x : Router) : (d.setRouter n x).attKeys = d.attKeys := rfl
@[simp] theorem Dev.setRouter_ks (d : Dev) (n : Nat) (x : Router) : (d.setRouter n x).ks = d.ks := rfl
@[simp] theorem Dev.setRouter_jns (d : Dev) (n : Nat) (x : Router) : (d.setRouter n x).jns = d.jns := rfl
@[simp] theorem Dev.setRouter_ck (d : Dev) (n : Nat) (x : Router) : (d.setRouter n x).ck = d.ck := rfl
@[simp] theorem Dev.setRouter_drbgs (d : Dev) (n : Nat) (x : Router) : (d.setRouter n x).drbgs = d.drbgs := rfl
@[simp] theorem Dev.setRouter_sides (d : Dev) (n : Nat) (x : Router) : (d.setRouter n x).sides = d.sides := rfl
@[simp] theorem Dev.setRouter_tcache (d : Dev) (n : Nat) (x : Router) : (d.setRouter n x).tcache = d.tcache := rfl
@[simp] theorem Dev.setRouter_dfSaved (d : Dev) (n : Nat) (x : Router) : (d.setRouter n x).dfSaved = d.dfSaved := rfl
@[simp] theorem Dev.setRouter_paused (d : Dev) (n : Nat) (x : Router) : (d.setRouter n x).paused = d.paused := rfl
@[simp] theorem Dev.setRouter_ring (d : Dev) (n : Nat) (x : Router) : (d.setRouter n x).ring = d.ring := rfl
@[simp] theorem Dev.setRouter_mbox (d : Dev) (n : Nat) (x : Router) : (d.setRouter n x).mbox = d.mbox := rfl
@[simp] theorem Dev.setRouter_staged (d : Dev) (n : Nat) (x : Router) : (d.setRouter n x).staged = d.staged := rfl
@[simp] theorem Dev.setRouter_resp (d : Dev) (n : Nat) (x : Router) : (d.setRouter n x).resp = d.resp := rfl
@[simp] theorem Dev.setRouter_waiting (d : Dev) (n : Nat) (x : Router) : (d.setRouter n x).waiting = d.waiting := rfl
@[simp] theorem Dev.setRouter_fus (d : Dev) (n : Nat) (x : Router) : (d.setRouter n x).fus = d.fus := rfl
@[simp] theorem Dev.setRouter_homes (d : Dev) (n : Nat) (x : Router) : (d.setRouter n x).homes = d.homes := rfl
@[simp] theorem Dev.setRouter_pewter (d : Dev) (n : Nat) (x : Router) : (d.setRouter n x).pewter = d.pewter := rfl
@[simp] theorem Dev.setRouter_pwJob (d : Dev) (n : Nat) (x : Router) : (d.setRouter n x).pwJob = d.pwJob := rfl
@[simp] theorem Dev.setRouter_filters (d : Dev) (n : Nat) (x : Router) : (d.setRouter n x).filters = d.filters := rfl
@[simp] theorem Dev.setRouter_adapters (d : Dev) (n : Nat) (x : Router) : (d.setRouter n x).adapters = d.adapters := rfl
@[simp] theorem Dev.setRouter_chans (d : Dev) (n : Nat) (x : Router) : (d.setRouter n x).chans = d.chans := rfl
@[simp] theorem Dev.setRouter_hf (d : Dev) (n : Nat) (x : Router) : (d.setRouter n x).hf = d.hf := rfl
@[simp] theorem Dev.setRouter_remote (d : Dev) (n : Nat) (x : Router) : (d.setRouter n x).remote = d.remote := rfl
@[simp] theorem Dev.setRouter_mcs (d : Dev) (n : Nat) (x : Router) : (d.setRouter n x).mcs = d.mcs := rfl
@[simp] theorem Dev.setRouter_iommu (d : Dev) (n : Nat) (x : Router) : (d.setRouter n x).iommu = d.iommu := rfl
@[simp] theorem Dev.setRouter_tk (d : Dev) (n : Nat) (x : Router) : (d.setRouter n x).tk = d.tk := rfl
@[simp] theorem Dev.setRouter_part (d : Dev) (n : Nat) (x : Router) : (d.setRouter n x).part = d.part := rfl
@[simp] theorem Dev.setRouter_boot (d : Dev) (n : Nat) (x : Router) : (d.setRouter n x).boot = d.boot := rfl
@[simp] theorem Dev.setRouter_cnt (d : Dev) (n : Nat) (x : Router) : (d.setRouter n x).cnt = d.cnt := rfl
@[simp] theorem Dev.setRouter_dimms (d : Dev) (n : Nat) (x : Router) : (d.setRouter n x).dimms = d.dimms := rfl
@[simp] theorem Dev.setRouter_pins (d : Dev) (n : Nat) (x : Router) : (d.setRouter n x).pins = d.pins := rfl
@[simp] theorem Dev.setRouter_power (d : Dev) (n : Nat) (x : Router) : (d.setRouter n x).power = d.power := rfl
@[simp] theorem Dev.setRouter_aplic (d : Dev) (n : Nat) (x : Router) : (d.setRouter n x).aplic = d.aplic := rfl
@[simp] theorem Dev.setRouter_arb (d : Dev) (n : Nat) (x : Router) : (d.setRouter n x).arb = d.arb := rfl
@[simp] theorem Dev.setRouter_resetting (d : Dev) (n : Nat) (x : Router) : (d.setRouter n x).resetting = d.resetting := rfl
@[simp] theorem Dev.setRouter_jtag (d : Dev) (n : Nat) (x : Router) : (d.setRouter n x).jtag = d.jtag := rfl
@[simp] theorem Dev.setRouter_fuses (d : Dev) (n : Nat) (x : Router) : (d.setRouter n x).fuses = d.fuses := rfl
@[simp] theorem Dev.setRouter_latch (d : Dev) (n : Nat) (x : Router) : (d.setRouter n x).latch = d.latch := rfl
@[simp] theorem Dev.setRouter_flash (d : Dev) (n : Nat) (x : Router) : (d.setRouter n x).flash = d.flash := rfl
@[simp] theorem Dev.setRouter_flashBad (d : Dev) (n : Nat) (x : Router) : (d.setRouter n x).flashBad = d.flashBad := rfl
@[simp] theorem Dev.setRouter_flashMode (d : Dev) (n : Nat) (x : Router) : (d.setRouter n x).flashMode = d.flashMode := rfl
@[simp] theorem Dev.setRouter_fresh (d : Dev) (n : Nat) (x : Router) : (d.setRouter n x).fresh = d.fresh := rfl

@[simp] theorem Dev.setAdapter_regs (d : Dev) (a : Nat) (x : Adapter) : (d.setAdapter a x).regs = d.regs := rfl
@[simp] theorem Dev.setAdapter_doms (d : Dev) (a : Nat) (x : Adapter) : (d.setAdapter a x).doms = d.doms := rfl
@[simp] theorem Dev.setAdapter_units (d : Dev) (a : Nat) (x : Adapter) : (d.setAdapter a x).units = d.units := rfl
@[simp] theorem Dev.setAdapter_mem (d : Dev) (a : Nat) (x : Adapter) : (d.setAdapter a x).mem = d.mem := rfl
@[simp] theorem Dev.setAdapter_marks (d : Dev) (a : Nat) (x : Adapter) : (d.setAdapter a x).marks = d.marks := rfl
@[simp] theorem Dev.setAdapter_clock (d : Dev) (a : Nat) (x : Adapter) : (d.setAdapter a x).clock = d.clock := rfl
@[simp] theorem Dev.setAdapter_harts (d : Dev) (a : Nat) (x : Adapter) : (d.setAdapter a x).harts = d.harts := rfl
@[simp] theorem Dev.setAdapter_insts (d : Dev) (a : Nat) (x : Adapter) : (d.setAdapter a x).insts = d.insts := rfl
@[simp] theorem Dev.setAdapter_jobs (d : Dev) (a : Nat) (x : Adapter) : (d.setAdapter a x).jobs = d.jobs := rfl
@[simp] theorem Dev.setAdapter_nextJob (d : Dev) (a : Nat) (x : Adapter) : (d.setAdapter a x).nextJob = d.nextJob := rfl
@[simp] theorem Dev.setAdapter_slots (d : Dev) (a : Nat) (x : Adapter) : (d.setAdapter a x).slots = d.slots := rfl
@[simp] theorem Dev.setAdapter_moves (d : Dev) (a : Nat) (x : Adapter) : (d.setAdapter a x).moves = d.moves := rfl
@[simp] theorem Dev.setAdapter_engs (d : Dev) (a : Nat) (x : Adapter) : (d.setAdapter a x).engs = d.engs := rfl
@[simp] theorem Dev.setAdapter_mgmt (d : Dev) (a : Nat) (x : Adapter) : (d.setAdapter a x).mgmt = d.mgmt := rfl
@[simp] theorem Dev.setAdapter_attKeys (d : Dev) (a : Nat) (x : Adapter) : (d.setAdapter a x).attKeys = d.attKeys := rfl
@[simp] theorem Dev.setAdapter_ks (d : Dev) (a : Nat) (x : Adapter) : (d.setAdapter a x).ks = d.ks := rfl
@[simp] theorem Dev.setAdapter_jns (d : Dev) (a : Nat) (x : Adapter) : (d.setAdapter a x).jns = d.jns := rfl
@[simp] theorem Dev.setAdapter_ck (d : Dev) (a : Nat) (x : Adapter) : (d.setAdapter a x).ck = d.ck := rfl
@[simp] theorem Dev.setAdapter_drbgs (d : Dev) (a : Nat) (x : Adapter) : (d.setAdapter a x).drbgs = d.drbgs := rfl
@[simp] theorem Dev.setAdapter_sides (d : Dev) (a : Nat) (x : Adapter) : (d.setAdapter a x).sides = d.sides := rfl
@[simp] theorem Dev.setAdapter_tcache (d : Dev) (a : Nat) (x : Adapter) : (d.setAdapter a x).tcache = d.tcache := rfl
@[simp] theorem Dev.setAdapter_dfSaved (d : Dev) (a : Nat) (x : Adapter) : (d.setAdapter a x).dfSaved = d.dfSaved := rfl
@[simp] theorem Dev.setAdapter_paused (d : Dev) (a : Nat) (x : Adapter) : (d.setAdapter a x).paused = d.paused := rfl
@[simp] theorem Dev.setAdapter_ring (d : Dev) (a : Nat) (x : Adapter) : (d.setAdapter a x).ring = d.ring := rfl
@[simp] theorem Dev.setAdapter_mbox (d : Dev) (a : Nat) (x : Adapter) : (d.setAdapter a x).mbox = d.mbox := rfl
@[simp] theorem Dev.setAdapter_staged (d : Dev) (a : Nat) (x : Adapter) : (d.setAdapter a x).staged = d.staged := rfl
@[simp] theorem Dev.setAdapter_resp (d : Dev) (a : Nat) (x : Adapter) : (d.setAdapter a x).resp = d.resp := rfl
@[simp] theorem Dev.setAdapter_waiting (d : Dev) (a : Nat) (x : Adapter) : (d.setAdapter a x).waiting = d.waiting := rfl
@[simp] theorem Dev.setAdapter_fus (d : Dev) (a : Nat) (x : Adapter) : (d.setAdapter a x).fus = d.fus := rfl
@[simp] theorem Dev.setAdapter_homes (d : Dev) (a : Nat) (x : Adapter) : (d.setAdapter a x).homes = d.homes := rfl
@[simp] theorem Dev.setAdapter_pewter (d : Dev) (a : Nat) (x : Adapter) : (d.setAdapter a x).pewter = d.pewter := rfl
@[simp] theorem Dev.setAdapter_pwJob (d : Dev) (a : Nat) (x : Adapter) : (d.setAdapter a x).pwJob = d.pwJob := rfl
@[simp] theorem Dev.setAdapter_filters (d : Dev) (a : Nat) (x : Adapter) : (d.setAdapter a x).filters = d.filters := rfl
@[simp] theorem Dev.setAdapter_fab (d : Dev) (a : Nat) (x : Adapter) : (d.setAdapter a x).fab = d.fab := rfl
@[simp] theorem Dev.setAdapter_chans (d : Dev) (a : Nat) (x : Adapter) : (d.setAdapter a x).chans = d.chans := rfl
@[simp] theorem Dev.setAdapter_hf (d : Dev) (a : Nat) (x : Adapter) : (d.setAdapter a x).hf = d.hf := rfl
@[simp] theorem Dev.setAdapter_remote (d : Dev) (a : Nat) (x : Adapter) : (d.setAdapter a x).remote = d.remote := rfl
@[simp] theorem Dev.setAdapter_mcs (d : Dev) (a : Nat) (x : Adapter) : (d.setAdapter a x).mcs = d.mcs := rfl
@[simp] theorem Dev.setAdapter_iommu (d : Dev) (a : Nat) (x : Adapter) : (d.setAdapter a x).iommu = d.iommu := rfl
@[simp] theorem Dev.setAdapter_tk (d : Dev) (a : Nat) (x : Adapter) : (d.setAdapter a x).tk = d.tk := rfl
@[simp] theorem Dev.setAdapter_part (d : Dev) (a : Nat) (x : Adapter) : (d.setAdapter a x).part = d.part := rfl
@[simp] theorem Dev.setAdapter_boot (d : Dev) (a : Nat) (x : Adapter) : (d.setAdapter a x).boot = d.boot := rfl
@[simp] theorem Dev.setAdapter_cnt (d : Dev) (a : Nat) (x : Adapter) : (d.setAdapter a x).cnt = d.cnt := rfl
@[simp] theorem Dev.setAdapter_dimms (d : Dev) (a : Nat) (x : Adapter) : (d.setAdapter a x).dimms = d.dimms := rfl
@[simp] theorem Dev.setAdapter_pins (d : Dev) (a : Nat) (x : Adapter) : (d.setAdapter a x).pins = d.pins := rfl
@[simp] theorem Dev.setAdapter_power (d : Dev) (a : Nat) (x : Adapter) : (d.setAdapter a x).power = d.power := rfl
@[simp] theorem Dev.setAdapter_aplic (d : Dev) (a : Nat) (x : Adapter) : (d.setAdapter a x).aplic = d.aplic := rfl
@[simp] theorem Dev.setAdapter_arb (d : Dev) (a : Nat) (x : Adapter) : (d.setAdapter a x).arb = d.arb := rfl
@[simp] theorem Dev.setAdapter_resetting (d : Dev) (a : Nat) (x : Adapter) : (d.setAdapter a x).resetting = d.resetting := rfl
@[simp] theorem Dev.setAdapter_jtag (d : Dev) (a : Nat) (x : Adapter) : (d.setAdapter a x).jtag = d.jtag := rfl
@[simp] theorem Dev.setAdapter_fuses (d : Dev) (a : Nat) (x : Adapter) : (d.setAdapter a x).fuses = d.fuses := rfl
@[simp] theorem Dev.setAdapter_latch (d : Dev) (a : Nat) (x : Adapter) : (d.setAdapter a x).latch = d.latch := rfl
@[simp] theorem Dev.setAdapter_flash (d : Dev) (a : Nat) (x : Adapter) : (d.setAdapter a x).flash = d.flash := rfl
@[simp] theorem Dev.setAdapter_flashBad (d : Dev) (a : Nat) (x : Adapter) : (d.setAdapter a x).flashBad = d.flashBad := rfl
@[simp] theorem Dev.setAdapter_flashMode (d : Dev) (a : Nat) (x : Adapter) : (d.setAdapter a x).flashMode = d.flashMode := rfl
@[simp] theorem Dev.setAdapter_fresh (d : Dev) (a : Nat) (x : Adapter) : (d.setAdapter a x).fresh = d.fresh := rfl

@[simp] theorem Dev.setChan_regs (d : Dev) (c : Nat) (x : Chan) : (d.setChan c x).regs = d.regs := rfl
@[simp] theorem Dev.setChan_doms (d : Dev) (c : Nat) (x : Chan) : (d.setChan c x).doms = d.doms := rfl
@[simp] theorem Dev.setChan_units (d : Dev) (c : Nat) (x : Chan) : (d.setChan c x).units = d.units := rfl
@[simp] theorem Dev.setChan_mem (d : Dev) (c : Nat) (x : Chan) : (d.setChan c x).mem = d.mem := rfl
@[simp] theorem Dev.setChan_marks (d : Dev) (c : Nat) (x : Chan) : (d.setChan c x).marks = d.marks := rfl
@[simp] theorem Dev.setChan_clock (d : Dev) (c : Nat) (x : Chan) : (d.setChan c x).clock = d.clock := rfl
@[simp] theorem Dev.setChan_harts (d : Dev) (c : Nat) (x : Chan) : (d.setChan c x).harts = d.harts := rfl
@[simp] theorem Dev.setChan_insts (d : Dev) (c : Nat) (x : Chan) : (d.setChan c x).insts = d.insts := rfl
@[simp] theorem Dev.setChan_jobs (d : Dev) (c : Nat) (x : Chan) : (d.setChan c x).jobs = d.jobs := rfl
@[simp] theorem Dev.setChan_nextJob (d : Dev) (c : Nat) (x : Chan) : (d.setChan c x).nextJob = d.nextJob := rfl
@[simp] theorem Dev.setChan_slots (d : Dev) (c : Nat) (x : Chan) : (d.setChan c x).slots = d.slots := rfl
@[simp] theorem Dev.setChan_moves (d : Dev) (c : Nat) (x : Chan) : (d.setChan c x).moves = d.moves := rfl
@[simp] theorem Dev.setChan_engs (d : Dev) (c : Nat) (x : Chan) : (d.setChan c x).engs = d.engs := rfl
@[simp] theorem Dev.setChan_mgmt (d : Dev) (c : Nat) (x : Chan) : (d.setChan c x).mgmt = d.mgmt := rfl
@[simp] theorem Dev.setChan_attKeys (d : Dev) (c : Nat) (x : Chan) : (d.setChan c x).attKeys = d.attKeys := rfl
@[simp] theorem Dev.setChan_ks (d : Dev) (c : Nat) (x : Chan) : (d.setChan c x).ks = d.ks := rfl
@[simp] theorem Dev.setChan_jns (d : Dev) (c : Nat) (x : Chan) : (d.setChan c x).jns = d.jns := rfl
@[simp] theorem Dev.setChan_ck (d : Dev) (c : Nat) (x : Chan) : (d.setChan c x).ck = d.ck := rfl
@[simp] theorem Dev.setChan_drbgs (d : Dev) (c : Nat) (x : Chan) : (d.setChan c x).drbgs = d.drbgs := rfl
@[simp] theorem Dev.setChan_sides (d : Dev) (c : Nat) (x : Chan) : (d.setChan c x).sides = d.sides := rfl
@[simp] theorem Dev.setChan_tcache (d : Dev) (c : Nat) (x : Chan) : (d.setChan c x).tcache = d.tcache := rfl
@[simp] theorem Dev.setChan_dfSaved (d : Dev) (c : Nat) (x : Chan) : (d.setChan c x).dfSaved = d.dfSaved := rfl
@[simp] theorem Dev.setChan_paused (d : Dev) (c : Nat) (x : Chan) : (d.setChan c x).paused = d.paused := rfl
@[simp] theorem Dev.setChan_ring (d : Dev) (c : Nat) (x : Chan) : (d.setChan c x).ring = d.ring := rfl
@[simp] theorem Dev.setChan_mbox (d : Dev) (c : Nat) (x : Chan) : (d.setChan c x).mbox = d.mbox := rfl
@[simp] theorem Dev.setChan_staged (d : Dev) (c : Nat) (x : Chan) : (d.setChan c x).staged = d.staged := rfl
@[simp] theorem Dev.setChan_resp (d : Dev) (c : Nat) (x : Chan) : (d.setChan c x).resp = d.resp := rfl
@[simp] theorem Dev.setChan_waiting (d : Dev) (c : Nat) (x : Chan) : (d.setChan c x).waiting = d.waiting := rfl
@[simp] theorem Dev.setChan_fus (d : Dev) (c : Nat) (x : Chan) : (d.setChan c x).fus = d.fus := rfl
@[simp] theorem Dev.setChan_homes (d : Dev) (c : Nat) (x : Chan) : (d.setChan c x).homes = d.homes := rfl
@[simp] theorem Dev.setChan_pewter (d : Dev) (c : Nat) (x : Chan) : (d.setChan c x).pewter = d.pewter := rfl
@[simp] theorem Dev.setChan_pwJob (d : Dev) (c : Nat) (x : Chan) : (d.setChan c x).pwJob = d.pwJob := rfl
@[simp] theorem Dev.setChan_filters (d : Dev) (c : Nat) (x : Chan) : (d.setChan c x).filters = d.filters := rfl
@[simp] theorem Dev.setChan_fab (d : Dev) (c : Nat) (x : Chan) : (d.setChan c x).fab = d.fab := rfl
@[simp] theorem Dev.setChan_adapters (d : Dev) (c : Nat) (x : Chan) : (d.setChan c x).adapters = d.adapters := rfl
@[simp] theorem Dev.setChan_hf (d : Dev) (c : Nat) (x : Chan) : (d.setChan c x).hf = d.hf := rfl
@[simp] theorem Dev.setChan_remote (d : Dev) (c : Nat) (x : Chan) : (d.setChan c x).remote = d.remote := rfl
@[simp] theorem Dev.setChan_mcs (d : Dev) (c : Nat) (x : Chan) : (d.setChan c x).mcs = d.mcs := rfl
@[simp] theorem Dev.setChan_iommu (d : Dev) (c : Nat) (x : Chan) : (d.setChan c x).iommu = d.iommu := rfl
@[simp] theorem Dev.setChan_tk (d : Dev) (c : Nat) (x : Chan) : (d.setChan c x).tk = d.tk := rfl
@[simp] theorem Dev.setChan_part (d : Dev) (c : Nat) (x : Chan) : (d.setChan c x).part = d.part := rfl
@[simp] theorem Dev.setChan_boot (d : Dev) (c : Nat) (x : Chan) : (d.setChan c x).boot = d.boot := rfl
@[simp] theorem Dev.setChan_cnt (d : Dev) (c : Nat) (x : Chan) : (d.setChan c x).cnt = d.cnt := rfl
@[simp] theorem Dev.setChan_dimms (d : Dev) (c : Nat) (x : Chan) : (d.setChan c x).dimms = d.dimms := rfl
@[simp] theorem Dev.setChan_pins (d : Dev) (c : Nat) (x : Chan) : (d.setChan c x).pins = d.pins := rfl
@[simp] theorem Dev.setChan_power (d : Dev) (c : Nat) (x : Chan) : (d.setChan c x).power = d.power := rfl
@[simp] theorem Dev.setChan_aplic (d : Dev) (c : Nat) (x : Chan) : (d.setChan c x).aplic = d.aplic := rfl
@[simp] theorem Dev.setChan_arb (d : Dev) (c : Nat) (x : Chan) : (d.setChan c x).arb = d.arb := rfl
@[simp] theorem Dev.setChan_resetting (d : Dev) (c : Nat) (x : Chan) : (d.setChan c x).resetting = d.resetting := rfl
@[simp] theorem Dev.setChan_jtag (d : Dev) (c : Nat) (x : Chan) : (d.setChan c x).jtag = d.jtag := rfl
@[simp] theorem Dev.setChan_fuses (d : Dev) (c : Nat) (x : Chan) : (d.setChan c x).fuses = d.fuses := rfl
@[simp] theorem Dev.setChan_latch (d : Dev) (c : Nat) (x : Chan) : (d.setChan c x).latch = d.latch := rfl
@[simp] theorem Dev.setChan_flash (d : Dev) (c : Nat) (x : Chan) : (d.setChan c x).flash = d.flash := rfl
@[simp] theorem Dev.setChan_flashBad (d : Dev) (c : Nat) (x : Chan) : (d.setChan c x).flashBad = d.flashBad := rfl
@[simp] theorem Dev.setChan_flashMode (d : Dev) (c : Nat) (x : Chan) : (d.setChan c x).flashMode = d.flashMode := rfl
@[simp] theorem Dev.setChan_fresh (d : Dev) (c : Nat) (x : Chan) : (d.setChan c x).fresh = d.fresh := rfl

@[simp] theorem Dev.setHfLink_regs (d : Dev) (l : Nat) (x : HfLink) : (d.setHfLink l x).regs = d.regs := rfl
@[simp] theorem Dev.setHfLink_doms (d : Dev) (l : Nat) (x : HfLink) : (d.setHfLink l x).doms = d.doms := rfl
@[simp] theorem Dev.setHfLink_units (d : Dev) (l : Nat) (x : HfLink) : (d.setHfLink l x).units = d.units := rfl
@[simp] theorem Dev.setHfLink_mem (d : Dev) (l : Nat) (x : HfLink) : (d.setHfLink l x).mem = d.mem := rfl
@[simp] theorem Dev.setHfLink_marks (d : Dev) (l : Nat) (x : HfLink) : (d.setHfLink l x).marks = d.marks := rfl
@[simp] theorem Dev.setHfLink_clock (d : Dev) (l : Nat) (x : HfLink) : (d.setHfLink l x).clock = d.clock := rfl
@[simp] theorem Dev.setHfLink_harts (d : Dev) (l : Nat) (x : HfLink) : (d.setHfLink l x).harts = d.harts := rfl
@[simp] theorem Dev.setHfLink_insts (d : Dev) (l : Nat) (x : HfLink) : (d.setHfLink l x).insts = d.insts := rfl
@[simp] theorem Dev.setHfLink_jobs (d : Dev) (l : Nat) (x : HfLink) : (d.setHfLink l x).jobs = d.jobs := rfl
@[simp] theorem Dev.setHfLink_nextJob (d : Dev) (l : Nat) (x : HfLink) : (d.setHfLink l x).nextJob = d.nextJob := rfl
@[simp] theorem Dev.setHfLink_slots (d : Dev) (l : Nat) (x : HfLink) : (d.setHfLink l x).slots = d.slots := rfl
@[simp] theorem Dev.setHfLink_moves (d : Dev) (l : Nat) (x : HfLink) : (d.setHfLink l x).moves = d.moves := rfl
@[simp] theorem Dev.setHfLink_engs (d : Dev) (l : Nat) (x : HfLink) : (d.setHfLink l x).engs = d.engs := rfl
@[simp] theorem Dev.setHfLink_mgmt (d : Dev) (l : Nat) (x : HfLink) : (d.setHfLink l x).mgmt = d.mgmt := rfl
@[simp] theorem Dev.setHfLink_attKeys (d : Dev) (l : Nat) (x : HfLink) : (d.setHfLink l x).attKeys = d.attKeys := rfl
@[simp] theorem Dev.setHfLink_ks (d : Dev) (l : Nat) (x : HfLink) : (d.setHfLink l x).ks = d.ks := rfl
@[simp] theorem Dev.setHfLink_jns (d : Dev) (l : Nat) (x : HfLink) : (d.setHfLink l x).jns = d.jns := rfl
@[simp] theorem Dev.setHfLink_ck (d : Dev) (l : Nat) (x : HfLink) : (d.setHfLink l x).ck = d.ck := rfl
@[simp] theorem Dev.setHfLink_drbgs (d : Dev) (l : Nat) (x : HfLink) : (d.setHfLink l x).drbgs = d.drbgs := rfl
@[simp] theorem Dev.setHfLink_sides (d : Dev) (l : Nat) (x : HfLink) : (d.setHfLink l x).sides = d.sides := rfl
@[simp] theorem Dev.setHfLink_tcache (d : Dev) (l : Nat) (x : HfLink) : (d.setHfLink l x).tcache = d.tcache := rfl
@[simp] theorem Dev.setHfLink_dfSaved (d : Dev) (l : Nat) (x : HfLink) : (d.setHfLink l x).dfSaved = d.dfSaved := rfl
@[simp] theorem Dev.setHfLink_paused (d : Dev) (l : Nat) (x : HfLink) : (d.setHfLink l x).paused = d.paused := rfl
@[simp] theorem Dev.setHfLink_ring (d : Dev) (l : Nat) (x : HfLink) : (d.setHfLink l x).ring = d.ring := rfl
@[simp] theorem Dev.setHfLink_mbox (d : Dev) (l : Nat) (x : HfLink) : (d.setHfLink l x).mbox = d.mbox := rfl
@[simp] theorem Dev.setHfLink_staged (d : Dev) (l : Nat) (x : HfLink) : (d.setHfLink l x).staged = d.staged := rfl
@[simp] theorem Dev.setHfLink_resp (d : Dev) (l : Nat) (x : HfLink) : (d.setHfLink l x).resp = d.resp := rfl
@[simp] theorem Dev.setHfLink_waiting (d : Dev) (l : Nat) (x : HfLink) : (d.setHfLink l x).waiting = d.waiting := rfl
@[simp] theorem Dev.setHfLink_fus (d : Dev) (l : Nat) (x : HfLink) : (d.setHfLink l x).fus = d.fus := rfl
@[simp] theorem Dev.setHfLink_homes (d : Dev) (l : Nat) (x : HfLink) : (d.setHfLink l x).homes = d.homes := rfl
@[simp] theorem Dev.setHfLink_pewter (d : Dev) (l : Nat) (x : HfLink) : (d.setHfLink l x).pewter = d.pewter := rfl
@[simp] theorem Dev.setHfLink_pwJob (d : Dev) (l : Nat) (x : HfLink) : (d.setHfLink l x).pwJob = d.pwJob := rfl
@[simp] theorem Dev.setHfLink_filters (d : Dev) (l : Nat) (x : HfLink) : (d.setHfLink l x).filters = d.filters := rfl
@[simp] theorem Dev.setHfLink_fab (d : Dev) (l : Nat) (x : HfLink) : (d.setHfLink l x).fab = d.fab := rfl
@[simp] theorem Dev.setHfLink_adapters (d : Dev) (l : Nat) (x : HfLink) : (d.setHfLink l x).adapters = d.adapters := rfl
@[simp] theorem Dev.setHfLink_chans (d : Dev) (l : Nat) (x : HfLink) : (d.setHfLink l x).chans = d.chans := rfl
@[simp] theorem Dev.setHfLink_remote (d : Dev) (l : Nat) (x : HfLink) : (d.setHfLink l x).remote = d.remote := rfl
@[simp] theorem Dev.setHfLink_mcs (d : Dev) (l : Nat) (x : HfLink) : (d.setHfLink l x).mcs = d.mcs := rfl
@[simp] theorem Dev.setHfLink_iommu (d : Dev) (l : Nat) (x : HfLink) : (d.setHfLink l x).iommu = d.iommu := rfl
@[simp] theorem Dev.setHfLink_tk (d : Dev) (l : Nat) (x : HfLink) : (d.setHfLink l x).tk = d.tk := rfl
@[simp] theorem Dev.setHfLink_part (d : Dev) (l : Nat) (x : HfLink) : (d.setHfLink l x).part = d.part := rfl
@[simp] theorem Dev.setHfLink_boot (d : Dev) (l : Nat) (x : HfLink) : (d.setHfLink l x).boot = d.boot := rfl
@[simp] theorem Dev.setHfLink_cnt (d : Dev) (l : Nat) (x : HfLink) : (d.setHfLink l x).cnt = d.cnt := rfl
@[simp] theorem Dev.setHfLink_dimms (d : Dev) (l : Nat) (x : HfLink) : (d.setHfLink l x).dimms = d.dimms := rfl
@[simp] theorem Dev.setHfLink_pins (d : Dev) (l : Nat) (x : HfLink) : (d.setHfLink l x).pins = d.pins := rfl
@[simp] theorem Dev.setHfLink_power (d : Dev) (l : Nat) (x : HfLink) : (d.setHfLink l x).power = d.power := rfl
@[simp] theorem Dev.setHfLink_aplic (d : Dev) (l : Nat) (x : HfLink) : (d.setHfLink l x).aplic = d.aplic := rfl
@[simp] theorem Dev.setHfLink_arb (d : Dev) (l : Nat) (x : HfLink) : (d.setHfLink l x).arb = d.arb := rfl
@[simp] theorem Dev.setHfLink_resetting (d : Dev) (l : Nat) (x : HfLink) : (d.setHfLink l x).resetting = d.resetting := rfl
@[simp] theorem Dev.setHfLink_jtag (d : Dev) (l : Nat) (x : HfLink) : (d.setHfLink l x).jtag = d.jtag := rfl
@[simp] theorem Dev.setHfLink_fuses (d : Dev) (l : Nat) (x : HfLink) : (d.setHfLink l x).fuses = d.fuses := rfl
@[simp] theorem Dev.setHfLink_latch (d : Dev) (l : Nat) (x : HfLink) : (d.setHfLink l x).latch = d.latch := rfl
@[simp] theorem Dev.setHfLink_flash (d : Dev) (l : Nat) (x : HfLink) : (d.setHfLink l x).flash = d.flash := rfl
@[simp] theorem Dev.setHfLink_flashBad (d : Dev) (l : Nat) (x : HfLink) : (d.setHfLink l x).flashBad = d.flashBad := rfl
@[simp] theorem Dev.setHfLink_flashMode (d : Dev) (l : Nat) (x : HfLink) : (d.setHfLink l x).flashMode = d.flashMode := rfl
@[simp] theorem Dev.setHfLink_fresh (d : Dev) (l : Nat) (x : HfLink) : (d.setHfLink l x).fresh = d.fresh := rfl

@[simp] theorem Dev.setMc_regs (d : Dev) (m : Nat) (x : Mc) : (d.setMc m x).regs = d.regs := rfl
@[simp] theorem Dev.setMc_doms (d : Dev) (m : Nat) (x : Mc) : (d.setMc m x).doms = d.doms := rfl
@[simp] theorem Dev.setMc_units (d : Dev) (m : Nat) (x : Mc) : (d.setMc m x).units = d.units := rfl
@[simp] theorem Dev.setMc_mem (d : Dev) (m : Nat) (x : Mc) : (d.setMc m x).mem = d.mem := rfl
@[simp] theorem Dev.setMc_marks (d : Dev) (m : Nat) (x : Mc) : (d.setMc m x).marks = d.marks := rfl
@[simp] theorem Dev.setMc_clock (d : Dev) (m : Nat) (x : Mc) : (d.setMc m x).clock = d.clock := rfl
@[simp] theorem Dev.setMc_harts (d : Dev) (m : Nat) (x : Mc) : (d.setMc m x).harts = d.harts := rfl
@[simp] theorem Dev.setMc_insts (d : Dev) (m : Nat) (x : Mc) : (d.setMc m x).insts = d.insts := rfl
@[simp] theorem Dev.setMc_jobs (d : Dev) (m : Nat) (x : Mc) : (d.setMc m x).jobs = d.jobs := rfl
@[simp] theorem Dev.setMc_nextJob (d : Dev) (m : Nat) (x : Mc) : (d.setMc m x).nextJob = d.nextJob := rfl
@[simp] theorem Dev.setMc_slots (d : Dev) (m : Nat) (x : Mc) : (d.setMc m x).slots = d.slots := rfl
@[simp] theorem Dev.setMc_moves (d : Dev) (m : Nat) (x : Mc) : (d.setMc m x).moves = d.moves := rfl
@[simp] theorem Dev.setMc_engs (d : Dev) (m : Nat) (x : Mc) : (d.setMc m x).engs = d.engs := rfl
@[simp] theorem Dev.setMc_mgmt (d : Dev) (m : Nat) (x : Mc) : (d.setMc m x).mgmt = d.mgmt := rfl
@[simp] theorem Dev.setMc_attKeys (d : Dev) (m : Nat) (x : Mc) : (d.setMc m x).attKeys = d.attKeys := rfl
@[simp] theorem Dev.setMc_ks (d : Dev) (m : Nat) (x : Mc) : (d.setMc m x).ks = d.ks := rfl
@[simp] theorem Dev.setMc_jns (d : Dev) (m : Nat) (x : Mc) : (d.setMc m x).jns = d.jns := rfl
@[simp] theorem Dev.setMc_ck (d : Dev) (m : Nat) (x : Mc) : (d.setMc m x).ck = d.ck := rfl
@[simp] theorem Dev.setMc_drbgs (d : Dev) (m : Nat) (x : Mc) : (d.setMc m x).drbgs = d.drbgs := rfl
@[simp] theorem Dev.setMc_sides (d : Dev) (m : Nat) (x : Mc) : (d.setMc m x).sides = d.sides := rfl
@[simp] theorem Dev.setMc_tcache (d : Dev) (m : Nat) (x : Mc) : (d.setMc m x).tcache = d.tcache := rfl
@[simp] theorem Dev.setMc_dfSaved (d : Dev) (m : Nat) (x : Mc) : (d.setMc m x).dfSaved = d.dfSaved := rfl
@[simp] theorem Dev.setMc_paused (d : Dev) (m : Nat) (x : Mc) : (d.setMc m x).paused = d.paused := rfl
@[simp] theorem Dev.setMc_ring (d : Dev) (m : Nat) (x : Mc) : (d.setMc m x).ring = d.ring := rfl
@[simp] theorem Dev.setMc_mbox (d : Dev) (m : Nat) (x : Mc) : (d.setMc m x).mbox = d.mbox := rfl
@[simp] theorem Dev.setMc_staged (d : Dev) (m : Nat) (x : Mc) : (d.setMc m x).staged = d.staged := rfl
@[simp] theorem Dev.setMc_resp (d : Dev) (m : Nat) (x : Mc) : (d.setMc m x).resp = d.resp := rfl
@[simp] theorem Dev.setMc_waiting (d : Dev) (m : Nat) (x : Mc) : (d.setMc m x).waiting = d.waiting := rfl
@[simp] theorem Dev.setMc_fus (d : Dev) (m : Nat) (x : Mc) : (d.setMc m x).fus = d.fus := rfl
@[simp] theorem Dev.setMc_homes (d : Dev) (m : Nat) (x : Mc) : (d.setMc m x).homes = d.homes := rfl
@[simp] theorem Dev.setMc_pewter (d : Dev) (m : Nat) (x : Mc) : (d.setMc m x).pewter = d.pewter := rfl
@[simp] theorem Dev.setMc_pwJob (d : Dev) (m : Nat) (x : Mc) : (d.setMc m x).pwJob = d.pwJob := rfl
@[simp] theorem Dev.setMc_filters (d : Dev) (m : Nat) (x : Mc) : (d.setMc m x).filters = d.filters := rfl
@[simp] theorem Dev.setMc_fab (d : Dev) (m : Nat) (x : Mc) : (d.setMc m x).fab = d.fab := rfl
@[simp] theorem Dev.setMc_adapters (d : Dev) (m : Nat) (x : Mc) : (d.setMc m x).adapters = d.adapters := rfl
@[simp] theorem Dev.setMc_chans (d : Dev) (m : Nat) (x : Mc) : (d.setMc m x).chans = d.chans := rfl
@[simp] theorem Dev.setMc_hf (d : Dev) (m : Nat) (x : Mc) : (d.setMc m x).hf = d.hf := rfl
@[simp] theorem Dev.setMc_remote (d : Dev) (m : Nat) (x : Mc) : (d.setMc m x).remote = d.remote := rfl
@[simp] theorem Dev.setMc_iommu (d : Dev) (m : Nat) (x : Mc) : (d.setMc m x).iommu = d.iommu := rfl
@[simp] theorem Dev.setMc_tk (d : Dev) (m : Nat) (x : Mc) : (d.setMc m x).tk = d.tk := rfl
@[simp] theorem Dev.setMc_part (d : Dev) (m : Nat) (x : Mc) : (d.setMc m x).part = d.part := rfl
@[simp] theorem Dev.setMc_boot (d : Dev) (m : Nat) (x : Mc) : (d.setMc m x).boot = d.boot := rfl
@[simp] theorem Dev.setMc_cnt (d : Dev) (m : Nat) (x : Mc) : (d.setMc m x).cnt = d.cnt := rfl
@[simp] theorem Dev.setMc_dimms (d : Dev) (m : Nat) (x : Mc) : (d.setMc m x).dimms = d.dimms := rfl
@[simp] theorem Dev.setMc_pins (d : Dev) (m : Nat) (x : Mc) : (d.setMc m x).pins = d.pins := rfl
@[simp] theorem Dev.setMc_power (d : Dev) (m : Nat) (x : Mc) : (d.setMc m x).power = d.power := rfl
@[simp] theorem Dev.setMc_aplic (d : Dev) (m : Nat) (x : Mc) : (d.setMc m x).aplic = d.aplic := rfl
@[simp] theorem Dev.setMc_arb (d : Dev) (m : Nat) (x : Mc) : (d.setMc m x).arb = d.arb := rfl
@[simp] theorem Dev.setMc_resetting (d : Dev) (m : Nat) (x : Mc) : (d.setMc m x).resetting = d.resetting := rfl
@[simp] theorem Dev.setMc_jtag (d : Dev) (m : Nat) (x : Mc) : (d.setMc m x).jtag = d.jtag := rfl
@[simp] theorem Dev.setMc_fuses (d : Dev) (m : Nat) (x : Mc) : (d.setMc m x).fuses = d.fuses := rfl
@[simp] theorem Dev.setMc_latch (d : Dev) (m : Nat) (x : Mc) : (d.setMc m x).latch = d.latch := rfl
@[simp] theorem Dev.setMc_flash (d : Dev) (m : Nat) (x : Mc) : (d.setMc m x).flash = d.flash := rfl
@[simp] theorem Dev.setMc_flashBad (d : Dev) (m : Nat) (x : Mc) : (d.setMc m x).flashBad = d.flashBad := rfl
@[simp] theorem Dev.setMc_flashMode (d : Dev) (m : Nat) (x : Mc) : (d.setMc m x).flashMode = d.flashMode := rfl
@[simp] theorem Dev.setMc_fresh (d : Dev) (m : Nat) (x : Mc) : (d.setMc m x).fresh = d.fresh := rfl

@[simp] theorem Dev.setMailbox_regs (d : Dev) (w : World) (x : Mailbox) : (d.setMailbox w x).regs = d.regs := rfl
@[simp] theorem Dev.setMailbox_doms (d : Dev) (w : World) (x : Mailbox) : (d.setMailbox w x).doms = d.doms := rfl
@[simp] theorem Dev.setMailbox_units (d : Dev) (w : World) (x : Mailbox) : (d.setMailbox w x).units = d.units := rfl
@[simp] theorem Dev.setMailbox_mem (d : Dev) (w : World) (x : Mailbox) : (d.setMailbox w x).mem = d.mem := rfl
@[simp] theorem Dev.setMailbox_marks (d : Dev) (w : World) (x : Mailbox) : (d.setMailbox w x).marks = d.marks := rfl
@[simp] theorem Dev.setMailbox_clock (d : Dev) (w : World) (x : Mailbox) : (d.setMailbox w x).clock = d.clock := rfl
@[simp] theorem Dev.setMailbox_harts (d : Dev) (w : World) (x : Mailbox) : (d.setMailbox w x).harts = d.harts := rfl
@[simp] theorem Dev.setMailbox_insts (d : Dev) (w : World) (x : Mailbox) : (d.setMailbox w x).insts = d.insts := rfl
@[simp] theorem Dev.setMailbox_jobs (d : Dev) (w : World) (x : Mailbox) : (d.setMailbox w x).jobs = d.jobs := rfl
@[simp] theorem Dev.setMailbox_nextJob (d : Dev) (w : World) (x : Mailbox) : (d.setMailbox w x).nextJob = d.nextJob := rfl
@[simp] theorem Dev.setMailbox_slots (d : Dev) (w : World) (x : Mailbox) : (d.setMailbox w x).slots = d.slots := rfl
@[simp] theorem Dev.setMailbox_moves (d : Dev) (w : World) (x : Mailbox) : (d.setMailbox w x).moves = d.moves := rfl
@[simp] theorem Dev.setMailbox_engs (d : Dev) (w : World) (x : Mailbox) : (d.setMailbox w x).engs = d.engs := rfl
@[simp] theorem Dev.setMailbox_mgmt (d : Dev) (w : World) (x : Mailbox) : (d.setMailbox w x).mgmt = d.mgmt := rfl
@[simp] theorem Dev.setMailbox_attKeys (d : Dev) (w : World) (x : Mailbox) : (d.setMailbox w x).attKeys = d.attKeys := rfl
@[simp] theorem Dev.setMailbox_ks (d : Dev) (w : World) (x : Mailbox) : (d.setMailbox w x).ks = d.ks := rfl
@[simp] theorem Dev.setMailbox_jns (d : Dev) (w : World) (x : Mailbox) : (d.setMailbox w x).jns = d.jns := rfl
@[simp] theorem Dev.setMailbox_ck (d : Dev) (w : World) (x : Mailbox) : (d.setMailbox w x).ck = d.ck := rfl
@[simp] theorem Dev.setMailbox_drbgs (d : Dev) (w : World) (x : Mailbox) : (d.setMailbox w x).drbgs = d.drbgs := rfl
@[simp] theorem Dev.setMailbox_sides (d : Dev) (w : World) (x : Mailbox) : (d.setMailbox w x).sides = d.sides := rfl
@[simp] theorem Dev.setMailbox_tcache (d : Dev) (w : World) (x : Mailbox) : (d.setMailbox w x).tcache = d.tcache := rfl
@[simp] theorem Dev.setMailbox_dfSaved (d : Dev) (w : World) (x : Mailbox) : (d.setMailbox w x).dfSaved = d.dfSaved := rfl
@[simp] theorem Dev.setMailbox_paused (d : Dev) (w : World) (x : Mailbox) : (d.setMailbox w x).paused = d.paused := rfl
@[simp] theorem Dev.setMailbox_ring (d : Dev) (w : World) (x : Mailbox) : (d.setMailbox w x).ring = d.ring := rfl
@[simp] theorem Dev.setMailbox_staged (d : Dev) (w : World) (x : Mailbox) : (d.setMailbox w x).staged = d.staged := rfl
@[simp] theorem Dev.setMailbox_resp (d : Dev) (w : World) (x : Mailbox) : (d.setMailbox w x).resp = d.resp := rfl
@[simp] theorem Dev.setMailbox_waiting (d : Dev) (w : World) (x : Mailbox) : (d.setMailbox w x).waiting = d.waiting := rfl
@[simp] theorem Dev.setMailbox_fus (d : Dev) (w : World) (x : Mailbox) : (d.setMailbox w x).fus = d.fus := rfl
@[simp] theorem Dev.setMailbox_homes (d : Dev) (w : World) (x : Mailbox) : (d.setMailbox w x).homes = d.homes := rfl
@[simp] theorem Dev.setMailbox_pewter (d : Dev) (w : World) (x : Mailbox) : (d.setMailbox w x).pewter = d.pewter := rfl
@[simp] theorem Dev.setMailbox_pwJob (d : Dev) (w : World) (x : Mailbox) : (d.setMailbox w x).pwJob = d.pwJob := rfl
@[simp] theorem Dev.setMailbox_filters (d : Dev) (w : World) (x : Mailbox) : (d.setMailbox w x).filters = d.filters := rfl
@[simp] theorem Dev.setMailbox_fab (d : Dev) (w : World) (x : Mailbox) : (d.setMailbox w x).fab = d.fab := rfl
@[simp] theorem Dev.setMailbox_adapters (d : Dev) (w : World) (x : Mailbox) : (d.setMailbox w x).adapters = d.adapters := rfl
@[simp] theorem Dev.setMailbox_chans (d : Dev) (w : World) (x : Mailbox) : (d.setMailbox w x).chans = d.chans := rfl
@[simp] theorem Dev.setMailbox_hf (d : Dev) (w : World) (x : Mailbox) : (d.setMailbox w x).hf = d.hf := rfl
@[simp] theorem Dev.setMailbox_remote (d : Dev) (w : World) (x : Mailbox) : (d.setMailbox w x).remote = d.remote := rfl
@[simp] theorem Dev.setMailbox_mcs (d : Dev) (w : World) (x : Mailbox) : (d.setMailbox w x).mcs = d.mcs := rfl
@[simp] theorem Dev.setMailbox_iommu (d : Dev) (w : World) (x : Mailbox) : (d.setMailbox w x).iommu = d.iommu := rfl
@[simp] theorem Dev.setMailbox_tk (d : Dev) (w : World) (x : Mailbox) : (d.setMailbox w x).tk = d.tk := rfl
@[simp] theorem Dev.setMailbox_part (d : Dev) (w : World) (x : Mailbox) : (d.setMailbox w x).part = d.part := rfl
@[simp] theorem Dev.setMailbox_boot (d : Dev) (w : World) (x : Mailbox) : (d.setMailbox w x).boot = d.boot := rfl
@[simp] theorem Dev.setMailbox_cnt (d : Dev) (w : World) (x : Mailbox) : (d.setMailbox w x).cnt = d.cnt := rfl
@[simp] theorem Dev.setMailbox_dimms (d : Dev) (w : World) (x : Mailbox) : (d.setMailbox w x).dimms = d.dimms := rfl
@[simp] theorem Dev.setMailbox_pins (d : Dev) (w : World) (x : Mailbox) : (d.setMailbox w x).pins = d.pins := rfl
@[simp] theorem Dev.setMailbox_power (d : Dev) (w : World) (x : Mailbox) : (d.setMailbox w x).power = d.power := rfl
@[simp] theorem Dev.setMailbox_aplic (d : Dev) (w : World) (x : Mailbox) : (d.setMailbox w x).aplic = d.aplic := rfl
@[simp] theorem Dev.setMailbox_arb (d : Dev) (w : World) (x : Mailbox) : (d.setMailbox w x).arb = d.arb := rfl
@[simp] theorem Dev.setMailbox_resetting (d : Dev) (w : World) (x : Mailbox) : (d.setMailbox w x).resetting = d.resetting := rfl
@[simp] theorem Dev.setMailbox_jtag (d : Dev) (w : World) (x : Mailbox) : (d.setMailbox w x).jtag = d.jtag := rfl
@[simp] theorem Dev.setMailbox_fuses (d : Dev) (w : World) (x : Mailbox) : (d.setMailbox w x).fuses = d.fuses := rfl
@[simp] theorem Dev.setMailbox_latch (d : Dev) (w : World) (x : Mailbox) : (d.setMailbox w x).latch = d.latch := rfl
@[simp] theorem Dev.setMailbox_flash (d : Dev) (w : World) (x : Mailbox) : (d.setMailbox w x).flash = d.flash := rfl
@[simp] theorem Dev.setMailbox_flashBad (d : Dev) (w : World) (x : Mailbox) : (d.setMailbox w x).flashBad = d.flashBad := rfl
@[simp] theorem Dev.setMailbox_flashMode (d : Dev) (w : World) (x : Mailbox) : (d.setMailbox w x).flashMode = d.flashMode := rfl
@[simp] theorem Dev.setMailbox_fresh (d : Dev) (w : World) (x : Mailbox) : (d.setMailbox w x).fresh = d.fresh := rfl

@[simp] theorem Dev.setDrbg_regs (d : Dev) (b : Nat) (x : Drbg) : (d.setDrbg b x).regs = d.regs := rfl
@[simp] theorem Dev.setDrbg_doms (d : Dev) (b : Nat) (x : Drbg) : (d.setDrbg b x).doms = d.doms := rfl
@[simp] theorem Dev.setDrbg_units (d : Dev) (b : Nat) (x : Drbg) : (d.setDrbg b x).units = d.units := rfl
@[simp] theorem Dev.setDrbg_mem (d : Dev) (b : Nat) (x : Drbg) : (d.setDrbg b x).mem = d.mem := rfl
@[simp] theorem Dev.setDrbg_marks (d : Dev) (b : Nat) (x : Drbg) : (d.setDrbg b x).marks = d.marks := rfl
@[simp] theorem Dev.setDrbg_clock (d : Dev) (b : Nat) (x : Drbg) : (d.setDrbg b x).clock = d.clock := rfl
@[simp] theorem Dev.setDrbg_harts (d : Dev) (b : Nat) (x : Drbg) : (d.setDrbg b x).harts = d.harts := rfl
@[simp] theorem Dev.setDrbg_insts (d : Dev) (b : Nat) (x : Drbg) : (d.setDrbg b x).insts = d.insts := rfl
@[simp] theorem Dev.setDrbg_jobs (d : Dev) (b : Nat) (x : Drbg) : (d.setDrbg b x).jobs = d.jobs := rfl
@[simp] theorem Dev.setDrbg_nextJob (d : Dev) (b : Nat) (x : Drbg) : (d.setDrbg b x).nextJob = d.nextJob := rfl
@[simp] theorem Dev.setDrbg_slots (d : Dev) (b : Nat) (x : Drbg) : (d.setDrbg b x).slots = d.slots := rfl
@[simp] theorem Dev.setDrbg_moves (d : Dev) (b : Nat) (x : Drbg) : (d.setDrbg b x).moves = d.moves := rfl
@[simp] theorem Dev.setDrbg_engs (d : Dev) (b : Nat) (x : Drbg) : (d.setDrbg b x).engs = d.engs := rfl
@[simp] theorem Dev.setDrbg_mgmt (d : Dev) (b : Nat) (x : Drbg) : (d.setDrbg b x).mgmt = d.mgmt := rfl
@[simp] theorem Dev.setDrbg_attKeys (d : Dev) (b : Nat) (x : Drbg) : (d.setDrbg b x).attKeys = d.attKeys := rfl
@[simp] theorem Dev.setDrbg_ks (d : Dev) (b : Nat) (x : Drbg) : (d.setDrbg b x).ks = d.ks := rfl
@[simp] theorem Dev.setDrbg_jns (d : Dev) (b : Nat) (x : Drbg) : (d.setDrbg b x).jns = d.jns := rfl
@[simp] theorem Dev.setDrbg_ck (d : Dev) (b : Nat) (x : Drbg) : (d.setDrbg b x).ck = d.ck := rfl
@[simp] theorem Dev.setDrbg_sides (d : Dev) (b : Nat) (x : Drbg) : (d.setDrbg b x).sides = d.sides := rfl
@[simp] theorem Dev.setDrbg_tcache (d : Dev) (b : Nat) (x : Drbg) : (d.setDrbg b x).tcache = d.tcache := rfl
@[simp] theorem Dev.setDrbg_dfSaved (d : Dev) (b : Nat) (x : Drbg) : (d.setDrbg b x).dfSaved = d.dfSaved := rfl
@[simp] theorem Dev.setDrbg_paused (d : Dev) (b : Nat) (x : Drbg) : (d.setDrbg b x).paused = d.paused := rfl
@[simp] theorem Dev.setDrbg_ring (d : Dev) (b : Nat) (x : Drbg) : (d.setDrbg b x).ring = d.ring := rfl
@[simp] theorem Dev.setDrbg_mbox (d : Dev) (b : Nat) (x : Drbg) : (d.setDrbg b x).mbox = d.mbox := rfl
@[simp] theorem Dev.setDrbg_staged (d : Dev) (b : Nat) (x : Drbg) : (d.setDrbg b x).staged = d.staged := rfl
@[simp] theorem Dev.setDrbg_resp (d : Dev) (b : Nat) (x : Drbg) : (d.setDrbg b x).resp = d.resp := rfl
@[simp] theorem Dev.setDrbg_waiting (d : Dev) (b : Nat) (x : Drbg) : (d.setDrbg b x).waiting = d.waiting := rfl
@[simp] theorem Dev.setDrbg_fus (d : Dev) (b : Nat) (x : Drbg) : (d.setDrbg b x).fus = d.fus := rfl
@[simp] theorem Dev.setDrbg_homes (d : Dev) (b : Nat) (x : Drbg) : (d.setDrbg b x).homes = d.homes := rfl
@[simp] theorem Dev.setDrbg_pewter (d : Dev) (b : Nat) (x : Drbg) : (d.setDrbg b x).pewter = d.pewter := rfl
@[simp] theorem Dev.setDrbg_pwJob (d : Dev) (b : Nat) (x : Drbg) : (d.setDrbg b x).pwJob = d.pwJob := rfl
@[simp] theorem Dev.setDrbg_filters (d : Dev) (b : Nat) (x : Drbg) : (d.setDrbg b x).filters = d.filters := rfl
@[simp] theorem Dev.setDrbg_fab (d : Dev) (b : Nat) (x : Drbg) : (d.setDrbg b x).fab = d.fab := rfl
@[simp] theorem Dev.setDrbg_adapters (d : Dev) (b : Nat) (x : Drbg) : (d.setDrbg b x).adapters = d.adapters := rfl
@[simp] theorem Dev.setDrbg_chans (d : Dev) (b : Nat) (x : Drbg) : (d.setDrbg b x).chans = d.chans := rfl
@[simp] theorem Dev.setDrbg_hf (d : Dev) (b : Nat) (x : Drbg) : (d.setDrbg b x).hf = d.hf := rfl
@[simp] theorem Dev.setDrbg_remote (d : Dev) (b : Nat) (x : Drbg) : (d.setDrbg b x).remote = d.remote := rfl
@[simp] theorem Dev.setDrbg_mcs (d : Dev) (b : Nat) (x : Drbg) : (d.setDrbg b x).mcs = d.mcs := rfl
@[simp] theorem Dev.setDrbg_iommu (d : Dev) (b : Nat) (x : Drbg) : (d.setDrbg b x).iommu = d.iommu := rfl
@[simp] theorem Dev.setDrbg_tk (d : Dev) (b : Nat) (x : Drbg) : (d.setDrbg b x).tk = d.tk := rfl
@[simp] theorem Dev.setDrbg_part (d : Dev) (b : Nat) (x : Drbg) : (d.setDrbg b x).part = d.part := rfl
@[simp] theorem Dev.setDrbg_boot (d : Dev) (b : Nat) (x : Drbg) : (d.setDrbg b x).boot = d.boot := rfl
@[simp] theorem Dev.setDrbg_cnt (d : Dev) (b : Nat) (x : Drbg) : (d.setDrbg b x).cnt = d.cnt := rfl
@[simp] theorem Dev.setDrbg_dimms (d : Dev) (b : Nat) (x : Drbg) : (d.setDrbg b x).dimms = d.dimms := rfl
@[simp] theorem Dev.setDrbg_pins (d : Dev) (b : Nat) (x : Drbg) : (d.setDrbg b x).pins = d.pins := rfl
@[simp] theorem Dev.setDrbg_power (d : Dev) (b : Nat) (x : Drbg) : (d.setDrbg b x).power = d.power := rfl
@[simp] theorem Dev.setDrbg_aplic (d : Dev) (b : Nat) (x : Drbg) : (d.setDrbg b x).aplic = d.aplic := rfl
@[simp] theorem Dev.setDrbg_arb (d : Dev) (b : Nat) (x : Drbg) : (d.setDrbg b x).arb = d.arb := rfl
@[simp] theorem Dev.setDrbg_resetting (d : Dev) (b : Nat) (x : Drbg) : (d.setDrbg b x).resetting = d.resetting := rfl
@[simp] theorem Dev.setDrbg_jtag (d : Dev) (b : Nat) (x : Drbg) : (d.setDrbg b x).jtag = d.jtag := rfl
@[simp] theorem Dev.setDrbg_fuses (d : Dev) (b : Nat) (x : Drbg) : (d.setDrbg b x).fuses = d.fuses := rfl
@[simp] theorem Dev.setDrbg_latch (d : Dev) (b : Nat) (x : Drbg) : (d.setDrbg b x).latch = d.latch := rfl
@[simp] theorem Dev.setDrbg_flash (d : Dev) (b : Nat) (x : Drbg) : (d.setDrbg b x).flash = d.flash := rfl
@[simp] theorem Dev.setDrbg_flashBad (d : Dev) (b : Nat) (x : Drbg) : (d.setDrbg b x).flashBad = d.flashBad := rfl
@[simp] theorem Dev.setDrbg_flashMode (d : Dev) (b : Nat) (x : Drbg) : (d.setDrbg b x).flashMode = d.flashMode := rfl
@[simp] theorem Dev.setDrbg_fresh (d : Dev) (b : Nat) (x : Drbg) : (d.setDrbg b x).fresh = d.fresh := rfl

@[simp] theorem Dev.setSlot_regs (d : Dev) (e s : Nat) (o : SlotOwner) : (d.setSlot e s o).regs = d.regs := rfl
@[simp] theorem Dev.setSlot_doms (d : Dev) (e s : Nat) (o : SlotOwner) : (d.setSlot e s o).doms = d.doms := rfl
@[simp] theorem Dev.setSlot_units (d : Dev) (e s : Nat) (o : SlotOwner) : (d.setSlot e s o).units = d.units := rfl
@[simp] theorem Dev.setSlot_mem (d : Dev) (e s : Nat) (o : SlotOwner) : (d.setSlot e s o).mem = d.mem := rfl
@[simp] theorem Dev.setSlot_marks (d : Dev) (e s : Nat) (o : SlotOwner) : (d.setSlot e s o).marks = d.marks := rfl
@[simp] theorem Dev.setSlot_clock (d : Dev) (e s : Nat) (o : SlotOwner) : (d.setSlot e s o).clock = d.clock := rfl
@[simp] theorem Dev.setSlot_harts (d : Dev) (e s : Nat) (o : SlotOwner) : (d.setSlot e s o).harts = d.harts := rfl
@[simp] theorem Dev.setSlot_insts (d : Dev) (e s : Nat) (o : SlotOwner) : (d.setSlot e s o).insts = d.insts := rfl
@[simp] theorem Dev.setSlot_jobs (d : Dev) (e s : Nat) (o : SlotOwner) : (d.setSlot e s o).jobs = d.jobs := rfl
@[simp] theorem Dev.setSlot_nextJob (d : Dev) (e s : Nat) (o : SlotOwner) : (d.setSlot e s o).nextJob = d.nextJob := rfl
@[simp] theorem Dev.setSlot_moves (d : Dev) (e s : Nat) (o : SlotOwner) : (d.setSlot e s o).moves = d.moves := rfl
@[simp] theorem Dev.setSlot_engs (d : Dev) (e s : Nat) (o : SlotOwner) : (d.setSlot e s o).engs = d.engs := rfl
@[simp] theorem Dev.setSlot_mgmt (d : Dev) (e s : Nat) (o : SlotOwner) : (d.setSlot e s o).mgmt = d.mgmt := rfl
@[simp] theorem Dev.setSlot_attKeys (d : Dev) (e s : Nat) (o : SlotOwner) : (d.setSlot e s o).attKeys = d.attKeys := rfl
@[simp] theorem Dev.setSlot_ks (d : Dev) (e s : Nat) (o : SlotOwner) : (d.setSlot e s o).ks = d.ks := rfl
@[simp] theorem Dev.setSlot_jns (d : Dev) (e s : Nat) (o : SlotOwner) : (d.setSlot e s o).jns = d.jns := rfl
@[simp] theorem Dev.setSlot_ck (d : Dev) (e s : Nat) (o : SlotOwner) : (d.setSlot e s o).ck = d.ck := rfl
@[simp] theorem Dev.setSlot_drbgs (d : Dev) (e s : Nat) (o : SlotOwner) : (d.setSlot e s o).drbgs = d.drbgs := rfl
@[simp] theorem Dev.setSlot_sides (d : Dev) (e s : Nat) (o : SlotOwner) : (d.setSlot e s o).sides = d.sides := rfl
@[simp] theorem Dev.setSlot_tcache (d : Dev) (e s : Nat) (o : SlotOwner) : (d.setSlot e s o).tcache = d.tcache := rfl
@[simp] theorem Dev.setSlot_dfSaved (d : Dev) (e s : Nat) (o : SlotOwner) : (d.setSlot e s o).dfSaved = d.dfSaved := rfl
@[simp] theorem Dev.setSlot_paused (d : Dev) (e s : Nat) (o : SlotOwner) : (d.setSlot e s o).paused = d.paused := rfl
@[simp] theorem Dev.setSlot_ring (d : Dev) (e s : Nat) (o : SlotOwner) : (d.setSlot e s o).ring = d.ring := rfl
@[simp] theorem Dev.setSlot_mbox (d : Dev) (e s : Nat) (o : SlotOwner) : (d.setSlot e s o).mbox = d.mbox := rfl
@[simp] theorem Dev.setSlot_staged (d : Dev) (e s : Nat) (o : SlotOwner) : (d.setSlot e s o).staged = d.staged := rfl
@[simp] theorem Dev.setSlot_resp (d : Dev) (e s : Nat) (o : SlotOwner) : (d.setSlot e s o).resp = d.resp := rfl
@[simp] theorem Dev.setSlot_waiting (d : Dev) (e s : Nat) (o : SlotOwner) : (d.setSlot e s o).waiting = d.waiting := rfl
@[simp] theorem Dev.setSlot_fus (d : Dev) (e s : Nat) (o : SlotOwner) : (d.setSlot e s o).fus = d.fus := rfl
@[simp] theorem Dev.setSlot_homes (d : Dev) (e s : Nat) (o : SlotOwner) : (d.setSlot e s o).homes = d.homes := rfl
@[simp] theorem Dev.setSlot_pewter (d : Dev) (e s : Nat) (o : SlotOwner) : (d.setSlot e s o).pewter = d.pewter := rfl
@[simp] theorem Dev.setSlot_pwJob (d : Dev) (e s : Nat) (o : SlotOwner) : (d.setSlot e s o).pwJob = d.pwJob := rfl
@[simp] theorem Dev.setSlot_filters (d : Dev) (e s : Nat) (o : SlotOwner) : (d.setSlot e s o).filters = d.filters := rfl
@[simp] theorem Dev.setSlot_fab (d : Dev) (e s : Nat) (o : SlotOwner) : (d.setSlot e s o).fab = d.fab := rfl
@[simp] theorem Dev.setSlot_adapters (d : Dev) (e s : Nat) (o : SlotOwner) : (d.setSlot e s o).adapters = d.adapters := rfl
@[simp] theorem Dev.setSlot_chans (d : Dev) (e s : Nat) (o : SlotOwner) : (d.setSlot e s o).chans = d.chans := rfl
@[simp] theorem Dev.setSlot_hf (d : Dev) (e s : Nat) (o : SlotOwner) : (d.setSlot e s o).hf = d.hf := rfl
@[simp] theorem Dev.setSlot_remote (d : Dev) (e s : Nat) (o : SlotOwner) : (d.setSlot e s o).remote = d.remote := rfl
@[simp] theorem Dev.setSlot_mcs (d : Dev) (e s : Nat) (o : SlotOwner) : (d.setSlot e s o).mcs = d.mcs := rfl
@[simp] theorem Dev.setSlot_iommu (d : Dev) (e s : Nat) (o : SlotOwner) : (d.setSlot e s o).iommu = d.iommu := rfl
@[simp] theorem Dev.setSlot_tk (d : Dev) (e s : Nat) (o : SlotOwner) : (d.setSlot e s o).tk = d.tk := rfl
@[simp] theorem Dev.setSlot_part (d : Dev) (e s : Nat) (o : SlotOwner) : (d.setSlot e s o).part = d.part := rfl
@[simp] theorem Dev.setSlot_boot (d : Dev) (e s : Nat) (o : SlotOwner) : (d.setSlot e s o).boot = d.boot := rfl
@[simp] theorem Dev.setSlot_cnt (d : Dev) (e s : Nat) (o : SlotOwner) : (d.setSlot e s o).cnt = d.cnt := rfl
@[simp] theorem Dev.setSlot_dimms (d : Dev) (e s : Nat) (o : SlotOwner) : (d.setSlot e s o).dimms = d.dimms := rfl
@[simp] theorem Dev.setSlot_pins (d : Dev) (e s : Nat) (o : SlotOwner) : (d.setSlot e s o).pins = d.pins := rfl
@[simp] theorem Dev.setSlot_power (d : Dev) (e s : Nat) (o : SlotOwner) : (d.setSlot e s o).power = d.power := rfl
@[simp] theorem Dev.setSlot_aplic (d : Dev) (e s : Nat) (o : SlotOwner) : (d.setSlot e s o).aplic = d.aplic := rfl
@[simp] theorem Dev.setSlot_arb (d : Dev) (e s : Nat) (o : SlotOwner) : (d.setSlot e s o).arb = d.arb := rfl
@[simp] theorem Dev.setSlot_resetting (d : Dev) (e s : Nat) (o : SlotOwner) : (d.setSlot e s o).resetting = d.resetting := rfl
@[simp] theorem Dev.setSlot_jtag (d : Dev) (e s : Nat) (o : SlotOwner) : (d.setSlot e s o).jtag = d.jtag := rfl
@[simp] theorem Dev.setSlot_fuses (d : Dev) (e s : Nat) (o : SlotOwner) : (d.setSlot e s o).fuses = d.fuses := rfl
@[simp] theorem Dev.setSlot_latch (d : Dev) (e s : Nat) (o : SlotOwner) : (d.setSlot e s o).latch = d.latch := rfl
@[simp] theorem Dev.setSlot_flash (d : Dev) (e s : Nat) (o : SlotOwner) : (d.setSlot e s o).flash = d.flash := rfl
@[simp] theorem Dev.setSlot_flashBad (d : Dev) (e s : Nat) (o : SlotOwner) : (d.setSlot e s o).flashBad = d.flashBad := rfl
@[simp] theorem Dev.setSlot_flashMode (d : Dev) (e s : Nat) (o : SlotOwner) : (d.setSlot e s o).flashMode = d.flashMode := rfl
@[simp] theorem Dev.setSlot_fresh (d : Dev) (e s : Nat) (o : SlotOwner) : (d.setSlot e s o).fresh = d.fresh := rfl

@[simp] theorem Dev.memWrite_regs (d : Dev) (a : Nat) (b : List Byte) : (d.memWrite a b).regs = d.regs := rfl
@[simp] theorem Dev.memWrite_doms (d : Dev) (a : Nat) (b : List Byte) : (d.memWrite a b).doms = d.doms := rfl
@[simp] theorem Dev.memWrite_units (d : Dev) (a : Nat) (b : List Byte) : (d.memWrite a b).units = d.units := rfl
@[simp] theorem Dev.memWrite_marks (d : Dev) (a : Nat) (b : List Byte) : (d.memWrite a b).marks = d.marks := rfl
@[simp] theorem Dev.memWrite_clock (d : Dev) (a : Nat) (b : List Byte) : (d.memWrite a b).clock = d.clock := rfl
@[simp] theorem Dev.memWrite_harts (d : Dev) (a : Nat) (b : List Byte) : (d.memWrite a b).harts = d.harts := rfl
@[simp] theorem Dev.memWrite_insts (d : Dev) (a : Nat) (b : List Byte) : (d.memWrite a b).insts = d.insts := rfl
@[simp] theorem Dev.memWrite_jobs (d : Dev) (a : Nat) (b : List Byte) : (d.memWrite a b).jobs = d.jobs := rfl
@[simp] theorem Dev.memWrite_nextJob (d : Dev) (a : Nat) (b : List Byte) : (d.memWrite a b).nextJob = d.nextJob := rfl
@[simp] theorem Dev.memWrite_slots (d : Dev) (a : Nat) (b : List Byte) : (d.memWrite a b).slots = d.slots := rfl
@[simp] theorem Dev.memWrite_moves (d : Dev) (a : Nat) (b : List Byte) : (d.memWrite a b).moves = d.moves := rfl
@[simp] theorem Dev.memWrite_engs (d : Dev) (a : Nat) (b : List Byte) : (d.memWrite a b).engs = d.engs := rfl
@[simp] theorem Dev.memWrite_mgmt (d : Dev) (a : Nat) (b : List Byte) : (d.memWrite a b).mgmt = d.mgmt := rfl
@[simp] theorem Dev.memWrite_attKeys (d : Dev) (a : Nat) (b : List Byte) : (d.memWrite a b).attKeys = d.attKeys := rfl
@[simp] theorem Dev.memWrite_ks (d : Dev) (a : Nat) (b : List Byte) : (d.memWrite a b).ks = d.ks := rfl
@[simp] theorem Dev.memWrite_jns (d : Dev) (a : Nat) (b : List Byte) : (d.memWrite a b).jns = d.jns := rfl
@[simp] theorem Dev.memWrite_ck (d : Dev) (a : Nat) (b : List Byte) : (d.memWrite a b).ck = d.ck := rfl
@[simp] theorem Dev.memWrite_drbgs (d : Dev) (a : Nat) (b : List Byte) : (d.memWrite a b).drbgs = d.drbgs := rfl
@[simp] theorem Dev.memWrite_sides (d : Dev) (a : Nat) (b : List Byte) : (d.memWrite a b).sides = d.sides := rfl
@[simp] theorem Dev.memWrite_tcache (d : Dev) (a : Nat) (b : List Byte) : (d.memWrite a b).tcache = d.tcache := rfl
@[simp] theorem Dev.memWrite_dfSaved (d : Dev) (a : Nat) (b : List Byte) : (d.memWrite a b).dfSaved = d.dfSaved := rfl
@[simp] theorem Dev.memWrite_paused (d : Dev) (a : Nat) (b : List Byte) : (d.memWrite a b).paused = d.paused := rfl
@[simp] theorem Dev.memWrite_ring (d : Dev) (a : Nat) (b : List Byte) : (d.memWrite a b).ring = d.ring := rfl
@[simp] theorem Dev.memWrite_mbox (d : Dev) (a : Nat) (b : List Byte) : (d.memWrite a b).mbox = d.mbox := rfl
@[simp] theorem Dev.memWrite_staged (d : Dev) (a : Nat) (b : List Byte) : (d.memWrite a b).staged = d.staged := rfl
@[simp] theorem Dev.memWrite_resp (d : Dev) (a : Nat) (b : List Byte) : (d.memWrite a b).resp = d.resp := rfl
@[simp] theorem Dev.memWrite_waiting (d : Dev) (a : Nat) (b : List Byte) : (d.memWrite a b).waiting = d.waiting := rfl
@[simp] theorem Dev.memWrite_fus (d : Dev) (a : Nat) (b : List Byte) : (d.memWrite a b).fus = d.fus := rfl
@[simp] theorem Dev.memWrite_homes (d : Dev) (a : Nat) (b : List Byte) : (d.memWrite a b).homes = d.homes := rfl
@[simp] theorem Dev.memWrite_pewter (d : Dev) (a : Nat) (b : List Byte) : (d.memWrite a b).pewter = d.pewter := rfl
@[simp] theorem Dev.memWrite_pwJob (d : Dev) (a : Nat) (b : List Byte) : (d.memWrite a b).pwJob = d.pwJob := rfl
@[simp] theorem Dev.memWrite_filters (d : Dev) (a : Nat) (b : List Byte) : (d.memWrite a b).filters = d.filters := rfl
@[simp] theorem Dev.memWrite_fab (d : Dev) (a : Nat) (b : List Byte) : (d.memWrite a b).fab = d.fab := rfl
@[simp] theorem Dev.memWrite_adapters (d : Dev) (a : Nat) (b : List Byte) : (d.memWrite a b).adapters = d.adapters := rfl
@[simp] theorem Dev.memWrite_chans (d : Dev) (a : Nat) (b : List Byte) : (d.memWrite a b).chans = d.chans := rfl
@[simp] theorem Dev.memWrite_hf (d : Dev) (a : Nat) (b : List Byte) : (d.memWrite a b).hf = d.hf := rfl
@[simp] theorem Dev.memWrite_remote (d : Dev) (a : Nat) (b : List Byte) : (d.memWrite a b).remote = d.remote := rfl
@[simp] theorem Dev.memWrite_mcs (d : Dev) (a : Nat) (b : List Byte) : (d.memWrite a b).mcs = d.mcs := rfl
@[simp] theorem Dev.memWrite_iommu (d : Dev) (a : Nat) (b : List Byte) : (d.memWrite a b).iommu = d.iommu := rfl
@[simp] theorem Dev.memWrite_tk (d : Dev) (a : Nat) (b : List Byte) : (d.memWrite a b).tk = d.tk := rfl
@[simp] theorem Dev.memWrite_part (d : Dev) (a : Nat) (b : List Byte) : (d.memWrite a b).part = d.part := rfl
@[simp] theorem Dev.memWrite_boot (d : Dev) (a : Nat) (b : List Byte) : (d.memWrite a b).boot = d.boot := rfl
@[simp] theorem Dev.memWrite_cnt (d : Dev) (a : Nat) (b : List Byte) : (d.memWrite a b).cnt = d.cnt := rfl
@[simp] theorem Dev.memWrite_dimms (d : Dev) (a : Nat) (b : List Byte) : (d.memWrite a b).dimms = d.dimms := rfl
@[simp] theorem Dev.memWrite_pins (d : Dev) (a : Nat) (b : List Byte) : (d.memWrite a b).pins = d.pins := rfl
@[simp] theorem Dev.memWrite_power (d : Dev) (a : Nat) (b : List Byte) : (d.memWrite a b).power = d.power := rfl
@[simp] theorem Dev.memWrite_aplic (d : Dev) (a : Nat) (b : List Byte) : (d.memWrite a b).aplic = d.aplic := rfl
@[simp] theorem Dev.memWrite_arb (d : Dev) (a : Nat) (b : List Byte) : (d.memWrite a b).arb = d.arb := rfl
@[simp] theorem Dev.memWrite_resetting (d : Dev) (a : Nat) (b : List Byte) : (d.memWrite a b).resetting = d.resetting := rfl
@[simp] theorem Dev.memWrite_jtag (d : Dev) (a : Nat) (b : List Byte) : (d.memWrite a b).jtag = d.jtag := rfl
@[simp] theorem Dev.memWrite_fuses (d : Dev) (a : Nat) (b : List Byte) : (d.memWrite a b).fuses = d.fuses := rfl
@[simp] theorem Dev.memWrite_latch (d : Dev) (a : Nat) (b : List Byte) : (d.memWrite a b).latch = d.latch := rfl
@[simp] theorem Dev.memWrite_flash (d : Dev) (a : Nat) (b : List Byte) : (d.memWrite a b).flash = d.flash := rfl
@[simp] theorem Dev.memWrite_flashBad (d : Dev) (a : Nat) (b : List Byte) : (d.memWrite a b).flashBad = d.flashBad := rfl
@[simp] theorem Dev.memWrite_flashMode (d : Dev) (a : Nat) (b : List Byte) : (d.memWrite a b).flashMode = d.flashMode := rfl
@[simp] theorem Dev.memWrite_fresh (d : Dev) (a : Nat) (b : List Byte) : (d.memWrite a b).fresh = d.fresh := rfl

@[simp] theorem Dev.respond_regs (d : Dev) (p : Path) (st : Status) (b : List Byte) : (d.respond p st b).regs = d.regs := rfl
@[simp] theorem Dev.respond_doms (d : Dev) (p : Path) (st : Status) (b : List Byte) : (d.respond p st b).doms = d.doms := rfl
@[simp] theorem Dev.respond_units (d : Dev) (p : Path) (st : Status) (b : List Byte) : (d.respond p st b).units = d.units := rfl
@[simp] theorem Dev.respond_mem (d : Dev) (p : Path) (st : Status) (b : List Byte) : (d.respond p st b).mem = d.mem := rfl
@[simp] theorem Dev.respond_marks (d : Dev) (p : Path) (st : Status) (b : List Byte) : (d.respond p st b).marks = d.marks := rfl
@[simp] theorem Dev.respond_clock (d : Dev) (p : Path) (st : Status) (b : List Byte) : (d.respond p st b).clock = d.clock := rfl
@[simp] theorem Dev.respond_harts (d : Dev) (p : Path) (st : Status) (b : List Byte) : (d.respond p st b).harts = d.harts := rfl
@[simp] theorem Dev.respond_insts (d : Dev) (p : Path) (st : Status) (b : List Byte) : (d.respond p st b).insts = d.insts := rfl
@[simp] theorem Dev.respond_jobs (d : Dev) (p : Path) (st : Status) (b : List Byte) : (d.respond p st b).jobs = d.jobs := rfl
@[simp] theorem Dev.respond_nextJob (d : Dev) (p : Path) (st : Status) (b : List Byte) : (d.respond p st b).nextJob = d.nextJob := rfl
@[simp] theorem Dev.respond_slots (d : Dev) (p : Path) (st : Status) (b : List Byte) : (d.respond p st b).slots = d.slots := rfl
@[simp] theorem Dev.respond_moves (d : Dev) (p : Path) (st : Status) (b : List Byte) : (d.respond p st b).moves = d.moves := rfl
@[simp] theorem Dev.respond_engs (d : Dev) (p : Path) (st : Status) (b : List Byte) : (d.respond p st b).engs = d.engs := rfl
@[simp] theorem Dev.respond_mgmt (d : Dev) (p : Path) (st : Status) (b : List Byte) : (d.respond p st b).mgmt = d.mgmt := rfl
@[simp] theorem Dev.respond_attKeys (d : Dev) (p : Path) (st : Status) (b : List Byte) : (d.respond p st b).attKeys = d.attKeys := rfl
@[simp] theorem Dev.respond_ks (d : Dev) (p : Path) (st : Status) (b : List Byte) : (d.respond p st b).ks = d.ks := rfl
@[simp] theorem Dev.respond_jns (d : Dev) (p : Path) (st : Status) (b : List Byte) : (d.respond p st b).jns = d.jns := rfl
@[simp] theorem Dev.respond_ck (d : Dev) (p : Path) (st : Status) (b : List Byte) : (d.respond p st b).ck = d.ck := rfl
@[simp] theorem Dev.respond_drbgs (d : Dev) (p : Path) (st : Status) (b : List Byte) : (d.respond p st b).drbgs = d.drbgs := rfl
@[simp] theorem Dev.respond_sides (d : Dev) (p : Path) (st : Status) (b : List Byte) : (d.respond p st b).sides = d.sides := rfl
@[simp] theorem Dev.respond_tcache (d : Dev) (p : Path) (st : Status) (b : List Byte) : (d.respond p st b).tcache = d.tcache := rfl
@[simp] theorem Dev.respond_dfSaved (d : Dev) (p : Path) (st : Status) (b : List Byte) : (d.respond p st b).dfSaved = d.dfSaved := rfl
@[simp] theorem Dev.respond_paused (d : Dev) (p : Path) (st : Status) (b : List Byte) : (d.respond p st b).paused = d.paused := rfl
@[simp] theorem Dev.respond_ring (d : Dev) (p : Path) (st : Status) (b : List Byte) : (d.respond p st b).ring = d.ring := rfl
@[simp] theorem Dev.respond_mbox (d : Dev) (p : Path) (st : Status) (b : List Byte) : (d.respond p st b).mbox = d.mbox := rfl
@[simp] theorem Dev.respond_staged (d : Dev) (p : Path) (st : Status) (b : List Byte) : (d.respond p st b).staged = d.staged := rfl
@[simp] theorem Dev.respond_waiting (d : Dev) (p : Path) (st : Status) (b : List Byte) : (d.respond p st b).waiting = d.waiting := rfl
@[simp] theorem Dev.respond_fus (d : Dev) (p : Path) (st : Status) (b : List Byte) : (d.respond p st b).fus = d.fus := rfl
@[simp] theorem Dev.respond_homes (d : Dev) (p : Path) (st : Status) (b : List Byte) : (d.respond p st b).homes = d.homes := rfl
@[simp] theorem Dev.respond_pewter (d : Dev) (p : Path) (st : Status) (b : List Byte) : (d.respond p st b).pewter = d.pewter := rfl
@[simp] theorem Dev.respond_pwJob (d : Dev) (p : Path) (st : Status) (b : List Byte) : (d.respond p st b).pwJob = d.pwJob := rfl
@[simp] theorem Dev.respond_filters (d : Dev) (p : Path) (st : Status) (b : List Byte) : (d.respond p st b).filters = d.filters := rfl
@[simp] theorem Dev.respond_fab (d : Dev) (p : Path) (st : Status) (b : List Byte) : (d.respond p st b).fab = d.fab := rfl
@[simp] theorem Dev.respond_adapters (d : Dev) (p : Path) (st : Status) (b : List Byte) : (d.respond p st b).adapters = d.adapters := rfl
@[simp] theorem Dev.respond_chans (d : Dev) (p : Path) (st : Status) (b : List Byte) : (d.respond p st b).chans = d.chans := rfl
@[simp] theorem Dev.respond_hf (d : Dev) (p : Path) (st : Status) (b : List Byte) : (d.respond p st b).hf = d.hf := rfl
@[simp] theorem Dev.respond_remote (d : Dev) (p : Path) (st : Status) (b : List Byte) : (d.respond p st b).remote = d.remote := rfl
@[simp] theorem Dev.respond_mcs (d : Dev) (p : Path) (st : Status) (b : List Byte) : (d.respond p st b).mcs = d.mcs := rfl
@[simp] theorem Dev.respond_iommu (d : Dev) (p : Path) (st : Status) (b : List Byte) : (d.respond p st b).iommu = d.iommu := rfl
@[simp] theorem Dev.respond_tk (d : Dev) (p : Path) (st : Status) (b : List Byte) : (d.respond p st b).tk = d.tk := rfl
@[simp] theorem Dev.respond_part (d : Dev) (p : Path) (st : Status) (b : List Byte) : (d.respond p st b).part = d.part := rfl
@[simp] theorem Dev.respond_boot (d : Dev) (p : Path) (st : Status) (b : List Byte) : (d.respond p st b).boot = d.boot := rfl
@[simp] theorem Dev.respond_cnt (d : Dev) (p : Path) (st : Status) (b : List Byte) : (d.respond p st b).cnt = d.cnt := rfl
@[simp] theorem Dev.respond_dimms (d : Dev) (p : Path) (st : Status) (b : List Byte) : (d.respond p st b).dimms = d.dimms := rfl
@[simp] theorem Dev.respond_pins (d : Dev) (p : Path) (st : Status) (b : List Byte) : (d.respond p st b).pins = d.pins := rfl
@[simp] theorem Dev.respond_power (d : Dev) (p : Path) (st : Status) (b : List Byte) : (d.respond p st b).power = d.power := rfl
@[simp] theorem Dev.respond_aplic (d : Dev) (p : Path) (st : Status) (b : List Byte) : (d.respond p st b).aplic = d.aplic := rfl
@[simp] theorem Dev.respond_arb (d : Dev) (p : Path) (st : Status) (b : List Byte) : (d.respond p st b).arb = d.arb := rfl
@[simp] theorem Dev.respond_resetting (d : Dev) (p : Path) (st : Status) (b : List Byte) : (d.respond p st b).resetting = d.resetting := rfl
@[simp] theorem Dev.respond_jtag (d : Dev) (p : Path) (st : Status) (b : List Byte) : (d.respond p st b).jtag = d.jtag := rfl
@[simp] theorem Dev.respond_fuses (d : Dev) (p : Path) (st : Status) (b : List Byte) : (d.respond p st b).fuses = d.fuses := rfl
@[simp] theorem Dev.respond_latch (d : Dev) (p : Path) (st : Status) (b : List Byte) : (d.respond p st b).latch = d.latch := rfl
@[simp] theorem Dev.respond_flash (d : Dev) (p : Path) (st : Status) (b : List Byte) : (d.respond p st b).flash = d.flash := rfl
@[simp] theorem Dev.respond_flashBad (d : Dev) (p : Path) (st : Status) (b : List Byte) : (d.respond p st b).flashBad = d.flashBad := rfl
@[simp] theorem Dev.respond_flashMode (d : Dev) (p : Path) (st : Status) (b : List Byte) : (d.respond p st b).flashMode = d.flashMode := rfl
@[simp] theorem Dev.respond_fresh (d : Dev) (p : Path) (st : Status) (b : List Byte) : (d.respond p st b).fresh = d.fresh := rfl

@[simp] theorem Dev.post_regs (d : Dev) (m : Instr) : (d.post m).regs = d.regs := rfl
@[simp] theorem Dev.post_doms (d : Dev) (m : Instr) : (d.post m).doms = d.doms := rfl
@[simp] theorem Dev.post_units (d : Dev) (m : Instr) : (d.post m).units = d.units := rfl
@[simp] theorem Dev.post_mem (d : Dev) (m : Instr) : (d.post m).mem = d.mem := rfl
@[simp] theorem Dev.post_marks (d : Dev) (m : Instr) : (d.post m).marks = d.marks := rfl
@[simp] theorem Dev.post_clock (d : Dev) (m : Instr) : (d.post m).clock = d.clock := rfl
@[simp] theorem Dev.post_harts (d : Dev) (m : Instr) : (d.post m).harts = d.harts := rfl
@[simp] theorem Dev.post_insts (d : Dev) (m : Instr) : (d.post m).insts = d.insts := rfl
@[simp] theorem Dev.post_jobs (d : Dev) (m : Instr) : (d.post m).jobs = d.jobs := rfl
@[simp] theorem Dev.post_nextJob (d : Dev) (m : Instr) : (d.post m).nextJob = d.nextJob := rfl
@[simp] theorem Dev.post_slots (d : Dev) (m : Instr) : (d.post m).slots = d.slots := rfl
@[simp] theorem Dev.post_moves (d : Dev) (m : Instr) : (d.post m).moves = d.moves := rfl
@[simp] theorem Dev.post_engs (d : Dev) (m : Instr) : (d.post m).engs = d.engs := rfl
@[simp] theorem Dev.post_mgmt (d : Dev) (m : Instr) : (d.post m).mgmt = d.mgmt := rfl
@[simp] theorem Dev.post_attKeys (d : Dev) (m : Instr) : (d.post m).attKeys = d.attKeys := rfl
@[simp] theorem Dev.post_ks (d : Dev) (m : Instr) : (d.post m).ks = d.ks := rfl
@[simp] theorem Dev.post_jns (d : Dev) (m : Instr) : (d.post m).jns = d.jns := rfl
@[simp] theorem Dev.post_ck (d : Dev) (m : Instr) : (d.post m).ck = d.ck := rfl
@[simp] theorem Dev.post_drbgs (d : Dev) (m : Instr) : (d.post m).drbgs = d.drbgs := rfl
@[simp] theorem Dev.post_sides (d : Dev) (m : Instr) : (d.post m).sides = d.sides := rfl
@[simp] theorem Dev.post_tcache (d : Dev) (m : Instr) : (d.post m).tcache = d.tcache := rfl
@[simp] theorem Dev.post_dfSaved (d : Dev) (m : Instr) : (d.post m).dfSaved = d.dfSaved := rfl
@[simp] theorem Dev.post_paused (d : Dev) (m : Instr) : (d.post m).paused = d.paused := rfl
@[simp] theorem Dev.post_ring (d : Dev) (m : Instr) : (d.post m).ring = d.ring := rfl
@[simp] theorem Dev.post_mbox (d : Dev) (m : Instr) : (d.post m).mbox = d.mbox := rfl
@[simp] theorem Dev.post_staged (d : Dev) (m : Instr) : (d.post m).staged = d.staged := rfl
@[simp] theorem Dev.post_resp (d : Dev) (m : Instr) : (d.post m).resp = d.resp := rfl
@[simp] theorem Dev.post_waiting (d : Dev) (m : Instr) : (d.post m).waiting = d.waiting := rfl
@[simp] theorem Dev.post_fus (d : Dev) (m : Instr) : (d.post m).fus = d.fus := rfl
@[simp] theorem Dev.post_homes (d : Dev) (m : Instr) : (d.post m).homes = d.homes := rfl
@[simp] theorem Dev.post_pewter (d : Dev) (m : Instr) : (d.post m).pewter = d.pewter := rfl
@[simp] theorem Dev.post_pwJob (d : Dev) (m : Instr) : (d.post m).pwJob = d.pwJob := rfl
@[simp] theorem Dev.post_filters (d : Dev) (m : Instr) : (d.post m).filters = d.filters := rfl
@[simp] theorem Dev.post_adapters (d : Dev) (m : Instr) : (d.post m).adapters = d.adapters := rfl
@[simp] theorem Dev.post_chans (d : Dev) (m : Instr) : (d.post m).chans = d.chans := rfl
@[simp] theorem Dev.post_hf (d : Dev) (m : Instr) : (d.post m).hf = d.hf := rfl
@[simp] theorem Dev.post_remote (d : Dev) (m : Instr) : (d.post m).remote = d.remote := rfl
@[simp] theorem Dev.post_mcs (d : Dev) (m : Instr) : (d.post m).mcs = d.mcs := rfl
@[simp] theorem Dev.post_iommu (d : Dev) (m : Instr) : (d.post m).iommu = d.iommu := rfl
@[simp] theorem Dev.post_tk (d : Dev) (m : Instr) : (d.post m).tk = d.tk := rfl
@[simp] theorem Dev.post_part (d : Dev) (m : Instr) : (d.post m).part = d.part := rfl
@[simp] theorem Dev.post_boot (d : Dev) (m : Instr) : (d.post m).boot = d.boot := rfl
@[simp] theorem Dev.post_cnt (d : Dev) (m : Instr) : (d.post m).cnt = d.cnt := rfl
@[simp] theorem Dev.post_dimms (d : Dev) (m : Instr) : (d.post m).dimms = d.dimms := rfl
@[simp] theorem Dev.post_pins (d : Dev) (m : Instr) : (d.post m).pins = d.pins := rfl
@[simp] theorem Dev.post_power (d : Dev) (m : Instr) : (d.post m).power = d.power := rfl
@[simp] theorem Dev.post_aplic (d : Dev) (m : Instr) : (d.post m).aplic = d.aplic := rfl
@[simp] theorem Dev.post_arb (d : Dev) (m : Instr) : (d.post m).arb = d.arb := rfl
@[simp] theorem Dev.post_resetting (d : Dev) (m : Instr) : (d.post m).resetting = d.resetting := rfl
@[simp] theorem Dev.post_jtag (d : Dev) (m : Instr) : (d.post m).jtag = d.jtag := rfl
@[simp] theorem Dev.post_fuses (d : Dev) (m : Instr) : (d.post m).fuses = d.fuses := rfl
@[simp] theorem Dev.post_latch (d : Dev) (m : Instr) : (d.post m).latch = d.latch := rfl
@[simp] theorem Dev.post_flash (d : Dev) (m : Instr) : (d.post m).flash = d.flash := rfl
@[simp] theorem Dev.post_flashBad (d : Dev) (m : Instr) : (d.post m).flashBad = d.flashBad := rfl
@[simp] theorem Dev.post_flashMode (d : Dev) (m : Instr) : (d.post m).flashMode = d.flashMode := rfl
@[simp] theorem Dev.post_fresh (d : Dev) (m : Instr) : (d.post m).fresh = d.fresh := rfl

@[simp] theorem Dev.touchSession_regs (d : Dev) (p : Path) : (d.touchSession p).regs = d.regs := by cases p <;> simp only [Dev.touchSession] <;> (try split) <;> rfl
@[simp] theorem Dev.touchSession_doms (d : Dev) (p : Path) : (d.touchSession p).doms = d.doms := by cases p <;> simp only [Dev.touchSession] <;> (try split) <;> rfl
@[simp] theorem Dev.touchSession_units (d : Dev) (p : Path) : (d.touchSession p).units = d.units := by cases p <;> simp only [Dev.touchSession] <;> (try split) <;> rfl
@[simp] theorem Dev.touchSession_mem (d : Dev) (p : Path) : (d.touchSession p).mem = d.mem := by cases p <;> simp only [Dev.touchSession] <;> (try split) <;> rfl
@[simp] theorem Dev.touchSession_marks (d : Dev) (p : Path) : (d.touchSession p).marks = d.marks := by cases p <;> simp only [Dev.touchSession] <;> (try split) <;> rfl
@[simp] theorem Dev.touchSession_clock (d : Dev) (p : Path) : (d.touchSession p).clock = d.clock := by cases p <;> simp only [Dev.touchSession] <;> (try split) <;> rfl
@[simp] theorem Dev.touchSession_harts (d : Dev) (p : Path) : (d.touchSession p).harts = d.harts := by cases p <;> simp only [Dev.touchSession] <;> (try split) <;> rfl
@[simp] theorem Dev.touchSession_insts (d : Dev) (p : Path) : (d.touchSession p).insts = d.insts := by cases p <;> simp only [Dev.touchSession] <;> (try split) <;> rfl
@[simp] theorem Dev.touchSession_jobs (d : Dev) (p : Path) : (d.touchSession p).jobs = d.jobs := by cases p <;> simp only [Dev.touchSession] <;> (try split) <;> rfl
@[simp] theorem Dev.touchSession_nextJob (d : Dev) (p : Path) : (d.touchSession p).nextJob = d.nextJob := by cases p <;> simp only [Dev.touchSession] <;> (try split) <;> rfl
@[simp] theorem Dev.touchSession_slots (d : Dev) (p : Path) : (d.touchSession p).slots = d.slots := by cases p <;> simp only [Dev.touchSession] <;> (try split) <;> rfl
@[simp] theorem Dev.touchSession_moves (d : Dev) (p : Path) : (d.touchSession p).moves = d.moves := by cases p <;> simp only [Dev.touchSession] <;> (try split) <;> rfl
@[simp] theorem Dev.touchSession_engs (d : Dev) (p : Path) : (d.touchSession p).engs = d.engs := by cases p <;> simp only [Dev.touchSession] <;> (try split) <;> rfl
@[simp] theorem Dev.touchSession_mgmt (d : Dev) (p : Path) : (d.touchSession p).mgmt = d.mgmt := by cases p <;> simp only [Dev.touchSession] <;> (try split) <;> rfl
@[simp] theorem Dev.touchSession_attKeys (d : Dev) (p : Path) : (d.touchSession p).attKeys = d.attKeys := by cases p <;> simp only [Dev.touchSession] <;> (try split) <;> rfl
@[simp] theorem Dev.touchSession_ks (d : Dev) (p : Path) : (d.touchSession p).ks = d.ks := by cases p <;> simp only [Dev.touchSession] <;> (try split) <;> rfl
@[simp] theorem Dev.touchSession_jns (d : Dev) (p : Path) : (d.touchSession p).jns = d.jns := by cases p <;> simp only [Dev.touchSession] <;> (try split) <;> rfl
@[simp] theorem Dev.touchSession_ck (d : Dev) (p : Path) : (d.touchSession p).ck = d.ck := by cases p <;> simp only [Dev.touchSession] <;> (try split) <;> rfl
@[simp] theorem Dev.touchSession_drbgs (d : Dev) (p : Path) : (d.touchSession p).drbgs = d.drbgs := by cases p <;> simp only [Dev.touchSession] <;> (try split) <;> rfl
@[simp] theorem Dev.touchSession_sides (d : Dev) (p : Path) : (d.touchSession p).sides = d.sides := by cases p <;> simp only [Dev.touchSession] <;> (try split) <;> rfl
@[simp] theorem Dev.touchSession_tcache (d : Dev) (p : Path) : (d.touchSession p).tcache = d.tcache := by cases p <;> simp only [Dev.touchSession] <;> (try split) <;> rfl
@[simp] theorem Dev.touchSession_dfSaved (d : Dev) (p : Path) : (d.touchSession p).dfSaved = d.dfSaved := by cases p <;> simp only [Dev.touchSession] <;> (try split) <;> rfl
@[simp] theorem Dev.touchSession_paused (d : Dev) (p : Path) : (d.touchSession p).paused = d.paused := by cases p <;> simp only [Dev.touchSession] <;> (try split) <;> rfl
@[simp] theorem Dev.touchSession_mbox (d : Dev) (p : Path) : (d.touchSession p).mbox = d.mbox := by cases p <;> simp only [Dev.touchSession] <;> (try split) <;> rfl
@[simp] theorem Dev.touchSession_staged (d : Dev) (p : Path) : (d.touchSession p).staged = d.staged := by cases p <;> simp only [Dev.touchSession] <;> (try split) <;> rfl
@[simp] theorem Dev.touchSession_resp (d : Dev) (p : Path) : (d.touchSession p).resp = d.resp := by cases p <;> simp only [Dev.touchSession] <;> (try split) <;> rfl
@[simp] theorem Dev.touchSession_waiting (d : Dev) (p : Path) : (d.touchSession p).waiting = d.waiting := by cases p <;> simp only [Dev.touchSession] <;> (try split) <;> rfl
@[simp] theorem Dev.touchSession_fus (d : Dev) (p : Path) : (d.touchSession p).fus = d.fus := by cases p <;> simp only [Dev.touchSession] <;> (try split) <;> rfl
@[simp] theorem Dev.touchSession_homes (d : Dev) (p : Path) : (d.touchSession p).homes = d.homes := by cases p <;> simp only [Dev.touchSession] <;> (try split) <;> rfl
@[simp] theorem Dev.touchSession_pewter (d : Dev) (p : Path) : (d.touchSession p).pewter = d.pewter := by cases p <;> simp only [Dev.touchSession] <;> (try split) <;> rfl
@[simp] theorem Dev.touchSession_pwJob (d : Dev) (p : Path) : (d.touchSession p).pwJob = d.pwJob := by cases p <;> simp only [Dev.touchSession] <;> (try split) <;> rfl
@[simp] theorem Dev.touchSession_filters (d : Dev) (p : Path) : (d.touchSession p).filters = d.filters := by cases p <;> simp only [Dev.touchSession] <;> (try split) <;> rfl
@[simp] theorem Dev.touchSession_fab (d : Dev) (p : Path) : (d.touchSession p).fab = d.fab := by cases p <;> simp only [Dev.touchSession] <;> (try split) <;> rfl
@[simp] theorem Dev.touchSession_adapters (d : Dev) (p : Path) : (d.touchSession p).adapters = d.adapters := by cases p <;> simp only [Dev.touchSession] <;> (try split) <;> rfl
@[simp] theorem Dev.touchSession_chans (d : Dev) (p : Path) : (d.touchSession p).chans = d.chans := by cases p <;> simp only [Dev.touchSession] <;> (try split) <;> rfl
@[simp] theorem Dev.touchSession_hf (d : Dev) (p : Path) : (d.touchSession p).hf = d.hf := by cases p <;> simp only [Dev.touchSession] <;> (try split) <;> rfl
@[simp] theorem Dev.touchSession_remote (d : Dev) (p : Path) : (d.touchSession p).remote = d.remote := by cases p <;> simp only [Dev.touchSession] <;> (try split) <;> rfl
@[simp] theorem Dev.touchSession_mcs (d : Dev) (p : Path) : (d.touchSession p).mcs = d.mcs := by cases p <;> simp only [Dev.touchSession] <;> (try split) <;> rfl
@[simp] theorem Dev.touchSession_iommu (d : Dev) (p : Path) : (d.touchSession p).iommu = d.iommu := by cases p <;> simp only [Dev.touchSession] <;> (try split) <;> rfl
@[simp] theorem Dev.touchSession_tk (d : Dev) (p : Path) : (d.touchSession p).tk = d.tk := by cases p <;> simp only [Dev.touchSession] <;> (try split) <;> rfl
@[simp] theorem Dev.touchSession_part (d : Dev) (p : Path) : (d.touchSession p).part = d.part := by cases p <;> simp only [Dev.touchSession] <;> (try split) <;> rfl
@[simp] theorem Dev.touchSession_boot (d : Dev) (p : Path) : (d.touchSession p).boot = d.boot := by cases p <;> simp only [Dev.touchSession] <;> (try split) <;> rfl
@[simp] theorem Dev.touchSession_cnt (d : Dev) (p : Path) : (d.touchSession p).cnt = d.cnt := by cases p <;> simp only [Dev.touchSession] <;> (try split) <;> rfl
@[simp] theorem Dev.touchSession_dimms (d : Dev) (p : Path) : (d.touchSession p).dimms = d.dimms := by cases p <;> simp only [Dev.touchSession] <;> (try split) <;> rfl
@[simp] theorem Dev.touchSession_pins (d : Dev) (p : Path) : (d.touchSession p).pins = d.pins := by cases p <;> simp only [Dev.touchSession] <;> (try split) <;> rfl
@[simp] theorem Dev.touchSession_power (d : Dev) (p : Path) : (d.touchSession p).power = d.power := by cases p <;> simp only [Dev.touchSession] <;> (try split) <;> rfl
@[simp] theorem Dev.touchSession_aplic (d : Dev) (p : Path) : (d.touchSession p).aplic = d.aplic := by cases p <;> simp only [Dev.touchSession] <;> (try split) <;> rfl
@[simp] theorem Dev.touchSession_arb (d : Dev) (p : Path) : (d.touchSession p).arb = d.arb := by cases p <;> simp only [Dev.touchSession] <;> (try split) <;> rfl
@[simp] theorem Dev.touchSession_resetting (d : Dev) (p : Path) : (d.touchSession p).resetting = d.resetting := by cases p <;> simp only [Dev.touchSession] <;> (try split) <;> rfl
@[simp] theorem Dev.touchSession_jtag (d : Dev) (p : Path) : (d.touchSession p).jtag = d.jtag := by cases p <;> simp only [Dev.touchSession] <;> (try split) <;> rfl
@[simp] theorem Dev.touchSession_fuses (d : Dev) (p : Path) : (d.touchSession p).fuses = d.fuses := by cases p <;> simp only [Dev.touchSession] <;> (try split) <;> rfl
@[simp] theorem Dev.touchSession_latch (d : Dev) (p : Path) : (d.touchSession p).latch = d.latch := by cases p <;> simp only [Dev.touchSession] <;> (try split) <;> rfl
@[simp] theorem Dev.touchSession_flash (d : Dev) (p : Path) : (d.touchSession p).flash = d.flash := by cases p <;> simp only [Dev.touchSession] <;> (try split) <;> rfl
@[simp] theorem Dev.touchSession_flashBad (d : Dev) (p : Path) : (d.touchSession p).flashBad = d.flashBad := by cases p <;> simp only [Dev.touchSession] <;> (try split) <;> rfl
@[simp] theorem Dev.touchSession_flashMode (d : Dev) (p : Path) : (d.touchSession p).flashMode = d.flashMode := by cases p <;> simp only [Dev.touchSession] <;> (try split) <;> rfl
@[simp] theorem Dev.touchSession_fresh (d : Dev) (p : Path) : (d.touchSession p).fresh = d.fresh := by cases p <;> simp only [Dev.touchSession] <;> (try split) <;> rfl

@[simp] theorem Dev.sendFault_doms (d : Dev) (src : Nat) (m : FaultMsg) : (d.sendFault src m).doms = d.doms := by unfold Dev.sendFault; simp only; split <;> rfl
@[simp] theorem Dev.sendFault_units (d : Dev) (src : Nat) (m : FaultMsg) : (d.sendFault src m).units = d.units := by unfold Dev.sendFault; simp only; split <;> rfl
@[simp] theorem Dev.sendFault_mem (d : Dev) (src : Nat) (m : FaultMsg) : (d.sendFault src m).mem = d.mem := by unfold Dev.sendFault; simp only; split <;> rfl
@[simp] theorem Dev.sendFault_marks (d : Dev) (src : Nat) (m : FaultMsg) : (d.sendFault src m).marks = d.marks := by unfold Dev.sendFault; simp only; split <;> rfl
@[simp] theorem Dev.sendFault_clock (d : Dev) (src : Nat) (m : FaultMsg) : (d.sendFault src m).clock = d.clock := by unfold Dev.sendFault; simp only; split <;> rfl
@[simp] theorem Dev.sendFault_harts (d : Dev) (src : Nat) (m : FaultMsg) : (d.sendFault src m).harts = d.harts := by unfold Dev.sendFault; simp only; split <;> rfl
@[simp] theorem Dev.sendFault_insts (d : Dev) (src : Nat) (m : FaultMsg) : (d.sendFault src m).insts = d.insts := by unfold Dev.sendFault; simp only; split <;> rfl
@[simp] theorem Dev.sendFault_jobs (d : Dev) (src : Nat) (m : FaultMsg) : (d.sendFault src m).jobs = d.jobs := by unfold Dev.sendFault; simp only; split <;> rfl
@[simp] theorem Dev.sendFault_nextJob (d : Dev) (src : Nat) (m : FaultMsg) : (d.sendFault src m).nextJob = d.nextJob := by unfold Dev.sendFault; simp only; split <;> rfl
@[simp] theorem Dev.sendFault_slots (d : Dev) (src : Nat) (m : FaultMsg) : (d.sendFault src m).slots = d.slots := by unfold Dev.sendFault; simp only; split <;> rfl
@[simp] theorem Dev.sendFault_moves (d : Dev) (src : Nat) (m : FaultMsg) : (d.sendFault src m).moves = d.moves := by unfold Dev.sendFault; simp only; split <;> rfl
@[simp] theorem Dev.sendFault_engs (d : Dev) (src : Nat) (m : FaultMsg) : (d.sendFault src m).engs = d.engs := by unfold Dev.sendFault; simp only; split <;> rfl
@[simp] theorem Dev.sendFault_mgmt (d : Dev) (src : Nat) (m : FaultMsg) : (d.sendFault src m).mgmt = d.mgmt := by unfold Dev.sendFault; simp only; split <;> rfl
@[simp] theorem Dev.sendFault_attKeys (d : Dev) (src : Nat) (m : FaultMsg) : (d.sendFault src m).attKeys = d.attKeys := by unfold Dev.sendFault; simp only; split <;> rfl
@[simp] theorem Dev.sendFault_ks (d : Dev) (src : Nat) (m : FaultMsg) : (d.sendFault src m).ks = d.ks := by unfold Dev.sendFault; simp only; split <;> rfl
@[simp] theorem Dev.sendFault_jns (d : Dev) (src : Nat) (m : FaultMsg) : (d.sendFault src m).jns = d.jns := by unfold Dev.sendFault; simp only; split <;> rfl
@[simp] theorem Dev.sendFault_ck (d : Dev) (src : Nat) (m : FaultMsg) : (d.sendFault src m).ck = d.ck := by unfold Dev.sendFault; simp only; split <;> rfl
@[simp] theorem Dev.sendFault_drbgs (d : Dev) (src : Nat) (m : FaultMsg) : (d.sendFault src m).drbgs = d.drbgs := by unfold Dev.sendFault; simp only; split <;> rfl
@[simp] theorem Dev.sendFault_sides (d : Dev) (src : Nat) (m : FaultMsg) : (d.sendFault src m).sides = d.sides := by unfold Dev.sendFault; simp only; split <;> rfl
@[simp] theorem Dev.sendFault_tcache (d : Dev) (src : Nat) (m : FaultMsg) : (d.sendFault src m).tcache = d.tcache := by unfold Dev.sendFault; simp only; split <;> rfl
@[simp] theorem Dev.sendFault_dfSaved (d : Dev) (src : Nat) (m : FaultMsg) : (d.sendFault src m).dfSaved = d.dfSaved := by unfold Dev.sendFault; simp only; split <;> rfl
@[simp] theorem Dev.sendFault_paused (d : Dev) (src : Nat) (m : FaultMsg) : (d.sendFault src m).paused = d.paused := by unfold Dev.sendFault; simp only; split <;> rfl
@[simp] theorem Dev.sendFault_ring (d : Dev) (src : Nat) (m : FaultMsg) : (d.sendFault src m).ring = d.ring := by unfold Dev.sendFault; simp only; split <;> rfl
@[simp] theorem Dev.sendFault_mbox (d : Dev) (src : Nat) (m : FaultMsg) : (d.sendFault src m).mbox = d.mbox := by unfold Dev.sendFault; simp only; split <;> rfl
@[simp] theorem Dev.sendFault_staged (d : Dev) (src : Nat) (m : FaultMsg) : (d.sendFault src m).staged = d.staged := by unfold Dev.sendFault; simp only; split <;> rfl
@[simp] theorem Dev.sendFault_resp (d : Dev) (src : Nat) (m : FaultMsg) : (d.sendFault src m).resp = d.resp := by unfold Dev.sendFault; simp only; split <;> rfl
@[simp] theorem Dev.sendFault_waiting (d : Dev) (src : Nat) (m : FaultMsg) : (d.sendFault src m).waiting = d.waiting := by unfold Dev.sendFault; simp only; split <;> rfl
@[simp] theorem Dev.sendFault_homes (d : Dev) (src : Nat) (m : FaultMsg) : (d.sendFault src m).homes = d.homes := by unfold Dev.sendFault; simp only; split <;> rfl
@[simp] theorem Dev.sendFault_pewter (d : Dev) (src : Nat) (m : FaultMsg) : (d.sendFault src m).pewter = d.pewter := by unfold Dev.sendFault; simp only; split <;> rfl
@[simp] theorem Dev.sendFault_pwJob (d : Dev) (src : Nat) (m : FaultMsg) : (d.sendFault src m).pwJob = d.pwJob := by unfold Dev.sendFault; simp only; split <;> rfl
@[simp] theorem Dev.sendFault_filters (d : Dev) (src : Nat) (m : FaultMsg) : (d.sendFault src m).filters = d.filters := by unfold Dev.sendFault; simp only; split <;> rfl
@[simp] theorem Dev.sendFault_fab (d : Dev) (src : Nat) (m : FaultMsg) : (d.sendFault src m).fab = d.fab := by unfold Dev.sendFault; simp only; split <;> rfl
@[simp] theorem Dev.sendFault_adapters (d : Dev) (src : Nat) (m : FaultMsg) : (d.sendFault src m).adapters = d.adapters := by unfold Dev.sendFault; simp only; split <;> rfl
@[simp] theorem Dev.sendFault_chans (d : Dev) (src : Nat) (m : FaultMsg) : (d.sendFault src m).chans = d.chans := by unfold Dev.sendFault; simp only; split <;> rfl
@[simp] theorem Dev.sendFault_hf (d : Dev) (src : Nat) (m : FaultMsg) : (d.sendFault src m).hf = d.hf := by unfold Dev.sendFault; simp only; split <;> rfl
@[simp] theorem Dev.sendFault_remote (d : Dev) (src : Nat) (m : FaultMsg) : (d.sendFault src m).remote = d.remote := by unfold Dev.sendFault; simp only; split <;> rfl
@[simp] theorem Dev.sendFault_mcs (d : Dev) (src : Nat) (m : FaultMsg) : (d.sendFault src m).mcs = d.mcs := by unfold Dev.sendFault; simp only; split <;> rfl
@[simp] theorem Dev.sendFault_iommu (d : Dev) (src : Nat) (m : FaultMsg) : (d.sendFault src m).iommu = d.iommu := by unfold Dev.sendFault; simp only; split <;> rfl
@[simp] theorem Dev.sendFault_tk (d : Dev) (src : Nat) (m : FaultMsg) : (d.sendFault src m).tk = d.tk := by unfold Dev.sendFault; simp only; split <;> rfl
@[simp] theorem Dev.sendFault_part (d : Dev) (src : Nat) (m : FaultMsg) : (d.sendFault src m).part = d.part := by unfold Dev.sendFault; simp only; split <;> rfl
@[simp] theorem Dev.sendFault_boot (d : Dev) (src : Nat) (m : FaultMsg) : (d.sendFault src m).boot = d.boot := by unfold Dev.sendFault; simp only; split <;> rfl
@[simp] theorem Dev.sendFault_cnt (d : Dev) (src : Nat) (m : FaultMsg) : (d.sendFault src m).cnt = d.cnt := by unfold Dev.sendFault; simp only; split <;> rfl
@[simp] theorem Dev.sendFault_dimms (d : Dev) (src : Nat) (m : FaultMsg) : (d.sendFault src m).dimms = d.dimms := by unfold Dev.sendFault; simp only; split <;> rfl
@[simp] theorem Dev.sendFault_pins (d : Dev) (src : Nat) (m : FaultMsg) : (d.sendFault src m).pins = d.pins := by unfold Dev.sendFault; simp only; split <;> rfl
@[simp] theorem Dev.sendFault_power (d : Dev) (src : Nat) (m : FaultMsg) : (d.sendFault src m).power = d.power := by unfold Dev.sendFault; simp only; split <;> rfl
@[simp] theorem Dev.sendFault_aplic (d : Dev) (src : Nat) (m : FaultMsg) : (d.sendFault src m).aplic = d.aplic := by unfold Dev.sendFault; simp only; split <;> rfl
@[simp] theorem Dev.sendFault_arb (d : Dev) (src : Nat) (m : FaultMsg) : (d.sendFault src m).arb = d.arb := by unfold Dev.sendFault; simp only; split <;> rfl
@[simp] theorem Dev.sendFault_resetting (d : Dev) (src : Nat) (m : FaultMsg) : (d.sendFault src m).resetting = d.resetting := by unfold Dev.sendFault; simp only; split <;> rfl
@[simp] theorem Dev.sendFault_jtag (d : Dev) (src : Nat) (m : FaultMsg) : (d.sendFault src m).jtag = d.jtag := by unfold Dev.sendFault; simp only; split <;> rfl
@[simp] theorem Dev.sendFault_fuses (d : Dev) (src : Nat) (m : FaultMsg) : (d.sendFault src m).fuses = d.fuses := by unfold Dev.sendFault; simp only; split <;> rfl
@[simp] theorem Dev.sendFault_latch (d : Dev) (src : Nat) (m : FaultMsg) : (d.sendFault src m).latch = d.latch := by unfold Dev.sendFault; simp only; split <;> rfl
@[simp] theorem Dev.sendFault_flash (d : Dev) (src : Nat) (m : FaultMsg) : (d.sendFault src m).flash = d.flash := by unfold Dev.sendFault; simp only; split <;> rfl
@[simp] theorem Dev.sendFault_flashBad (d : Dev) (src : Nat) (m : FaultMsg) : (d.sendFault src m).flashBad = d.flashBad := by unfold Dev.sendFault; simp only; split <;> rfl
@[simp] theorem Dev.sendFault_flashMode (d : Dev) (src : Nat) (m : FaultMsg) : (d.sendFault src m).flashMode = d.flashMode := by unfold Dev.sendFault; simp only; split <;> rfl
@[simp] theorem Dev.sendFault_fresh (d : Dev) (src : Nat) (m : FaultMsg) : (d.sendFault src m).fresh = d.fresh := by unfold Dev.sendFault; simp only; split <;> rfl

@[simp] theorem Dev.raise_doms (d : Dev) (kind src syn : Nat) : (d.raise kind src syn).doms = d.doms := Dev.sendFault_doms _ _ _
@[simp] theorem Dev.raise_units (d : Dev) (kind src syn : Nat) : (d.raise kind src syn).units = d.units := Dev.sendFault_units _ _ _
@[simp] theorem Dev.raise_mem (d : Dev) (kind src syn : Nat) : (d.raise kind src syn).mem = d.mem := Dev.sendFault_mem _ _ _
@[simp] theorem Dev.raise_marks (d : Dev) (kind src syn : Nat) : (d.raise kind src syn).marks = d.marks := Dev.sendFault_marks _ _ _
@[simp] theorem Dev.raise_clock (d : Dev) (kind src syn : Nat) : (d.raise kind src syn).clock = d.clock := Dev.sendFault_clock _ _ _
@[simp] theorem Dev.raise_harts (d : Dev) (kind src syn : Nat) : (d.raise kind src syn).harts = d.harts := Dev.sendFault_harts _ _ _
@[simp] theorem Dev.raise_insts (d : Dev) (kind src syn : Nat) : (d.raise kind src syn).insts = d.insts := Dev.sendFault_insts _ _ _
@[simp] theorem Dev.raise_jobs (d : Dev) (kind src syn : Nat) : (d.raise kind src syn).jobs = d.jobs := Dev.sendFault_jobs _ _ _
@[simp] theorem Dev.raise_nextJob (d : Dev) (kind src syn : Nat) : (d.raise kind src syn).nextJob = d.nextJob := Dev.sendFault_nextJob _ _ _
@[simp] theorem Dev.raise_slots (d : Dev) (kind src syn : Nat) : (d.raise kind src syn).slots = d.slots := Dev.sendFault_slots _ _ _
@[simp] theorem Dev.raise_moves (d : Dev) (kind src syn : Nat) : (d.raise kind src syn).moves = d.moves := Dev.sendFault_moves _ _ _
@[simp] theorem Dev.raise_engs (d : Dev) (kind src syn : Nat) : (d.raise kind src syn).engs = d.engs := Dev.sendFault_engs _ _ _
@[simp] theorem Dev.raise_mgmt (d : Dev) (kind src syn : Nat) : (d.raise kind src syn).mgmt = d.mgmt := Dev.sendFault_mgmt _ _ _
@[simp] theorem Dev.raise_attKeys (d : Dev) (kind src syn : Nat) : (d.raise kind src syn).attKeys = d.attKeys := Dev.sendFault_attKeys _ _ _
@[simp] theorem Dev.raise_ks (d : Dev) (kind src syn : Nat) : (d.raise kind src syn).ks = d.ks := Dev.sendFault_ks _ _ _
@[simp] theorem Dev.raise_jns (d : Dev) (kind src syn : Nat) : (d.raise kind src syn).jns = d.jns := Dev.sendFault_jns _ _ _
@[simp] theorem Dev.raise_ck (d : Dev) (kind src syn : Nat) : (d.raise kind src syn).ck = d.ck := Dev.sendFault_ck _ _ _
@[simp] theorem Dev.raise_drbgs (d : Dev) (kind src syn : Nat) : (d.raise kind src syn).drbgs = d.drbgs := Dev.sendFault_drbgs _ _ _
@[simp] theorem Dev.raise_sides (d : Dev) (kind src syn : Nat) : (d.raise kind src syn).sides = d.sides := Dev.sendFault_sides _ _ _
@[simp] theorem Dev.raise_tcache (d : Dev) (kind src syn : Nat) : (d.raise kind src syn).tcache = d.tcache := Dev.sendFault_tcache _ _ _
@[simp] theorem Dev.raise_dfSaved (d : Dev) (kind src syn : Nat) : (d.raise kind src syn).dfSaved = d.dfSaved := Dev.sendFault_dfSaved _ _ _
@[simp] theorem Dev.raise_paused (d : Dev) (kind src syn : Nat) : (d.raise kind src syn).paused = d.paused := Dev.sendFault_paused _ _ _
@[simp] theorem Dev.raise_ring (d : Dev) (kind src syn : Nat) : (d.raise kind src syn).ring = d.ring := Dev.sendFault_ring _ _ _
@[simp] theorem Dev.raise_mbox (d : Dev) (kind src syn : Nat) : (d.raise kind src syn).mbox = d.mbox := Dev.sendFault_mbox _ _ _
@[simp] theorem Dev.raise_staged (d : Dev) (kind src syn : Nat) : (d.raise kind src syn).staged = d.staged := Dev.sendFault_staged _ _ _
@[simp] theorem Dev.raise_resp (d : Dev) (kind src syn : Nat) : (d.raise kind src syn).resp = d.resp := Dev.sendFault_resp _ _ _
@[simp] theorem Dev.raise_waiting (d : Dev) (kind src syn : Nat) : (d.raise kind src syn).waiting = d.waiting := Dev.sendFault_waiting _ _ _
@[simp] theorem Dev.raise_homes (d : Dev) (kind src syn : Nat) : (d.raise kind src syn).homes = d.homes := Dev.sendFault_homes _ _ _
@[simp] theorem Dev.raise_pewter (d : Dev) (kind src syn : Nat) : (d.raise kind src syn).pewter = d.pewter := Dev.sendFault_pewter _ _ _
@[simp] theorem Dev.raise_pwJob (d : Dev) (kind src syn : Nat) : (d.raise kind src syn).pwJob = d.pwJob := Dev.sendFault_pwJob _ _ _
@[simp] theorem Dev.raise_filters (d : Dev) (kind src syn : Nat) : (d.raise kind src syn).filters = d.filters := Dev.sendFault_filters _ _ _
@[simp] theorem Dev.raise_fab (d : Dev) (kind src syn : Nat) : (d.raise kind src syn).fab = d.fab := Dev.sendFault_fab _ _ _
@[simp] theorem Dev.raise_adapters (d : Dev) (kind src syn : Nat) : (d.raise kind src syn).adapters = d.adapters := Dev.sendFault_adapters _ _ _
@[simp] theorem Dev.raise_chans (d : Dev) (kind src syn : Nat) : (d.raise kind src syn).chans = d.chans := Dev.sendFault_chans _ _ _
@[simp] theorem Dev.raise_hf (d : Dev) (kind src syn : Nat) : (d.raise kind src syn).hf = d.hf := Dev.sendFault_hf _ _ _
@[simp] theorem Dev.raise_remote (d : Dev) (kind src syn : Nat) : (d.raise kind src syn).remote = d.remote := Dev.sendFault_remote _ _ _
@[simp] theorem Dev.raise_mcs (d : Dev) (kind src syn : Nat) : (d.raise kind src syn).mcs = d.mcs := Dev.sendFault_mcs _ _ _
@[simp] theorem Dev.raise_iommu (d : Dev) (kind src syn : Nat) : (d.raise kind src syn).iommu = d.iommu := Dev.sendFault_iommu _ _ _
@[simp] theorem Dev.raise_tk (d : Dev) (kind src syn : Nat) : (d.raise kind src syn).tk = d.tk := Dev.sendFault_tk _ _ _
@[simp] theorem Dev.raise_part (d : Dev) (kind src syn : Nat) : (d.raise kind src syn).part = d.part := Dev.sendFault_part _ _ _
@[simp] theorem Dev.raise_boot (d : Dev) (kind src syn : Nat) : (d.raise kind src syn).boot = d.boot := Dev.sendFault_boot _ _ _
@[simp] theorem Dev.raise_cnt (d : Dev) (kind src syn : Nat) : (d.raise kind src syn).cnt = d.cnt := Dev.sendFault_cnt _ _ _
@[simp] theorem Dev.raise_dimms (d : Dev) (kind src syn : Nat) : (d.raise kind src syn).dimms = d.dimms := Dev.sendFault_dimms _ _ _
@[simp] theorem Dev.raise_pins (d : Dev) (kind src syn : Nat) : (d.raise kind src syn).pins = d.pins := Dev.sendFault_pins _ _ _
@[simp] theorem Dev.raise_power (d : Dev) (kind src syn : Nat) : (d.raise kind src syn).power = d.power := Dev.sendFault_power _ _ _
@[simp] theorem Dev.raise_aplic (d : Dev) (kind src syn : Nat) : (d.raise kind src syn).aplic = d.aplic := Dev.sendFault_aplic _ _ _
@[simp] theorem Dev.raise_arb (d : Dev) (kind src syn : Nat) : (d.raise kind src syn).arb = d.arb := Dev.sendFault_arb _ _ _
@[simp] theorem Dev.raise_resetting (d : Dev) (kind src syn : Nat) : (d.raise kind src syn).resetting = d.resetting := Dev.sendFault_resetting _ _ _
@[simp] theorem Dev.raise_jtag (d : Dev) (kind src syn : Nat) : (d.raise kind src syn).jtag = d.jtag := Dev.sendFault_jtag _ _ _
@[simp] theorem Dev.raise_fuses (d : Dev) (kind src syn : Nat) : (d.raise kind src syn).fuses = d.fuses := Dev.sendFault_fuses _ _ _
@[simp] theorem Dev.raise_latch (d : Dev) (kind src syn : Nat) : (d.raise kind src syn).latch = d.latch := Dev.sendFault_latch _ _ _
@[simp] theorem Dev.raise_flash (d : Dev) (kind src syn : Nat) : (d.raise kind src syn).flash = d.flash := Dev.sendFault_flash _ _ _
@[simp] theorem Dev.raise_flashBad (d : Dev) (kind src syn : Nat) : (d.raise kind src syn).flashBad = d.flashBad := Dev.sendFault_flashBad _ _ _
@[simp] theorem Dev.raise_flashMode (d : Dev) (kind src syn : Nat) : (d.raise kind src syn).flashMode = d.flashMode := Dev.sendFault_flashMode _ _ _
@[simp] theorem Dev.raise_fresh (d : Dev) (kind src syn : Nat) : (d.raise kind src syn).fresh = d.fresh := Dev.sendFault_fresh _ _ _

@[simp] theorem Dev.raiseAt_doms (d : Dev) (kind src addr syn : Nat) : (d.raiseAt kind src addr syn).doms = d.doms := Dev.sendFault_doms _ _ _
@[simp] theorem Dev.raiseAt_units (d : Dev) (kind src addr syn : Nat) : (d.raiseAt kind src addr syn).units = d.units := Dev.sendFault_units _ _ _
@[simp] theorem Dev.raiseAt_mem (d : Dev) (kind src addr syn : Nat) : (d.raiseAt kind src addr syn).mem = d.mem := Dev.sendFault_mem _ _ _
@[simp] theorem Dev.raiseAt_marks (d : Dev) (kind src addr syn : Nat) : (d.raiseAt kind src addr syn).marks = d.marks := Dev.sendFault_marks _ _ _
@[simp] theorem Dev.raiseAt_clock (d : Dev) (kind src addr syn : Nat) : (d.raiseAt kind src addr syn).clock = d.clock := Dev.sendFault_clock _ _ _
@[simp] theorem Dev.raiseAt_harts (d : Dev) (kind src addr syn : Nat) : (d.raiseAt kind src addr syn).harts = d.harts := Dev.sendFault_harts _ _ _
@[simp] theorem Dev.raiseAt_insts (d : Dev) (kind src addr syn : Nat) : (d.raiseAt kind src addr syn).insts = d.insts := Dev.sendFault_insts _ _ _
@[simp] theorem Dev.raiseAt_jobs (d : Dev) (kind src addr syn : Nat) : (d.raiseAt kind src addr syn).jobs = d.jobs := Dev.sendFault_jobs _ _ _
@[simp] theorem Dev.raiseAt_nextJob (d : Dev) (kind src addr syn : Nat) : (d.raiseAt kind src addr syn).nextJob = d.nextJob := Dev.sendFault_nextJob _ _ _
@[simp] theorem Dev.raiseAt_slots (d : Dev) (kind src addr syn : Nat) : (d.raiseAt kind src addr syn).slots = d.slots := Dev.sendFault_slots _ _ _
@[simp] theorem Dev.raiseAt_moves (d : Dev) (kind src addr syn : Nat) : (d.raiseAt kind src addr syn).moves = d.moves := Dev.sendFault_moves _ _ _
@[simp] theorem Dev.raiseAt_engs (d : Dev) (kind src addr syn : Nat) : (d.raiseAt kind src addr syn).engs = d.engs := Dev.sendFault_engs _ _ _
@[simp] theorem Dev.raiseAt_mgmt (d : Dev) (kind src addr syn : Nat) : (d.raiseAt kind src addr syn).mgmt = d.mgmt := Dev.sendFault_mgmt _ _ _
@[simp] theorem Dev.raiseAt_attKeys (d : Dev) (kind src addr syn : Nat) : (d.raiseAt kind src addr syn).attKeys = d.attKeys := Dev.sendFault_attKeys _ _ _
@[simp] theorem Dev.raiseAt_ks (d : Dev) (kind src addr syn : Nat) : (d.raiseAt kind src addr syn).ks = d.ks := Dev.sendFault_ks _ _ _
@[simp] theorem Dev.raiseAt_jns (d : Dev) (kind src addr syn : Nat) : (d.raiseAt kind src addr syn).jns = d.jns := Dev.sendFault_jns _ _ _
@[simp] theorem Dev.raiseAt_ck (d : Dev) (kind src addr syn : Nat) : (d.raiseAt kind src addr syn).ck = d.ck := Dev.sendFault_ck _ _ _
@[simp] theorem Dev.raiseAt_drbgs (d : Dev) (kind src addr syn : Nat) : (d.raiseAt kind src addr syn).drbgs = d.drbgs := Dev.sendFault_drbgs _ _ _
@[simp] theorem Dev.raiseAt_sides (d : Dev) (kind src addr syn : Nat) : (d.raiseAt kind src addr syn).sides = d.sides := Dev.sendFault_sides _ _ _
@[simp] theorem Dev.raiseAt_tcache (d : Dev) (kind src addr syn : Nat) : (d.raiseAt kind src addr syn).tcache = d.tcache := Dev.sendFault_tcache _ _ _
@[simp] theorem Dev.raiseAt_dfSaved (d : Dev) (kind src addr syn : Nat) : (d.raiseAt kind src addr syn).dfSaved = d.dfSaved := Dev.sendFault_dfSaved _ _ _
@[simp] theorem Dev.raiseAt_paused (d : Dev) (kind src addr syn : Nat) : (d.raiseAt kind src addr syn).paused = d.paused := Dev.sendFault_paused _ _ _
@[simp] theorem Dev.raiseAt_ring (d : Dev) (kind src addr syn : Nat) : (d.raiseAt kind src addr syn).ring = d.ring := Dev.sendFault_ring _ _ _
@[simp] theorem Dev.raiseAt_mbox (d : Dev) (kind src addr syn : Nat) : (d.raiseAt kind src addr syn).mbox = d.mbox := Dev.sendFault_mbox _ _ _
@[simp] theorem Dev.raiseAt_staged (d : Dev) (kind src addr syn : Nat) : (d.raiseAt kind src addr syn).staged = d.staged := Dev.sendFault_staged _ _ _
@[simp] theorem Dev.raiseAt_resp (d : Dev) (kind src addr syn : Nat) : (d.raiseAt kind src addr syn).resp = d.resp := Dev.sendFault_resp _ _ _
@[simp] theorem Dev.raiseAt_waiting (d : Dev) (kind src addr syn : Nat) : (d.raiseAt kind src addr syn).waiting = d.waiting := Dev.sendFault_waiting _ _ _
@[simp] theorem Dev.raiseAt_homes (d : Dev) (kind src addr syn : Nat) : (d.raiseAt kind src addr syn).homes = d.homes := Dev.sendFault_homes _ _ _
@[simp] theorem Dev.raiseAt_pewter (d : Dev) (kind src addr syn : Nat) : (d.raiseAt kind src addr syn).pewter = d.pewter := Dev.sendFault_pewter _ _ _
@[simp] theorem Dev.raiseAt_pwJob (d : Dev) (kind src addr syn : Nat) : (d.raiseAt kind src addr syn).pwJob = d.pwJob := Dev.sendFault_pwJob _ _ _
@[simp] theorem Dev.raiseAt_filters (d : Dev) (kind src addr syn : Nat) : (d.raiseAt kind src addr syn).filters = d.filters := Dev.sendFault_filters _ _ _
@[simp] theorem Dev.raiseAt_fab (d : Dev) (kind src addr syn : Nat) : (d.raiseAt kind src addr syn).fab = d.fab := Dev.sendFault_fab _ _ _
@[simp] theorem Dev.raiseAt_adapters (d : Dev) (kind src addr syn : Nat) : (d.raiseAt kind src addr syn).adapters = d.adapters := Dev.sendFault_adapters _ _ _
@[simp] theorem Dev.raiseAt_chans (d : Dev) (kind src addr syn : Nat) : (d.raiseAt kind src addr syn).chans = d.chans := Dev.sendFault_chans _ _ _
@[simp] theorem Dev.raiseAt_hf (d : Dev) (kind src addr syn : Nat) : (d.raiseAt kind src addr syn).hf = d.hf := Dev.sendFault_hf _ _ _
@[simp] theorem Dev.raiseAt_remote (d : Dev) (kind src addr syn : Nat) : (d.raiseAt kind src addr syn).remote = d.remote := Dev.sendFault_remote _ _ _
@[simp] theorem Dev.raiseAt_mcs (d : Dev) (kind src addr syn : Nat) : (d.raiseAt kind src addr syn).mcs = d.mcs := Dev.sendFault_mcs _ _ _
@[simp] theorem Dev.raiseAt_iommu (d : Dev) (kind src addr syn : Nat) : (d.raiseAt kind src addr syn).iommu = d.iommu := Dev.sendFault_iommu _ _ _
@[simp] theorem Dev.raiseAt_tk (d : Dev) (kind src addr syn : Nat) : (d.raiseAt kind src addr syn).tk = d.tk := Dev.sendFault_tk _ _ _
@[simp] theorem Dev.raiseAt_part (d : Dev) (kind src addr syn : Nat) : (d.raiseAt kind src addr syn).part = d.part := Dev.sendFault_part _ _ _
@[simp] theorem Dev.raiseAt_boot (d : Dev) (kind src addr syn : Nat) : (d.raiseAt kind src addr syn).boot = d.boot := Dev.sendFault_boot _ _ _
@[simp] theorem Dev.raiseAt_cnt (d : Dev) (kind src addr syn : Nat) : (d.raiseAt kind src addr syn).cnt = d.cnt := Dev.sendFault_cnt _ _ _
@[simp] theorem Dev.raiseAt_dimms (d : Dev) (kind src addr syn : Nat) : (d.raiseAt kind src addr syn).dimms = d.dimms := Dev.sendFault_dimms _ _ _
@[simp] theorem Dev.raiseAt_pins (d : Dev) (kind src addr syn : Nat) : (d.raiseAt kind src addr syn).pins = d.pins := Dev.sendFault_pins _ _ _
@[simp] theorem Dev.raiseAt_power (d : Dev) (kind src addr syn : Nat) : (d.raiseAt kind src addr syn).power = d.power := Dev.sendFault_power _ _ _
@[simp] theorem Dev.raiseAt_aplic (d : Dev) (kind src addr syn : Nat) : (d.raiseAt kind src addr syn).aplic = d.aplic := Dev.sendFault_aplic _ _ _
@[simp] theorem Dev.raiseAt_arb (d : Dev) (kind src addr syn : Nat) : (d.raiseAt kind src addr syn).arb = d.arb := Dev.sendFault_arb _ _ _
@[simp] theorem Dev.raiseAt_resetting (d : Dev) (kind src addr syn : Nat) : (d.raiseAt kind src addr syn).resetting = d.resetting := Dev.sendFault_resetting _ _ _
@[simp] theorem Dev.raiseAt_jtag (d : Dev) (kind src addr syn : Nat) : (d.raiseAt kind src addr syn).jtag = d.jtag := Dev.sendFault_jtag _ _ _
@[simp] theorem Dev.raiseAt_fuses (d : Dev) (kind src addr syn : Nat) : (d.raiseAt kind src addr syn).fuses = d.fuses := Dev.sendFault_fuses _ _ _
@[simp] theorem Dev.raiseAt_latch (d : Dev) (kind src addr syn : Nat) : (d.raiseAt kind src addr syn).latch = d.latch := Dev.sendFault_latch _ _ _
@[simp] theorem Dev.raiseAt_flash (d : Dev) (kind src addr syn : Nat) : (d.raiseAt kind src addr syn).flash = d.flash := Dev.sendFault_flash _ _ _
@[simp] theorem Dev.raiseAt_flashBad (d : Dev) (kind src addr syn : Nat) : (d.raiseAt kind src addr syn).flashBad = d.flashBad := Dev.sendFault_flashBad _ _ _
@[simp] theorem Dev.raiseAt_flashMode (d : Dev) (kind src addr syn : Nat) : (d.raiseAt kind src addr syn).flashMode = d.flashMode := Dev.sendFault_flashMode _ _ _
@[simp] theorem Dev.raiseAt_fresh (d : Dev) (kind src addr syn : Nat) : (d.raiseAt kind src addr syn).fresh = d.fresh := Dev.sendFault_fresh _ _ _

@[simp] theorem Dev.arbitrate_regs (d : Dev) (name n : Nat) (req : Nat → Bool) : (d.arbitrate name n req).2.regs = d.regs := by unfold Dev.arbitrate; split <;> rfl
@[simp] theorem Dev.arbitrate_doms (d : Dev) (name n : Nat) (req : Nat → Bool) : (d.arbitrate name n req).2.doms = d.doms := by unfold Dev.arbitrate; split <;> rfl
@[simp] theorem Dev.arbitrate_units (d : Dev) (name n : Nat) (req : Nat → Bool) : (d.arbitrate name n req).2.units = d.units := by unfold Dev.arbitrate; split <;> rfl
@[simp] theorem Dev.arbitrate_mem (d : Dev) (name n : Nat) (req : Nat → Bool) : (d.arbitrate name n req).2.mem = d.mem := by unfold Dev.arbitrate; split <;> rfl
@[simp] theorem Dev.arbitrate_marks (d : Dev) (name n : Nat) (req : Nat → Bool) : (d.arbitrate name n req).2.marks = d.marks := by unfold Dev.arbitrate; split <;> rfl
@[simp] theorem Dev.arbitrate_clock (d : Dev) (name n : Nat) (req : Nat → Bool) : (d.arbitrate name n req).2.clock = d.clock := by unfold Dev.arbitrate; split <;> rfl
@[simp] theorem Dev.arbitrate_harts (d : Dev) (name n : Nat) (req : Nat → Bool) : (d.arbitrate name n req).2.harts = d.harts := by unfold Dev.arbitrate; split <;> rfl
@[simp] theorem Dev.arbitrate_insts (d : Dev) (name n : Nat) (req : Nat → Bool) : (d.arbitrate name n req).2.insts = d.insts := by unfold Dev.arbitrate; split <;> rfl
@[simp] theorem Dev.arbitrate_jobs (d : Dev) (name n : Nat) (req : Nat → Bool) : (d.arbitrate name n req).2.jobs = d.jobs := by unfold Dev.arbitrate; split <;> rfl
@[simp] theorem Dev.arbitrate_nextJob (d : Dev) (name n : Nat) (req : Nat → Bool) : (d.arbitrate name n req).2.nextJob = d.nextJob := by unfold Dev.arbitrate; split <;> rfl
@[simp] theorem Dev.arbitrate_slots (d : Dev) (name n : Nat) (req : Nat → Bool) : (d.arbitrate name n req).2.slots = d.slots := by unfold Dev.arbitrate; split <;> rfl
@[simp] theorem Dev.arbitrate_moves (d : Dev) (name n : Nat) (req : Nat → Bool) : (d.arbitrate name n req).2.moves = d.moves := by unfold Dev.arbitrate; split <;> rfl
@[simp] theorem Dev.arbitrate_engs (d : Dev) (name n : Nat) (req : Nat → Bool) : (d.arbitrate name n req).2.engs = d.engs := by unfold Dev.arbitrate; split <;> rfl
@[simp] theorem Dev.arbitrate_mgmt (d : Dev) (name n : Nat) (req : Nat → Bool) : (d.arbitrate name n req).2.mgmt = d.mgmt := by unfold Dev.arbitrate; split <;> rfl
@[simp] theorem Dev.arbitrate_attKeys (d : Dev) (name n : Nat) (req : Nat → Bool) : (d.arbitrate name n req).2.attKeys = d.attKeys := by unfold Dev.arbitrate; split <;> rfl
@[simp] theorem Dev.arbitrate_ks (d : Dev) (name n : Nat) (req : Nat → Bool) : (d.arbitrate name n req).2.ks = d.ks := by unfold Dev.arbitrate; split <;> rfl
@[simp] theorem Dev.arbitrate_jns (d : Dev) (name n : Nat) (req : Nat → Bool) : (d.arbitrate name n req).2.jns = d.jns := by unfold Dev.arbitrate; split <;> rfl
@[simp] theorem Dev.arbitrate_ck (d : Dev) (name n : Nat) (req : Nat → Bool) : (d.arbitrate name n req).2.ck = d.ck := by unfold Dev.arbitrate; split <;> rfl
@[simp] theorem Dev.arbitrate_drbgs (d : Dev) (name n : Nat) (req : Nat → Bool) : (d.arbitrate name n req).2.drbgs = d.drbgs := by unfold Dev.arbitrate; split <;> rfl
@[simp] theorem Dev.arbitrate_sides (d : Dev) (name n : Nat) (req : Nat → Bool) : (d.arbitrate name n req).2.sides = d.sides := by unfold Dev.arbitrate; split <;> rfl
@[simp] theorem Dev.arbitrate_tcache (d : Dev) (name n : Nat) (req : Nat → Bool) : (d.arbitrate name n req).2.tcache = d.tcache := by unfold Dev.arbitrate; split <;> rfl
@[simp] theorem Dev.arbitrate_dfSaved (d : Dev) (name n : Nat) (req : Nat → Bool) : (d.arbitrate name n req).2.dfSaved = d.dfSaved := by unfold Dev.arbitrate; split <;> rfl
@[simp] theorem Dev.arbitrate_paused (d : Dev) (name n : Nat) (req : Nat → Bool) : (d.arbitrate name n req).2.paused = d.paused := by unfold Dev.arbitrate; split <;> rfl
@[simp] theorem Dev.arbitrate_ring (d : Dev) (name n : Nat) (req : Nat → Bool) : (d.arbitrate name n req).2.ring = d.ring := by unfold Dev.arbitrate; split <;> rfl
@[simp] theorem Dev.arbitrate_mbox (d : Dev) (name n : Nat) (req : Nat → Bool) : (d.arbitrate name n req).2.mbox = d.mbox := by unfold Dev.arbitrate; split <;> rfl
@[simp] theorem Dev.arbitrate_staged (d : Dev) (name n : Nat) (req : Nat → Bool) : (d.arbitrate name n req).2.staged = d.staged := by unfold Dev.arbitrate; split <;> rfl
@[simp] theorem Dev.arbitrate_resp (d : Dev) (name n : Nat) (req : Nat → Bool) : (d.arbitrate name n req).2.resp = d.resp := by unfold Dev.arbitrate; split <;> rfl
@[simp] theorem Dev.arbitrate_waiting (d : Dev) (name n : Nat) (req : Nat → Bool) : (d.arbitrate name n req).2.waiting = d.waiting := by unfold Dev.arbitrate; split <;> rfl
@[simp] theorem Dev.arbitrate_fus (d : Dev) (name n : Nat) (req : Nat → Bool) : (d.arbitrate name n req).2.fus = d.fus := by unfold Dev.arbitrate; split <;> rfl
@[simp] theorem Dev.arbitrate_homes (d : Dev) (name n : Nat) (req : Nat → Bool) : (d.arbitrate name n req).2.homes = d.homes := by unfold Dev.arbitrate; split <;> rfl
@[simp] theorem Dev.arbitrate_pewter (d : Dev) (name n : Nat) (req : Nat → Bool) : (d.arbitrate name n req).2.pewter = d.pewter := by unfold Dev.arbitrate; split <;> rfl
@[simp] theorem Dev.arbitrate_pwJob (d : Dev) (name n : Nat) (req : Nat → Bool) : (d.arbitrate name n req).2.pwJob = d.pwJob := by unfold Dev.arbitrate; split <;> rfl
@[simp] theorem Dev.arbitrate_filters (d : Dev) (name n : Nat) (req : Nat → Bool) : (d.arbitrate name n req).2.filters = d.filters := by unfold Dev.arbitrate; split <;> rfl
@[simp] theorem Dev.arbitrate_fab (d : Dev) (name n : Nat) (req : Nat → Bool) : (d.arbitrate name n req).2.fab = d.fab := by unfold Dev.arbitrate; split <;> rfl
@[simp] theorem Dev.arbitrate_adapters (d : Dev) (name n : Nat) (req : Nat → Bool) : (d.arbitrate name n req).2.adapters = d.adapters := by unfold Dev.arbitrate; split <;> rfl
@[simp] theorem Dev.arbitrate_chans (d : Dev) (name n : Nat) (req : Nat → Bool) : (d.arbitrate name n req).2.chans = d.chans := by unfold Dev.arbitrate; split <;> rfl
@[simp] theorem Dev.arbitrate_hf (d : Dev) (name n : Nat) (req : Nat → Bool) : (d.arbitrate name n req).2.hf = d.hf := by unfold Dev.arbitrate; split <;> rfl
@[simp] theorem Dev.arbitrate_remote (d : Dev) (name n : Nat) (req : Nat → Bool) : (d.arbitrate name n req).2.remote = d.remote := by unfold Dev.arbitrate; split <;> rfl
@[simp] theorem Dev.arbitrate_mcs (d : Dev) (name n : Nat) (req : Nat → Bool) : (d.arbitrate name n req).2.mcs = d.mcs := by unfold Dev.arbitrate; split <;> rfl
@[simp] theorem Dev.arbitrate_iommu (d : Dev) (name n : Nat) (req : Nat → Bool) : (d.arbitrate name n req).2.iommu = d.iommu := by unfold Dev.arbitrate; split <;> rfl
@[simp] theorem Dev.arbitrate_tk (d : Dev) (name n : Nat) (req : Nat → Bool) : (d.arbitrate name n req).2.tk = d.tk := by unfold Dev.arbitrate; split <;> rfl
@[simp] theorem Dev.arbitrate_part (d : Dev) (name n : Nat) (req : Nat → Bool) : (d.arbitrate name n req).2.part = d.part := by unfold Dev.arbitrate; split <;> rfl
@[simp] theorem Dev.arbitrate_boot (d : Dev) (name n : Nat) (req : Nat → Bool) : (d.arbitrate name n req).2.boot = d.boot := by unfold Dev.arbitrate; split <;> rfl
@[simp] theorem Dev.arbitrate_cnt (d : Dev) (name n : Nat) (req : Nat → Bool) : (d.arbitrate name n req).2.cnt = d.cnt := by unfold Dev.arbitrate; split <;> rfl
@[simp] theorem Dev.arbitrate_dimms (d : Dev) (name n : Nat) (req : Nat → Bool) : (d.arbitrate name n req).2.dimms = d.dimms := by unfold Dev.arbitrate; split <;> rfl
@[simp] theorem Dev.arbitrate_pins (d : Dev) (name n : Nat) (req : Nat → Bool) : (d.arbitrate name n req).2.pins = d.pins := by unfold Dev.arbitrate; split <;> rfl
@[simp] theorem Dev.arbitrate_power (d : Dev) (name n : Nat) (req : Nat → Bool) : (d.arbitrate name n req).2.power = d.power := by unfold Dev.arbitrate; split <;> rfl
@[simp] theorem Dev.arbitrate_aplic (d : Dev) (name n : Nat) (req : Nat → Bool) : (d.arbitrate name n req).2.aplic = d.aplic := by unfold Dev.arbitrate; split <;> rfl
@[simp] theorem Dev.arbitrate_resetting (d : Dev) (name n : Nat) (req : Nat → Bool) : (d.arbitrate name n req).2.resetting = d.resetting := by unfold Dev.arbitrate; split <;> rfl
@[simp] theorem Dev.arbitrate_jtag (d : Dev) (name n : Nat) (req : Nat → Bool) : (d.arbitrate name n req).2.jtag = d.jtag := by unfold Dev.arbitrate; split <;> rfl
@[simp] theorem Dev.arbitrate_fuses (d : Dev) (name n : Nat) (req : Nat → Bool) : (d.arbitrate name n req).2.fuses = d.fuses := by unfold Dev.arbitrate; split <;> rfl
@[simp] theorem Dev.arbitrate_latch (d : Dev) (name n : Nat) (req : Nat → Bool) : (d.arbitrate name n req).2.latch = d.latch := by unfold Dev.arbitrate; split <;> rfl
@[simp] theorem Dev.arbitrate_flash (d : Dev) (name n : Nat) (req : Nat → Bool) : (d.arbitrate name n req).2.flash = d.flash := by unfold Dev.arbitrate; split <;> rfl
@[simp] theorem Dev.arbitrate_flashBad (d : Dev) (name n : Nat) (req : Nat → Bool) : (d.arbitrate name n req).2.flashBad = d.flashBad := by unfold Dev.arbitrate; split <;> rfl
@[simp] theorem Dev.arbitrate_flashMode (d : Dev) (name n : Nat) (req : Nat → Bool) : (d.arbitrate name n req).2.flashMode = d.flashMode := by unfold Dev.arbitrate; split <;> rfl
@[simp] theorem Dev.arbitrate_fresh (d : Dev) (name n : Nat) (req : Nat → Bool) : (d.arbitrate name n req).2.fresh = d.fresh := by unfold Dev.arbitrate; split <;> rfl

@[simp] theorem Dev.grantPort_regs (d : Dev) (name n port : Nat) : (d.grantPort name n port).regs = d.regs := Dev.arbitrate_regs _ _ _ _
@[simp] theorem Dev.grantPort_doms (d : Dev) (name n port : Nat) : (d.grantPort name n port).doms = d.doms := Dev.arbitrate_doms _ _ _ _
@[simp] theorem Dev.grantPort_units (d : Dev) (name n port : Nat) : (d.grantPort name n port).units = d.units := Dev.arbitrate_units _ _ _ _
@[simp] theorem Dev.grantPort_mem (d : Dev) (name n port : Nat) : (d.grantPort name n port).mem = d.mem := Dev.arbitrate_mem _ _ _ _
@[simp] theorem Dev.grantPort_marks (d : Dev) (name n port : Nat) : (d.grantPort name n port).marks = d.marks := Dev.arbitrate_marks _ _ _ _
@[simp] theorem Dev.grantPort_clock (d : Dev) (name n port : Nat) : (d.grantPort name n port).clock = d.clock := Dev.arbitrate_clock _ _ _ _
@[simp] theorem Dev.grantPort_harts (d : Dev) (name n port : Nat) : (d.grantPort name n port).harts = d.harts := Dev.arbitrate_harts _ _ _ _
@[simp] theorem Dev.grantPort_insts (d : Dev) (name n port : Nat) : (d.grantPort name n port).insts = d.insts := Dev.arbitrate_insts _ _ _ _
@[simp] theorem Dev.grantPort_jobs (d : Dev) (name n port : Nat) : (d.grantPort name n port).jobs = d.jobs := Dev.arbitrate_jobs _ _ _ _
@[simp] theorem Dev.grantPort_nextJob (d : Dev) (name n port : Nat) : (d.grantPort name n port).nextJob = d.nextJob := Dev.arbitrate_nextJob _ _ _ _
@[simp] theorem Dev.grantPort_slots (d : Dev) (name n port : Nat) : (d.grantPort name n port).slots = d.slots := Dev.arbitrate_slots _ _ _ _
@[simp] theorem Dev.grantPort_moves (d : Dev) (name n port : Nat) : (d.grantPort name n port).moves = d.moves := Dev.arbitrate_moves _ _ _ _
@[simp] theorem Dev.grantPort_engs (d : Dev) (name n port : Nat) : (d.grantPort name n port).engs = d.engs := Dev.arbitrate_engs _ _ _ _
@[simp] theorem Dev.grantPort_mgmt (d : Dev) (name n port : Nat) : (d.grantPort name n port).mgmt = d.mgmt := Dev.arbitrate_mgmt _ _ _ _
@[simp] theorem Dev.grantPort_attKeys (d : Dev) (name n port : Nat) : (d.grantPort name n port).attKeys = d.attKeys := Dev.arbitrate_attKeys _ _ _ _
@[simp] theorem Dev.grantPort_ks (d : Dev) (name n port : Nat) : (d.grantPort name n port).ks = d.ks := Dev.arbitrate_ks _ _ _ _
@[simp] theorem Dev.grantPort_jns (d : Dev) (name n port : Nat) : (d.grantPort name n port).jns = d.jns := Dev.arbitrate_jns _ _ _ _
@[simp] theorem Dev.grantPort_ck (d : Dev) (name n port : Nat) : (d.grantPort name n port).ck = d.ck := Dev.arbitrate_ck _ _ _ _
@[simp] theorem Dev.grantPort_drbgs (d : Dev) (name n port : Nat) : (d.grantPort name n port).drbgs = d.drbgs := Dev.arbitrate_drbgs _ _ _ _
@[simp] theorem Dev.grantPort_sides (d : Dev) (name n port : Nat) : (d.grantPort name n port).sides = d.sides := Dev.arbitrate_sides _ _ _ _
@[simp] theorem Dev.grantPort_tcache (d : Dev) (name n port : Nat) : (d.grantPort name n port).tcache = d.tcache := Dev.arbitrate_tcache _ _ _ _
@[simp] theorem Dev.grantPort_dfSaved (d : Dev) (name n port : Nat) : (d.grantPort name n port).dfSaved = d.dfSaved := Dev.arbitrate_dfSaved _ _ _ _
@[simp] theorem Dev.grantPort_paused (d : Dev) (name n port : Nat) : (d.grantPort name n port).paused = d.paused := Dev.arbitrate_paused _ _ _ _
@[simp] theorem Dev.grantPort_ring (d : Dev) (name n port : Nat) : (d.grantPort name n port).ring = d.ring := Dev.arbitrate_ring _ _ _ _
@[simp] theorem Dev.grantPort_mbox (d : Dev) (name n port : Nat) : (d.grantPort name n port).mbox = d.mbox := Dev.arbitrate_mbox _ _ _ _
@[simp] theorem Dev.grantPort_staged (d : Dev) (name n port : Nat) : (d.grantPort name n port).staged = d.staged := Dev.arbitrate_staged _ _ _ _
@[simp] theorem Dev.grantPort_resp (d : Dev) (name n port : Nat) : (d.grantPort name n port).resp = d.resp := Dev.arbitrate_resp _ _ _ _
@[simp] theorem Dev.grantPort_waiting (d : Dev) (name n port : Nat) : (d.grantPort name n port).waiting = d.waiting := Dev.arbitrate_waiting _ _ _ _
@[simp] theorem Dev.grantPort_fus (d : Dev) (name n port : Nat) : (d.grantPort name n port).fus = d.fus := Dev.arbitrate_fus _ _ _ _
@[simp] theorem Dev.grantPort_homes (d : Dev) (name n port : Nat) : (d.grantPort name n port).homes = d.homes := Dev.arbitrate_homes _ _ _ _
@[simp] theorem Dev.grantPort_pewter (d : Dev) (name n port : Nat) : (d.grantPort name n port).pewter = d.pewter := Dev.arbitrate_pewter _ _ _ _
@[simp] theorem Dev.grantPort_pwJob (d : Dev) (name n port : Nat) : (d.grantPort name n port).pwJob = d.pwJob := Dev.arbitrate_pwJob _ _ _ _
@[simp] theorem Dev.grantPort_filters (d : Dev) (name n port : Nat) : (d.grantPort name n port).filters = d.filters := Dev.arbitrate_filters _ _ _ _
@[simp] theorem Dev.grantPort_fab (d : Dev) (name n port : Nat) : (d.grantPort name n port).fab = d.fab := Dev.arbitrate_fab _ _ _ _
@[simp] theorem Dev.grantPort_adapters (d : Dev) (name n port : Nat) : (d.grantPort name n port).adapters = d.adapters := Dev.arbitrate_adapters _ _ _ _
@[simp] theorem Dev.grantPort_chans (d : Dev) (name n port : Nat) : (d.grantPort name n port).chans = d.chans := Dev.arbitrate_chans _ _ _ _
@[simp] theorem Dev.grantPort_hf (d : Dev) (name n port : Nat) : (d.grantPort name n port).hf = d.hf := Dev.arbitrate_hf _ _ _ _
@[simp] theorem Dev.grantPort_remote (d : Dev) (name n port : Nat) : (d.grantPort name n port).remote = d.remote := Dev.arbitrate_remote _ _ _ _
@[simp] theorem Dev.grantPort_mcs (d : Dev) (name n port : Nat) : (d.grantPort name n port).mcs = d.mcs := Dev.arbitrate_mcs _ _ _ _
@[simp] theorem Dev.grantPort_iommu (d : Dev) (name n port : Nat) : (d.grantPort name n port).iommu = d.iommu := Dev.arbitrate_iommu _ _ _ _
@[simp] theorem Dev.grantPort_tk (d : Dev) (name n port : Nat) : (d.grantPort name n port).tk = d.tk := Dev.arbitrate_tk _ _ _ _
@[simp] theorem Dev.grantPort_part (d : Dev) (name n port : Nat) : (d.grantPort name n port).part = d.part := Dev.arbitrate_part _ _ _ _
@[simp] theorem Dev.grantPort_boot (d : Dev) (name n port : Nat) : (d.grantPort name n port).boot = d.boot := Dev.arbitrate_boot _ _ _ _
@[simp] theorem Dev.grantPort_cnt (d : Dev) (name n port : Nat) : (d.grantPort name n port).cnt = d.cnt := Dev.arbitrate_cnt _ _ _ _
@[simp] theorem Dev.grantPort_dimms (d : Dev) (name n port : Nat) : (d.grantPort name n port).dimms = d.dimms := Dev.arbitrate_dimms _ _ _ _
@[simp] theorem Dev.grantPort_pins (d : Dev) (name n port : Nat) : (d.grantPort name n port).pins = d.pins := Dev.arbitrate_pins _ _ _ _
@[simp] theorem Dev.grantPort_power (d : Dev) (name n port : Nat) : (d.grantPort name n port).power = d.power := Dev.arbitrate_power _ _ _ _
@[simp] theorem Dev.grantPort_aplic (d : Dev) (name n port : Nat) : (d.grantPort name n port).aplic = d.aplic := Dev.arbitrate_aplic _ _ _ _
@[simp] theorem Dev.grantPort_resetting (d : Dev) (name n port : Nat) : (d.grantPort name n port).resetting = d.resetting := Dev.arbitrate_resetting _ _ _ _
@[simp] theorem Dev.grantPort_jtag (d : Dev) (name n port : Nat) : (d.grantPort name n port).jtag = d.jtag := Dev.arbitrate_jtag _ _ _ _
@[simp] theorem Dev.grantPort_fuses (d : Dev) (name n port : Nat) : (d.grantPort name n port).fuses = d.fuses := Dev.arbitrate_fuses _ _ _ _
@[simp] theorem Dev.grantPort_latch (d : Dev) (name n port : Nat) : (d.grantPort name n port).latch = d.latch := Dev.arbitrate_latch _ _ _ _
@[simp] theorem Dev.grantPort_flash (d : Dev) (name n port : Nat) : (d.grantPort name n port).flash = d.flash := Dev.arbitrate_flash _ _ _ _
@[simp] theorem Dev.grantPort_flashBad (d : Dev) (name n port : Nat) : (d.grantPort name n port).flashBad = d.flashBad := Dev.arbitrate_flashBad _ _ _ _
@[simp] theorem Dev.grantPort_flashMode (d : Dev) (name n port : Nat) : (d.grantPort name n port).flashMode = d.flashMode := Dev.arbitrate_flashMode _ _ _ _
@[simp] theorem Dev.grantPort_fresh (d : Dev) (name n port : Nat) : (d.grantPort name n port).fresh = d.fresh := Dev.arbitrate_fresh _ _ _ _

@[simp] theorem Dev.takeTurn_regs (d : Dev) (p : Path) : (d.takeTurn p).regs = d.regs := by simp [Dev.takeTurn]
@[simp] theorem Dev.takeTurn_doms (d : Dev) (p : Path) : (d.takeTurn p).doms = d.doms := by simp [Dev.takeTurn]
@[simp] theorem Dev.takeTurn_units (d : Dev) (p : Path) : (d.takeTurn p).units = d.units := by simp [Dev.takeTurn]
@[simp] theorem Dev.takeTurn_mem (d : Dev) (p : Path) : (d.takeTurn p).mem = d.mem := by simp [Dev.takeTurn]
@[simp] theorem Dev.takeTurn_marks (d : Dev) (p : Path) : (d.takeTurn p).marks = d.marks := by simp [Dev.takeTurn]
@[simp] theorem Dev.takeTurn_clock (d : Dev) (p : Path) : (d.takeTurn p).clock = d.clock := by simp [Dev.takeTurn]
@[simp] theorem Dev.takeTurn_harts (d : Dev) (p : Path) : (d.takeTurn p).harts = d.harts := by simp [Dev.takeTurn]
@[simp] theorem Dev.takeTurn_insts (d : Dev) (p : Path) : (d.takeTurn p).insts = d.insts := by simp [Dev.takeTurn]
@[simp] theorem Dev.takeTurn_jobs (d : Dev) (p : Path) : (d.takeTurn p).jobs = d.jobs := by simp [Dev.takeTurn]
@[simp] theorem Dev.takeTurn_nextJob (d : Dev) (p : Path) : (d.takeTurn p).nextJob = d.nextJob := by simp [Dev.takeTurn]
@[simp] theorem Dev.takeTurn_slots (d : Dev) (p : Path) : (d.takeTurn p).slots = d.slots := by simp [Dev.takeTurn]
@[simp] theorem Dev.takeTurn_moves (d : Dev) (p : Path) : (d.takeTurn p).moves = d.moves := by simp [Dev.takeTurn]
@[simp] theorem Dev.takeTurn_engs (d : Dev) (p : Path) : (d.takeTurn p).engs = d.engs := by simp [Dev.takeTurn]
@[simp] theorem Dev.takeTurn_mgmt (d : Dev) (p : Path) : (d.takeTurn p).mgmt = d.mgmt := by simp [Dev.takeTurn]
@[simp] theorem Dev.takeTurn_attKeys (d : Dev) (p : Path) : (d.takeTurn p).attKeys = d.attKeys := by simp [Dev.takeTurn]
@[simp] theorem Dev.takeTurn_ks (d : Dev) (p : Path) : (d.takeTurn p).ks = d.ks := by simp [Dev.takeTurn]
@[simp] theorem Dev.takeTurn_jns (d : Dev) (p : Path) : (d.takeTurn p).jns = d.jns := by simp [Dev.takeTurn]
@[simp] theorem Dev.takeTurn_ck (d : Dev) (p : Path) : (d.takeTurn p).ck = d.ck := by simp [Dev.takeTurn]
@[simp] theorem Dev.takeTurn_drbgs (d : Dev) (p : Path) : (d.takeTurn p).drbgs = d.drbgs := by simp [Dev.takeTurn]
@[simp] theorem Dev.takeTurn_sides (d : Dev) (p : Path) : (d.takeTurn p).sides = d.sides := by simp [Dev.takeTurn]
@[simp] theorem Dev.takeTurn_tcache (d : Dev) (p : Path) : (d.takeTurn p).tcache = d.tcache := by simp [Dev.takeTurn]
@[simp] theorem Dev.takeTurn_dfSaved (d : Dev) (p : Path) : (d.takeTurn p).dfSaved = d.dfSaved := by simp [Dev.takeTurn]
@[simp] theorem Dev.takeTurn_paused (d : Dev) (p : Path) : (d.takeTurn p).paused = d.paused := by simp [Dev.takeTurn]
@[simp] theorem Dev.takeTurn_mbox (d : Dev) (p : Path) : (d.takeTurn p).mbox = d.mbox := by simp [Dev.takeTurn]
@[simp] theorem Dev.takeTurn_staged (d : Dev) (p : Path) : (d.takeTurn p).staged = d.staged := by simp [Dev.takeTurn]
@[simp] theorem Dev.takeTurn_resp (d : Dev) (p : Path) : (d.takeTurn p).resp = d.resp := by simp [Dev.takeTurn]
@[simp] theorem Dev.takeTurn_waiting (d : Dev) (p : Path) : (d.takeTurn p).waiting = d.waiting := by simp [Dev.takeTurn]
@[simp] theorem Dev.takeTurn_fus (d : Dev) (p : Path) : (d.takeTurn p).fus = d.fus := by simp [Dev.takeTurn]
@[simp] theorem Dev.takeTurn_homes (d : Dev) (p : Path) : (d.takeTurn p).homes = d.homes := by simp [Dev.takeTurn]
@[simp] theorem Dev.takeTurn_pewter (d : Dev) (p : Path) : (d.takeTurn p).pewter = d.pewter := by simp [Dev.takeTurn]
@[simp] theorem Dev.takeTurn_pwJob (d : Dev) (p : Path) : (d.takeTurn p).pwJob = d.pwJob := by simp [Dev.takeTurn]
@[simp] theorem Dev.takeTurn_filters (d : Dev) (p : Path) : (d.takeTurn p).filters = d.filters := by simp [Dev.takeTurn]
@[simp] theorem Dev.takeTurn_fab (d : Dev) (p : Path) : (d.takeTurn p).fab = d.fab := by simp [Dev.takeTurn]
@[simp] theorem Dev.takeTurn_adapters (d : Dev) (p : Path) : (d.takeTurn p).adapters = d.adapters := by simp [Dev.takeTurn]
@[simp] theorem Dev.takeTurn_chans (d : Dev) (p : Path) : (d.takeTurn p).chans = d.chans := by simp [Dev.takeTurn]
@[simp] theorem Dev.takeTurn_hf (d : Dev) (p : Path) : (d.takeTurn p).hf = d.hf := by simp [Dev.takeTurn]
@[simp] theorem Dev.takeTurn_remote (d : Dev) (p : Path) : (d.takeTurn p).remote = d.remote := by simp [Dev.takeTurn]
@[simp] theorem Dev.takeTurn_mcs (d : Dev) (p : Path) : (d.takeTurn p).mcs = d.mcs := by simp [Dev.takeTurn]
@[simp] theorem Dev.takeTurn_iommu (d : Dev) (p : Path) : (d.takeTurn p).iommu = d.iommu := by simp [Dev.takeTurn]
@[simp] theorem Dev.takeTurn_tk (d : Dev) (p : Path) : (d.takeTurn p).tk = d.tk := by simp [Dev.takeTurn]
@[simp] theorem Dev.takeTurn_part (d : Dev) (p : Path) : (d.takeTurn p).part = d.part := by simp [Dev.takeTurn]
@[simp] theorem Dev.takeTurn_boot (d : Dev) (p : Path) : (d.takeTurn p).boot = d.boot := by simp [Dev.takeTurn]
@[simp] theorem Dev.takeTurn_cnt (d : Dev) (p : Path) : (d.takeTurn p).cnt = d.cnt := by simp [Dev.takeTurn]
@[simp] theorem Dev.takeTurn_dimms (d : Dev) (p : Path) : (d.takeTurn p).dimms = d.dimms := by simp [Dev.takeTurn]
@[simp] theorem Dev.takeTurn_pins (d : Dev) (p : Path) : (d.takeTurn p).pins = d.pins := by simp [Dev.takeTurn]
@[simp] theorem Dev.takeTurn_power (d : Dev) (p : Path) : (d.takeTurn p).power = d.power := by simp [Dev.takeTurn]
@[simp] theorem Dev.takeTurn_aplic (d : Dev) (p : Path) : (d.takeTurn p).aplic = d.aplic := by simp [Dev.takeTurn]
@[simp] theorem Dev.takeTurn_resetting (d : Dev) (p : Path) : (d.takeTurn p).resetting = d.resetting := by simp [Dev.takeTurn]
@[simp] theorem Dev.takeTurn_jtag (d : Dev) (p : Path) : (d.takeTurn p).jtag = d.jtag := by simp [Dev.takeTurn]
@[simp] theorem Dev.takeTurn_fuses (d : Dev) (p : Path) : (d.takeTurn p).fuses = d.fuses := by simp [Dev.takeTurn]
@[simp] theorem Dev.takeTurn_latch (d : Dev) (p : Path) : (d.takeTurn p).latch = d.latch := by simp [Dev.takeTurn]
@[simp] theorem Dev.takeTurn_flash (d : Dev) (p : Path) : (d.takeTurn p).flash = d.flash := by simp [Dev.takeTurn]
@[simp] theorem Dev.takeTurn_flashBad (d : Dev) (p : Path) : (d.takeTurn p).flashBad = d.flashBad := by simp [Dev.takeTurn]
@[simp] theorem Dev.takeTurn_flashMode (d : Dev) (p : Path) : (d.takeTurn p).flashMode = d.flashMode := by simp [Dev.takeTurn]
@[simp] theorem Dev.takeTurn_fresh (d : Dev) (p : Path) : (d.takeTurn p).fresh = d.fresh := by simp [Dev.takeTurn]

@[simp] theorem Dev.startStep_regs (d : Dev) (n : Nat) : (d.startStep n).regs = d.regs := by unfold Dev.startStep; split <;> rfl
@[simp] theorem Dev.startStep_doms (d : Dev) (n : Nat) : (d.startStep n).doms = d.doms := by unfold Dev.startStep; split <;> rfl
@[simp] theorem Dev.startStep_units (d : Dev) (n : Nat) : (d.startStep n).units = d.units := by unfold Dev.startStep; split <;> rfl
@[simp] theorem Dev.startStep_mem (d : Dev) (n : Nat) : (d.startStep n).mem = d.mem := by unfold Dev.startStep; split <;> rfl
@[simp] theorem Dev.startStep_marks (d : Dev) (n : Nat) : (d.startStep n).marks = d.marks := by unfold Dev.startStep; split <;> rfl
@[simp] theorem Dev.startStep_clock (d : Dev) (n : Nat) : (d.startStep n).clock = d.clock := by unfold Dev.startStep; split <;> rfl
@[simp] theorem Dev.startStep_harts (d : Dev) (n : Nat) : (d.startStep n).harts = d.harts := by unfold Dev.startStep; split <;> rfl
@[simp] theorem Dev.startStep_insts (d : Dev) (n : Nat) : (d.startStep n).insts = d.insts := by unfold Dev.startStep; split <;> rfl
@[simp] theorem Dev.startStep_jobs (d : Dev) (n : Nat) : (d.startStep n).jobs = d.jobs := by unfold Dev.startStep; split <;> rfl
@[simp] theorem Dev.startStep_nextJob (d : Dev) (n : Nat) : (d.startStep n).nextJob = d.nextJob := by unfold Dev.startStep; split <;> rfl
@[simp] theorem Dev.startStep_slots (d : Dev) (n : Nat) : (d.startStep n).slots = d.slots := by unfold Dev.startStep; split <;> rfl
@[simp] theorem Dev.startStep_moves (d : Dev) (n : Nat) : (d.startStep n).moves = d.moves := by unfold Dev.startStep; split <;> rfl
@[simp] theorem Dev.startStep_engs (d : Dev) (n : Nat) : (d.startStep n).engs = d.engs := by unfold Dev.startStep; split <;> rfl
@[simp] theorem Dev.startStep_mgmt (d : Dev) (n : Nat) : (d.startStep n).mgmt = d.mgmt := by unfold Dev.startStep; split <;> rfl
@[simp] theorem Dev.startStep_attKeys (d : Dev) (n : Nat) : (d.startStep n).attKeys = d.attKeys := by unfold Dev.startStep; split <;> rfl
@[simp] theorem Dev.startStep_ks (d : Dev) (n : Nat) : (d.startStep n).ks = d.ks := by unfold Dev.startStep; split <;> rfl
@[simp] theorem Dev.startStep_jns (d : Dev) (n : Nat) : (d.startStep n).jns = d.jns := by unfold Dev.startStep; split <;> rfl
@[simp] theorem Dev.startStep_ck (d : Dev) (n : Nat) : (d.startStep n).ck = d.ck := by unfold Dev.startStep; split <;> rfl
@[simp] theorem Dev.startStep_drbgs (d : Dev) (n : Nat) : (d.startStep n).drbgs = d.drbgs := by unfold Dev.startStep; split <;> rfl
@[simp] theorem Dev.startStep_sides (d : Dev) (n : Nat) : (d.startStep n).sides = d.sides := by unfold Dev.startStep; split <;> rfl
@[simp] theorem Dev.startStep_tcache (d : Dev) (n : Nat) : (d.startStep n).tcache = d.tcache := by unfold Dev.startStep; split <;> rfl
@[simp] theorem Dev.startStep_dfSaved (d : Dev) (n : Nat) : (d.startStep n).dfSaved = d.dfSaved := by unfold Dev.startStep; split <;> rfl
@[simp] theorem Dev.startStep_paused (d : Dev) (n : Nat) : (d.startStep n).paused = d.paused := by unfold Dev.startStep; split <;> rfl
@[simp] theorem Dev.startStep_ring (d : Dev) (n : Nat) : (d.startStep n).ring = d.ring := by unfold Dev.startStep; split <;> rfl
@[simp] theorem Dev.startStep_mbox (d : Dev) (n : Nat) : (d.startStep n).mbox = d.mbox := by unfold Dev.startStep; split <;> rfl
@[simp] theorem Dev.startStep_staged (d : Dev) (n : Nat) : (d.startStep n).staged = d.staged := by unfold Dev.startStep; split <;> rfl
@[simp] theorem Dev.startStep_resp (d : Dev) (n : Nat) : (d.startStep n).resp = d.resp := by unfold Dev.startStep; split <;> rfl
@[simp] theorem Dev.startStep_waiting (d : Dev) (n : Nat) : (d.startStep n).waiting = d.waiting := by unfold Dev.startStep; split <;> rfl
@[simp] theorem Dev.startStep_fus (d : Dev) (n : Nat) : (d.startStep n).fus = d.fus := by unfold Dev.startStep; split <;> rfl
@[simp] theorem Dev.startStep_homes (d : Dev) (n : Nat) : (d.startStep n).homes = d.homes := by unfold Dev.startStep; split <;> rfl
@[simp] theorem Dev.startStep_pewter (d : Dev) (n : Nat) : (d.startStep n).pewter = d.pewter := by unfold Dev.startStep; split <;> rfl
@[simp] theorem Dev.startStep_pwJob (d : Dev) (n : Nat) : (d.startStep n).pwJob = d.pwJob := by unfold Dev.startStep; split <;> rfl
@[simp] theorem Dev.startStep_filters (d : Dev) (n : Nat) : (d.startStep n).filters = d.filters := by unfold Dev.startStep; split <;> rfl
@[simp] theorem Dev.startStep_fab (d : Dev) (n : Nat) : (d.startStep n).fab = d.fab := by unfold Dev.startStep; split <;> rfl
@[simp] theorem Dev.startStep_adapters (d : Dev) (n : Nat) : (d.startStep n).adapters = d.adapters := by unfold Dev.startStep; split <;> rfl
@[simp] theorem Dev.startStep_chans (d : Dev) (n : Nat) : (d.startStep n).chans = d.chans := by unfold Dev.startStep; split <;> rfl
@[simp] theorem Dev.startStep_hf (d : Dev) (n : Nat) : (d.startStep n).hf = d.hf := by unfold Dev.startStep; split <;> rfl
@[simp] theorem Dev.startStep_remote (d : Dev) (n : Nat) : (d.startStep n).remote = d.remote := by unfold Dev.startStep; split <;> rfl
@[simp] theorem Dev.startStep_mcs (d : Dev) (n : Nat) : (d.startStep n).mcs = d.mcs := by unfold Dev.startStep; split <;> rfl
@[simp] theorem Dev.startStep_iommu (d : Dev) (n : Nat) : (d.startStep n).iommu = d.iommu := by unfold Dev.startStep; split <;> rfl
@[simp] theorem Dev.startStep_tk (d : Dev) (n : Nat) : (d.startStep n).tk = d.tk := by unfold Dev.startStep; split <;> rfl
@[simp] theorem Dev.startStep_part (d : Dev) (n : Nat) : (d.startStep n).part = d.part := by unfold Dev.startStep; split <;> rfl
@[simp] theorem Dev.startStep_boot (d : Dev) (n : Nat) : (d.startStep n).boot = d.boot := by unfold Dev.startStep; split <;> rfl
@[simp] theorem Dev.startStep_cnt (d : Dev) (n : Nat) : (d.startStep n).cnt = d.cnt := by unfold Dev.startStep; split <;> rfl
@[simp] theorem Dev.startStep_dimms (d : Dev) (n : Nat) : (d.startStep n).dimms = d.dimms := by unfold Dev.startStep; split <;> rfl
@[simp] theorem Dev.startStep_pins (d : Dev) (n : Nat) : (d.startStep n).pins = d.pins := by unfold Dev.startStep; split <;> rfl
@[simp] theorem Dev.startStep_aplic (d : Dev) (n : Nat) : (d.startStep n).aplic = d.aplic := by unfold Dev.startStep; split <;> rfl
@[simp] theorem Dev.startStep_arb (d : Dev) (n : Nat) : (d.startStep n).arb = d.arb := by unfold Dev.startStep; split <;> rfl
@[simp] theorem Dev.startStep_resetting (d : Dev) (n : Nat) : (d.startStep n).resetting = d.resetting := by unfold Dev.startStep; split <;> rfl
@[simp] theorem Dev.startStep_jtag (d : Dev) (n : Nat) : (d.startStep n).jtag = d.jtag := by unfold Dev.startStep; split <;> rfl
@[simp] theorem Dev.startStep_fuses (d : Dev) (n : Nat) : (d.startStep n).fuses = d.fuses := by unfold Dev.startStep; split <;> rfl
@[simp] theorem Dev.startStep_latch (d : Dev) (n : Nat) : (d.startStep n).latch = d.latch := by unfold Dev.startStep; split <;> rfl
@[simp] theorem Dev.startStep_flash (d : Dev) (n : Nat) : (d.startStep n).flash = d.flash := by unfold Dev.startStep; split <;> rfl
@[simp] theorem Dev.startStep_flashBad (d : Dev) (n : Nat) : (d.startStep n).flashBad = d.flashBad := by unfold Dev.startStep; split <;> rfl
@[simp] theorem Dev.startStep_flashMode (d : Dev) (n : Nat) : (d.startStep n).flashMode = d.flashMode := by unfold Dev.startStep; split <;> rfl
@[simp] theorem Dev.startStep_fresh (d : Dev) (n : Nat) : (d.startStep n).fresh = d.fresh := by unfold Dev.startStep; split <;> rfl

@[simp] theorem Dev.set_read_unit (d : Dev) (r : Reg) (v : Nat) (u : UnitRef) : (d.set r v).unit u = d.unit u := by simp [Dev.unit]
@[simp] theorem Dev.set_read_hart (d : Dev) (r : Reg) (v : Nat) (k : Nat) : (d.set r v).hart k = d.hart k := by simp [Dev.hart]
@[simp] theorem Dev.set_read_inst (d : Dev) (r : Reg) (v : Nat) (i : Nat) : (d.set r v).inst i = d.inst i := by simp [Dev.inst]
@[simp] theorem Dev.set_read_job (d : Dev) (r : Reg) (v : Nat) (j : Nat) : (d.set r v).job j = d.job j := by simp [Dev.job]
@[simp] theorem Dev.set_read_eng (d : Dev) (r : Reg) (v : Nat) (e : Nat) : (d.set r v).eng e = d.eng e := by simp [Dev.eng]
@[simp] theorem Dev.set_read_journal (d : Dev) (r : Reg) (v : Nat) (b : Nat) : (d.set r v).journal b = d.journal b := by simp [Dev.journal]
@[simp] theorem Dev.set_read_home (d : Dev) (r : Reg) (v : Nat) (n : Nat) : (d.set r v).home n = d.home n := by simp [Dev.home]
@[simp] theorem Dev.set_read_adapter (d : Dev) (r : Reg) (v : Nat) (a : Nat) : (d.set r v).adapter a = d.adapter a := by simp [Dev.adapter]
@[simp] theorem Dev.set_read_chan (d : Dev) (r : Reg) (v : Nat) (c : Nat) : (d.set r v).chan c = d.chan c := by simp [Dev.chan]
@[simp] theorem Dev.set_read_hfLink (d : Dev) (r : Reg) (v : Nat) (l : Nat) : (d.set r v).hfLink l = d.hfLink l := by simp [Dev.hfLink]
@[simp] theorem Dev.set_read_mc (d : Dev) (r : Reg) (v : Nat) (m : Nat) : (d.set r v).mc m = d.mc m := by simp [Dev.mc]
@[simp] theorem Dev.set_read_slot (d : Dev) (r : Reg) (v : Nat) (e s : Nat) : (d.set r v).slot e s = d.slot e s := by simp [Dev.slot]
@[simp] theorem Dev.set_read_now (d : Dev) (r : Reg) (v : Nat) : (d.set r v).now = d.now := by simp [Dev.now]

@[simp] theorem Dev.setDom_read_get (d : Dev) (k : Nat) (b : List Byte) (q : Reg) : (d.setDom k b).get q = d.get q := by simp [Dev.get]
@[simp] theorem Dev.setDom_read_unit (d : Dev) (k : Nat) (b : List Byte) (u : UnitRef) : (d.setDom k b).unit u = d.unit u := by simp [Dev.unit]
@[simp] theorem Dev.setDom_read_hart (d : Dev) (k : Nat) (b : List Byte) (k' : Nat) : (d.setDom k b).hart k' = d.hart k' := by simp [Dev.hart]
@[simp] theorem Dev.setDom_read_inst (d : Dev) (k : Nat) (b : List Byte) (i : Nat) : (d.setDom k b).inst i = d.inst i := by simp [Dev.inst]
@[simp] theorem Dev.setDom_read_job (d : Dev) (k : Nat) (b : List Byte) (j : Nat) : (d.setDom k b).job j = d.job j := by simp [Dev.job]
@[simp] theorem Dev.setDom_read_eng (d : Dev) (k : Nat) (b : List Byte) (e : Nat) : (d.setDom k b).eng e = d.eng e := by simp [Dev.eng]
@[simp] theorem Dev.setDom_read_journal (d : Dev) (k : Nat) (b : List Byte) (b' : Nat) : (d.setDom k b).journal b' = d.journal b' := by simp [Dev.journal]
@[simp] theorem Dev.setDom_read_home (d : Dev) (k : Nat) (b : List Byte) (n : Nat) : (d.setDom k b).home n = d.home n := by simp [Dev.home]
@[simp] theorem Dev.setDom_read_adapter (d : Dev) (k : Nat) (b : List Byte) (a : Nat) : (d.setDom k b).adapter a = d.adapter a := by simp [Dev.adapter]
@[simp] theorem Dev.setDom_read_chan (d : Dev) (k : Nat) (b : List Byte) (c : Nat) : (d.setDom k b).chan c = d.chan c := by simp [Dev.chan]
@[simp] theorem Dev.setDom_read_hfLink (d : Dev) (k : Nat) (b : List Byte) (l : Nat) : (d.setDom k b).hfLink l = d.hfLink l := by simp [Dev.hfLink]
@[simp] theorem Dev.setDom_read_mc (d : Dev) (k : Nat) (b : List Byte) (m : Nat) : (d.setDom k b).mc m = d.mc m := by simp [Dev.mc]
@[simp] theorem Dev.setDom_read_slot (d : Dev) (k : Nat) (b : List Byte) (e s : Nat) : (d.setDom k b).slot e s = d.slot e s := by simp [Dev.slot]
@[simp] theorem Dev.setDom_read_now (d : Dev) (k : Nat) (b : List Byte) : (d.setDom k b).now = d.now := by simp [Dev.now]

@[simp] theorem Dev.setUnit_read_get (d : Dev) (u : UnitRef) (x : Nat) (q : Reg) : (d.setUnit u x).get q = d.get q := by simp [Dev.get]
@[simp] theorem Dev.setUnit_read_hart (d : Dev) (u : UnitRef) (x : Nat) (k : Nat) : (d.setUnit u x).hart k = d.hart k := by simp [Dev.hart]
@[simp] theorem Dev.setUnit_read_inst (d : Dev) (u : UnitRef) (x : Nat) (i : Nat) : (d.setUnit u x).inst i = d.inst i := by simp [Dev.inst]
@[simp] theorem Dev.setUnit_read_job (d : Dev) (u : UnitRef) (x : Nat) (j : Nat) : (d.setUnit u x).job j = d.job j := by simp [Dev.job]
@[simp] theorem Dev.setUnit_read_eng (d : Dev) (u : UnitRef) (x : Nat) (e : Nat) : (d.setUnit u x).eng e = d.eng e := by simp [Dev.eng]
@[simp] theorem Dev.setUnit_read_journal (d : Dev) (u : UnitRef) (x : Nat) (b : Nat) : (d.setUnit u x).journal b = d.journal b := by simp [Dev.journal]
@[simp] theorem Dev.setUnit_read_home (d : Dev) (u : UnitRef) (x : Nat) (n : Nat) : (d.setUnit u x).home n = d.home n := by simp [Dev.home]
@[simp] theorem Dev.setUnit_read_adapter (d : Dev) (u : UnitRef) (x : Nat) (a : Nat) : (d.setUnit u x).adapter a = d.adapter a := by simp [Dev.adapter]
@[simp] theorem Dev.setUnit_read_chan (d : Dev) (u : UnitRef) (x : Nat) (c : Nat) : (d.setUnit u x).chan c = d.chan c := by simp [Dev.chan]
@[simp] theorem Dev.setUnit_read_hfLink (d : Dev) (u : UnitRef) (x : Nat) (l : Nat) : (d.setUnit u x).hfLink l = d.hfLink l := by simp [Dev.hfLink]
@[simp] theorem Dev.setUnit_read_mc (d : Dev) (u : UnitRef) (x : Nat) (m : Nat) : (d.setUnit u x).mc m = d.mc m := by simp [Dev.mc]
@[simp] theorem Dev.setUnit_read_slot (d : Dev) (u : UnitRef) (x : Nat) (e s : Nat) : (d.setUnit u x).slot e s = d.slot e s := by simp [Dev.slot]
@[simp] theorem Dev.setUnit_read_now (d : Dev) (u : UnitRef) (x : Nat) : (d.setUnit u x).now = d.now := by simp [Dev.now]

@[simp] theorem Dev.setBlock_read_get (d : Dev) (n x : Nat) (q : Reg) : (d.setBlock n x).get q = d.get q := by simp [Dev.get]
@[simp] theorem Dev.setBlock_read_hart (d : Dev) (n x : Nat) (k : Nat) : (d.setBlock n x).hart k = d.hart k := by simp [Dev.hart]
@[simp] theorem Dev.setBlock_read_inst (d : Dev) (n x : Nat) (i : Nat) : (d.setBlock n x).inst i = d.inst i := by simp [Dev.inst]
@[simp] theorem Dev.setBlock_read_job (d : Dev) (n x : Nat) (j : Nat) : (d.setBlock n x).job j = d.job j := by simp [Dev.job]
@[simp] theorem Dev.setBlock_read_eng (d : Dev) (n x : Nat) (e : Nat) : (d.setBlock n x).eng e = d.eng e := by simp [Dev.eng]
@[simp] theorem Dev.setBlock_read_journal (d : Dev) (n x : Nat) (b : Nat) : (d.setBlock n x).journal b = d.journal b := by simp [Dev.journal]
@[simp] theorem Dev.setBlock_read_home (d : Dev) (n x : Nat) (n' : Nat) : (d.setBlock n x).home n' = d.home n' := by simp [Dev.home]
@[simp] theorem Dev.setBlock_read_adapter (d : Dev) (n x : Nat) (a : Nat) : (d.setBlock n x).adapter a = d.adapter a := by simp [Dev.adapter]
@[simp] theorem Dev.setBlock_read_chan (d : Dev) (n x : Nat) (c : Nat) : (d.setBlock n x).chan c = d.chan c := by simp [Dev.chan]
@[simp] theorem Dev.setBlock_read_hfLink (d : Dev) (n x : Nat) (l : Nat) : (d.setBlock n x).hfLink l = d.hfLink l := by simp [Dev.hfLink]
@[simp] theorem Dev.setBlock_read_mc (d : Dev) (n x : Nat) (m : Nat) : (d.setBlock n x).mc m = d.mc m := by simp [Dev.mc]
@[simp] theorem Dev.setBlock_read_slot (d : Dev) (n x : Nat) (e s : Nat) : (d.setBlock n x).slot e s = d.slot e s := by simp [Dev.slot]
@[simp] theorem Dev.setBlock_read_now (d : Dev) (n x : Nat) : (d.setBlock n x).now = d.now := by simp [Dev.now]

@[simp] theorem Dev.setHart_read_get (d : Dev) (k : Nat) (h : Hart) (q : Reg) : (d.setHart k h).get q = d.get q := by simp [Dev.get]
@[simp] theorem Dev.setHart_read_unit (d : Dev) (k : Nat) (h : Hart) (u : UnitRef) : (d.setHart k h).unit u = d.unit u := by simp [Dev.unit]
@[simp] theorem Dev.setHart_read_inst (d : Dev) (k : Nat) (h : Hart) (i : Nat) : (d.setHart k h).inst i = d.inst i := by simp [Dev.inst]
@[simp] theorem Dev.setHart_read_job (d : Dev) (k : Nat) (h : Hart) (j : Nat) : (d.setHart k h).job j = d.job j := by simp [Dev.job]
@[simp] theorem Dev.setHart_read_eng (d : Dev) (k : Nat) (h : Hart) (e : Nat) : (d.setHart k h).eng e = d.eng e := by simp [Dev.eng]
@[simp] theorem Dev.setHart_read_journal (d : Dev) (k : Nat) (h : Hart) (b : Nat) : (d.setHart k h).journal b = d.journal b := by simp [Dev.journal]
@[simp] theorem Dev.setHart_read_home (d : Dev) (k : Nat) (h : Hart) (n : Nat) : (d.setHart k h).home n = d.home n := by simp [Dev.home]
@[simp] theorem Dev.setHart_read_adapter (d : Dev) (k : Nat) (h : Hart) (a : Nat) : (d.setHart k h).adapter a = d.adapter a := by simp [Dev.adapter]
@[simp] theorem Dev.setHart_read_chan (d : Dev) (k : Nat) (h : Hart) (c : Nat) : (d.setHart k h).chan c = d.chan c := by simp [Dev.chan]
@[simp] theorem Dev.setHart_read_hfLink (d : Dev) (k : Nat) (h : Hart) (l : Nat) : (d.setHart k h).hfLink l = d.hfLink l := by simp [Dev.hfLink]
@[simp] theorem Dev.setHart_read_mc (d : Dev) (k : Nat) (h : Hart) (m : Nat) : (d.setHart k h).mc m = d.mc m := by simp [Dev.mc]
@[simp] theorem Dev.setHart_read_slot (d : Dev) (k : Nat) (h : Hart) (e s : Nat) : (d.setHart k h).slot e s = d.slot e s := by simp [Dev.slot]
@[simp] theorem Dev.setHart_read_now (d : Dev) (k : Nat) (h : Hart) : (d.setHart k h).now = d.now := by simp [Dev.now]

@[simp] theorem Dev.setInst_read_get (d : Dev) (i : Nat) (x : Inst) (q : Reg) : (d.setInst i x).get q = d.get q := by simp [Dev.get]
@[simp] theorem Dev.setInst_read_unit (d : Dev) (i : Nat) (x : Inst) (u : UnitRef) : (d.setInst i x).unit u = d.unit u := by simp [Dev.unit]
@[simp] theorem Dev.setInst_read_hart (d : Dev) (i : Nat) (x : Inst) (k : Nat) : (d.setInst i x).hart k = d.hart k := by simp [Dev.hart]
@[simp] theorem Dev.setInst_read_job (d : Dev) (i : Nat) (x : Inst) (j : Nat) : (d.setInst i x).job j = d.job j := by simp [Dev.job]
@[simp] theorem Dev.setInst_read_eng (d : Dev) (i : Nat) (x : Inst) (e : Nat) : (d.setInst i x).eng e = d.eng e := by simp [Dev.eng]
@[simp] theorem Dev.setInst_read_journal (d : Dev) (i : Nat) (x : Inst) (b : Nat) : (d.setInst i x).journal b = d.journal b := by simp [Dev.journal]
@[simp] theorem Dev.setInst_read_home (d : Dev) (i : Nat) (x : Inst) (n : Nat) : (d.setInst i x).home n = d.home n := by simp [Dev.home]
@[simp] theorem Dev.setInst_read_adapter (d : Dev) (i : Nat) (x : Inst) (a : Nat) : (d.setInst i x).adapter a = d.adapter a := by simp [Dev.adapter]
@[simp] theorem Dev.setInst_read_chan (d : Dev) (i : Nat) (x : Inst) (c : Nat) : (d.setInst i x).chan c = d.chan c := by simp [Dev.chan]
@[simp] theorem Dev.setInst_read_hfLink (d : Dev) (i : Nat) (x : Inst) (l : Nat) : (d.setInst i x).hfLink l = d.hfLink l := by simp [Dev.hfLink]
@[simp] theorem Dev.setInst_read_mc (d : Dev) (i : Nat) (x : Inst) (m : Nat) : (d.setInst i x).mc m = d.mc m := by simp [Dev.mc]
@[simp] theorem Dev.setInst_read_slot (d : Dev) (i : Nat) (x : Inst) (e s : Nat) : (d.setInst i x).slot e s = d.slot e s := by simp [Dev.slot]
@[simp] theorem Dev.setInst_read_now (d : Dev) (i : Nat) (x : Inst) : (d.setInst i x).now = d.now := by simp [Dev.now]

@[simp] theorem Dev.setJob_read_get (d : Dev) (j : Nat) (x : Job) (q : Reg) : (d.setJob j x).get q = d.get q := by simp [Dev.get]
@[simp] theorem Dev.setJob_read_unit (d : Dev) (j : Nat) (x : Job) (u : UnitRef) : (d.setJob j x).unit u = d.unit u := by simp [Dev.unit]
@[simp] theorem Dev.setJob_read_hart (d : Dev) (j : Nat) (x : Job) (k : Nat) : (d.setJob j x).hart k = d.hart k := by simp [Dev.hart]
@[simp] theorem Dev.setJob_read_inst (d : Dev) (j : Nat) (x : Job) (i : Nat) : (d.setJob j x).inst i = d.inst i := by simp [Dev.inst]
@[simp] theorem Dev.setJob_read_eng (d : Dev) (j : Nat) (x : Job) (e : Nat) : (d.setJob j x).eng e = d.eng e := by simp [Dev.eng]
@[simp] theorem Dev.setJob_read_journal (d : Dev) (j : Nat) (x : Job) (b : Nat) : (d.setJob j x).journal b = d.journal b := by simp [Dev.journal]
@[simp] theorem Dev.setJob_read_home (d : Dev) (j : Nat) (x : Job) (n : Nat) : (d.setJob j x).home n = d.home n := by simp [Dev.home]
@[simp] theorem Dev.setJob_read_adapter (d : Dev) (j : Nat) (x : Job) (a : Nat) : (d.setJob j x).adapter a = d.adapter a := by simp [Dev.adapter]
@[simp] theorem Dev.setJob_read_chan (d : Dev) (j : Nat) (x : Job) (c : Nat) : (d.setJob j x).chan c = d.chan c := by simp [Dev.chan]
@[simp] theorem Dev.setJob_read_hfLink (d : Dev) (j : Nat) (x : Job) (l : Nat) : (d.setJob j x).hfLink l = d.hfLink l := by simp [Dev.hfLink]
@[simp] theorem Dev.setJob_read_mc (d : Dev) (j : Nat) (x : Job) (m : Nat) : (d.setJob j x).mc m = d.mc m := by simp [Dev.mc]
@[simp] theorem Dev.setJob_read_slot (d : Dev) (j : Nat) (x : Job) (e s : Nat) : (d.setJob j x).slot e s = d.slot e s := by simp [Dev.slot]
@[simp] theorem Dev.setJob_read_now (d : Dev) (j : Nat) (x : Job) : (d.setJob j x).now = d.now := by simp [Dev.now]

@[simp] theorem Dev.setEng_read_get (d : Dev) (e : Nat) (x : Eng) (q : Reg) : (d.setEng e x).get q = d.get q := by simp [Dev.get]
@[simp] theorem Dev.setEng_read_unit (d : Dev) (e : Nat) (x : Eng) (u : UnitRef) : (d.setEng e x).unit u = d.unit u := by simp [Dev.unit]
@[simp] theorem Dev.setEng_read_hart (d : Dev) (e : Nat) (x : Eng) (k : Nat) : (d.setEng e x).hart k = d.hart k := by simp [Dev.hart]
@[simp] theorem Dev.setEng_read_inst (d : Dev) (e : Nat) (x : Eng) (i : Nat) : (d.setEng e x).inst i = d.inst i := by simp [Dev.inst]
@[simp] theorem Dev.setEng_read_job (d : Dev) (e : Nat) (x : Eng) (j : Nat) : (d.setEng e x).job j = d.job j := by simp [Dev.job]
@[simp] theorem Dev.setEng_read_journal (d : Dev) (e : Nat) (x : Eng) (b : Nat) : (d.setEng e x).journal b = d.journal b := by simp [Dev.journal]
@[simp] theorem Dev.setEng_read_home (d : Dev) (e : Nat) (x : Eng) (n : Nat) : (d.setEng e x).home n = d.home n := by simp [Dev.home]
@[simp] theorem Dev.setEng_read_adapter (d : Dev) (e : Nat) (x : Eng) (a : Nat) : (d.setEng e x).adapter a = d.adapter a := by simp [Dev.adapter]
@[simp] theorem Dev.setEng_read_chan (d : Dev) (e : Nat) (x : Eng) (c : Nat) : (d.setEng e x).chan c = d.chan c := by simp [Dev.chan]
@[simp] theorem Dev.setEng_read_hfLink (d : Dev) (e : Nat) (x : Eng) (l : Nat) : (d.setEng e x).hfLink l = d.hfLink l := by simp [Dev.hfLink]
@[simp] theorem Dev.setEng_read_mc (d : Dev) (e : Nat) (x : Eng) (m : Nat) : (d.setEng e x).mc m = d.mc m := by simp [Dev.mc]
@[simp] theorem Dev.setEng_read_slot (d : Dev) (e : Nat) (x : Eng) (e' s : Nat) : (d.setEng e x).slot e' s = d.slot e' s := by simp [Dev.slot]
@[simp] theorem Dev.setEng_read_now (d : Dev) (e : Nat) (x : Eng) : (d.setEng e x).now = d.now := by simp [Dev.now]

@[simp] theorem Dev.setJournal_read_get (d : Dev) (b : Nat) (x : Journal) (q : Reg) : (d.setJournal b x).get q = d.get q := by simp [Dev.get]
@[simp] theorem Dev.setJournal_read_unit (d : Dev) (b : Nat) (x : Journal) (u : UnitRef) : (d.setJournal b x).unit u = d.unit u := by simp [Dev.unit]
@[simp] theorem Dev.setJournal_read_hart (d : Dev) (b : Nat) (x : Journal) (k : Nat) : (d.setJournal b x).hart k = d.hart k := by simp [Dev.hart]
@[simp] theorem Dev.setJournal_read_inst (d : Dev) (b : Nat) (x : Journal) (i : Nat) : (d.setJournal b x).inst i = d.inst i := by simp [Dev.inst]
@[simp] theorem Dev.setJournal_read_job (d : Dev) (b : Nat) (x : Journal) (j : Nat) : (d.setJournal b x).job j = d.job j := by simp [Dev.job]
@[simp] theorem Dev.setJournal_read_eng (d : Dev) (b : Nat) (x : Journal) (e : Nat) : (d.setJournal b x).eng e = d.eng e := by simp [Dev.eng]
@[simp] theorem Dev.setJournal_read_home (d : Dev) (b : Nat) (x : Journal) (n : Nat) : (d.setJournal b x).home n = d.home n := by simp [Dev.home]
@[simp] theorem Dev.setJournal_read_adapter (d : Dev) (b : Nat) (x : Journal) (a : Nat) : (d.setJournal b x).adapter a = d.adapter a := by simp [Dev.adapter]
@[simp] theorem Dev.setJournal_read_chan (d : Dev) (b : Nat) (x : Journal) (c : Nat) : (d.setJournal b x).chan c = d.chan c := by simp [Dev.chan]
@[simp] theorem Dev.setJournal_read_hfLink (d : Dev) (b : Nat) (x : Journal) (l : Nat) : (d.setJournal b x).hfLink l = d.hfLink l := by simp [Dev.hfLink]
@[simp] theorem Dev.setJournal_read_mc (d : Dev) (b : Nat) (x : Journal) (m : Nat) : (d.setJournal b x).mc m = d.mc m := by simp [Dev.mc]
@[simp] theorem Dev.setJournal_read_slot (d : Dev) (b : Nat) (x : Journal) (e s : Nat) : (d.setJournal b x).slot e s = d.slot e s := by simp [Dev.slot]
@[simp] theorem Dev.setJournal_read_now (d : Dev) (b : Nat) (x : Journal) : (d.setJournal b x).now = d.now := by simp [Dev.now]

@[simp] theorem Dev.setHome_read_get (d : Dev) (s : Nat) (x : Home) (q : Reg) : (d.setHome s x).get q = d.get q := by simp [Dev.get]
@[simp] theorem Dev.setHome_read_unit (d : Dev) (s : Nat) (x : Home) (u : UnitRef) : (d.setHome s x).unit u = d.unit u := by simp [Dev.unit]
@[simp] theorem Dev.setHome_read_hart (d : Dev) (s : Nat) (x : Home) (k : Nat) : (d.setHome s x).hart k = d.hart k := by simp [Dev.hart]
@[simp] theorem Dev.setHome_read_inst (d : Dev) (s : Nat) (x : Home) (i : Nat) : (d.setHome s x).inst i = d.inst i := by simp [Dev.inst]
@[simp] theorem Dev.setHome_read_job (d : Dev) (s : Nat) (x : Home) (j : Nat) : (d.setHome s x).job j = d.job j := by simp [Dev.job]
@[simp] theorem Dev.setHome_read_eng (d : Dev) (s : Nat) (x : Home) (e : Nat) : (d.setHome s x).eng e = d.eng e := by simp [Dev.eng]
@[simp] theorem Dev.setHome_read_journal (d : Dev) (s : Nat) (x : Home) (b : Nat) : (d.setHome s x).journal b = d.journal b := by simp [Dev.journal]
@[simp] theorem Dev.setHome_read_adapter (d : Dev) (s : Nat) (x : Home) (a : Nat) : (d.setHome s x).adapter a = d.adapter a := by simp [Dev.adapter]
@[simp] theorem Dev.setHome_read_chan (d : Dev) (s : Nat) (x : Home) (c : Nat) : (d.setHome s x).chan c = d.chan c := by simp [Dev.chan]
@[simp] theorem Dev.setHome_read_hfLink (d : Dev) (s : Nat) (x : Home) (l : Nat) : (d.setHome s x).hfLink l = d.hfLink l := by simp [Dev.hfLink]
@[simp] theorem Dev.setHome_read_mc (d : Dev) (s : Nat) (x : Home) (m : Nat) : (d.setHome s x).mc m = d.mc m := by simp [Dev.mc]
@[simp] theorem Dev.setHome_read_slot (d : Dev) (s : Nat) (x : Home) (e s' : Nat) : (d.setHome s x).slot e s' = d.slot e s' := by simp [Dev.slot]
@[simp] theorem Dev.setHome_read_now (d : Dev) (s : Nat) (x : Home) : (d.setHome s x).now = d.now := by simp [Dev.now]

@[simp] theorem Dev.setRouter_read_get (d : Dev) (n : Nat) (x : Router) (q : Reg) : (d.setRouter n x).get q = d.get q := by simp [Dev.get]
@[simp] theorem Dev.setRouter_read_unit (d : Dev) (n : Nat) (x : Router) (u : UnitRef) : (d.setRouter n x).unit u = d.unit u := by simp [Dev.unit]
@[simp] theorem Dev.setRouter_read_hart (d : Dev) (n : Nat) (x : Router) (k : Nat) : (d.setRouter n x).hart k = d.hart k := by simp [Dev.hart]
@[simp] theorem Dev.setRouter_read_inst (d : Dev) (n : Nat) (x : Router) (i : Nat) : (d.setRouter n x).inst i = d.inst i := by simp [Dev.inst]
@[simp] theorem Dev.setRouter_read_job (d : Dev) (n : Nat) (x : Router) (j : Nat) : (d.setRouter n x).job j = d.job j := by simp [Dev.job]
@[simp] theorem Dev.setRouter_read_eng (d : Dev) (n : Nat) (x : Router) (e : Nat) : (d.setRouter n x).eng e = d.eng e := by simp [Dev.eng]
@[simp] theorem Dev.setRouter_read_journal (d : Dev) (n : Nat) (x : Router) (b : Nat) : (d.setRouter n x).journal b = d.journal b := by simp [Dev.journal]
@[simp] theorem Dev.setRouter_read_home (d : Dev) (n : Nat) (x : Router) (n' : Nat) : (d.setRouter n x).home n' = d.home n' := by simp [Dev.home]
@[simp] theorem Dev.setRouter_read_adapter (d : Dev) (n : Nat) (x : Router) (a : Nat) : (d.setRouter n x).adapter a = d.adapter a := by simp [Dev.adapter]
@[simp] theorem Dev.setRouter_read_chan (d : Dev) (n : Nat) (x : Router) (c : Nat) : (d.setRouter n x).chan c = d.chan c := by simp [Dev.chan]
@[simp] theorem Dev.setRouter_read_hfLink (d : Dev) (n : Nat) (x : Router) (l : Nat) : (d.setRouter n x).hfLink l = d.hfLink l := by simp [Dev.hfLink]
@[simp] theorem Dev.setRouter_read_mc (d : Dev) (n : Nat) (x : Router) (m : Nat) : (d.setRouter n x).mc m = d.mc m := by simp [Dev.mc]
@[simp] theorem Dev.setRouter_read_slot (d : Dev) (n : Nat) (x : Router) (e s : Nat) : (d.setRouter n x).slot e s = d.slot e s := by simp [Dev.slot]
@[simp] theorem Dev.setRouter_read_now (d : Dev) (n : Nat) (x : Router) : (d.setRouter n x).now = d.now := by simp [Dev.now]

@[simp] theorem Dev.setAdapter_read_get (d : Dev) (a : Nat) (x : Adapter) (q : Reg) : (d.setAdapter a x).get q = d.get q := by simp [Dev.get]
@[simp] theorem Dev.setAdapter_read_unit (d : Dev) (a : Nat) (x : Adapter) (u : UnitRef) : (d.setAdapter a x).unit u = d.unit u := by simp [Dev.unit]
@[simp] theorem Dev.setAdapter_read_hart (d : Dev) (a : Nat) (x : Adapter) (k : Nat) : (d.setAdapter a x).hart k = d.hart k := by simp [Dev.hart]
@[simp] theorem Dev.setAdapter_read_inst (d : Dev) (a : Nat) (x : Adapter) (i : Nat) : (d.setAdapter a x).inst i = d.inst i := by simp [Dev.inst]
@[simp] theorem Dev.setAdapter_read_job (d : Dev) (a : Nat) (x : Adapter) (j : Nat) : (d.setAdapter a x).job j = d.job j := by simp [Dev.job]
@[simp] theorem Dev.setAdapter_read_eng (d : Dev) (a : Nat) (x : Adapter) (e : Nat) : (d.setAdapter a x).eng e = d.eng e := by simp [Dev.eng]
@[simp] theorem Dev.setAdapter_read_journal (d : Dev) (a : Nat) (x : Adapter) (b : Nat) : (d.setAdapter a x).journal b = d.journal b := by simp [Dev.journal]
@[simp] theorem Dev.setAdapter_read_home (d : Dev) (a : Nat) (x : Adapter) (n : Nat) : (d.setAdapter a x).home n = d.home n := by simp [Dev.home]
@[simp] theorem Dev.setAdapter_read_chan (d : Dev) (a : Nat) (x : Adapter) (c : Nat) : (d.setAdapter a x).chan c = d.chan c := by simp [Dev.chan]
@[simp] theorem Dev.setAdapter_read_hfLink (d : Dev) (a : Nat) (x : Adapter) (l : Nat) : (d.setAdapter a x).hfLink l = d.hfLink l := by simp [Dev.hfLink]
@[simp] theorem Dev.setAdapter_read_mc (d : Dev) (a : Nat) (x : Adapter) (m : Nat) : (d.setAdapter a x).mc m = d.mc m := by simp [Dev.mc]
@[simp] theorem Dev.setAdapter_read_slot (d : Dev) (a : Nat) (x : Adapter) (e s : Nat) : (d.setAdapter a x).slot e s = d.slot e s := by simp [Dev.slot]
@[simp] theorem Dev.setAdapter_read_now (d : Dev) (a : Nat) (x : Adapter) : (d.setAdapter a x).now = d.now := by simp [Dev.now]

@[simp] theorem Dev.setChan_read_get (d : Dev) (c : Nat) (x : Chan) (q : Reg) : (d.setChan c x).get q = d.get q := by simp [Dev.get]
@[simp] theorem Dev.setChan_read_unit (d : Dev) (c : Nat) (x : Chan) (u : UnitRef) : (d.setChan c x).unit u = d.unit u := by simp [Dev.unit]
@[simp] theorem Dev.setChan_read_hart (d : Dev) (c : Nat) (x : Chan) (k : Nat) : (d.setChan c x).hart k = d.hart k := by simp [Dev.hart]
@[simp] theorem Dev.setChan_read_inst (d : Dev) (c : Nat) (x : Chan) (i : Nat) : (d.setChan c x).inst i = d.inst i := by simp [Dev.inst]
@[simp] theorem Dev.setChan_read_job (d : Dev) (c : Nat) (x : Chan) (j : Nat) : (d.setChan c x).job j = d.job j := by simp [Dev.job]
@[simp] theorem Dev.setChan_read_eng (d : Dev) (c : Nat) (x : Chan) (e : Nat) : (d.setChan c x).eng e = d.eng e := by simp [Dev.eng]
@[simp] theorem Dev.setChan_read_journal (d : Dev) (c : Nat) (x : Chan) (b : Nat) : (d.setChan c x).journal b = d.journal b := by simp [Dev.journal]
@[simp] theorem Dev.setChan_read_home (d : Dev) (c : Nat) (x : Chan) (n : Nat) : (d.setChan c x).home n = d.home n := by simp [Dev.home]
@[simp] theorem Dev.setChan_read_adapter (d : Dev) (c : Nat) (x : Chan) (a : Nat) : (d.setChan c x).adapter a = d.adapter a := by simp [Dev.adapter]
@[simp] theorem Dev.setChan_read_hfLink (d : Dev) (c : Nat) (x : Chan) (l : Nat) : (d.setChan c x).hfLink l = d.hfLink l := by simp [Dev.hfLink]
@[simp] theorem Dev.setChan_read_mc (d : Dev) (c : Nat) (x : Chan) (m : Nat) : (d.setChan c x).mc m = d.mc m := by simp [Dev.mc]
@[simp] theorem Dev.setChan_read_slot (d : Dev) (c : Nat) (x : Chan) (e s : Nat) : (d.setChan c x).slot e s = d.slot e s := by simp [Dev.slot]
@[simp] theorem Dev.setChan_read_now (d : Dev) (c : Nat) (x : Chan) : (d.setChan c x).now = d.now := by simp [Dev.now]

@[simp] theorem Dev.setHfLink_read_get (d : Dev) (l : Nat) (x : HfLink) (q : Reg) : (d.setHfLink l x).get q = d.get q := by simp [Dev.get]
@[simp] theorem Dev.setHfLink_read_unit (d : Dev) (l : Nat) (x : HfLink) (u : UnitRef) : (d.setHfLink l x).unit u = d.unit u := by simp [Dev.unit]
@[simp] theorem Dev.setHfLink_read_hart (d : Dev) (l : Nat) (x : HfLink) (k : Nat) : (d.setHfLink l x).hart k = d.hart k := by simp [Dev.hart]
@[simp] theorem Dev.setHfLink_read_inst (d : Dev) (l : Nat) (x : HfLink) (i : Nat) : (d.setHfLink l x).inst i = d.inst i := by simp [Dev.inst]
@[simp] theorem Dev.setHfLink_read_job (d : Dev) (l : Nat) (x : HfLink) (j : Nat) : (d.setHfLink l x).job j = d.job j := by simp [Dev.job]
@[simp] theorem Dev.setHfLink_read_eng (d : Dev) (l : Nat) (x : HfLink) (e : Nat) : (d.setHfLink l x).eng e = d.eng e := by simp [Dev.eng]
@[simp] theorem Dev.setHfLink_read_journal (d : Dev) (l : Nat) (x : HfLink) (b : Nat) : (d.setHfLink l x).journal b = d.journal b := by simp [Dev.journal]
@[simp] theorem Dev.setHfLink_read_home (d : Dev) (l : Nat) (x : HfLink) (n : Nat) : (d.setHfLink l x).home n = d.home n := by simp [Dev.home]
@[simp] theorem Dev.setHfLink_read_adapter (d : Dev) (l : Nat) (x : HfLink) (a : Nat) : (d.setHfLink l x).adapter a = d.adapter a := by simp [Dev.adapter]
@[simp] theorem Dev.setHfLink_read_chan (d : Dev) (l : Nat) (x : HfLink) (c : Nat) : (d.setHfLink l x).chan c = d.chan c := by simp [Dev.chan]
@[simp] theorem Dev.setHfLink_read_mc (d : Dev) (l : Nat) (x : HfLink) (m : Nat) : (d.setHfLink l x).mc m = d.mc m := by simp [Dev.mc]
@[simp] theorem Dev.setHfLink_read_slot (d : Dev) (l : Nat) (x : HfLink) (e s : Nat) : (d.setHfLink l x).slot e s = d.slot e s := by simp [Dev.slot]
@[simp] theorem Dev.setHfLink_read_now (d : Dev) (l : Nat) (x : HfLink) : (d.setHfLink l x).now = d.now := by simp [Dev.now]

@[simp] theorem Dev.setMc_read_get (d : Dev) (m : Nat) (x : Mc) (q : Reg) : (d.setMc m x).get q = d.get q := by simp [Dev.get]
@[simp] theorem Dev.setMc_read_unit (d : Dev) (m : Nat) (x : Mc) (u : UnitRef) : (d.setMc m x).unit u = d.unit u := by simp [Dev.unit]
@[simp] theorem Dev.setMc_read_hart (d : Dev) (m : Nat) (x : Mc) (k : Nat) : (d.setMc m x).hart k = d.hart k := by simp [Dev.hart]
@[simp] theorem Dev.setMc_read_inst (d : Dev) (m : Nat) (x : Mc) (i : Nat) : (d.setMc m x).inst i = d.inst i := by simp [Dev.inst]
@[simp] theorem Dev.setMc_read_job (d : Dev) (m : Nat) (x : Mc) (j : Nat) : (d.setMc m x).job j = d.job j := by simp [Dev.job]
@[simp] theorem Dev.setMc_read_eng (d : Dev) (m : Nat) (x : Mc) (e : Nat) : (d.setMc m x).eng e = d.eng e := by simp [Dev.eng]
@[simp] theorem Dev.setMc_read_journal (d : Dev) (m : Nat) (x : Mc) (b : Nat) : (d.setMc m x).journal b = d.journal b := by simp [Dev.journal]
@[simp] theorem Dev.setMc_read_home (d : Dev) (m : Nat) (x : Mc) (n : Nat) : (d.setMc m x).home n = d.home n := by simp [Dev.home]
@[simp] theorem Dev.setMc_read_adapter (d : Dev) (m : Nat) (x : Mc) (a : Nat) : (d.setMc m x).adapter a = d.adapter a := by simp [Dev.adapter]
@[simp] theorem Dev.setMc_read_chan (d : Dev) (m : Nat) (x : Mc) (c : Nat) : (d.setMc m x).chan c = d.chan c := by simp [Dev.chan]
@[simp] theorem Dev.setMc_read_hfLink (d : Dev) (m : Nat) (x : Mc) (l : Nat) : (d.setMc m x).hfLink l = d.hfLink l := by simp [Dev.hfLink]
@[simp] theorem Dev.setMc_read_slot (d : Dev) (m : Nat) (x : Mc) (e s : Nat) : (d.setMc m x).slot e s = d.slot e s := by simp [Dev.slot]
@[simp] theorem Dev.setMc_read_now (d : Dev) (m : Nat) (x : Mc) : (d.setMc m x).now = d.now := by simp [Dev.now]

@[simp] theorem Dev.setMailbox_read_get (d : Dev) (w : World) (x : Mailbox) (q : Reg) : (d.setMailbox w x).get q = d.get q := by simp [Dev.get]
@[simp] theorem Dev.setMailbox_read_unit (d : Dev) (w : World) (x : Mailbox) (u : UnitRef) : (d.setMailbox w x).unit u = d.unit u := by simp [Dev.unit]
@[simp] theorem Dev.setMailbox_read_hart (d : Dev) (w : World) (x : Mailbox) (k : Nat) : (d.setMailbox w x).hart k = d.hart k := by simp [Dev.hart]
@[simp] theorem Dev.setMailbox_read_inst (d : Dev) (w : World) (x : Mailbox) (i : Nat) : (d.setMailbox w x).inst i = d.inst i := by simp [Dev.inst]
@[simp] theorem Dev.setMailbox_read_job (d : Dev) (w : World) (x : Mailbox) (j : Nat) : (d.setMailbox w x).job j = d.job j := by simp [Dev.job]
@[simp] theorem Dev.setMailbox_read_eng (d : Dev) (w : World) (x : Mailbox) (e : Nat) : (d.setMailbox w x).eng e = d.eng e := by simp [Dev.eng]
@[simp] theorem Dev.setMailbox_read_journal (d : Dev) (w : World) (x : Mailbox) (b : Nat) : (d.setMailbox w x).journal b = d.journal b := by simp [Dev.journal]
@[simp] theorem Dev.setMailbox_read_home (d : Dev) (w : World) (x : Mailbox) (n : Nat) : (d.setMailbox w x).home n = d.home n := by simp [Dev.home]
@[simp] theorem Dev.setMailbox_read_adapter (d : Dev) (w : World) (x : Mailbox) (a : Nat) : (d.setMailbox w x).adapter a = d.adapter a := by simp [Dev.adapter]
@[simp] theorem Dev.setMailbox_read_chan (d : Dev) (w : World) (x : Mailbox) (c : Nat) : (d.setMailbox w x).chan c = d.chan c := by simp [Dev.chan]
@[simp] theorem Dev.setMailbox_read_hfLink (d : Dev) (w : World) (x : Mailbox) (l : Nat) : (d.setMailbox w x).hfLink l = d.hfLink l := by simp [Dev.hfLink]
@[simp] theorem Dev.setMailbox_read_mc (d : Dev) (w : World) (x : Mailbox) (m : Nat) : (d.setMailbox w x).mc m = d.mc m := by simp [Dev.mc]
@[simp] theorem Dev.setMailbox_read_slot (d : Dev) (w : World) (x : Mailbox) (e s : Nat) : (d.setMailbox w x).slot e s = d.slot e s := by simp [Dev.slot]
@[simp] theorem Dev.setMailbox_read_now (d : Dev) (w : World) (x : Mailbox) : (d.setMailbox w x).now = d.now := by simp [Dev.now]

@[simp] theorem Dev.setDrbg_read_get (d : Dev) (b : Nat) (x : Drbg) (q : Reg) : (d.setDrbg b x).get q = d.get q := by simp [Dev.get]
@[simp] theorem Dev.setDrbg_read_unit (d : Dev) (b : Nat) (x : Drbg) (u : UnitRef) : (d.setDrbg b x).unit u = d.unit u := by simp [Dev.unit]
@[simp] theorem Dev.setDrbg_read_hart (d : Dev) (b : Nat) (x : Drbg) (k : Nat) : (d.setDrbg b x).hart k = d.hart k := by simp [Dev.hart]
@[simp] theorem Dev.setDrbg_read_inst (d : Dev) (b : Nat) (x : Drbg) (i : Nat) : (d.setDrbg b x).inst i = d.inst i := by simp [Dev.inst]
@[simp] theorem Dev.setDrbg_read_job (d : Dev) (b : Nat) (x : Drbg) (j : Nat) : (d.setDrbg b x).job j = d.job j := by simp [Dev.job]
@[simp] theorem Dev.setDrbg_read_eng (d : Dev) (b : Nat) (x : Drbg) (e : Nat) : (d.setDrbg b x).eng e = d.eng e := by simp [Dev.eng]
@[simp] theorem Dev.setDrbg_read_journal (d : Dev) (b : Nat) (x : Drbg) (b' : Nat) : (d.setDrbg b x).journal b' = d.journal b' := by simp [Dev.journal]
@[simp] theorem Dev.setDrbg_read_home (d : Dev) (b : Nat) (x : Drbg) (n : Nat) : (d.setDrbg b x).home n = d.home n := by simp [Dev.home]
@[simp] theorem Dev.setDrbg_read_adapter (d : Dev) (b : Nat) (x : Drbg) (a : Nat) : (d.setDrbg b x).adapter a = d.adapter a := by simp [Dev.adapter]
@[simp] theorem Dev.setDrbg_read_chan (d : Dev) (b : Nat) (x : Drbg) (c : Nat) : (d.setDrbg b x).chan c = d.chan c := by simp [Dev.chan]
@[simp] theorem Dev.setDrbg_read_hfLink (d : Dev) (b : Nat) (x : Drbg) (l : Nat) : (d.setDrbg b x).hfLink l = d.hfLink l := by simp [Dev.hfLink]
@[simp] theorem Dev.setDrbg_read_mc (d : Dev) (b : Nat) (x : Drbg) (m : Nat) : (d.setDrbg b x).mc m = d.mc m := by simp [Dev.mc]
@[simp] theorem Dev.setDrbg_read_slot (d : Dev) (b : Nat) (x : Drbg) (e s : Nat) : (d.setDrbg b x).slot e s = d.slot e s := by simp [Dev.slot]
@[simp] theorem Dev.setDrbg_read_now (d : Dev) (b : Nat) (x : Drbg) : (d.setDrbg b x).now = d.now := by simp [Dev.now]

@[simp] theorem Dev.setSlot_read_get (d : Dev) (e s : Nat) (o : SlotOwner) (q : Reg) : (d.setSlot e s o).get q = d.get q := by simp [Dev.get]
@[simp] theorem Dev.setSlot_read_unit (d : Dev) (e s : Nat) (o : SlotOwner) (u : UnitRef) : (d.setSlot e s o).unit u = d.unit u := by simp [Dev.unit]
@[simp] theorem Dev.setSlot_read_hart (d : Dev) (e s : Nat) (o : SlotOwner) (k : Nat) : (d.setSlot e s o).hart k = d.hart k := by simp [Dev.hart]
@[simp] theorem Dev.setSlot_read_inst (d : Dev) (e s : Nat) (o : SlotOwner) (i : Nat) : (d.setSlot e s o).inst i = d.inst i := by simp [Dev.inst]
@[simp] theorem Dev.setSlot_read_job (d : Dev) (e s : Nat) (o : SlotOwner) (j : Nat) : (d.setSlot e s o).job j = d.job j := by simp [Dev.job]
@[simp] theorem Dev.setSlot_read_eng (d : Dev) (e s : Nat) (o : SlotOwner) (e' : Nat) : (d.setSlot e s o).eng e' = d.eng e' := by simp [Dev.eng]
@[simp] theorem Dev.setSlot_read_journal (d : Dev) (e s : Nat) (o : SlotOwner) (b : Nat) : (d.setSlot e s o).journal b = d.journal b := by simp [Dev.journal]
@[simp] theorem Dev.setSlot_read_home (d : Dev) (e s : Nat) (o : SlotOwner) (n : Nat) : (d.setSlot e s o).home n = d.home n := by simp [Dev.home]
@[simp] theorem Dev.setSlot_read_adapter (d : Dev) (e s : Nat) (o : SlotOwner) (a : Nat) : (d.setSlot e s o).adapter a = d.adapter a := by simp [Dev.adapter]
@[simp] theorem Dev.setSlot_read_chan (d : Dev) (e s : Nat) (o : SlotOwner) (c : Nat) : (d.setSlot e s o).chan c = d.chan c := by simp [Dev.chan]
@[simp] theorem Dev.setSlot_read_hfLink (d : Dev) (e s : Nat) (o : SlotOwner) (l : Nat) : (d.setSlot e s o).hfLink l = d.hfLink l := by simp [Dev.hfLink]
@[simp] theorem Dev.setSlot_read_mc (d : Dev) (e s : Nat) (o : SlotOwner) (m : Nat) : (d.setSlot e s o).mc m = d.mc m := by simp [Dev.mc]
@[simp] theorem Dev.setSlot_read_now (d : Dev) (e s : Nat) (o : SlotOwner) : (d.setSlot e s o).now = d.now := by simp [Dev.now]

@[simp] theorem Dev.memWrite_read_get (d : Dev) (a : Nat) (b : List Byte) (q : Reg) : (d.memWrite a b).get q = d.get q := by simp [Dev.get]
@[simp] theorem Dev.memWrite_read_unit (d : Dev) (a : Nat) (b : List Byte) (u : UnitRef) : (d.memWrite a b).unit u = d.unit u := by simp [Dev.unit]
@[simp] theorem Dev.memWrite_read_hart (d : Dev) (a : Nat) (b : List Byte) (k : Nat) : (d.memWrite a b).hart k = d.hart k := by simp [Dev.hart]
@[simp] theorem Dev.memWrite_read_inst (d : Dev) (a : Nat) (b : List Byte) (i : Nat) : (d.memWrite a b).inst i = d.inst i := by simp [Dev.inst]
@[simp] theorem Dev.memWrite_read_job (d : Dev) (a : Nat) (b : List Byte) (j : Nat) : (d.memWrite a b).job j = d.job j := by simp [Dev.job]
@[simp] theorem Dev.memWrite_read_eng (d : Dev) (a : Nat) (b : List Byte) (e : Nat) : (d.memWrite a b).eng e = d.eng e := by simp [Dev.eng]
@[simp] theorem Dev.memWrite_read_journal (d : Dev) (a : Nat) (b : List Byte) (b' : Nat) : (d.memWrite a b).journal b' = d.journal b' := by simp [Dev.journal]
@[simp] theorem Dev.memWrite_read_home (d : Dev) (a : Nat) (b : List Byte) (n : Nat) : (d.memWrite a b).home n = d.home n := by simp [Dev.home]
@[simp] theorem Dev.memWrite_read_adapter (d : Dev) (a : Nat) (b : List Byte) (a' : Nat) : (d.memWrite a b).adapter a' = d.adapter a' := by simp [Dev.adapter]
@[simp] theorem Dev.memWrite_read_chan (d : Dev) (a : Nat) (b : List Byte) (c : Nat) : (d.memWrite a b).chan c = d.chan c := by simp [Dev.chan]
@[simp] theorem Dev.memWrite_read_hfLink (d : Dev) (a : Nat) (b : List Byte) (l : Nat) : (d.memWrite a b).hfLink l = d.hfLink l := by simp [Dev.hfLink]
@[simp] theorem Dev.memWrite_read_mc (d : Dev) (a : Nat) (b : List Byte) (m : Nat) : (d.memWrite a b).mc m = d.mc m := by simp [Dev.mc]
@[simp] theorem Dev.memWrite_read_slot (d : Dev) (a : Nat) (b : List Byte) (e s : Nat) : (d.memWrite a b).slot e s = d.slot e s := by simp [Dev.slot]
@[simp] theorem Dev.memWrite_read_now (d : Dev) (a : Nat) (b : List Byte) : (d.memWrite a b).now = d.now := by simp [Dev.now]

@[simp] theorem Dev.respond_read_get (d : Dev) (p : Path) (st : Status) (b : List Byte) (q : Reg) : (d.respond p st b).get q = d.get q := by simp [Dev.get]
@[simp] theorem Dev.respond_read_unit (d : Dev) (p : Path) (st : Status) (b : List Byte) (u : UnitRef) : (d.respond p st b).unit u = d.unit u := by simp [Dev.unit]
@[simp] theorem Dev.respond_read_hart (d : Dev) (p : Path) (st : Status) (b : List Byte) (k : Nat) : (d.respond p st b).hart k = d.hart k := by simp [Dev.hart]
@[simp] theorem Dev.respond_read_inst (d : Dev) (p : Path) (st : Status) (b : List Byte) (i : Nat) : (d.respond p st b).inst i = d.inst i := by simp [Dev.inst]
@[simp] theorem Dev.respond_read_job (d : Dev) (p : Path) (st : Status) (b : List Byte) (j : Nat) : (d.respond p st b).job j = d.job j := by simp [Dev.job]
@[simp] theorem Dev.respond_read_eng (d : Dev) (p : Path) (st : Status) (b : List Byte) (e : Nat) : (d.respond p st b).eng e = d.eng e := by simp [Dev.eng]
@[simp] theorem Dev.respond_read_journal (d : Dev) (p : Path) (st : Status) (b : List Byte) (b' : Nat) : (d.respond p st b).journal b' = d.journal b' := by simp [Dev.journal]
@[simp] theorem Dev.respond_read_home (d : Dev) (p : Path) (st : Status) (b : List Byte) (n : Nat) : (d.respond p st b).home n = d.home n := by simp [Dev.home]
@[simp] theorem Dev.respond_read_adapter (d : Dev) (p : Path) (st : Status) (b : List Byte) (a : Nat) : (d.respond p st b).adapter a = d.adapter a := by simp [Dev.adapter]
@[simp] theorem Dev.respond_read_chan (d : Dev) (p : Path) (st : Status) (b : List Byte) (c : Nat) : (d.respond p st b).chan c = d.chan c := by simp [Dev.chan]
@[simp] theorem Dev.respond_read_hfLink (d : Dev) (p : Path) (st : Status) (b : List Byte) (l : Nat) : (d.respond p st b).hfLink l = d.hfLink l := by simp [Dev.hfLink]
@[simp] theorem Dev.respond_read_mc (d : Dev) (p : Path) (st : Status) (b : List Byte) (m : Nat) : (d.respond p st b).mc m = d.mc m := by simp [Dev.mc]
@[simp] theorem Dev.respond_read_slot (d : Dev) (p : Path) (st : Status) (b : List Byte) (e s : Nat) : (d.respond p st b).slot e s = d.slot e s := by simp [Dev.slot]
@[simp] theorem Dev.respond_read_now (d : Dev) (p : Path) (st : Status) (b : List Byte) : (d.respond p st b).now = d.now := by simp [Dev.now]

@[simp] theorem Dev.post_read_get (d : Dev) (m : Instr) (q : Reg) : (d.post m).get q = d.get q := by simp [Dev.get]
@[simp] theorem Dev.post_read_unit (d : Dev) (m : Instr) (u : UnitRef) : (d.post m).unit u = d.unit u := by simp [Dev.unit]
@[simp] theorem Dev.post_read_hart (d : Dev) (m : Instr) (k : Nat) : (d.post m).hart k = d.hart k := by simp [Dev.hart]
@[simp] theorem Dev.post_read_inst (d : Dev) (m : Instr) (i : Nat) : (d.post m).inst i = d.inst i := by simp [Dev.inst]
@[simp] theorem Dev.post_read_job (d : Dev) (m : Instr) (j : Nat) : (d.post m).job j = d.job j := by simp [Dev.job]
@[simp] theorem Dev.post_read_eng (d : Dev) (m : Instr) (e : Nat) : (d.post m).eng e = d.eng e := by simp [Dev.eng]
@[simp] theorem Dev.post_read_journal (d : Dev) (m : Instr) (b : Nat) : (d.post m).journal b = d.journal b := by simp [Dev.journal]
@[simp] theorem Dev.post_read_home (d : Dev) (m : Instr) (n : Nat) : (d.post m).home n = d.home n := by simp [Dev.home]
@[simp] theorem Dev.post_read_adapter (d : Dev) (m : Instr) (a : Nat) : (d.post m).adapter a = d.adapter a := by simp [Dev.adapter]
@[simp] theorem Dev.post_read_chan (d : Dev) (m : Instr) (c : Nat) : (d.post m).chan c = d.chan c := by simp [Dev.chan]
@[simp] theorem Dev.post_read_hfLink (d : Dev) (m : Instr) (l : Nat) : (d.post m).hfLink l = d.hfLink l := by simp [Dev.hfLink]
@[simp] theorem Dev.post_read_mc (d : Dev) (m : Instr) (m' : Nat) : (d.post m).mc m' = d.mc m' := by simp [Dev.mc]
@[simp] theorem Dev.post_read_slot (d : Dev) (m : Instr) (e s : Nat) : (d.post m).slot e s = d.slot e s := by simp [Dev.slot]
@[simp] theorem Dev.post_read_now (d : Dev) (m : Instr) : (d.post m).now = d.now := by simp [Dev.now]

@[simp] theorem Dev.touchSession_read_get (d : Dev) (p : Path) (q : Reg) : (d.touchSession p).get q = d.get q := by simp [Dev.get]
@[simp] theorem Dev.touchSession_read_unit (d : Dev) (p : Path) (u : UnitRef) : (d.touchSession p).unit u = d.unit u := by simp [Dev.unit]
@[simp] theorem Dev.touchSession_read_hart (d : Dev) (p : Path) (k : Nat) : (d.touchSession p).hart k = d.hart k := by simp [Dev.hart]
@[simp] theorem Dev.touchSession_read_inst (d : Dev) (p : Path) (i : Nat) : (d.touchSession p).inst i = d.inst i := by simp [Dev.inst]
@[simp] theorem Dev.touchSession_read_job (d : Dev) (p : Path) (j : Nat) : (d.touchSession p).job j = d.job j := by simp [Dev.job]
@[simp] theorem Dev.touchSession_read_eng (d : Dev) (p : Path) (e : Nat) : (d.touchSession p).eng e = d.eng e := by simp [Dev.eng]
@[simp] theorem Dev.touchSession_read_journal (d : Dev) (p : Path) (b : Nat) : (d.touchSession p).journal b = d.journal b := by simp [Dev.journal]
@[simp] theorem Dev.touchSession_read_home (d : Dev) (p : Path) (n : Nat) : (d.touchSession p).home n = d.home n := by simp [Dev.home]
@[simp] theorem Dev.touchSession_read_adapter (d : Dev) (p : Path) (a : Nat) : (d.touchSession p).adapter a = d.adapter a := by simp [Dev.adapter]
@[simp] theorem Dev.touchSession_read_chan (d : Dev) (p : Path) (c : Nat) : (d.touchSession p).chan c = d.chan c := by simp [Dev.chan]
@[simp] theorem Dev.touchSession_read_hfLink (d : Dev) (p : Path) (l : Nat) : (d.touchSession p).hfLink l = d.hfLink l := by simp [Dev.hfLink]
@[simp] theorem Dev.touchSession_read_mc (d : Dev) (p : Path) (m : Nat) : (d.touchSession p).mc m = d.mc m := by simp [Dev.mc]
@[simp] theorem Dev.touchSession_read_slot (d : Dev) (p : Path) (e s : Nat) : (d.touchSession p).slot e s = d.slot e s := by simp [Dev.slot]
@[simp] theorem Dev.touchSession_read_now (d : Dev) (p : Path) : (d.touchSession p).now = d.now := by simp [Dev.now]

@[simp] theorem Dev.sendFault_read_unit (d : Dev) (src : Nat) (m : FaultMsg) (u : UnitRef) : (d.sendFault src m).unit u = d.unit u := by simp [Dev.unit]
@[simp] theorem Dev.sendFault_read_hart (d : Dev) (src : Nat) (m : FaultMsg) (k : Nat) : (d.sendFault src m).hart k = d.hart k := by simp [Dev.hart]
@[simp] theorem Dev.sendFault_read_inst (d : Dev) (src : Nat) (m : FaultMsg) (i : Nat) : (d.sendFault src m).inst i = d.inst i := by simp [Dev.inst]
@[simp] theorem Dev.sendFault_read_job (d : Dev) (src : Nat) (m : FaultMsg) (j : Nat) : (d.sendFault src m).job j = d.job j := by simp [Dev.job]
@[simp] theorem Dev.sendFault_read_eng (d : Dev) (src : Nat) (m : FaultMsg) (e : Nat) : (d.sendFault src m).eng e = d.eng e := by simp [Dev.eng]
@[simp] theorem Dev.sendFault_read_journal (d : Dev) (src : Nat) (m : FaultMsg) (b : Nat) : (d.sendFault src m).journal b = d.journal b := by simp [Dev.journal]
@[simp] theorem Dev.sendFault_read_home (d : Dev) (src : Nat) (m : FaultMsg) (n : Nat) : (d.sendFault src m).home n = d.home n := by simp [Dev.home]
@[simp] theorem Dev.sendFault_read_adapter (d : Dev) (src : Nat) (m : FaultMsg) (a : Nat) : (d.sendFault src m).adapter a = d.adapter a := by simp [Dev.adapter]
@[simp] theorem Dev.sendFault_read_chan (d : Dev) (src : Nat) (m : FaultMsg) (c : Nat) : (d.sendFault src m).chan c = d.chan c := by simp [Dev.chan]
@[simp] theorem Dev.sendFault_read_hfLink (d : Dev) (src : Nat) (m : FaultMsg) (l : Nat) : (d.sendFault src m).hfLink l = d.hfLink l := by simp [Dev.hfLink]
@[simp] theorem Dev.sendFault_read_mc (d : Dev) (src : Nat) (m : FaultMsg) (m' : Nat) : (d.sendFault src m).mc m' = d.mc m' := by simp [Dev.mc]
@[simp] theorem Dev.sendFault_read_slot (d : Dev) (src : Nat) (m : FaultMsg) (e s : Nat) : (d.sendFault src m).slot e s = d.slot e s := by simp [Dev.slot]
@[simp] theorem Dev.sendFault_read_now (d : Dev) (src : Nat) (m : FaultMsg) : (d.sendFault src m).now = d.now := by simp [Dev.now]

@[simp] theorem Dev.raise_read_unit (d : Dev) (kind src syn : Nat) (u : UnitRef) : (d.raise kind src syn).unit u = d.unit u := by simp [Dev.unit]
@[simp] theorem Dev.raise_read_hart (d : Dev) (kind src syn : Nat) (k : Nat) : (d.raise kind src syn).hart k = d.hart k := by simp [Dev.hart]
@[simp] theorem Dev.raise_read_inst (d : Dev) (kind src syn : Nat) (i : Nat) : (d.raise kind src syn).inst i = d.inst i := by simp [Dev.inst]
@[simp] theorem Dev.raise_read_job (d : Dev) (kind src syn : Nat) (j : Nat) : (d.raise kind src syn).job j = d.job j := by simp [Dev.job]
@[simp] theorem Dev.raise_read_eng (d : Dev) (kind src syn : Nat) (e : Nat) : (d.raise kind src syn).eng e = d.eng e := by simp [Dev.eng]
@[simp] theorem Dev.raise_read_journal (d : Dev) (kind src syn : Nat) (b : Nat) : (d.raise kind src syn).journal b = d.journal b := by simp [Dev.journal]
@[simp] theorem Dev.raise_read_home (d : Dev) (kind src syn : Nat) (n : Nat) : (d.raise kind src syn).home n = d.home n := by simp [Dev.home]
@[simp] theorem Dev.raise_read_adapter (d : Dev) (kind src syn : Nat) (a : Nat) : (d.raise kind src syn).adapter a = d.adapter a := by simp [Dev.adapter]
@[simp] theorem Dev.raise_read_chan (d : Dev) (kind src syn : Nat) (c : Nat) : (d.raise kind src syn).chan c = d.chan c := by simp [Dev.chan]
@[simp] theorem Dev.raise_read_hfLink (d : Dev) (kind src syn : Nat) (l : Nat) : (d.raise kind src syn).hfLink l = d.hfLink l := by simp [Dev.hfLink]
@[simp] theorem Dev.raise_read_mc (d : Dev) (kind src syn : Nat) (m : Nat) : (d.raise kind src syn).mc m = d.mc m := by simp [Dev.mc]
@[simp] theorem Dev.raise_read_slot (d : Dev) (kind src syn : Nat) (e s : Nat) : (d.raise kind src syn).slot e s = d.slot e s := by simp [Dev.slot]
@[simp] theorem Dev.raise_read_now (d : Dev) (kind src syn : Nat) : (d.raise kind src syn).now = d.now := by simp [Dev.now]

@[simp] theorem Dev.raiseAt_read_unit (d : Dev) (kind src addr syn : Nat) (u : UnitRef) : (d.raiseAt kind src addr syn).unit u = d.unit u := by simp [Dev.unit]
@[simp] theorem Dev.raiseAt_read_hart (d : Dev) (kind src addr syn : Nat) (k : Nat) : (d.raiseAt kind src addr syn).hart k = d.hart k := by simp [Dev.hart]
@[simp] theorem Dev.raiseAt_read_inst (d : Dev) (kind src addr syn : Nat) (i : Nat) : (d.raiseAt kind src addr syn).inst i = d.inst i := by simp [Dev.inst]
@[simp] theorem Dev.raiseAt_read_job (d : Dev) (kind src addr syn : Nat) (j : Nat) : (d.raiseAt kind src addr syn).job j = d.job j := by simp [Dev.job]
@[simp] theorem Dev.raiseAt_read_eng (d : Dev) (kind src addr syn : Nat) (e : Nat) : (d.raiseAt kind src addr syn).eng e = d.eng e := by simp [Dev.eng]
@[simp] theorem Dev.raiseAt_read_journal (d : Dev) (kind src addr syn : Nat) (b : Nat) : (d.raiseAt kind src addr syn).journal b = d.journal b := by simp [Dev.journal]
@[simp] theorem Dev.raiseAt_read_home (d : Dev) (kind src addr syn : Nat) (n : Nat) : (d.raiseAt kind src addr syn).home n = d.home n := by simp [Dev.home]
@[simp] theorem Dev.raiseAt_read_adapter (d : Dev) (kind src addr syn : Nat) (a : Nat) : (d.raiseAt kind src addr syn).adapter a = d.adapter a := by simp [Dev.adapter]
@[simp] theorem Dev.raiseAt_read_chan (d : Dev) (kind src addr syn : Nat) (c : Nat) : (d.raiseAt kind src addr syn).chan c = d.chan c := by simp [Dev.chan]
@[simp] theorem Dev.raiseAt_read_hfLink (d : Dev) (kind src addr syn : Nat) (l : Nat) : (d.raiseAt kind src addr syn).hfLink l = d.hfLink l := by simp [Dev.hfLink]
@[simp] theorem Dev.raiseAt_read_mc (d : Dev) (kind src addr syn : Nat) (m : Nat) : (d.raiseAt kind src addr syn).mc m = d.mc m := by simp [Dev.mc]
@[simp] theorem Dev.raiseAt_read_slot (d : Dev) (kind src addr syn : Nat) (e s : Nat) : (d.raiseAt kind src addr syn).slot e s = d.slot e s := by simp [Dev.slot]
@[simp] theorem Dev.raiseAt_read_now (d : Dev) (kind src addr syn : Nat) : (d.raiseAt kind src addr syn).now = d.now := by simp [Dev.now]

@[simp] theorem Dev.grantPort_read_get (d : Dev) (name n port : Nat) (q : Reg) : (d.grantPort name n port).get q = d.get q := by simp [Dev.get]
@[simp] theorem Dev.grantPort_read_unit (d : Dev) (name n port : Nat) (u : UnitRef) : (d.grantPort name n port).unit u = d.unit u := by simp [Dev.unit]
@[simp] theorem Dev.grantPort_read_hart (d : Dev) (name n port : Nat) (k : Nat) : (d.grantPort name n port).hart k = d.hart k := by simp [Dev.hart]
@[simp] theorem Dev.grantPort_read_inst (d : Dev) (name n port : Nat) (i : Nat) : (d.grantPort name n port).inst i = d.inst i := by simp [Dev.inst]
@[simp] theorem Dev.grantPort_read_job (d : Dev) (name n port : Nat) (j : Nat) : (d.grantPort name n port).job j = d.job j := by simp [Dev.job]
@[simp] theorem Dev.grantPort_read_eng (d : Dev) (name n port : Nat) (e : Nat) : (d.grantPort name n port).eng e = d.eng e := by simp [Dev.eng]
@[simp] theorem Dev.grantPort_read_journal (d : Dev) (name n port : Nat) (b : Nat) : (d.grantPort name n port).journal b = d.journal b := by simp [Dev.journal]
@[simp] theorem Dev.grantPort_read_home (d : Dev) (name n port : Nat) (n' : Nat) : (d.grantPort name n port).home n' = d.home n' := by simp [Dev.home]
@[simp] theorem Dev.grantPort_read_adapter (d : Dev) (name n port : Nat) (a : Nat) : (d.grantPort name n port).adapter a = d.adapter a := by simp [Dev.adapter]
@[simp] theorem Dev.grantPort_read_chan (d : Dev) (name n port : Nat) (c : Nat) : (d.grantPort name n port).chan c = d.chan c := by simp [Dev.chan]
@[simp] theorem Dev.grantPort_read_hfLink (d : Dev) (name n port : Nat) (l : Nat) : (d.grantPort name n port).hfLink l = d.hfLink l := by simp [Dev.hfLink]
@[simp] theorem Dev.grantPort_read_mc (d : Dev) (name n port : Nat) (m : Nat) : (d.grantPort name n port).mc m = d.mc m := by simp [Dev.mc]
@[simp] theorem Dev.grantPort_read_slot (d : Dev) (name n port : Nat) (e s : Nat) : (d.grantPort name n port).slot e s = d.slot e s := by simp [Dev.slot]
@[simp] theorem Dev.grantPort_read_now (d : Dev) (name n port : Nat) : (d.grantPort name n port).now = d.now := by simp [Dev.now]

@[simp] theorem Dev.takeTurn_read_get (d : Dev) (p : Path) (q : Reg) : (d.takeTurn p).get q = d.get q := by simp [Dev.get]
@[simp] theorem Dev.takeTurn_read_unit (d : Dev) (p : Path) (u : UnitRef) : (d.takeTurn p).unit u = d.unit u := by simp [Dev.unit]
@[simp] theorem Dev.takeTurn_read_hart (d : Dev) (p : Path) (k : Nat) : (d.takeTurn p).hart k = d.hart k := by simp [Dev.hart]
@[simp] theorem Dev.takeTurn_read_inst (d : Dev) (p : Path) (i : Nat) : (d.takeTurn p).inst i = d.inst i := by simp [Dev.inst]
@[simp] theorem Dev.takeTurn_read_job (d : Dev) (p : Path) (j : Nat) : (d.takeTurn p).job j = d.job j := by simp [Dev.job]
@[simp] theorem Dev.takeTurn_read_eng (d : Dev) (p : Path) (e : Nat) : (d.takeTurn p).eng e = d.eng e := by simp [Dev.eng]
@[simp] theorem Dev.takeTurn_read_journal (d : Dev) (p : Path) (b : Nat) : (d.takeTurn p).journal b = d.journal b := by simp [Dev.journal]
@[simp] theorem Dev.takeTurn_read_home (d : Dev) (p : Path) (n : Nat) : (d.takeTurn p).home n = d.home n := by simp [Dev.home]
@[simp] theorem Dev.takeTurn_read_adapter (d : Dev) (p : Path) (a : Nat) : (d.takeTurn p).adapter a = d.adapter a := by simp [Dev.adapter]
@[simp] theorem Dev.takeTurn_read_chan (d : Dev) (p : Path) (c : Nat) : (d.takeTurn p).chan c = d.chan c := by simp [Dev.chan]
@[simp] theorem Dev.takeTurn_read_hfLink (d : Dev) (p : Path) (l : Nat) : (d.takeTurn p).hfLink l = d.hfLink l := by simp [Dev.hfLink]
@[simp] theorem Dev.takeTurn_read_mc (d : Dev) (p : Path) (m : Nat) : (d.takeTurn p).mc m = d.mc m := by simp [Dev.mc]
@[simp] theorem Dev.takeTurn_read_slot (d : Dev) (p : Path) (e s : Nat) : (d.takeTurn p).slot e s = d.slot e s := by simp [Dev.slot]
@[simp] theorem Dev.takeTurn_read_now (d : Dev) (p : Path) : (d.takeTurn p).now = d.now := by simp [Dev.now]

@[simp] theorem Dev.startStep_read_get (d : Dev) (n : Nat) (q : Reg) : (d.startStep n).get q = d.get q := by simp [Dev.get]
@[simp] theorem Dev.startStep_read_unit (d : Dev) (n : Nat) (u : UnitRef) : (d.startStep n).unit u = d.unit u := by simp [Dev.unit]
@[simp] theorem Dev.startStep_read_hart (d : Dev) (n : Nat) (k : Nat) : (d.startStep n).hart k = d.hart k := by simp [Dev.hart]
@[simp] theorem Dev.startStep_read_inst (d : Dev) (n : Nat) (i : Nat) : (d.startStep n).inst i = d.inst i := by simp [Dev.inst]
@[simp] theorem Dev.startStep_read_job (d : Dev) (n : Nat) (j : Nat) : (d.startStep n).job j = d.job j := by simp [Dev.job]
@[simp] theorem Dev.startStep_read_eng (d : Dev) (n : Nat) (e : Nat) : (d.startStep n).eng e = d.eng e := by simp [Dev.eng]
@[simp] theorem Dev.startStep_read_journal (d : Dev) (n : Nat) (b : Nat) : (d.startStep n).journal b = d.journal b := by simp [Dev.journal]
@[simp] theorem Dev.startStep_read_home (d : Dev) (n : Nat) (n' : Nat) : (d.startStep n).home n' = d.home n' := by simp [Dev.home]
@[simp] theorem Dev.startStep_read_adapter (d : Dev) (n : Nat) (a : Nat) : (d.startStep n).adapter a = d.adapter a := by simp [Dev.adapter]
@[simp] theorem Dev.startStep_read_chan (d : Dev) (n : Nat) (c : Nat) : (d.startStep n).chan c = d.chan c := by simp [Dev.chan]
@[simp] theorem Dev.startStep_read_hfLink (d : Dev) (n : Nat) (l : Nat) : (d.startStep n).hfLink l = d.hfLink l := by simp [Dev.hfLink]
@[simp] theorem Dev.startStep_read_mc (d : Dev) (n : Nat) (m : Nat) : (d.startStep n).mc m = d.mc m := by simp [Dev.mc]
@[simp] theorem Dev.startStep_read_slot (d : Dev) (n : Nat) (e s : Nat) : (d.startStep n).slot e s = d.slot e s := by simp [Dev.slot]
@[simp] theorem Dev.startStep_read_now (d : Dev) (n : Nat) : (d.startStep n).now = d.now := by simp [Dev.now]

end Sys2Proof.Machine
end

