-- ==== Sys2Proof/Laws/Tab.lean ====
section
/-!
SUPPORT. The laws of the sparse stores and of the registers they hold: a read after a write of the same key gives the value written,
and a write leaves every other key alone.
-/
namespace Sys2Proof.Machine

@[simp] theorem tabFind_tabPut_same {α : Type} (t : Tab α) (k : Nat) (v : α) : tabFind (tabPut t k v) k = some v := by
  induction t with
  | nil => simp [tabPut, tabFind]
  | cons e r ih =>
    obtain ⟨k', v'⟩ := e
    simp only [tabPut]
    split
    · simp [tabFind]
    · split
      · simp [tabFind]
      · simp [tabFind, *]

theorem tabFind_tabPut_other {α : Type} (t : Tab α) {k j : Nat} (v : α) (h : k ≠ j) :
    tabFind (tabPut t k v) j = tabFind t j := by
  induction t with
  | nil => simp [tabPut, tabFind, h]
  | cons e r ih =>
    obtain ⟨k', v'⟩ := e
    simp only [tabPut]
    split
    · simp [tabFind, h]
    · split
      · subst_vars; simp [tabFind, h]
      · simp [tabFind, ih]

@[simp] theorem tabFind_tabErase_same {α : Type} (t : Tab α) (k : Nat) : tabFind (tabErase t k) k = none := by
  induction t with
  | nil => rfl
  | cons e r ih =>
    obtain ⟨k', v'⟩ := e
    by_cases h : k' = k
    · subst h; simpa [tabErase] using ih
    · have : tabErase ((k', v') :: r) k = (k', v') :: tabErase r k := by simp [tabErase, h]
      simp [this, tabFind, h, ih]

theorem tabFind_tabErase_other {α : Type} (t : Tab α) {k j : Nat} (h : k ≠ j) :
    tabFind (tabErase t k) j = tabFind t j := by
  induction t with
  | nil => rfl
  | cons e r ih =>
    obtain ⟨k', v'⟩ := e
    by_cases hk : k' = k
    · subst hk
      have : tabErase ((k', v') :: r) k' = tabErase r k' := by simp [tabErase]
      simp [this, ih, tabFind, h]
    · have : tabErase ((k', v') :: r) k = (k', v') :: tabErase r k := by simp [tabErase, hk]
      simp [this, tabFind, ih]

/-- A value read back is the value written. -/
@[simp] theorem tabGet_tabPut_same {α : Type} (t : Tab α) (k : Nat) (v x : α) : tabGet (tabPut t k v) k x = v := by
  simp [tabGet]

/-- A write leaves every other key alone. -/
theorem tabGet_tabPut_other {α : Type} (t : Tab α) {k j : Nat} (v x : α) (h : k ≠ j) :
    tabGet (tabPut t k v) j x = tabGet t j x := by
  simp [tabGet, tabFind_tabPut_other t v h]

/-- A register reads as it was written. -/
@[simp] theorem Dev.get_set_same (d : Dev) (r : Reg) (v : Nat) : (d.set r v).get r = v := by
  simp [Dev.get, Dev.set]

/-- A register write leaves every register of another key alone. -/
theorem Dev.get_set_other (d : Dev) {r q : Reg} (v : Nat) (h : r.key ≠ q.key) : (d.set r v).get q = d.get q := by
  simp [Dev.get, Dev.set, tabGet_tabPut_other _ _ _ h]

/-- A register reads the value of the last write of its key. -/
theorem Dev.get_set (d : Dev) (r q : Reg) (v : Nat) :
    (d.set r v).get q = if r.key = q.key then v else d.get q := by
  split
  · rename_i h; simp [Dev.get, Dev.set, ← h]
  · rename_i h; exact d.get_set_other v h

@[simp] theorem Dev.unit_setUnit_same (d : Dev) (u : UnitRef) (st : Nat) : (d.setUnit u st).unit u = st := by
  simp [Dev.unit, Dev.setUnit]

@[simp] theorem Dev.hart_setHart_same (d : Dev) (k : Nat) (h : Hart) : (d.setHart k h).hart k = h := by
  simp [Dev.hart, Dev.setHart]

theorem Dev.hart_setHart_other (d : Dev) {k j : Nat} (h : Hart) (hk : k ≠ j) : (d.setHart k h).hart j = d.hart j := by
  simp [Dev.hart, Dev.setHart, tabGet_tabPut_other _ _ _ hk]

@[simp] theorem Dev.inst_setInst_same (d : Dev) (i : Nat) (x : Inst) : (d.setInst i x).inst i = x := by
  simp [Dev.inst, Dev.setInst]

@[simp] theorem Dev.job_setJob_same (d : Dev) (j : Nat) (x : Job) : (d.setJob j x).job j = some x := by
  simp [Dev.job, Dev.setJob]

@[simp] theorem Dev.eng_setEng_same (d : Dev) (e : Nat) (x : Eng) : (d.setEng e x).eng e = x := by
  simp [Dev.eng, Dev.setEng]

@[simp] theorem Dev.chan_setChan_same (d : Dev) (c : Nat) (x : Chan) : (d.setChan c x).chan c = x := by
  simp [Dev.chan, Dev.setChan]

@[simp] theorem Dev.mc_setMc_same (d : Dev) (m : Nat) (x : Mc) : (d.setMc m x).mc m = x := by
  simp [Dev.mc, Dev.setMc]

@[simp] theorem Dev.home_setHome_same (d : Dev) (s : Nat) (x : Home) : (d.setHome s x).home s = x := by
  simp [Dev.home, Dev.setHome]

/-- A unit's state is left alone by a write of another unit's. -/
theorem Dev.unit_setUnit_other (d : Dev) {u v : UnitRef} (st : Nat) (h : unitKey u ≠ unitKey v) :
    (d.setUnit u st).unit v = d.unit v := by
  simp [Dev.unit, Dev.setUnit, tabGet_tabPut_other _ _ _ h]

/-- A unit's state after a write of any unit's. -/
theorem Dev.unit_setUnit (d : Dev) (u v : UnitRef) (st : Nat) :
    (d.setUnit u st).unit v = if unitKey u = unitKey v then st else d.unit v := by
  split
  · rename_i h; simp [Dev.unit, Dev.setUnit, h]
  · rename_i h; exact d.unit_setUnit_other st h

/-- A fault message touches no sub-entry but its source's `srcLost`. -/
theorem Dev.get_sendFault (d : Dev) (src : Nat) (m : FaultMsg) {q : Reg} (h : (rSrcLost src).key ≠ q.key) :
    (d.sendFault src m).get q = d.get q := by
  unfold Dev.sendFault
  simp only
  split
  · rfl
  · exact d.get_set_other _ h

theorem Dev.get_raise (d : Dev) (kind src syn : Nat) {q : Reg} (h : (rSrcLost src).key ≠ q.key) :
    (d.raise kind src syn).get q = d.get q := d.get_sendFault _ _ h

theorem Dev.get_raiseAt (d : Dev) (kind src addr syn : Nat) {q : Reg} (h : (rSrcLost src).key ≠ q.key) :
    (d.raiseAt kind src addr syn).get q = d.get q := d.get_sendFault _ _ h

/-- The response of a path is the one just recorded. -/
@[simp] theorem Dev.respond_resp_same (d : Dev) (p : Path) (st : Status) (b : List Byte) :
    tabFind (d.respond p st b).resp (pathNum p) = some ⟨st, b⟩ := by
  simp [Dev.respond]

/-- A fault message touches nothing but the fault queues and `srcLost`. -/
theorem Dev.sendFault_cases (d : Dev) (src : Nat) (m : FaultMsg) :
    ∃ regs fus, d.sendFault src m = { d with regs := regs, fus := fus } := by
  unfold Dev.sendFault
  simp only
  split
  · exact ⟨_, _, rfl⟩
  · exact ⟨_, _, rfl⟩

end Sys2Proof.Machine
end

