-- ==== Sys2Proof/Laws/Commands.lean ====
section
/-!
SUPPORT. What the shapes of the meanings say: an event in a state in which it arises, a write that nothing turns away.
-/
namespace Sys2Proof.Machine

/-- An event that arises has its effect. -/
theorem occurs_next {rule : Nat} {ok : Dev → Bool} {f : Dev → Dev} {s : State} (h : ok s.dev = true) :
    occurs rule ok f s = .next { s with dev := f s.dev } := by
  simp [occurs, perform, h]

/-- An event that cannot arise changes nothing. -/
theorem occurs_idle {rule : Nat} {ok : Dev → Bool} {f : Dev → Dev} {s : State} (h : ok s.dev = false) :
    occurs rule ok f s = .next s := by
  simp [occurs, perform, h]

/-- An event of a block that exists, in a state in which it arises, has its effect. -/
theorem occursAt_next {rule : Nat} {e : Bool} {ok : Dev → Bool} {f : Dev → Dev} {s : State} (he : e = true)
    (h : ok s.dev = true) : occursAt rule e ok f s = .next { s with dev := f s.dev } := by
  simp [occursAt, he, occurs_next h]

/-- What an event answers, if it answers a next state. -/
theorem occurs_cases {rule : Nat} {ok : Dev → Bool} {f : Dev → Dev} {s t : State} (h : occurs rule ok f s = .next t) :
    t = if ok s.dev then { s with dev := f s.dev } else s := by
  unfold occurs perform at h
  injection h with h
  rw [← h]
  cases hk : ok s.dev <;> simp [hk]

/-- What an event of a block answers, if it answers a next state. -/
theorem occursAt_cases {rule : Nat} {e : Bool} {ok : Dev → Bool} {f : Dev → Dev} {s t : State}
    (h : occursAt rule e ok f s = .next t) : e = true ∧ t = if ok s.dev then { s with dev := f s.dev } else s := by
  unfold occursAt at h
  split at h
  · exact ⟨‹_›, occurs_cases h⟩
  · cases h

/-- A write that meets no condition of Table 02-3 ahead of the sub-entry's own effect has that effect. -/
theorem Dev.guardWrite_ok {d e : Dev} {p : Path} {idx sub v : Nat}
    (h : (d.guardWrite p idx sub v (fun _ => (.ok, e))).1 = .ok) :
    ∃ o, ∀ k, d.guardWrite p idx sub v k = k o := by
  unfold Dev.guardWrite at h ⊢
  cases h1 : d.objectAt p idx with
  | none => simp [h1] at h
  | some o =>
    cases h2 : d.subDesc o sub with
    | none => simp [h1, h2] at h
    | some r =>
      cases h3 : d.accessStatus p idx o r true v with
      | ok =>
        cases h4 : rngTakes r.rng v with
        | true => exact ⟨o, fun k => by simp [h2, h3, h4]⟩
        | false => simp [h1, h2, h3, h4] at h
      | _ => simp [h1, h2, h3] at h

/-- What `Dev.admits` says. -/
theorem Dev.admits_spec {d : Dev} {p : Path} {idx sub v : Nat} (h : d.admits p idx sub v = true) :
    pathOk p = true ∧ d.pathLive p = true ∧ (d.heard p).silentAt p idx = false ∧
      ∃ o, ∀ k, (d.heard p).guardWrite p idx sub v k = k o := by
  simp only [Dev.admits, Bool.and_eq_true, Bool.not_eq_true', beq_iff_eq] at h
  exact ⟨h.1.1.1, h.1.1.2, h.1.2, Dev.guardWrite_ok h.2⟩

/-- A write that nothing turns away has the effect of its handler, and its path has the answer. -/
theorem writeCommand_admitted {p : Path} {idx sub v : Nat} {k : Dev → Reply} {s : State}
    (h : s.dev.admits p idx sub v = true) :
    writeCommand p idx sub v (fun d _ => k d) s =
      .next { s with dev := (k (s.dev.heard p)).2.respond p (k (s.dev.heard p)).1 [] } := by
  obtain ⟨h1, h2, h3, o, ho⟩ := Dev.admits_spec h
  simp only [writeCommand, onPath]
  rw [occursAt_next h1 rfl]
  simp [h2, show (s.dev.takeTurn p).silentAt p idx = false from h3,
    show ∀ k, (s.dev.takeTurn p).guardWrite p idx sub v k = k o from ho]

/-- The same for a write whose action the management firmware executes, while the firmware runs. -/
theorem firmwareCommand_admitted {p : Path} {idx sub v : Nat} {k : Dev → Reply} {s : State}
    (h : s.dev.admits p idx sub v = true) (hd : s.dev.boot.mgmtDown = false) :
    firmwareCommand p idx sub v (fun d _ => k d) s =
      .next { s with dev := (k (s.dev.heard p)).2.respond p (k (s.dev.heard p)).1 [] } := by
  obtain ⟨h1, h2, -, o, ho⟩ := Dev.admits_spec h
  simp only [firmwareCommand, onPath]
  rw [occursAt_next h1 rfl]
  simp [h2, Dev.takeTurn_boot, hd, show ∀ k, (s.dev.takeTurn p).guardWrite p idx sub v k = k o from ho]

end Sys2Proof.Machine
end

