-- ==== Sys2Proof/Laws/Crypto.lean ====
section
/-!
SUPPORT. Deciphering undoes enciphering, unwrapping undoes wrapping, and a blob that the key store makes opens to its material (R139, R140).
-/
namespace Sys2Proof.Machine

/-! ## GF(2^8) -/

theorem xor_swap (a b c : Nat) : a ^^^ (b ^^^ c) = b ^^^ (a ^^^ c) := by rw [← Nat.xor_assoc, Nat.xor_comm a b, Nat.xor_assoc]

theorem gfDouble_eq (a : Nat) (h : a < 256) : gfDouble a = 2 * a ^^^ 0x11B * (a / 128) := by
  unfold gfDouble
  split
  · rw [Nat.div_eq_of_lt (by assumption)]; simp
  · rw [show a / 128 = 1 by omega]

theorem gfDouble_lt : ∀ a, a < 256 → gfDouble a < 256 := by decide +kernel

theorem gfDouble_xor (a b : Nat) (ha : a < 256) (hb : b < 256) : gfDouble (a ^^^ b) = gfDouble a ^^^ gfDouble b := by
  have hx : a ^^^ b < 256 := Nat.xor_lt_two_pow (n := 8) ha hb
  have h2 : 2 * (a ^^^ b) = 2 * a ^^^ 2 * b := by
    have := Nat.shiftLeft_xor_distrib (a := a) (b := b) (i := 1)
    simpa [Nat.shiftLeft_eq, Nat.mul_comm] using this
  have h3 : (a ^^^ b) / 128 = a / 128 ^^^ b / 128 := by
    have := Nat.shiftRight_xor_distrib (a := a) (b := b) (i := 7)
    simpa [Nat.shiftRight_eq_div_pow] using this
  rw [gfDouble_eq _ hx, gfDouble_eq _ ha, gfDouble_eq _ hb, h2, h3]
  have ha1 : a / 128 = 0 ∨ a / 128 = 1 := by omega
  have hb1 : b / 128 = 0 ∨ b / 128 = 1 := by omega
  rcases ha1 with e | e <;> rcases hb1 with f | f <;> rw [e, f] <;> simp [Nat.xor_comm, Nat.xor_assoc, xor_swap]

theorem gfMulN_xor (n a b c : Nat) (ha : a < 256) (hb : b < 256) : gfMulN n (a ^^^ b) c = gfMulN n a c ^^^ gfMulN n b c := by
  induction n generalizing a b c with
  | zero => simp [gfMulN]
  | succ n ih =>
    simp only [gfMulN]
    rw [gfDouble_xor a b ha hb, ih _ _ _ (gfDouble_lt a ha) (gfDouble_lt b hb)]
    split <;> simp [Nat.xor_assoc, xor_swap]

theorem gfMul_xor (a b c : Nat) (ha : a < 256) (hb : b < 256) : gfMul (a ^^^ b) c = gfMul a c ^^^ gfMul b c :=
  gfMulN_xor 8 a b c ha hb

theorem gfMulN_lt (n a c : Nat) (ha : a < 256) : gfMulN n a c < 256 := by
  induction n generalizing a c with
  | zero => simp [gfMulN]
  | succ n ih =>
    simp only [gfMulN]
    exact Nat.xor_lt_two_pow (n := 8) (by split <;> omega) (ih _ _ (gfDouble_lt a ha))

theorem gfMul_lt (a c : Nat) (ha : a < 256) : gfMul a c < 256 := gfMulN_lt 8 a c ha

/-! ## AES rounds -/

/-- A block of sixteen bytes. -/
def IsBlock (s : List Nat) : Prop := s.length = 16 ∧ ∀ x ∈ s, x < 256

theorem aesSInv_aesS : ∀ a, a < 256 → aesS a < 256 ∧ aesSInv (aesS a) = a := by decide +kernel

theorem IsBlock.sub {s : List Nat} (h : IsBlock s) : IsBlock (s.map aesS) := by
  refine ⟨by simp [h.1], ?_⟩
  intro x hx
  obtain ⟨y, hy, rfl⟩ := List.mem_map.1 hx
  exact (aesSInv_aesS y (h.2 y hy)).1

theorem map_aesSInv {s : List Nat} (h : IsBlock s) : (s.map aesS).map aesSInv = s := by
  rw [List.map_map]
  conv => rhs; rw [← List.map_id s]
  exact List.map_congr_left (fun x hx => (aesSInv_aesS x (h.2 x hx)).2)

/-- A block is sixteen named bytes. -/
theorem IsBlock.bytes {s : List Nat} (h : IsBlock s) : ∃ a0 a1 a2 a3 a4 a5 a6 a7 a8 a9 b0 b1 b2 b3 b4 b5,
    s = [a0, a1, a2, a3, a4, a5, a6, a7, a8, a9, b0, b1, b2, b3, b4, b5] ∧ a0 < 256 ∧ a1 < 256 ∧ a2 < 256 ∧ a3 < 256 ∧ a4 < 256 ∧
    a5 < 256 ∧ a6 < 256 ∧ a7 < 256 ∧ a8 < 256 ∧ a9 < 256 ∧ b0 < 256 ∧ b1 < 256 ∧ b2 < 256 ∧ b3 < 256 ∧ b4 < 256 ∧ b5 < 256 := by
  obtain ⟨hl, hb⟩ := h
  match s, hl with
  | [a0, a1, a2, a3, a4, a5, a6, a7, a8, a9, b0, b1, b2, b3, b4, b5], _ =>
    refine ⟨a0, a1, a2, a3, a4, a5, a6, a7, a8, a9, b0, b1, b2, b3, b4, b5, rfl, ?_⟩
    simpa using hb

theorem aesShiftInv_aesShift {s : List Nat} (h : IsBlock s) : aesShiftInv (aesShift s) = s := by
  obtain ⟨a0, a1, a2, a3, a4, a5, a6, a7, a8, a9, b0, b1, b2, b3, b4, b5, rfl, -⟩ := h.bytes
  rfl

theorem IsBlock.shift {s : List Nat} (h : IsBlock s) : IsBlock (aesShift s) := by
  obtain ⟨a0, a1, a2, a3, a4, a5, a6, a7, a8, a9, b0, b1, b2, b3, b4, b5, rfl, hb⟩ := h.bytes
  refine ⟨rfl, ?_⟩
  show ∀ x ∈ [a0, a5, b0, b5, a4, a9, b4, a3, a8, b3, a2, a7, b2, a1, a6, b1], x < 256
  simp; omega

/-- What four columns of the product of the two circulant matrices come to. -/
theorem gf_circulant : ∀ a, a < 256 →
    gfMul (gfMul a 2) 14 ^^^ gfMul (gfMul a 1) 11 ^^^ gfMul (gfMul a 1) 13 ^^^ gfMul (gfMul a 3) 9 = a ∧
    gfMul (gfMul a 3) 14 ^^^ gfMul (gfMul a 2) 11 ^^^ gfMul (gfMul a 1) 13 ^^^ gfMul (gfMul a 1) 9 = 0 ∧
    gfMul (gfMul a 1) 14 ^^^ gfMul (gfMul a 3) 11 ^^^ gfMul (gfMul a 2) 13 ^^^ gfMul (gfMul a 1) 9 = 0 ∧
    gfMul (gfMul a 1) 14 ^^^ gfMul (gfMul a 1) 11 ^^^ gfMul (gfMul a 3) 13 ^^^ gfMul (gfMul a 2) 9 = 0 := by decide +kernel

/-- Byte `i` of a mixed column `a b c e`, from row `[m0, m1, m2, m3]`. -/
def mixByte (m0 m1 m2 m3 a b c e : Nat) : Nat := gfMul a m0 ^^^ gfMul b m1 ^^^ gfMul c m2 ^^^ gfMul e m3

theorem mixByte_lt (m0 m1 m2 m3 a b c e : Nat) (ha : a < 256) (hb : b < 256) (hc : c < 256) (he : e < 256) :
    mixByte m0 m1 m2 m3 a b c e < 256 :=
  Nat.xor_lt_two_pow (n := 8) (Nat.xor_lt_two_pow (n := 8) (Nat.xor_lt_two_pow (n := 8) (gfMul_lt a m0 ha) (gfMul_lt b m1 hb))
    (gfMul_lt c m2 hc)) (gfMul_lt e m3 he)

/-- The inverse row undoes the mixing at the byte that it stands for. -/
theorem mixByte_inv (a b c e : Nat) (ha : a < 256) (hb : b < 256) (hc : c < 256) (he : e < 256) :
    mixByte 14 11 13 9 (mixByte 2 3 1 1 a b c e) (mixByte 2 3 1 1 b c e a) (mixByte 2 3 1 1 c e a b) (mixByte 2 3 1 1 e a b c) = a := by
  have hx (p q : Nat) (hp : p < 256) (hq : q < 256) : p ^^^ q < 256 := Nat.xor_lt_two_pow (n := 8) hp hq
  have l (x m : Nat) (h : x < 256) := gfMul_lt x m h
  simp only [mixByte]
  rw [gfMul_xor _ _ _ (hx _ _ (hx _ _ (l _ _ ha) (l _ _ hb)) (l _ _ hc)) (l _ _ he), gfMul_xor _ _ _ (hx _ _ (l _ _ ha) (l _ _ hb)) (l _ _ hc),
    gfMul_xor _ _ _ (l _ _ ha) (l _ _ hb),
    gfMul_xor _ _ _ (hx _ _ (hx _ _ (l _ _ hb) (l _ _ hc)) (l _ _ he)) (l _ _ ha), gfMul_xor _ _ _ (hx _ _ (l _ _ hb) (l _ _ hc)) (l _ _ he),
    gfMul_xor _ _ _ (l _ _ hb) (l _ _ hc),
    gfMul_xor _ _ _ (hx _ _ (hx _ _ (l _ _ hc) (l _ _ he)) (l _ _ ha)) (l _ _ hb), gfMul_xor _ _ _ (hx _ _ (l _ _ hc) (l _ _ he)) (l _ _ ha),
    gfMul_xor _ _ _ (l _ _ hc) (l _ _ he),
    gfMul_xor _ _ _ (hx _ _ (hx _ _ (l _ _ he) (l _ _ ha)) (l _ _ hb)) (l _ _ hc), gfMul_xor _ _ _ (hx _ _ (l _ _ he) (l _ _ ha)) (l _ _ hb),
    gfMul_xor _ _ _ (l _ _ he) (l _ _ ha)]
  have A := (gf_circulant a ha).1
  have B := (gf_circulant b hb).2.1
  have C := (gf_circulant c hc).2.2.1
  have E := (gf_circulant e he).2.2.2
  calc _ = (gfMul (gfMul a 2) 14 ^^^ gfMul (gfMul a 1) 11 ^^^ gfMul (gfMul a 1) 13 ^^^ gfMul (gfMul a 3) 9) ^^^
        (gfMul (gfMul b 3) 14 ^^^ gfMul (gfMul b 2) 11 ^^^ gfMul (gfMul b 1) 13 ^^^ gfMul (gfMul b 1) 9) ^^^
        (gfMul (gfMul c 1) 14 ^^^ gfMul (gfMul c 3) 11 ^^^ gfMul (gfMul c 2) 13 ^^^ gfMul (gfMul c 1) 9) ^^^
        (gfMul (gfMul e 1) 14 ^^^ gfMul (gfMul e 1) 11 ^^^ gfMul (gfMul e 3) 13 ^^^ gfMul (gfMul e 2) 9) := by
          ac_rfl
    _ = a := by rw [A, B, C, E]; simp

theorem aesMix_enc (a0 a1 a2 a3 a4 a5 a6 a7 a8 a9 b0 b1 b2 b3 b4 b5 : Nat) :
    aesMix [2, 3, 1, 1] [a0, a1, a2, a3, a4, a5, a6, a7, a8, a9, b0, b1, b2, b3, b4, b5] =
      [mixByte 2 3 1 1 a0 a1 a2 a3, mixByte 2 3 1 1 a1 a2 a3 a0, mixByte 2 3 1 1 a2 a3 a0 a1, mixByte 2 3 1 1 a3 a0 a1 a2,
       mixByte 2 3 1 1 a4 a5 a6 a7, mixByte 2 3 1 1 a5 a6 a7 a4, mixByte 2 3 1 1 a6 a7 a4 a5, mixByte 2 3 1 1 a7 a4 a5 a6,
       mixByte 2 3 1 1 a8 a9 b0 b1, mixByte 2 3 1 1 a9 b0 b1 a8, mixByte 2 3 1 1 b0 b1 a8 a9, mixByte 2 3 1 1 b1 a8 a9 b0,
       mixByte 2 3 1 1 b2 b3 b4 b5, mixByte 2 3 1 1 b3 b4 b5 b2, mixByte 2 3 1 1 b4 b5 b2 b3, mixByte 2 3 1 1 b5 b2 b3 b4] := by
  simp only [aesMix, mixByte, List.range, List.range.loop, List.map_cons, List.map_nil, List.foldl_cons, List.foldl_nil, Nat.zero_xor,
    List.cons.injEq, and_true]
  refine ⟨?_, ?_, ?_, ?_, ?_, ?_, ?_, ?_, ?_, ?_, ?_, ?_, ?_, ?_, ?_, ?_⟩ <;> (simp; try ac_rfl)

theorem aesMix_dec (a0 a1 a2 a3 a4 a5 a6 a7 a8 a9 b0 b1 b2 b3 b4 b5 : Nat) :
    aesMix [14, 11, 13, 9] [a0, a1, a2, a3, a4, a5, a6, a7, a8, a9, b0, b1, b2, b3, b4, b5] =
      [mixByte 14 11 13 9 a0 a1 a2 a3, mixByte 14 11 13 9 a1 a2 a3 a0, mixByte 14 11 13 9 a2 a3 a0 a1, mixByte 14 11 13 9 a3 a0 a1 a2,
       mixByte 14 11 13 9 a4 a5 a6 a7, mixByte 14 11 13 9 a5 a6 a7 a4, mixByte 14 11 13 9 a6 a7 a4 a5, mixByte 14 11 13 9 a7 a4 a5 a6,
       mixByte 14 11 13 9 a8 a9 b0 b1, mixByte 14 11 13 9 a9 b0 b1 a8, mixByte 14 11 13 9 b0 b1 a8 a9, mixByte 14 11 13 9 b1 a8 a9 b0,
       mixByte 14 11 13 9 b2 b3 b4 b5, mixByte 14 11 13 9 b3 b4 b5 b2, mixByte 14 11 13 9 b4 b5 b2 b3, mixByte 14 11 13 9 b5 b2 b3 b4] := by
  simp only [aesMix, mixByte, List.range, List.range.loop, List.map_cons, List.map_nil, List.foldl_cons, List.foldl_nil, Nat.zero_xor,
    List.cons.injEq, and_true]
  refine ⟨?_, ?_, ?_, ?_, ?_, ?_, ?_, ?_, ?_, ?_, ?_, ?_, ?_, ?_, ?_, ?_⟩ <;> (simp; try ac_rfl)

theorem aesMix_inv {s : List Nat} (h : IsBlock s) : aesMix [14, 11, 13, 9] (aesMix [2, 3, 1, 1] s) = s := by
  obtain ⟨a0, a1, a2, a3, a4, a5, a6, a7, a8, a9, b0, b1, b2, b3, b4, b5, rfl, h0, h1, h2, h3, h4, h5, h6, h7, h8, h9, k0, k1, k2, k3, k4, k5⟩ :=
    h.bytes
  rw [aesMix_enc, aesMix_dec]
  simp only [mixByte_inv _ _ _ _ h0 h1 h2 h3, mixByte_inv _ _ _ _ h1 h2 h3 h0, mixByte_inv _ _ _ _ h2 h3 h0 h1, mixByte_inv _ _ _ _ h3 h0 h1 h2,
    mixByte_inv _ _ _ _ h4 h5 h6 h7, mixByte_inv _ _ _ _ h5 h6 h7 h4, mixByte_inv _ _ _ _ h6 h7 h4 h5, mixByte_inv _ _ _ _ h7 h4 h5 h6,
    mixByte_inv _ _ _ _ h8 h9 k0 k1, mixByte_inv _ _ _ _ h9 k0 k1 h8, mixByte_inv _ _ _ _ k0 k1 h8 h9, mixByte_inv _ _ _ _ k1 h8 h9 k0,
    mixByte_inv _ _ _ _ k2 k3 k4 k5, mixByte_inv _ _ _ _ k3 k4 k5 k2, mixByte_inv _ _ _ _ k4 k5 k2 k3, mixByte_inv _ _ _ _ k5 k2 k3 k4]

theorem IsBlock.mix {s : List Nat} (h : IsBlock s) : IsBlock (aesMix [2, 3, 1, 1] s) := by
  obtain ⟨a0, a1, a2, a3, a4, a5, a6, a7, a8, a9, b0, b1, b2, b3, b4, b5, rfl, h0, h1, h2, h3, h4, h5, h6, h7, h8, h9, k0, k1, k2, k3, k4, k5⟩ :=
    h.bytes
  rw [aesMix_enc]
  refine ⟨rfl, ?_⟩
  simp only [List.mem_cons, List.not_mem_nil, or_false]
  rintro x (rfl | rfl | rfl | rfl | rfl | rfl | rfl | rfl | rfl | rfl | rfl | rfl | rfl | rfl | rfl | rfl) <;>
    exact mixByte_lt _ _ _ _ _ _ _ _ (by assumption) (by assumption) (by assumption) (by assumption)

/-! ## Keys and blocks -/

theorem length_xorList (a b : List Nat) : (xorList a b).length = min a.length b.length := by simp [xorList]

theorem xorList_lt (a b : List Nat) (ha : ∀ x ∈ a, x < 256) (hb : ∀ x ∈ b, x < 256) : ∀ x ∈ xorList a b, x < 256 := by
  induction a generalizing b with
  | nil => simp [xorList]
  | cons p a ih =>
    cases b with
    | nil => simp [xorList]
    | cons q b =>
      intro x hx
      simp only [xorList, List.zipWith_cons_cons, List.mem_cons] at hx
      rcases hx with rfl | hx
      · exact Nat.xor_lt_two_pow (n := 8) (ha p (by simp)) (hb q (by simp))
      · exact ih b (fun y hy => ha y (by simp [hy])) (fun y hy => hb y (by simp [hy])) x hx

theorem xorList_twice (a b : List Nat) (h : a.length ≤ b.length) : xorList (xorList a b) b = a := by
  induction a generalizing b with
  | nil => simp [xorList]
  | cons p a ih =>
    cases b with
    | nil => simp at h
    | cons q b =>
      simp only [xorList, List.zipWith_cons_cons, List.cons.injEq]
      exact ⟨by rw [Nat.xor_assoc, Nat.xor_self, Nat.xor_zero], ih b (by simpa using h)⟩

theorem IsBlock.xor {s r : List Nat} (h : IsBlock s) (k : IsBlock r) : IsBlock (xorList s r) :=
  ⟨by simp [length_xorList, h.1, k.1], xorList_lt s r h.2 k.2⟩

theorem IsBlock.xor_xor {s r : List Nat} (h : IsBlock s) (k : IsBlock r) : xorList (xorList s r) r = s :=
  xorList_twice s r (Nat.le_of_eq (h.1.trans k.1.symm))

/-- A fold is undone by the fold of the inverse steps in the opposite order. -/
theorem foldl_undo {α : Type} (P : α → Prop) (f g : α → Nat → α) (n : Nat) (s : α) (h : P s)
    (hf : ∀ x i, i < n → P x → P (f x i) ∧ g (f x i) i = x) :
    P ((List.range n).foldl f s) ∧ (List.range n).foldl (fun x i => g x (n - 1 - i)) ((List.range n).foldl f s) = s := by
  induction n with
  | zero => exact ⟨h, rfl⟩
  | succ n ih =>
    obtain ⟨hp, he⟩ := ih (fun x i hi hx => hf x i (by omega) hx)
    obtain ⟨hq, hg⟩ := hf _ n (by omega) hp
    rw [List.range_succ, List.foldl_append]
    refine ⟨hq, ?_⟩
    rw [← List.range_succ, List.range_succ_eq_map]
    simp only [List.foldl_cons, List.foldl_map, List.foldl_nil, Nat.add_sub_cancel, Nat.sub_zero]
    rw [hg]
    have e : (fun (x : α) (i : Nat) => g x (n - (i + 1))) = (fun x i => g x (n - 1 - i)) := by
      funext x i; rw [show n - (i + 1) = n - 1 - i by omega]
    rw [e]; exact he

theorem getD_of_lt {α : Type} (l : List α) (e : α) {i : Nat} (h : i < l.length) : l.getD i e = l[i] := by simp [List.getD, h]

/-- Words of four bytes. -/
def IsWords (w : List (List Nat)) : Prop := ∀ x ∈ w, x.length = 4 ∧ ∀ y ∈ x, y < 256

theorem aesRcon_lt (n : Nat) : aesRcon n < 256 := by
  induction n with
  | zero => decide
  | succ n ih => exact gfDouble_lt _ ih

theorem isWords_expand (nk : Nat) (n i : Nat) (w : List (List Nat)) (h : IsWords w) (hk : nk ≤ w.length) (h1 : 1 ≤ nk) :
    IsWords (aesExpand nk n i w) ∧ (aesExpand nk n i w).length = w.length + n := by
  induction n generalizing i w with
  | zero => exact ⟨h, rfl⟩
  | succ n ih =>
    have hw : ∀ k, k < w.length → (w.getD k []).length = 4 ∧ ∀ y ∈ w.getD k [], y < 256 := by
      intro k hk; rw [getD_of_lt _ _ hk]; exact h _ (List.getElem_mem hk)
    have h0 : (w.headD []).length = 4 ∧ ∀ y ∈ w.headD [], y < 256 := by
      cases w with
      | nil => simp at hk; omega
      | cons a w => exact h a (by simp)
    have hs (t : List Nat) (ht : t.length = 4 ∧ ∀ y ∈ t, y < 256) : (t.map aesS).length = 4 ∧ ∀ y ∈ t.map aesS, y < 256 := by
      refine ⟨by simp [ht.1], fun y hy => ?_⟩
      obtain ⟨z, hz, rfl⟩ := List.mem_map.1 hy
      exact (aesSInv_aesS z (ht.2 z hz)).1
    have hx (a b : List Nat) (ha : a.length = 4 ∧ ∀ y ∈ a, y < 256) (hb : b.length = 4 ∧ ∀ y ∈ b, y < 256) :
        (xorList a b).length = 4 ∧ ∀ y ∈ xorList a b, y < 256 :=
      ⟨by rw [length_xorList, ha.1, hb.1]; rfl, xorList_lt a b ha.2 hb.2⟩
    have hr (t : List Nat) (ht : t.length = 4 ∧ ∀ y ∈ t, y < 256) :
        (t.drop 1 ++ t.take 1).length = 4 ∧ ∀ y ∈ t.drop 1 ++ t.take 1, y < 256 := by
      refine ⟨by simp [ht.1], fun y hy => ?_⟩
      rcases List.mem_append.1 hy with hy | hy
      · exact ht.2 y (List.mem_of_mem_drop hy)
      · exact ht.2 y (List.mem_of_mem_take hy)
    simp only [aesExpand]
    have hn : ∀ t, (t.length = 4 ∧ ∀ y ∈ t, y < 256) → IsWords (xorList (w.getD (nk - 1) []) t :: w) := by
      intro t ht x hx'
      rcases List.mem_cons.1 hx' with rfl | hx'
      · exact hx _ _ (hw (nk - 1) (by omega)) ht
      · exact h x hx'
    have hrc : ([aesRcon (i / nk), 0, 0, 0] : List Nat).length = 4 ∧ ∀ y ∈ [aesRcon (i / nk), 0, 0, 0], y < 256 := by
      refine ⟨rfl, ?_⟩
      simp [aesRcon_lt]
    have all : ∀ t : List Nat, (t.length = 4 ∧ ∀ y ∈ t, y < 256) →
        IsWords (aesExpand nk n (i + 1) (xorList (w.getD (nk - 1) []) t :: w)) ∧
        (aesExpand nk n (i + 1) (xorList (w.getD (nk - 1) []) t :: w)).length = w.length + (n + 1) := by
      intro t ht
      have key := ih (i + 1) _ (hn t ht) (by simp; omega)
      exact ⟨key.1, by rw [key.2]; simp; omega⟩
    refine all _ ?_
    split
    · exact hx _ _ (hs _ (hr _ h0)) hrc
    · split
      · exact hs _ h0
      · exact h0

theorem isWords_aesWords (n : Nat) (k : List Nat) (hl : k.length = 4 * n) (h : ∀ x ∈ k, x < 256) :
    IsWords (aesWords k) ∧ (aesWords k).length = n := by
  induction n generalizing k with
  | zero => obtain rfl := List.eq_nil_of_length_eq_zero hl; exact ⟨by simp [aesWords, IsWords], rfl⟩
  | succ n ih =>
    match k, hl with
    | a :: b :: c :: e :: r, hl =>
      obtain ⟨h1, h2⟩ := ih r (by simp at hl; omega) (fun x hx => h x (by simp [hx]))
      refine ⟨?_, by simp [aesWords, h2]⟩
      intro x hx
      simp only [aesWords, List.mem_cons] at hx
      rcases hx with rfl | hx
      · exact ⟨rfl, fun y hy => h y (by simp only [List.mem_cons, List.not_mem_nil, or_false] at hy ⊢; rcases hy with e | e | e | e <;> simp [e])⟩
      · exact h1 x hx

/-- Every round key of a key of 16, 24 or 32 bytes is a block, and there are `length / 4 + 7` of them. -/
theorem isBlock_roundKeys (n : Nat) (k : List Nat) (hn : 1 ≤ n) (hl : k.length = 4 * n) (h : ∀ x ∈ k, x < 256) :
    (aesRoundKeys k).length = n + 7 ∧ ∀ i, i < n + 7 → IsBlock ((aesRoundKeys k).getD i []) := by
  have hd : k.length / 4 = n := by omega
  obtain ⟨w1, w2⟩ := isWords_aesWords n k hl h
  have hw := isWords_expand n (4 * (n + 7) - n) n (aesWords k).reverse (fun x hx => w1 x (List.mem_reverse.1 hx)) (by simp [w2]) hn
  obtain ⟨e1, e2⟩ := hw
  simp only [List.length_reverse, w2] at e2
  have e3 : (aesExpand n (4 * (n + 7) - n) n (aesWords k).reverse).length = 4 * (n + 7) := by omega
  simp only [aesRoundKeys, hd]
  rw [show n + 6 + 1 = n + 7 by omega]
  refine ⟨by simp, fun i hi => ?_⟩
  rw [getD_of_lt _ _ (by simpa using hi)]
  simp only [List.getElem_map, List.getElem_range]
  generalize hv : (aesExpand n (4 * (n + 7) - n) n (aesWords k).reverse).reverse = v
  have v1 : IsWords v := fun x hx => e1 x (by rw [← List.mem_reverse, hv]; exact hx)
  have v2 : v.length = 4 * (n + 7) := by rw [← hv, List.length_reverse]; exact e3
  have v3 : ((v.drop (4 * i)).take 4).length = 4 := by simp [v2]; omega
  have v4 : IsWords ((v.drop (4 * i)).take 4) := fun x hx => v1 x (List.mem_of_mem_drop (List.mem_of_mem_take hx))
  generalize (v.drop (4 * i)).take 4 = u at v3 v4
  match u, v3 with
  | [a, b, c, e], _ =>
    have ha := v4 a (by simp); have hb := v4 b (by simp); have hc := v4 c (by simp); have he := v4 e (by simp)
    refine ⟨by simp [ha.1, hb.1, hc.1, he.1], ?_⟩
    intro x hx
    simp only [List.flatten_cons, List.flatten_nil, List.append_nil, List.mem_append] at hx
    rcases hx with hx | hx | hx | hx
    · exact ha.2 x hx
    · exact hb.2 x hx
    · exact hc.2 x hx
    · exact he.2 x hx

/-! ## The block cipher -/

theorem aesDecN_aesEncN (n : Nat) (k s : List Nat) (hn : 1 ≤ n) (hl : k.length = 4 * n) (h : ∀ x ∈ k, x < 256) (hs : IsBlock s) :
    IsBlock (aesEncN k s) ∧ aesDecN k (aesEncN k s) = s := by
  obtain ⟨r1, r2⟩ := isBlock_roundKeys n k hn hl h
  simp only [aesEncN, aesDecN, r1, show n + 7 - 1 = n + 6 by omega]
  generalize aesRoundKeys k = rk at r1 r2
  let f : List Nat → Nat → List Nat := fun s i =>
    xorList (if i + 1 = n + 6 then aesShift (s.map aesS) else aesMix [2, 3, 1, 1] (aesShift (s.map aesS))) (rk.getD (i + 1) [])
  let g : List Nat → Nat → List Nat := fun s i =>
    (aesShiftInv (if i + 1 = n + 6 then xorList s (rk.getD (i + 1) []) else aesMix [14, 11, 13, 9] (xorList s (rk.getD (i + 1) [])))).map aesSInv
  have step : ∀ x i, i < n + 6 → IsBlock x → IsBlock (f x i) ∧ g (f x i) i = x := by
    intro x i hi hx
    have hk := r2 (i + 1) (by omega)
    simp only [f, g]
    split
    · exact ⟨hx.sub.shift.xor hk, by rw [hx.sub.shift.xor_xor hk, aesShiftInv_aesShift hx.sub, map_aesSInv hx]⟩
    · exact ⟨hx.sub.shift.mix.xor hk, by
        rw [hx.sub.shift.mix.xor_xor hk, aesMix_inv hx.sub.shift, aesShiftInv_aesShift hx.sub, map_aesSInv hx]⟩
  have h0 := hs.xor (r2 0 (by omega))
  obtain ⟨p, q⟩ := foldl_undo IsBlock f g (n + 6) _ h0 step
  refine ⟨p, ?_⟩
  -- the decipherment adds its round keys one step earlier than the inverse steps do
  generalize hE : (List.range (n + 6)).foldl f (xorList s (rk.getD 0 [])) = E at p q
  have shiftBy : ∀ m, m ≤ n + 6 →
      (List.range m).foldl (fun s i =>
        if i + 1 = n + 6 then xorList ((aesShiftInv s).map aesSInv) (rk.getD (n + 6 - 1 - i) [])
        else aesMix [14, 11, 13, 9] (xorList ((aesShiftInv s).map aesSInv) (rk.getD (n + 6 - 1 - i) []))) (xorList E (rk.getD (n + 6) [])) =
      (if m = 0 then xorList ((List.range m).foldl (fun x i => g x (n + 6 - 1 - i)) E) (rk.getD (n + 6 - m) [])
       else if m = n + 6 then xorList ((List.range m).foldl (fun x i => g x (n + 6 - 1 - i)) E) (rk.getD (n + 6 - m) [])
       else aesMix [14, 11, 13, 9] (xorList ((List.range m).foldl (fun x i => g x (n + 6 - 1 - i)) E) (rk.getD (n + 6 - m) []))) := by
    intro m
    induction m with
    | zero => intro _; simp
    | succ m ih =>
      intro hm
      rw [List.range_succ, List.foldl_append, List.foldl_append, ih (by omega)]
      simp only [List.foldl_cons, List.foldl_nil, g]
      have e1 : n + 6 - 1 - m + 1 = n + 6 - m := by omega
      have e2 : n + 6 - (m + 1) = n + 6 - 1 - m := by omega
      rw [e1, e2]
      by_cases hm0 : m = 0
      · subst hm0; simp
      · simp only [hm0, show ¬ m = n + 6 by omega, show ¬ n + 6 - m = n + 6 by omega, if_false]
        by_cases hl : m + 1 = n + 6 <;> simp [hl]
  have := shiftBy (n + 6) (Nat.le_refl _)
  rw [if_neg (by omega), if_pos rfl, q, Nat.sub_self, hs.xor_xor (r2 0 (by omega))] at this
  exact this

/-! ## Bytes -/

/-- The block cipher gives sixteen bytes, and its inverse takes them back. -/
theorem aesDec_aesEnc (n : Nat) (k b : List Byte) (hn : 1 ≤ n) (hl : k.length = 4 * n) (hb : b.length = 16) :
    (aesEnc k b).length = 16 ∧ aesDec k (aesEnc k b) = b := by
  have lt (l : List Byte) : ∀ x ∈ byteNats l, x < 256 := by
    intro x hx; obtain ⟨y, -, rfl⟩ := List.mem_map.1 hx; exact y.isLt
  have nb : ∀ l : List Nat, (∀ x ∈ l, x < 256) → byteNats (natBytes l) = l := by
    intro l h
    simp only [byteNats, natBytes, List.map_map]
    conv => rhs; rw [← List.map_id l]
    exact List.map_congr_left (fun x hx => by simp only [Function.comp, BitVec.toNat_ofNat, id]; exact Nat.mod_eq_of_lt (h x hx))
  have bn : natBytes (byteNats b) = b := by simp [byteNats, natBytes, List.map_map, Function.comp_def]
  obtain ⟨p, q⟩ := aesDecN_aesEncN n (byteNats k) (byteNats b) hn (by simp [byteNats, hl]) (lt k) ⟨by simp [byteNats, hb], lt b⟩
  refine ⟨by simp [aesEnc, natBytes, p.1], ?_⟩
  simp only [aesDec, aesEnc, nb _ p.2, q, bn]

theorem length_xorBytes (a b : List Byte) : (xorBytes a b).length = min a.length b.length := by simp [xorBytes]

theorem xorBytes_twice (a b : List Byte) (h : a.length ≤ b.length) : xorBytes (xorBytes a b) b = a := by
  induction a generalizing b with
  | nil => simp [xorBytes]
  | cons p a ih =>
    cases b with
    | nil => simp at h
    | cons q b =>
      simp only [xorBytes, List.zipWith_cons_cons, List.cons.injEq]
      exact ⟨by rw [BitVec.xor_assoc, BitVec.xor_self, BitVec.xor_zero], ih b (by simpa using h)⟩

/-! ## Key wrap -/

/-- A register of KW: eight bytes of integrity value, and `n` blocks of eight bytes. -/
def IsWrap (n : Nat) (x : List Byte × List (List Byte)) : Prop := x.1.length = 8 ∧ x.2.length = n ∧ ∀ b ∈ x.2, b.length = 8

theorem kwBlocks_length (m : List Byte) : (kwBlocks m).length = m.length / 8 := by simp [kwBlocks]

theorem kwBlocks_each (m : List Byte) : ∀ b ∈ kwBlocks m, b.length = 8 := by
  intro b hb
  obtain ⟨i, hi, rfl⟩ := List.mem_map.1 hb
  have := List.mem_range.1 hi
  simp; omega

theorem kwBlocks_flatten (r : List (List Byte)) (h : ∀ b ∈ r, b.length = 8) : r.flatten.length = 8 * r.length ∧ kwBlocks r.flatten = r := by
  have hl : ∀ r : List (List Byte), (∀ b ∈ r, b.length = 8) → r.flatten.length = 8 * r.length := by
    intro r
    induction r with
    | nil => intro _; rfl
    | cons a r ih =>
      intro h
      rw [List.flatten_cons, List.length_append, ih (fun b hb => h b (by simp [hb])), h a (by simp), List.length_cons]; omega
  refine ⟨hl r h, ?_⟩
  induction r with
  | nil => rfl
  | cons a r ih =>
    have ha := h a (by simp)
    have hr : ∀ b ∈ r, b.length = 8 := fun b hb => h b (by simp [hb])
    have e := ih hr
    simp only [kwBlocks] at e ⊢
    rw [hl _ h, List.length_cons, show 8 * (r.length + 1) / 8 = r.length + 1 by omega, List.range_succ_eq_map]
    rw [hl _ hr, show 8 * r.length / 8 = r.length by omega] at e
    simp only [List.map_cons, List.map_map, List.flatten_cons, List.cons.injEq]
    refine ⟨by simp [← ha], ?_⟩
    conv => rhs; rw [← e]
    refine List.map_congr_left (fun i _ => ?_)
    simp only [Function.comp]
    rw [show 8 * (i + 1) = a.length + 8 * i by omega, List.drop_append, List.drop_eq_nil_of_le (by omega)]
    simp

theorem flatten_kwBlocks (n : Nat) (m : List Byte) (h : m.length = 8 * n) : (kwBlocks m).flatten = m := by
  induction n generalizing m with
  | zero => obtain rfl := List.eq_nil_of_length_eq_zero (by omega : m.length = 0); rfl
  | succ n ih =>
    have e := ih (m.drop 8) (by simp [h]; omega)
    simp only [kwBlocks, List.length_drop, h, show (8 * (n + 1) - 8) / 8 = n by omega] at e
    simp only [kwBlocks, h, show 8 * (n + 1) / 8 = n + 1 by omega]
    rw [List.range_succ_eq_map, List.map_cons, List.flatten_cons, List.map_map]
    have : ((fun i => (m.drop (8 * i)).take 8) ∘ Nat.succ) = (fun i => ((m.drop 8).drop (8 * i)).take 8) := by
      funext i; simp only [Function.comp, List.drop_drop]; rw [show 8 * (i.succ) = 8 + 8 * i by omega]
    rw [this, e]; simp

/-- Unwrapping gives back what was wrapped. -/
theorem kwUnwrap_kwWrap (w n : Nat) (k m : List Byte) (hw : 1 ≤ w) (hk : k.length = 4 * w) (hn : 2 ≤ n) (hm : m.length = 8 * n) :
    kwUnwrap k (kwWrap k m) = some m := by
  let f : List Byte × List (List Byte) → Nat → List Byte × List (List Byte) := fun st t =>
    (xorBytes ((aesEnc k (st.1 ++ st.2.getD (t % n) [])).take 8) (beBytes 8 (t + 1)),
      st.2.set (t % n) ((aesEnc k (st.1 ++ st.2.getD (t % n) [])).drop 8))
  let g : List Byte × List (List Byte) → Nat → List Byte × List (List Byte) := fun st t =>
    ((aesDec k (xorBytes st.1 (beBytes 8 (t + 1)) ++ st.2.getD (t % n) [])).take 8,
      st.2.set (t % n) ((aesDec k (xorBytes st.1 (beBytes 8 (t + 1)) ++ st.2.getD (t % n) [])).drop 8))
  have be (x : Nat) : (beBytes 8 x).length = 8 := by simp [beBytes, leBytes]
  have step : ∀ x i, i < 6 * n → IsWrap n x → IsWrap n (f x i) ∧ g (f x i) i = x := by
    rintro ⟨a, r⟩ i hi ⟨h1, h2, h3⟩
    simp only at h1 h2 h3
    have hi' : i % n < r.length := by rw [h2]; exact Nat.mod_lt _ (by omega)
    have hr : (r.getD (i % n) []).length = 8 := by rw [getD_of_lt _ _ hi']; exact h3 _ (List.getElem_mem hi')
    obtain ⟨p, q⟩ := aesDec_aesEnc w k (a ++ r.getD (i % n) []) hw hk (by rw [List.length_append, h1, hr])
    simp only [f, g]
    generalize hE : aesEnc k (a ++ r.getD (i % n) []) = E at p q
    refine ⟨⟨by simp [length_xorBytes, be, p], by simp [h2], ?_⟩, ?_⟩
    · intro b hb
      rcases List.mem_or_eq_of_mem_set hb with hb | rfl
      · exact h3 b hb
      · simp [p]
    · rw [xorBytes_twice _ _ (by simp [be, p])]
      have hs : (r.set (i % n) (E.drop 8)).getD (i % n) [] = E.drop 8 := by
        rw [getD_of_lt _ _ (by simpa using hi')]; simp
      simp only [hs, List.take_append_drop, q]
      refine Prod.ext ?_ ?_
      · simp [← h1]
      · simp only [List.set_set]
        rw [show (a ++ r.getD (i % n) []).drop 8 = r.getD (i % n) [] by simp [← h1], getD_of_lt _ _ hi']
        simp
  obtain ⟨p, q⟩ := foldl_undo (IsWrap n) f g (6 * n) (kwIv, kwBlocks m)
    ⟨rfl, by rw [kwBlocks_length, hm]; omega, kwBlocks_each m⟩ step
  have hd : m.length / 8 = n := by omega
  simp only [kwWrap, hd]
  change kwUnwrap k ((List.foldl f (kwIv, kwBlocks m) (List.range (6 * n))).1 ++ (List.foldl f (kwIv, kwBlocks m) (List.range (6 * n))).2.flatten) = _
  generalize List.foldl f (kwIv, kwBlocks m) (List.range (6 * n)) = R at p q
  obtain ⟨a, r⟩ := R
  obtain ⟨h1, h2, h3⟩ := p
  simp only at h1 h2 h3
  obtain ⟨c1, c2⟩ := kwBlocks_flatten r h3
  have hl : (a ++ r.flatten).length = 8 * (n + 1) := by rw [List.length_append, c1, h1, h2]; omega
  have hl1 : (a ++ r.flatten).length / 8 - 1 = n := by rw [hl]; omega
  simp only [kwUnwrap, hl1]
  rw [if_neg (by simp [hl]; omega)]
  have e1 : (a ++ r.flatten).take 8 = a := by simp [← h1]
  have e2 : (a ++ r.flatten).drop 8 = r.flatten := by simp [← h1]
  rw [e1, e2, c2]
  change (if (List.foldl (fun x i => g x (6 * n - 1 - i)) (a, r) (List.range (6 * n))).1 = kwIv then
    some (List.foldl (fun x i => g x (6 * n - 1 - i)) (a, r) (List.range (6 * n))).2.flatten else none) = _
  rw [q, if_pos rfl, flatten_kwBlocks n m hm]

theorem length_leBytes (n x : Nat) : (leBytes n x).length = n := by
  induction n generalizing x with
  | zero => rfl
  | succ n ih => simp [leBytes, ih]

theorem length_padTo (n : Nat) (l : List Byte) : (padTo n l).length = n := by simp [padTo, zeros]; omega

theorem length_keccakBytes (a : List Word) : (keccakBytes a).length = 8 * a.length := by
  induction a with
  | nil => rfl
  | cons w a ih =>
    simp only [keccakBytes, List.flatMap_cons, List.length_append, length_leBytes] at ih ⊢
    rw [ih, List.length_cons]; omega

/-- A state of 25 lanes is five planes of five. -/
theorem length_plane {a : List Word} (ha : a.length = 25) : ∀ r ∈ keccakPlanes a, r.length = 5 := by
  intro r hr
  simp only [keccakPlanes, List.mem_map, List.mem_range] at hr
  obtain ⟨y, hy, rfl⟩ := hr
  simp [ha]; omega

theorem length_xorLanes (a b : List Word) : (xorLanes a b).length = min a.length b.length := by simp [xorLanes]

/-- A map of each plane to five lanes gives 25 lanes. -/
theorem length_flatMap_planes {a : List Word} (f : List Word → List Word) (hf : ∀ r ∈ keccakPlanes a, (f r).length = 5) :
    ((keccakPlanes a).flatMap f).length = 25 := by
  have h : ∀ l : List (List Word), (∀ r ∈ l, (f r).length = 5) → (l.flatMap f).length = 5 * l.length := by
    intro l hl
    induction l with
    | nil => rfl
    | cons r l ih => simp [hl r (by simp), ih (fun x hx => hl x (by simp [hx]))]; omega
  rw [h _ hf]; simp [keccakPlanes]

theorem length_keccakMove (a : List Word) (n t i : Nat) (b : List Word) : (keccakMove a n t i b).length = b.length := by
  induction n generalizing t i b with
  | zero => rfl
  | succ n ih => simp [keccakMove, ih]

theorem length_keccakTheta {a : List Word} (ha : a.length = 25) : (keccakTheta a).length = 25 := by
  have hfold : ∀ (l : List (List Word)) (p : List Word), (∀ r ∈ l, r.length = 5) → p.length = 5 → (l.foldl xorLanes p).length = 5 := by
    intro l
    induction l with
    | nil => exact fun p _ hp => hp
    | cons r l ih => exact fun p hl hp => ih _ (fun x hx => hl x (by simp [hx])) (by simp [length_xorLanes, hp, hl r (by simp)])
  have hp := hfold (keccakPlanes a) (List.replicate 5 0) (length_plane ha) (by simp)
  unfold keccakTheta
  generalize (keccakPlanes a).foldl xorLanes (List.replicate 5 0) = p at hp
  refine length_flatMap_planes _ (fun r hr => ?_)
  simp [length_xorLanes, length_plane ha r hr, hp]

theorem length_keccakRound {a : List Word} (rc : Word) (ha : a.length = 25) : (keccakRound a rc).length = 25 := by
  have ht := length_keccakTheta ha
  have hm := (length_keccakMove (keccakTheta a) 24 0 1 (keccakTheta a)).trans ht
  have hc := length_flatMap_planes (a := keccakMove (keccakTheta a) 24 0 1 (keccakTheta a)) keccakChi (fun r hr => by simp [keccakChi, length_xorLanes, length_plane hm r hr])
  unfold keccakRound
  simp only
  generalize (keccakPlanes (keccakMove (keccakTheta a) 24 0 1 (keccakTheta a))).flatMap keccakChi = l at hc
  cases l with
  | nil => simp at hc
  | cons w l => exact hc

theorem length_keccakF {a : List Word} (ha : a.length = 25) : (keccakF a).length = 25 := by
  have h : ∀ (l : List Word) (b : List Word), b.length = 25 → (l.foldl keccakRound b).length = 25 := by
    intro l
    induction l with
    | nil => exact fun b hb => hb
    | cons c l ih => intro b hb; rw [List.foldl_cons]; exact ih _ (length_keccakRound c hb)
  exact h _ a ha

theorem length_keccakXor (a : List Word) (b : List Byte) : (keccakXor a b).length = 25 := by simp [keccakXor]

theorem length_keccakSqueeze (r n : Nat) (a : List Word) (hr : r ≤ 200) (ha : a.length = 25) : (keccakSqueeze r n a).length = n * r := by
  induction n generalizing a with
  | zero => simp [keccakSqueeze]
  | succ n ih =>
    rw [keccakSqueeze, List.length_append, List.length_take, length_keccakBytes, ha, ih _ (length_keccakF ha), Nat.add_mul n 1 r]; omega

theorem length_keccakAbsorb (r n : Nat) (a : List Word) (m : List Byte) (ha : a.length = 25) : (keccakAbsorb r n a m).length = 25 := by
  induction n generalizing a m with
  | zero => exact ha
  | succ n ih => exact ih _ _ (length_keccakF (length_keccakXor _ _))

/-- SHAKE256 gives as many bytes as are asked for. -/
theorem length_shake256 (m : List Byte) (n : Nat) : (shake256 m n).length = n := by
  simp only [shake256, sponge, List.length_take]
  rw [length_keccakSqueeze _ _ _ (by omega) (length_keccakAbsorb _ _ _ _ (by simp))]
  omega

/-- The package KEK has 32 bytes. -/
theorem Dev.length_packageKek (d : Dev) : d.packageKek.length = 32 := length_shake256 _ _

/-- A blob that the key store makes opens to the material that it was made of, on the engine that wrapped it. -/
theorem Dev.openBlob_makeBlob (d : Dev) (e h gen : Nat) (k : KeyDesc) (m : List Byte) (he : (d.eng e).kek.length = 32)
    (hm : m.length = materialLen k.type k.aesLen) : d.openBlob e h gen k (d.makeBlob e h gen k.type k m) = some m := by
  have hh : (blobHeader h gen k.type k.tenant k.owner).length = 16 := by simp [blobHeader, length_leBytes, zeros]
  simp only [Dev.openBlob, Dev.makeBlob]
  generalize hp : blobHeader h gen k.type k.tenant k.owner ++ m = p
  have hl : p.length = 16 + m.length := by rw [← hp, List.length_append, hh]
  have hr : p.length ≤ roundUp8 p.length := by unfold roundUp8; omega
  rw [kwUnwrap_kwWrap 8 (roundUp8 p.length / 8) _ _ (by omega) he
    (by unfold roundUp8; omega) (by rw [length_padTo]; unfold roundUp8; omega)]
  have hpad : padTo (roundUp8 p.length) p = blobHeader h gen k.type k.tenant k.owner ++ (m ++ zeros (roundUp8 p.length - p.length)) := by
    rw [padTo, List.take_of_length_le (by simp [zeros]; omega), ← hp, List.append_assoc]
  have e1 : (padTo (roundUp8 p.length) p).take 16 = blobHeader h gen k.type k.tenant k.owner := by
    rw [hpad, ← hh, List.take_left]
  have e2 : ((padTo (roundUp8 p.length) p).drop 16).take (materialLen k.type k.aesLen) = m := by
    rw [hpad, ← hh, List.drop_left, ← hm, List.take_left]
  simp only [e1, e2, if_true]

theorem length_cmacDouble (k : List Byte) : (cmacDouble k).length = 16 := by simp [cmacDouble, beBytes, length_leBytes]

theorem length_cmacChain (n : Nat) (k : List Byte) (hn : 1 ≤ n) (hk : k.length = 4 * n) (j : Nat) (c m : List Byte) (hc : c.length = 16)
    (hm : 16 * j ≤ m.length) : (cmacChain k j c m).length = 16 := by
  induction j generalizing c m with
  | zero => exact hc
  | succ j ih =>
    refine ih _ _ (aesDec_aesEnc n k _ hn hk ?_).1 (by rw [List.length_drop]; omega)
    rw [length_xorBytes, hc, List.length_take]; omega

/-- A CMAC has sixteen bytes. -/
theorem length_aesCmac (n : Nat) (k m : List Byte) (hn : 1 ≤ n) (hk : k.length = 4 * n) : (aesCmac k m).length = 16 := by
  refine (aesDec_aesEnc n k _ hn hk ?_).1
  have tail : ∀ l a b : List Byte, (if l.length = 16 then xorBytes l (cmacDouble a) else xorBytes (padTo 16 (l ++ [0x80])) (cmacDouble b)).length = 16 := by
    intro l a b
    split
    · rename_i h
      rw [length_xorBytes, h, length_cmacDouble]; rfl
    · rw [length_xorBytes, length_padTo, length_cmacDouble]; rfl
  rw [length_xorBytes, length_cmacChain n k hn hk _ _ _ (by rw [zeros, List.length_replicate]) (by split <;> omega), tail]
  rfl

end Sys2Proof.Machine
end

