-- ==== Sys2Proof/Laws/Memory.lean ====
section
/-!
SUPPORT. The laws of memory: a read after a write of the same byte gives the value written, a write leaves every other byte alone, and
every memory operation keeps the canonical form.
-/
namespace Sys2Proof.Machine

@[simp] theorem memFind_memPut_same (m : List Host.Cell) (a : Nat) (b : Byte) (h : memRising m = true) :
    memFind (memPut m a b) a = b := by
  induction m with
  | nil => by_cases hb : b = memDefault <;> simp [memPut, memFind, hb]
  | cons c r ih =>
    obtain ⟨k, v⟩ := c
    have hr : memRising r = true := by
      cases r with
      | nil => rfl
      | cons e r => obtain ⟨j, w⟩ := e; simp [memRising] at h; exact h.2
    simp only [memPut]
    split
    · rename_i hlt
      split
      · rename_i hb
        have : ∀ (l : List Host.Cell) (j : Nat) (w : Byte), memRising ((j, w) :: l) = true → a < j → memFind ((j, w) :: l) a = memDefault := by
          intro l
          induction l with
          | nil => intro j w _ hj; simp [memFind]; omega
          | cons e l ihl =>
            obtain ⟨j', w'⟩ := e
            intro j w hj hlt'
            simp [memRising] at hj
            have := ihl j' w' hj.2 (by omega)
            have hne : j ≠ a := by omega
            rw [memFind]; simp [hne, this]
        rw [this r k v h hlt, hb]
      · simp [memFind]
    · split
      · rename_i hka
        subst hka
        split
        · rename_i hb
          cases r with
          | nil => simp [memFind, hb]
          | cons e r =>
            obtain ⟨j, w⟩ := e
            simp [memRising] at h
            have : ∀ (l : List Host.Cell) (j : Nat) (w : Byte), memRising ((j, w) :: l) = true → k < j → memFind ((j, w) :: l) k = memDefault := by
              intro l
              induction l with
              | nil => intro j w _ hj; simp [memFind]; omega
              | cons e l ihl =>
                obtain ⟨j', w'⟩ := e
                intro j w hj hlt'
                simp [memRising] at hj
                have := ihl j' w' hj.2 (by omega)
                have hne : j ≠ k := by omega
                rw [memFind]; simp [hne, this]
            rw [this r j w h.2 h.1, hb]
        · simp [memFind]
      · rename_i hne; simp [memFind, hne, ih hr]

theorem memFind_memPut_other (m : List Host.Cell) {a x : Nat} (b : Byte) (h : a ≠ x) :
    memFind (memPut m a b) x = memFind m x := by
  induction m with
  | nil => by_cases hb : b = memDefault <;> simp [memPut, memFind, hb, h]
  | cons c r ih =>
    obtain ⟨k, v⟩ := c
    simp only [memPut]
    split
    · split <;> simp [memFind, h]
    · split
      · subst_vars; split <;> simp [memFind, h]
      · simp [memFind, ih]

/-- The addresses of `m` lie above `lo`. -/
def memAbove (lo : Nat) (m : List Host.Cell) : Prop := ∀ c ∈ m, lo < c.1

theorem memRising_cons (c : Host.Cell) (r : List Host.Cell) :
    memRising (c :: r) = true ↔ memAbove c.1 r ∧ memRising r = true := by
  induction r generalizing c with
  | nil => simp [memRising, memAbove]
  | cons e r ih =>
    obtain ⟨a, v⟩ := c
    obtain ⟨k, w⟩ := e
    simp only [memRising, Bool.and_eq_true, decide_eq_true_eq, ih ⟨k, w⟩]
    constructor
    · rintro ⟨h1, h2, h3⟩
      refine ⟨?_, h2, h3⟩
      intro c hc
      rcases List.mem_cons.1 hc with rfl | hc
      · exact h1
      · exact Nat.lt_trans h1 (h2 c hc)
    · rintro ⟨h1, h2, h3⟩
      exact ⟨h1 (k, w) (by simp), h2, h3⟩

theorem memAbove_memPut (lo : Nat) (m : List Host.Cell) (a : Nat) (b : Byte) (h : memAbove lo m) (ha : lo < a) :
    memAbove lo (memPut m a b) := by
  induction m with
  | nil =>
    intro c hc
    simp only [memPut] at hc
    split at hc
    · simp at hc
    · simp at hc; subst hc; exact ha
  | cons e r ih =>
    obtain ⟨k, v⟩ := e
    have hr : memAbove lo r := fun c hc => h c (List.mem_cons_of_mem _ hc)
    have hk : lo < k := h (k, v) (by simp)
    intro c hc
    simp only [memPut] at hc
    split at hc
    · split at hc
      · exact h c hc
      · rcases List.mem_cons.1 hc with rfl | hc
        · exact ha
        · exact h c hc
    · split at hc
      · split at hc
        · exact hr c hc
        · rcases List.mem_cons.1 hc with rfl | hc
          · exact ha
          · exact hr c hc
      · rcases List.mem_cons.1 hc with rfl | hc
        · exact hk
        · exact ih hr c hc

/-- Writing a byte keeps the canonical form. -/
theorem Memory.wf_memPut (m : List Host.Cell) (a : Nat) (b : Byte) (h : Memory.wf m = true) :
    Memory.wf (memPut m a b) = true := by
  induction m with
  | nil => by_cases hb : b = memDefault <;> simp [memPut, Memory.wf, memRising, hb]
  | cons e r ih =>
    obtain ⟨k, v⟩ := e
    have hall := h
    simp only [Memory.wf, Bool.and_eq_true, memRising_cons, List.all_cons] at hall
    obtain ⟨⟨habove, hrise⟩, hv, hr⟩ := hall
    have hwr : Memory.wf r = true := by simp [Memory.wf, hrise, hr]
    simp only [memPut]
    split
    · rename_i hlt
      split
      · exact h
      · rename_i hb
        have : memAbove a ((k, v) :: r) := by
          intro c hc
          rcases List.mem_cons.1 hc with rfl | hc
          · exact hlt
          · exact Nat.lt_trans hlt (habove c hc)
        simp only [Memory.wf, Bool.and_eq_true, memRising_cons, List.all_cons]
        exact ⟨⟨this, habove, hrise⟩, by simpa using hb, hv, hr⟩
    · split
      · rename_i hka
        split
        · exact hwr
        · rename_i hb
          subst hka
          simp only [Memory.wf, Bool.and_eq_true, memRising_cons, List.all_cons]
          exact ⟨⟨habove, hrise⟩, by simpa using hb, hr⟩
      · rename_i hnlt hne
        have hi := ih hwr
        simp only [Memory.wf, Bool.and_eq_true] at hi
        simp only [Memory.wf, Bool.and_eq_true, memRising_cons, List.all_cons]
        exact ⟨⟨memAbove_memPut k r a b habove (by show k < a; omega), hi.1⟩, hv, hi.2⟩

/-- Writing bytes keeps the canonical form. -/
theorem Memory.wf_memPutAll (m : List Host.Cell) (a : Nat) (b : List Byte) (h : Memory.wf m = true) :
    Memory.wf (memPutAll m a b) = true := by
  induction b generalizing m a with
  | nil => exact h
  | cons x r ih => exact ih _ _ (Memory.wf_memPut m a x h)

/-- Bytes outside those written are as before. -/
theorem memFind_memPutAll_other (m : List Host.Cell) (a : Nat) (b : List Byte) {x : Nat} (h : x < a ∨ a + b.length ≤ x) :
    memFind (memPutAll m a b) x = memFind m x := by
  induction b generalizing m a with
  | nil => rfl
  | cons y r ih =>
    simp only [memPutAll, List.length_cons] at *
    rw [ih _ _ (by omega), memFind_memPut_other _ _ (by omega)]

/-- Every byte written reads back. -/
theorem memFind_memPutAll_same (m : List Host.Cell) (a : Nat) (b : List Byte) (hm : Memory.wf m = true) (i : Nat) (hi : i < b.length) :
    memFind (memPutAll m a b) (a + i) = b[i] := by
  induction b generalizing m a i with
  | nil => simp at hi
  | cons y r ih =>
    simp only [memPutAll]
    have hw := Memory.wf_memPut m a y hm
    cases i with
    | zero =>
      rw [memFind_memPutAll_other _ _ _ (by omega)]
      have hr : memRising m = true := by simp [Memory.wf] at hm; exact hm.1
      simp [memFind_memPut_same m a y hr]
    | succ i =>
      have := ih (memPut m a y) (a + 1) hw i (by simpa using hi)
      rw [show a + (i + 1) = a + 1 + i by omega, this]
      simp

/-- A write behind the controllers keeps the canonical form. -/
theorem Dev.wf_memWrite (d : Dev) (a : Nat) (b : List Byte) (h : Memory.wf d.mem = true) : Memory.wf (d.memWrite a b).mem = true :=
  Memory.wf_memPutAll _ _ _ h

/-- A line written keeps the canonical form. -/
theorem Dev.wf_setMemLine (d : Dev) (line : Nat) (v : Line) (mark : Bool) (h : Memory.wf d.mem = true) :
    Memory.wf (d.setMemLine line v mark).mem = true := by
  simp only [Dev.setMemLine]
  exact Dev.wf_memWrite d line (lineBytes v) h

/-- Memory after reset has the canonical form. -/
theorem Memory.wf_reset : Memory.wf State.reset.dev.mem = true := rfl

end Sys2Proof.Machine
end

