-- ==== Sys2Proof/Tests/Slice0.lean ====
section
/-!
SUPPORT. Tests of the model: a state and operands that meet the hypotheses of each statement, the worked examples of the spec, and one
ill-formed command for each check of WellFormed.
-/
namespace Sys2Proof.Tests

open Sys2Proof Sys2Proof.Machine

set_option Elab.async false


/-! ## Small states -/

/-- Registers set, in order. -/
def put (l : List (Reg × Nat)) (d : Dev) : Dev := l.foldl (fun d e => d.set e.1 e.2) d

/-- Units put into a state. -/
def units (l : List (UnitRef × Nat)) (d : Dev) : Dev := l.foldl (fun d e => d.setUnit e.1 e.2) d

/-- A package that has booted: RELEASED, its compute die 0, base dies, IOD and clusters ACTIVE, its secure side serving. -/
def up : Dev :=
  units ([(.package, stActive), (.system, stActive), (.die 0, stActive), (.die 12, stActive), (.die 13, stActive), (.die 14, stActive),
    (.die 15, stActive), (.die 16, stActive), (.cluster 0, stActive), (.cluster 1, stActive), (.cluster 4, stActive), (.cluster 5, stActive)])
    (put [(rBootState, 5), (rAddrMapLocked, 1), (rTkState, 1), (rPkgFeatures, 0xFFFFFF), (rPllState 0, 1), (rPllState 16, 1)]
      { Dev.reset with pins := { Dev.reset.pins with rstN := true } })

/-- The mailboxes of the two worlds, and a ring path. -/
def tan : Path := .mailbox .tantalum
def nor : Path := .mailbox .normal
def node1 : Path := .ring 1

/-- A state with nothing waiting. -/
def at_ (d : Dev) : State := ⟨[], d⟩


/-- A hart that executes normal-world code in S. -/
def nHart : Hart := { Hart.reset with running := true, priv := .s, csrs := [(0x7C0, 0)] }

/-! ## Witnesses: the hypotheses of the statements are met -/

theorem witness_arbiters : (0 < 4 ∧ up.arbPtr 7 < 4 ∧ (∀ i, i < 4 → (fun _ : Nat => false) i = false)) ∧
    ((fun i : Nat => i = 1 || i = 3) ((up.arbPtr 7 + 1) % 4) = true ∧ ∀ j, j < 1 → (fun i : Nat => i = 1 || i = 3) ((up.arbPtr 7 + j) % 4) = false) := by
  decide

theorem witness_unitCommands :
    up.unitTakes tan (.cluster 0) .nop = true ∧
    (unitParent (.core 0) = some (.die 0) ∧ (units [(.die 0, stOff)] up).unit (.die 0) = stOff ∧ unitExists (.core 0) = true ∧
      (units [(.die 0, stOff)] up).admits tan (headerIndex (.core 0)) 0x08 (unitCmdCode .enable) = true ∧
      (units [(.die 0, stOff)] up).unitShadow (.core 0) = false ∧ unitSupports (.core 0) .enable = true ∧
      (units [(.die 0, stOff)] up).unitRunning (.core 0) = false) ∧ pathOk tan = true ∧ unitExists (.core 0) = true := by decide

/-- A second command meets one that runs, and ENABLE meets a unit that is QUIESCING (R10). -/
theorem witness_unitBusy :
    (let d := put [(rUnitCommand (.cluster 0), cmdRunning)] up
     d.admits tan (headerIndex (.cluster 0)) 0x08 (unitCmdCode .fence) = true ∧ d.unitShadow (.cluster 0) = false ∧
       unitSupports (.cluster 0) .fence = true ∧ d.unitRunning (.cluster 0) = true ∧ d.parentDown (.cluster 0) = false) ∧
    (let d := units [(.cluster 0, stQuiescing)] up
     d.admits tan (headerIndex (.cluster 0)) 0x08 (unitCmdCode .enable) = true ∧ d.unit (.cluster 0) = stQuiescing) := by decide

/-- Core 1 of a die in performance mode, in a state. -/
def core1 (st : Nat) : Dev := units [(.core 1, st)] up

theorem witness_cores :
    ((core1 stReady).unitTakes tan (.core 1) .enable = true ∧ (core1 stReady).unit (.core 1) = stReady) ∧
    ((core1 stReady).unit (.die 0) ≠ stQuiescing ∧ (core1 stReady).unitTakes tan (.core 1) .fence = true ∧
      (core1 stReady).pairMode 1 = false ∧ (core1 stReady).unitTakes tan (.core 1) .powerOff = true) ∧
    ((put [(rUnitCommand (.core 1), cmdRunning)] (core1 stFenced)).unit (.core 1) = stFenced ∧
      (put [(rUnitCommand (.core 1), cmdRunning)] (core1 stFenced)).coreDrained 1 = true ∧
      (put [(rUnitCommand (.core 1), cmdRunning)] (core1 stFenced)).get (rUnitCommand (.core 1)) = cmdRunning) ∧
    ((core1 stReady).unitTakes tan (.core 1) .reset = true ∧ (core1 stReady).coreDrained 1 = true ∧ (core1 stReady).pathWorld tan = .tantalum) := by
  decide

/-- Core 1 executes Tantalum code. -/
def runs1 : Dev := (core1 stActive).setHart 1 { Hart.reset with running := true }

theorem witness_deferredReset :
    (runs1.unitTakes nor (.core 1) .reset = true ∧ runs1.pathWorld nor = .normal ∧ runs1.cutProtected 1 = true ∧
      runs1.unit (.core 1) ≠ stFailed) ∧
    (let d := put [(rUnitCommand (.core 1), cmdRunning)] (runs1.setHart 1 { nHart with deferred := true })
     (d.hart 1).deferred = true ∧ d.cutProtected 1 = false ∧ d.coreDrained 1 = true ∧ d.get (rUnitCommand (.core 1)) = cmdRunning) := by
  decide

theorem witness_diesAndClusters :
    (up.unitTakes tan (.die 0) .quiesce = true ∧ up.unit (.die 0) = stActive ∧ up.resetting.contains 0 = false) ∧
    (up.unitTakes tan (.cluster 0) .fence = true ∧ unitFenceable (up.unit (.cluster 0)) = true ∧
      up.unitTakes tan (.cluster 0) .reset = true ∧ (put [(rBlkWorld 4, 0)] up).unitTakes tan (.cluster 4) .powerOff = true ∧ unitFenceable ((put [(rBlkWorld 4, 0)] up).unit (.cluster 4)) = true ∧
      up.unitTakes tan (.cluster 0) .quiesce = true ∧ (units [(.cluster 0, stReady)] up).unitTakes tan (.cluster 0) .quiesce = true ∧ up.unitTakes tan (.cluster 0) .enable = true ∧ up.unit (.cluster 0) = stActive) ∧
    (up.unitTakes tan (.die 0) .powerOff = true ∧ up.unitTakes tan (.die 0) .fence = true ∧ up.unitTakes tan (.die 0) .reset = true ∧
      up.unit (.die 0) ≠ stFailed ∧ unitFenceable (up.unit (.die 0)) = true) ∧
    ((units [(.die 0, stOff)] up).unitTakes tan (.die 0) .powerOff = true ∧ (units [(.die 0, stOff)] up).unit (.die 0) = stOff) ∧
    (let d := put [(rUnitCommand (.die 11), cmdRunning)] (units [(.die 11, stBypassed)] up)
     d.unit (.die 11) = stBypassed ∧ d.get (rUnitCommand (.die 11)) = cmdRunning ∧ bitsClear (d.get rPkgFeatures) 0xFFFFFF = 0 ∧
       bitsClear (d.get rPkgFeatures) 0 ≠ 0) := by decide

/-- A step change of die 0 in progress, to step 3. -/
def changing (faster switched settled : Bool) : Dev :=
  { up with power := { up.power with changes := [(0, ⟨3, faster, switched, settled⟩)] } }

theorem witness_cclk :
    (up.admits tan 0x3002 0x02 2 = true ∧ up.stepBarred 2 = false ∧ tabFind up.power.changes 0 = none) ∧
    ((put [(rPkgFeatures, 0)] up).admits tan 0x3002 0x02 0 = true ∧ (put [(rPkgFeatures, 0)] up).stepBarred 0 = true) ∧
    ((changing false false false).admits tan 0x3002 0x02 2 = true ∧ (changing false false false).stepBarred 2 = false ∧
      (tabFind (changing false false false).power.changes 0).isSome = true) ∧
    ((changing false false false).sinceLock 0 % 120 = 0 ∧
      tabFind (changing true false true).power.changes 0 = some ⟨3, true, false, true⟩ ∧ (changing true false true).sinceLock 0 % 120 = 0) ∧
    (tabFind (changing true false false).power.changes 0 = some ⟨3, true, false, false⟩ ∧
      tabFind (changing false true false).power.changes 0 = some ⟨3, false, true, false⟩) ∧
    (up.get (rPllState 0) = 1 ∧ up.unit (.die 0) ≠ stOff) ∧ up.get (rPllState 16) = 1 ∧ (up.pins.refclk = true ∧ up.pins.rstN = true) := by
  decide

theorem witness_locksAndRegions :
    (up.admits tan (lockPlace .ksLocked).1 (lockPlace .ksLocked).2 1 = true ∧ up.admits tan (lockPlace .ksLocked).1 (lockPlace .ksLocked).2 0 = true) ∧
    ((put [(rAddrMapLocked, 0)] up).admits tan 0x201F 0x01 1 = true ∧ (put [(rAddrMapLocked, 0), (rLrBase 15, 0x4000_0000)] up).admits tan 0x201F 0x01 1 = true) ∧
    up.admits tan 0x2041 0x01 1 = true ∧
    (let d := put [(rAddrMapLocked, 0), (rLrBase 15, 0x30_0000_0000), (rLrLimit 15, 0x30_0FFF_FFFF)] up
     d.admits tan 0x201F 0x01 1 = true ∧ d.lrLimit 15 < 0x4000_0000_0000 ∧
       d.get (rLrBase 15) / 0x1000_0000_0000 = d.lrLimit 15 / 0x1000_0000_0000 ∧ d.get (rLrBase 15) ≤ d.lrLimit 15 ∧
       (∀ m < 16, d.flag (rLrEnable m) = false) ∧ d.slotBase + 0x2F_FFFF_FFFF < d.get (rLrBase 15)) := by decide

theorem witness_dictionary :
    (unitExists (.core 3) = true ∧
      (up.heard nor).objectAt nor 0x1000 = some (.header .package) ∧ (up.heard nor).silentAt nor 0x1000 = false ∧
      tabFind up.regs (subKey 0x1000 (.header .package) nor 0) = none ∧ (up.heard nor).subDesc (.header .package) 0xFF = none) ∧
    ((up.heard nor).objectAt nor 0x0FFF = none ∧ (up.heard nor).objectAt nor 0xFFFF = none) ∧
    pathOk nor = true ∧ up.pathLive nor = true ∧ (4095 < 4096 ∧ up.selected 0x9010 nor = 0) := by decide

/-- A package that drives its ring, with node number 2. -/
def ringed : Dev := { put [(rRingNode, 2)] up with ring := { up.ring with driven := true, lock := true, running := true, nextSync := 0, periodEnd := 0 } }

/-- The same with time on its clock. -/
def late : Dev := { ringed with clock := { ringed.clock with invar := 2000000000, root := 24000000000 } }

theorem witness_blocks :
    (15 < 16 ∧ ringed.ring.driven = true ∧ (List.replicate 2 (0 : Byte)).length ≤ 256 ∧ ringed.stagedImage (.ring 15) domSessionOpen = [] ∧
      1 ≠ (ringed.stagedImage (.ring 15) domSessionOpen).length) ∧
    (pathOk nor = true ∧ up.pathLive nor = true ∧ 16 ≤ pathLimit nor ∧
      16 + 16 ≤ (up.setDom domMeasHead (List.replicate 32 0)).measHead.length) ∧
    (let w : WaitTx := ⟨tan, 256, 0x1000, 1, none, false, 50000⟩
     ({ late with waiting := [w] }).waiting = w :: [] ∧ ({ late with waiting := [w] }).overdue w = true) := by decide

/-- A mailbox of the normal world with an address written. -/
def mailed (busy : Bool) : Dev := up.setMailbox .normal { up.mailbox .normal with addr := 0x100000, busy := busy }

theorem witness_mailboxes :
    ((mailed true).mailbox .normal).busy = true ∧
    (((mailed false).mailbox .normal).busy = false ∧ 1 % 8 = 1 ∧ ((mailed false).mailbox .normal).addr % 256 = 0 ∧
      ((mailed false).mailbox .normal).xfer % 2 ^ 16 = 0 ∧ field ((mailed false).mailbox .normal).addr 8 16 = 0x1000 ∧
      (mailed false).objectAt nor 0x1000 = some (.header .package) ∧ (mailed false).silentAt nor 0x1000 = false) ∧
    (0xFFFFFFFF < 2 ^ 32 ∧ 0x800 ≤ 0xFFC ∧ 0xFFC < 0x1000 ∧ 0xFFC % 4 = 0) ∧
    (up.pins.rstN = true ∧ 0x1000 % 4 = 0 ∧ up.invasive .normal = false) := by decide

/-- Invasive debug of both worlds is on, and world range 0 covers 2 MiB of this package's memory. -/
def debugged : Dev :=
  put [(rDbgNormInvasive, 1), (rDbgTanInvasive, 1), (rWrBase 0, 0), (rWrLimit 0, 0x1F_FFFF), (rWrEnable 0, 1)] up

theorem witness_debugTool :
    debugged.pins.rstN = true ∧ debugged.invasive .normal = true ∧ debugged.refusedBy .normal 0x1000 = some 0 ∧
    debugged.invasive .tantalum = true ∧ debugged.refusedBy .tantalum 0x1000 = none ∧ debugged.refusedBy .normal 0x20_0000 = none ∧
    (debugged.region 0x20_0000).isMemory = true ∧ debugged.shadowFile 0x20_0000 = false ∧
    debugged.remoteHome (lineAddr 0x20_0000) = none ∧ (debugged.cohRead 0x20_0000 4).2 = false := by decide

/-- A READ request of sub-index 0x00 of the package header, from node 5. -/
def readOf (dest src : Nat) : Frame := ⟨dest, src, 7, false, true, cmdRead, 0, 0x1000, 0, 0, 0, []⟩

theorem witness_ringFrames :
    (let f := readOf 2 5
     f.dest < 16 ∧ f.src < 16 ∧ f.seq < 256 ∧ f.cmd < 8 ∧ up.ring.driven = false ∧ ringed.ring.driven = true ∧
       ringed.passesOn (readOf 3 5) = true) ∧
    (let f := readOf 2 5
     f.cmd = cmdRead ∧ f.rsp = false ∧ f.len = 0 ∧ f.payload = [] ∧ f.src ≠ ringed.get rRingNode ∧ (readOf 3 5).dest ≠ ringed.get rRingNode ∧
       f.dest = ringed.get rRingNode ∧ tabFind ringed.ring.executing (execKey f.src f.seq) = none ∧
       tabFind ringed.ring.remembered f.src = none ∧ f.sub = 0 ∧
       (ringed.heard (.ring f.src)).objectAt (.ring f.src) f.idx = some (.header .package) ∧
       ringed.silentAt (.ring f.src) f.idx = false) ∧
    (let r := responseTo (readOf 2 5) .ok [1]
     let d := { ringed with ring := { ringed.ring with remembered := tabPut ringed.ring.remembered 5 r } }
     tabFind d.ring.executing (execKey 5 7) = none ∧ tabFind d.ring.remembered 5 = some r ∧ r.seq = 7) := by decide

/-- A request of the package's own that waits for its response since the start, sent again `n` times. -/
def asked (n : Nat) : Dev := { late with ring := { late.ring with waits := [⟨readOf 5 2, n, 1000000⟩] } }

theorem witness_ringRetries :
    (let w : RingWait := ⟨readOf 5 2, 0, 1000000⟩
     (asked 0).ring.waits = w :: [] ∧ w.deadline ≤ (asked 0).now ∧ w.resends < (asked 0).get rRingRetries ∧ (asked 0).ring.driven = true) ∧
    (asked 0).get rRingRetries ≤ (⟨readOf 5 2, (asked 0).get rRingRetries, 1000000⟩ : RingWait).resends ∧
    (let d := put [(rRingMaster, 1)] ringed
     15 < 16 ∧ d.ring.driven = true ∧ 2 ≤ 2 ∧ 4 ≤ 4 ∧ d.flag rRingMaster = true) := by decide

theorem witness_time :
    (let d := put [(rRingMaster, 1)] ringed
     d.flag rRingMaster = true ∧ d.ring.driven = true ∧ d.ring.nextSync ≤ d.elapsed + 50) ∧
    (ringed.ring.driven = true ∧ ringed.flag rRingMaster = false ∧ ringed.ring.lastSync = none) ∧
    (let d := { late with ring := { late.ring with lastSync := some (late.elapsed - syncPeriod) } }
     d.ring.lastSync = some (late.elapsed - syncPeriod) ∧ d.syncInTime (late.elapsed - syncPeriod) = true ∧ d.ring.firstDone = false ∧
       d.flag rRingMaster = false ∧ d.now ≤ (d.now + 5) + d.get rSyncPathDelay) ∧
    (let d := { late with ring := { late.ring with lastSync := some (late.elapsed - syncPeriod), firstDone := true } }
     d.ring.lastSync = some (late.elapsed - syncPeriod) ∧ d.syncInTime (late.elapsed - syncPeriod) = true ∧ d.ring.firstDone = true ∧
       d.clock.hold = 0 ∧ d.now ≤ (d.now + 5) + d.get rSyncPathDelay) ∧
    (late.pins.rstN = true ∧ late.flag rRingMaster = false ∧ late.ring.periodEnd < late.elapsed) ∧
    (let d := { ringed with ring := { ringed.ring with missedRun := 10 } }
     10 ≤ d.ring.missedRun ∧ d.flag rRingMaster = false) := by decide

theorem witness_ringPlace :
    (let d := put [(rRingNode, 2)] { up with pins := { up.pins with rails := 255 } }
     d.pins.rstN = true ∧ d.railsGood = true ∧ d.boot.mgmtFailed = false ∧ d.boot.mgmtDown = false ∧ d.ring.driven = false ∧
       d.onRing = true) ∧
    (ringed.ring.driven = true ∧ ringed.releaseDue .packageReset = true ∧ ringed.ring.lock = true) ∧
    ({ ringed with pins := { ringed.pins with rails := 254 } }).releaseDue .railLoss = true ∧
    ({ ringed with boot := { ringed.boot with mgmtFailed := true } }).releaseDue .mgmtFatal = true := by decide

/-- A node's session as operator of both worlds. -/
def seated : Dev := { late with ring := { late.ring with sessions := [(1, ⟨2, 0⟩)] } }

/-- A package whose engines 0, 1, 64 and 80 serve, with the management slot of base die 0, its journal and its DRBG. -/
def secured : Dev :=
  ((({ put [(rEngState 0, stActive), (rEngState 1, stActive), (rEngState 64, stActive), (rEngState 80, stActive), (rJnState 0, 1), (rEsState 0, 1), (rBlkWorld 4, 0), (rBlkWorld 5, 0)] ringed with
      attKeys := [(0, 1)], iommu := { ringed.iommu with ddtMode := 1 } }).setSlot 0 15 .mgmt).setDrbg 0 ⟨true, true, 0, 0, List.replicate 32 0, 0⟩).setEng 0 { Eng.reset with kek := List.replicate 32 7 }

/-- A node's open transaction with a staged image. -/
def stagedBy (n : Nat) (b : List Byte) : Dev := { ringed with staged := [⟨n, domSessionOpen, b⟩] }

theorem witness_sessions :
    ((secured.heard (.ring 3)).challengeFor 3).isSome = true ∧
    (∀ b, (stagedBy 3 b).stagedImage (.ring 3) domSessionOpen = b) ∧
    (ringed.heard (.ring 3)).challengeFor 3 = none ∧
    (∀ n, (List.replicate n (0 : Byte)).length = n) ∧
    (ringed.boot.mgmtDown = false ∧ tabFind ringed.ring.challenges 3 = none ∧ ringed.ring.opening.any (fun o => o.node = 3) = false) ∧
    (let o : Opening := ⟨3, 9, 256, [], [], [], 1⟩
     let d := { secured with ring := { secured.ring with opening := [o] }, mgmt := [⟨.session 3 9, 0, [], false, none, 0, [], 0, 0⟩] }
     d.sessionDie 3 = some 0 ∧ d.openingOn 0 = some o ∧ o.node = 3) ∧
    (let x : Session := ⟨2, 0⟩
     tabFind seated.ring.sessions 1 = some x ∧ x.last + (put [(rSessionIdle, 1)] seated).get rSessionIdle * 1000000 ≤ seated.now) ∧
    seated.admits (.ring 1) 0x1100 0x0C 1 = true ∧ (1000 < 2 ^ 32 ∧ seated.admits (.ring 1) 0x1100 0x0D 1000 = true) := by
  refine ⟨by decide, fun _ => rfl, by decide, fun n => List.length_replicate, by decide, by decide, by decide, by decide, by decide⟩

/-- Instance 0 in a state, of the DEFLATE class when `cls` is 3, with rings of 4 and 8 entries and a quota of 2. -/
def inst0 (cls st : Nat) : Dev :=
  put [(rInstState 0, st), (rInstClass 0, cls), (rInstQuota 0, 2), (rSqLog2 0, 2), (rCqLog2 0, 3), (rSqBase 0, 0x20_0000), (rCqBase 0, 0x20_1000),
    (rInstWorld 0, 0)] secured

theorem witness_instances :
    (let d := inst0 3 instFree
     d.selected 0x7800 tan = 0 ∧ d.admits tan 0x7803 0x02 1 = true ∧ d.get (rInstState 0) = instFree ∧ d.createBad 0 = false ∧
       ((d.heard tan).placeInst 0).isSome = true) ∧
    (let d := inst0 3 instReady
     d.admits tan 0x7803 0x02 2 = true ∧ d.get (rInstState 0) = instReady ∧ d.get (rSqLog2 0) ≤ d.get (rCqLog2 0) ∧
       d.get (rSqBase 0) % 4096 = 0 ∧ d.get (rCqBase 0) % 4096 = 0 ∧ d.admits tan 0x7803 0x02 3 = true ∧
       d.admits tan 0x7803 0x02 4 = true ∧ (d.inst 0).queue = [] ∧ d.admits tan 0x7803 0x02 5 = true) ∧
    (let d := inst0 3 instQuiescing
     d.get (rInstState 0) = instQuiescing ∧ (d.inst 0).fetching = false ∧ (d.inst 0).queue = [] ∧ (d.inst 0).msis = [] ∧
       d.delivered (d.inst 0).sent = true) := by decide

theorem witness_doorbells :
    (0xFFFF < 2 ^ 16 ∧ (inst0 3 instFree).get (rInstState 0) = instFree) ∧
    (let d := put [(rInstWorld 0, 1)] (inst0 3 instActive)
     d.get (rInstState 0) ≠ instFree ∧ d.pageMismatch 0 .normal = true) ∧
    (let d := inst0 3 instActive
     d.pageMismatch 0 .normal = false ∧ d.get (rInstState 0) = instActive ∧ 3 < d.sqSize 0 ∧ d.sqSize 0 ≤ 4 ∧ d.cqSize 0 ≤ 8) ∧
    (let d := (inst0 3 instActive).setInst 0 { Inst.reset with cqHead := 7, unreleased := 2 }
     d.pageMismatch 0 .normal = false ∧ 1 < d.cqSize 0 ∧ 1 ≠ (d.inst 0).cqHead ∧ 2 = (1 + d.cqSize 0 - (d.inst 0).cqHead) % d.cqSize 0 ∧
       2 ≤ (d.inst 0).unreleased) ∧
    (let d := (inst0 3 instActive).setInst 0 { Inst.reset with sqTail := 1 }
     d.get (rInstState 0) = instActive ∧ (d.inst 0).fetching = false ∧ (d.inst 0).sqHead ≠ (d.inst 0).sqTail ∧
       (d.inst 0).inFlight < d.get (rInstQuota 0) ∧ (d.inst 0).inFlight < d.cqSize 0 - (d.inst 0).unreleased) := by decide

/-- Instance 0 has a fetch outstanding. -/
def fetches : Dev := (inst0 2 instActive).setInst 0 { Inst.reset with sqTail := 1, fetching := true }

/-- A Sterling instance fetches a descriptor of zeros, which is the descriptor of a NOP; without a device directory its fetch fails. -/
theorem witness_fetch :
    (let r := fetches.instFetch 0 (fetches.get (rSqBase 0) + 64 * (fetches.inst 0).sqHead)
     (fetches.inst 0).fetching = true ∧ r.1 = .ok (List.replicate 64 0) ∧ (r.2.inst 0).squash = false ∧
       r.2.decodeDesc 0 (List.replicate 64 0) = jsOk) ∧
    (let d := { fetches with iommu := { fetches.iommu with ddtMode := 0 } }
     (d.inst 0).fetching = true ∧
       (match (d.instFetch 0 (d.get (rSqBase 0) + 64 * (d.inst 0).sqHead)).1 with | .ok _ => false | _ => true) = true) := by decide +kernel

/-- An AES key, a P-256 key and a Falcon-512 key pair, as their descriptors name them. -/
def aKey (t aes : Nat) : KeyDesc := { parseKey [] with state := 3, type := t, aesLen := aes, gen := 1 }

/-- Instance 0 is a Sterling instance; slot 5 holds an AES-128 key for CMAC, slot 6 a P-256 key, slot 7 a Falcon-512 key pair. -/
def keyed : Dev :=
  (((put [(rInstClass 0, 1), (rInstState 0, instActive), (rKsDescBase, 0x40_0000), (rKsBlobBase, 0x50_0000)] secured).keyPut 5
    (aKey 9 16)).keyPut 6 (aKey 5 0)).keyPut 7 (aKey 1 0)

theorem keyed_slots : keyed.instClass 0 = 1 ∧ keyed.keyAt 5 = aKey 9 16 ∧ keyed.keyAt 6 = aKey 5 0 ∧ keyed.keyAt 7 = aKey 1 0 := by
  decide +kernel

/-- A descriptor of 64 bytes: opcode, option bits, key slot A and operation data. -/
def descOf (op opts key data : Nat) : List Byte :=
  leBytes 28 op ++ leBytes 4 key ++ leBytes 2 1 ++ leBytes 22 opts ++ leBytes 8 data

/-- A job in its execute phase. -/
def jobOf (op opts key data : Nat) (blob input aux : List Byte) : Job :=
  { inst := 0, desc := descOf op opts key data, phase := phExecute, slot := some (0, 0), partner := none, avoid := [], keyOk := true, holds := [],
    target := none, genA := 1, input := input, aux := aux, rand := [], opDone := false, status := jsOk, detail := 0, out := [], written := 0,
    attempts := 0, result := 0, journal := none, deadline := 0, bank := none, version := 0, restarted := false, selfFails := 0, ctxOut := [],
    copied := 0, failAddr := 0, blobA := blob, blobB := [], seen := [] }

/-- Job 1 is this job. -/
def Dev.working (d : Dev) (x : Job) : Dev := { d with jobs := [(1, x)] }

/-- A job in its execute phase with opcode `op`, whose input has been staged, is at work. -/
theorem atWork_of (d : Dev) (x : Job) (op : Nat) (hc : d.instClass x.inst = 1) (hp : x.phase = phExecute) (ho : x.opDone = false)
    (hd : descOpcode x.desc = op) (hl : descInLen x.desc ≤ 4096) : (Dev.working d x).atWork 1 op x (Dev.working d x) := by
  have hw : (Dev.working d x).instClass x.inst = 1 := hc
  have hj : (Dev.working d x).job 1 = some x := rfl
  exact ⟨by simp [Dev.sterlingTurn, Dev.jobIs, hj, hp, ho, hd, hw], .inl ⟨hj, hl, rfl⟩⟩

/-- Key A of a job on engine 0 whose blob the key store made there unwraps to its material. -/
theorem keyOfA_of (d : Dev) (x : Job) (k : KeyDesc) (m : List Byte) (h : m.length = materialLen k.type k.aesLen)
    (hg : x.genA = 1) (ha : d.keyAt (descKeyA x.desc) = k) (hb : x.blobA = d.makeBlob 0 (descKeyA x.desc) 1 k.type k m)
    (hs : x.slot = some (0, 0)) (he : (d.eng 0).kek.length = 32) : (Dev.working d x).keyOfA x = some m := by
  have hk : (Dev.working d x).keyAt (descKeyA x.desc) = k := ha
  rw [Dev.keyOfA, hk, hg, hb, hs]
  exact d.openBlob_makeBlob 0 _ 1 k m he h

theorem keyed_kek : (keyed.eng 0).kek.length = 32 := by decide +kernel

/-- A CMAC job under the AES key. -/
def cmacJob (op : Nat) (aux : List Byte) : Job := jobOf op 0 5 16 (keyed.makeBlob 0 5 1 9 (aKey 9 16) (List.replicate 16 7)) [1, 2] aux

/-- The tag that belongs to it, of eight bytes. -/
def cmacTag : List Byte := (aesCmac (List.replicate 16 7) [1, 2]).take 8

theorem cmacJob_ready (op : Nat) (aux : List Byte) (h : descOpcode (cmacJob op aux).desc = op) (hk : descKeyA (cmacJob op aux).desc = 5)
    (hl : descInLen (cmacJob op aux).desc ≤ 4096) :
    (Dev.working keyed (cmacJob op aux)).atWork 1 op (cmacJob op aux) (Dev.working keyed (cmacJob op aux)) ∧
    (Dev.working keyed (cmacJob op aux)).keyOfA (cmacJob op aux) = some (List.replicate 16 7) :=
  ⟨atWork_of _ _ _ keyed_slots.1 rfl rfl h hl,
   keyOfA_of _ _ (aKey 9 16) _ rfl rfl (by rw [hk]; exact keyed_slots.2.1) (by rw [hk]; rfl) rfl keyed_kek⟩

theorem witness_hashes :
    (let x := jobOf 0x30 0 0 32 [] [1, 2] []
     (Dev.working keyed x).atWork 1 0x30 x (Dev.working keyed x)) ∧
    (let x := jobOf 0x31 0 0 32 [] [1, 2] []
     (Dev.working keyed x).atWork 1 0x31 x (Dev.working keyed x)) ∧
    (let x := cmacJob 0x40 []
     (Dev.working keyed x).atWork 1 0x40 x (Dev.working keyed x) ∧ (Dev.working keyed x).keyOfA x = some (List.replicate 16 7)) ∧
    (let x := cmacJob 0x41 cmacTag
     ((Dev.working keyed x).atWork 1 0x41 x (Dev.working keyed x) ∧ (Dev.working keyed x).keyOfA x = some (List.replicate 16 7)) ∧
       (aesCmac (List.replicate 16 7) x.input).take x.aux.length = x.aux) ∧
    (let x := cmacJob 0x41 (List.replicate 17 0)
     ((Dev.working keyed x).atWork 1 0x41 x (Dev.working keyed x) ∧ (Dev.working keyed x).keyOfA x = some (List.replicate 16 7)) ∧
       (aesCmac (List.replicate 16 7) x.input).take x.aux.length ≠ x.aux) := by
  refine ⟨atWork_of _ _ _ keyed_slots.1 rfl rfl rfl (by decide +kernel), atWork_of _ _ _ keyed_slots.1 rfl rfl rfl (by decide +kernel), cmacJob_ready _ _ rfl rfl (by decide +kernel),
    ⟨cmacJob_ready _ _ rfl rfl (by decide +kernel), ?_⟩, cmacJob_ready _ _ rfl rfl (by decide +kernel), ?_⟩
  · show (aesCmac (List.replicate 16 7) [1, 2]).take ((aesCmac (List.replicate 16 7) [1, 2]).take 8).length = (aesCmac (List.replicate 16 7) [1, 2]).take 8
    rw [List.length_take, ← List.take_take, List.take_length]
  · intro h
    have := congrArg List.length h
    rw [List.length_take, show (aesCmac (List.replicate 16 7) (cmacJob 0x41 (List.replicate 17 0)).input).length = 16 from length_aesCmac 4 _ _ (by omega) rfl] at this
    simp [cmacJob, jobOf] at this

/-- Instance 0 is a DEFLATE or Electrum instance with job 1, a job with one-byte opcode, at the head of its queue. -/
def queued (cls phase slots : Nat) : Dev :=
  let d := (put [(rInstSlots 0, slots)] (inst0 cls instActive)).setInst 0
    { Inst.reset with queue := [1], slotMap := [some (80, 0)] }
  { d.setSlot 80 0 (.inst 0) with
    jobs := [(1, { jobOf 1 0 0 0 [] [] [] with phase := phase, slot := none })], nextJob := 2 }

/-- A DEFLATE instance without slots of its own, with a job at the head of its queue, and an engine that serves it. -/
def pooled : Dev :=
  { ((put [(rBlkWorld 5, 0), (rEngState 80, stActive), (rInstClass 0, 3), (rInstState 0, instActive)] Dev.reset).setUnit (.cluster 5) stActive).setInst 0
      { Inst.reset with queue := [1] } with
    jobs := [(1, { jobOf 1 0 0 0 [] [] [] with phase := phDispatch, slot := none })], nextJob := 2 }

theorem pool_insts : pooled.poolInsts 3 .normal = [0] := by decide +kernel

theorem witness_jobStart :
    (let d := queued 3 phDispatch 1
     (d.starter 0).isSome = true ∧ d.instClass 0 ≠ 1 ∧ d.get (rInstSlots 0) ≠ 0 ∧
       d.noPort 0 (jobOf 1 0 0 0 [] [] []) = false ∧
       (d.arbitrate (arbInstSlots 0) (d.ports 0 (jobOf 1 0 0 0 [] [] [])) (fun q => (d.portTakes 0 (jobOf 1 0 0 0 [] [] []) q).isSome)).1 = some 0 ∧
       d.portTakes 0 (jobOf 1 0 0 0 [] [] []) 0 = some ((80, 0), none)) := by decide +kernel

theorem witness_jobStart_pool :
    (pooled.starter 0).isSome = true ∧ (pooled.poolInsts 3 .normal).find? (fun i => pooled.poolStuck i) = none ∧
      (pooled.arbitrate (arbPool 3 .normal) 4096 (fun i => (pooled.poolInsts 3 .normal).contains i && pooled.poolAsks i)).1 = some 0 ∧
      pooled.poolSlot 0 (jobOf 1 0 0 0 [] [] []) = some (80, 0) := by
  simp only [pool_insts]; decide +kernel

/-- Instance 0 is an Electrum instance with job 1. -/
def staged_ (x : Job) : Dev := { (inst0 2 instActive).setInst 0 { Inst.reset with queue := [1] } with jobs := [(1, x)], nextJob := 2 }

/-- An Electrum job with its input of three bytes at 0x20_2000 and its output at 0x20_3000. -/
def elJob (phase : Nat) : Job :=
  { jobOf 1 0 0 0 [] [] [] with
    desc := leBytes 4 1 ++ leBytes 4 3 ++ leBytes 8 0x20_2000 ++ leBytes 8 0x20_3000 ++ leBytes 40 16, phase := phase, slot := some (64, 0), opDone := true,
    out := [1, 2, 3] }

theorem witness_jobPhases :
    (let x := elJob phStage
     (staged_ x).instClass x.inst = 2 ∧ (staged_ x).job 1 = some x ∧ x.phase = phStage ∧
       ((staged_ x).instRead x.inst (descIn x.desc) (descInLen x.desc)).1 = .ok [0, 0, 0] ∧ x.inst < 4096) ∧
    (let x := elJob phExecute
     x.phase = phExecute ∧ x.opDone = true ∧ x.status = jsOk ∧ x.slot = some (64, 0) ∧ x.partner = none) ∧
    (let x := elJob phOutput
     x.phase = phOutput ∧ x.ctxOut = [] ∧ x.target = none ∧ ((staged_ x).instWrite x.inst (descOut x.desc) x.out true).1.2 = 3) ∧
    (let x := elJob phComplete
     (staged_ x).job 1 = some x ∧ x.phase = phComplete ∧
       ((staged_ x).instWrite x.inst ((staged_ x).get (rCqBase x.inst) + 32 * ((staged_ x).inst x.inst).cqTail) ((staged_ x).record x) true).1.2 = 32) := by
  decide +kernel

theorem witness_msis :
    ((secured.setInst 4095 { Inst.reset with msis := [7] }).inst 4095).msis = 7 :: [] ∧
    (let d := inst0 3 instActive
     0 = d.selected 0x7800 tan ∧ d.admits tan 0x7804 0x01 1 = true ∧ d.get (rDlControl 0) ≠ cmdRunning ∧ d.get (rDlPages 0) = 0 ∧
       d.admits tan 0x7804 0x01 0 = true ∧ (put [(rDlPages 0, 9), (rDlBitmap 0, 0x30_0000)] d).inDram 0x30_0000 2 = true) ∧
    ((put [(rDlControl 4095, cmdRunning)] secured).get (rDlControl 4095) = cmdRunning ∧ secured.delivered (secured.inst 4095).dlWait = true) ∧
    secured.get (rEngState 80) ≠ stOff ∧
    (let m : SlotMove := ⟨0, 3, 0, (1, 2)⟩
     let d := ({ secured with moves := [m] }).setInst 3 { Inst.reset with slotMap := [none] }
     d.moves.filter (fun m => m.eng = 0) = [m] ∧ m.inst ≠ 0xFFFE ∧ m.pos < (d.inst m.inst).slotMap.length) := by decide +kernel

/-- Engine 0 in a state. -/
def engineIn (st : Nat) : Dev := put [(rEngState 0, st)] secured

theorem witness_engines :
    (∀ code ∈ [0, 1, 2, 3, 4, 6], 0 < 88 ∧ (engineIn stActive).admits tan (engIndex 0) 0x02 code = true) ∧
    ((engineIn stActive).get (rBlkCommand (engCluster 0)) ≠ cmdRunning ∧ (engineIn stActive).get (rEngCommand 0) ≠ cmdRunning ∧
      (engineIn stActive).unit (.cluster (engCluster 0)) = stActive ∧ (engineIn stActive).get (rEngState 0) = stActive ∧
      fenceable ((engineIn stActive).get (rEngState 0)) = true) ∧
    (∀ st ∈ [stReady, stFenced], (engineIn st).admits tan (engIndex 0) 0x02 1 = true ∧ (engineIn st).admits tan (engIndex 0) 0x02 2 = true ∧
      (engineIn st).get (rEngState 0) = st) ∧
    (let d := secured.setEng 0 ⟨.update, true, 3, []⟩
     (d.eng 0).task = .update ∧ d.engBusy 0 = false) ∧
    (let d := secured.setEng 63 ⟨.selfTest, true, 3, []⟩
     63 < 88 ∧ (d.eng 63).task = .selfTest ∧ (d.eng 63).command = true ∧ (d.eng 63).newVer ≠ 0) := by decide +kernel

/-- A package whose engines are of epoch `v`, with an image of no bytes that has been verified. -/
def ofEpoch (d : Dev) (v : Nat) : Dev := { (d.setDom domStUcodeImage []).set rStUcodeEpoch v with boot := { d.boot with ucodeOk := true } }

theorem ofEpoch_eq (d : Dev) (v : Nat) :
    (ofEpoch d v).boot.ucodeOk = true ∧ (ofEpoch d v).dom domStUcodeImage [] = [] ∧ (ofEpoch d v).get rStUcodeEpoch = v := by
  refine ⟨rfl, ?_, ?_⟩
  · simp [ofEpoch, Dev.dom, Dev.set, Dev.setDom]
  · simp [ofEpoch, Dev.get, Dev.set]

/-- Microcode of the engines' own epoch, and of another: whichever epoch the image has. -/
theorem witness_update :
    (let d := ofEpoch (engineIn stActive) (Config.ucodeEpoch [])
     d.boot.ucodeOk = true ∧ Config.ucodeEpoch (d.dom domStUcodeImage []) = d.get rStUcodeEpoch) ∧
    (let d := ofEpoch (engineIn stActive) (Config.ucodeEpoch [] + 1)
     d.boot.ucodeOk = true ∧ Config.ucodeEpoch (d.dom domStUcodeImage []) ≠ d.get rStUcodeEpoch) ∧ secured.measRoom = true ∧
    (let d := engineIn stActive
     d.boot.ucodeOk = false ∧ d.mgmtChoose false = some 0 ∧ (∀ w ∈ d.mgmt, w.kind ≠ .ucode 0) ∧
       ({ d with attKeys := [] }).mgmtChoose false = none) := by
  have h := ofEpoch_eq (engineIn stActive)
  refine ⟨⟨(h _).1, by rw [(h _).2.1, (h _).2.2]⟩, ⟨(h _).1, by rw [(h _).2.1, (h _).2.2]; omega⟩, by decide +kernel, ?_⟩
  decide +kernel

theorem witness_entropy :
    (3 < 4 ∧ secured.get (rEsState 3) ≠ 2 ∧ secured.admits tan (0x7050 + 3) 0x04 1 = true ∧ secured.get (rEsRestart 3) ≠ cmdRunning) ∧
    (secured.get (rEsState 3) = 0 ∧ (secured.drbg 3).ready = false) ∧
    ((secured.drbg 0).serving = true ∧ (secured.drbg 0).lastSeed + 100000000 ≤ ({ secured with clock := late.clock }).now ∧ secured.esHealthy 0 = true ∧
      (put [(rEsState 0, 2)] secured).esHealthy 0 = false) ∧
    (let d := { secured with attKeys := [] }
     d.mgmtEngine 0 = some 0 ∧ d.get (rEngState 0) = stActive ∧ tabFind d.attKeys 0 = none) := by decide +kernel

/-- A Falcon-512 public key of zeros, and the base point of P-256 as a public key. -/
def falconZero : List Byte := 9 :: zeros 896
def basePoint : List Byte := 4 :: (beBytes 32 p256.gx ++ beBytes 32 p256.gy)

theorem falconZero_ok : (falconKey 9 falconZero).isSome = true := by decide +kernel
theorem basePoint_ok : decodePoint p256 basePoint = some (p256.gx, p256.gy) := by decide +kernel
theorem basePoint384_ok : (decodePoint p384 (4 :: (beBytes 48 p384.gx ++ beBytes 48 p384.gy))).isSome = true := by decide +kernel
theorem falcon1024_ok : (falconKey 10 (10 :: zeros 1792)).isSome = true := by decide +kernel
theorem falcon_bad : falconKey 9 [] = none := by decide +kernel

/-- A job with a key in its input, and nothing else. -/
def inlineJob (op : Nat) (key : List Byte) (data : Nat) : Job := jobOf op 1 0 data [] key []

/-- A job with key A from slot `h`, of type `t`. -/
def slotJob (op h t aes : Nat) (m input aux : List Byte) : Job := jobOf op 0 h 0 (keyed.makeBlob 0 h 1 t (aKey t aes) m) input aux

theorem slotJob_ready (op h t aes : Nat) (m input aux : List Byte) (ho : descOpcode (slotJob op h t aes m input aux).desc = op)
    (hk : descKeyA (slotJob op h t aes m input aux).desc = h)
    (hl : descInLen (slotJob op h t aes m input aux).desc ≤ 4096) (ha : keyed.keyAt h = aKey t aes) (hm : m.length = materialLen t aes) :
    (Dev.working keyed (slotJob op h t aes m input aux)).atWork 1 op (slotJob op h t aes m input aux) (Dev.working keyed (slotJob op h t aes m input aux)) ∧
    (Dev.working keyed (slotJob op h t aes m input aux)).keyOfA (slotJob op h t aes m input aux) = some m :=
  ⟨atWork_of _ _ _ keyed_slots.1 rfl rfl ho hl, keyOfA_of _ _ (aKey t aes) _ hm rfl (by rw [hk]; exact ha) (by rw [hk]; rfl) rfl keyed_kek⟩

theorem witness_verifications :
    (let x := inlineJob 0x14 falconZero 0
     descInline x.desc = true ∧ falconZero = x.input.take (stPublicLen (descOpcode x.desc)) ∧ [] = x.input.drop (stPublicLen (descOpcode x.desc)) ∧
       (Dev.working keyed x).atWork 1 0x14 x (Dev.working keyed x) ∧ (falconKey 9 falconZero).isSome = true) ∧
    (let x := inlineJob 0x14 (zeros 897) 0
     descInline x.desc = true ∧ (Dev.working keyed x).atWork 1 0x14 x (Dev.working keyed x) ∧ falconKey 9 (zeros 897) = none) ∧
    (let x := inlineJob 0x15 (10 :: zeros 1792) 0
     descInline x.desc = true ∧ (Dev.working keyed x).atWork 1 0x15 x (Dev.working keyed x) ∧ (falconKey 10 (10 :: zeros 1792)).isSome = true) ∧
    (let x := slotJob 0x20 6 5 0 basePoint [1] []
     descInline x.desc = false ∧ ((Dev.working keyed x).atWork 1 0x20 x (Dev.working keyed x) ∧ (Dev.working keyed x).keyOfA x = some basePoint) ∧
       decodePoint p256 basePoint = some (p256.gx, p256.gy) ∧ descOpData x.desc % 2 ^ 8 = 0) ∧
    (let x := inlineJob 0x21 (4 :: (beBytes 48 p384.gx ++ beBytes 48 p384.gy)) 0
     descInline x.desc = true ∧ (Dev.working keyed x).atWork 1 0x21 x (Dev.working keyed x) ∧ descOpData x.desc % 2 ^ 8 = 0) := by
  refine ⟨⟨rfl, by decide +kernel, by decide +kernel, atWork_of _ _ _ keyed_slots.1 rfl rfl rfl (by decide +kernel), falconZero_ok⟩,
    ⟨rfl, atWork_of _ _ _ keyed_slots.1 rfl rfl rfl (by decide +kernel), by decide +kernel⟩, ⟨rfl, atWork_of _ _ _ keyed_slots.1 rfl rfl rfl (by decide +kernel), falcon1024_ok⟩,
    ⟨rfl, slotJob_ready _ _ _ _ _ _ _ rfl rfl (by decide +kernel) keyed_slots.2.2.1 (by decide +kernel), basePoint_ok, by decide +kernel⟩,
    ⟨rfl, atWork_of _ _ _ keyed_slots.1 rfl rfl rfl (by decide +kernel), by decide +kernel⟩⟩

/-- A Falcon-512 key pair of zeros. -/
def pairZero : List Byte := zeros 1281 ++ falconZero

theorem pairZero_length : pairZero.length = materialLen 1 0 := by decide +kernel

theorem witness_keygen :
    (jobOf 0x10 0 0 0 [] [] []).partner = none ∧
    (Dev.working keyed (jobOf 0x10 0 0 0 [] [] [])).atWork 1 0x10 (jobOf 0x10 0 0 0 [] [] []) (Dev.working keyed (jobOf 0x10 0 0 0 [] [] [])) ∧
    (Dev.working keyed (jobOf 0x11 0 0 0 [] [] [])).atWork 1 0x11 (jobOf 0x11 0 0 0 [] [] []) (Dev.working keyed (jobOf 0x11 0 0 0 [] [] [])) :=
  ⟨rfl, atWork_of _ _ _ keyed_slots.1 rfl rfl rfl (by decide +kernel), atWork_of _ _ _ keyed_slots.1 rfl rfl rfl (by decide +kernel)⟩

theorem witness_sign (m : List Byte) (h : m.length = materialLen 1 0) :
    ((Dev.working keyed (slotJob 0x12 7 1 0 m [1] [])).atWork 1 0x12 (slotJob 0x12 7 1 0 m [1] []) (Dev.working keyed (slotJob 0x12 7 1 0 m [1] [])) ∧
      (Dev.working keyed (slotJob 0x12 7 1 0 m [1] [])).keyOfA (slotJob 0x12 7 1 0 m [1] []) = some m) ∧
    (slotJob 0x12 7 1 0 m [1] []).slot = some (0, 0) :=
  ⟨slotJob_ready 0x12 7 1 0 m [1] [] rfl rfl (by show descInLen (descOf 0x12 0 7 0) ≤ 4096; decide +kernel) keyed_slots.2.2.2 h, rfl⟩

/-- Whatever an engine makes of a signing, one of the statements' cases is met. -/
theorem witness_signing (d : Dev) (logn : Nat) (priv pub rand m : List Byte) :
    (∃ sig n f, d.engineSigns logn priv pub rand m = (some (sig, n), f)) ∨ ∃ f, d.engineSigns logn priv pub rand m = (none, f) := by
  cases h : d.engineSigns logn priv pub rand m with
  | mk a f =>
    cases a with
    | none => exact .inr ⟨f, rfl⟩
    | some r => exact .inl ⟨r.1, r.2, f, rfl⟩

theorem witness_imports :
    (let x := { jobOf 0 0 0 0 [] [] [] with phase := phDispatch }
     let d := (Dev.working keyed x).setInst 0 { Inst.reset with queue := [1] }
     d.job 1 = some x ∧ d.instClass x.inst = 1 ∧ descOpcode x.desc = 0 ∧ d.jobReady x.inst 1 = true ∧ x.target = none) ∧
    (Dev.working keyed (inlineJob 0x60 falconZero 0)).atWork 1 0x60 (inlineJob 0x60 falconZero 0) (Dev.working keyed (inlineJob 0x60 falconZero 0)) ∧ falconKey 9 [] = none ∧
    (Dev.working keyed (inlineJob 0x61 [] 0)).atWork 1 0x61 (inlineJob 0x61 [] 0) (Dev.working keyed (inlineJob 0x61 [] 0)) ∧
    (Dev.working keyed (inlineJob 0x62 basePoint 0)).atWork 1 0x62 (inlineJob 0x62 basePoint 0) (Dev.working keyed (inlineJob 0x62 basePoint 0)) ∧
    (Dev.working keyed (inlineJob 0x63 [] 0)).atWork 1 0x63 (inlineJob 0x63 [] 0) (Dev.working keyed (inlineJob 0x63 [] 0)) ∧
    (let x := slotJob 0x68 6 5 0 basePoint [] []
     (Dev.working keyed x).atWork 1 0x68 x (Dev.working keyed x) ∧ (Dev.working keyed x).keyOfA x = some basePoint) :=
  ⟨by decide +kernel, atWork_of _ _ _ keyed_slots.1 rfl rfl rfl (by decide +kernel), falcon_bad,
    atWork_of _ _ _ keyed_slots.1 rfl rfl rfl (by decide +kernel), atWork_of _ _ _ keyed_slots.1 rfl rfl rfl (by decide +kernel), atWork_of _ _ _ keyed_slots.1 rfl rfl rfl (by decide +kernel),
    slotJob_ready _ _ _ _ _ _ _ rfl rfl (by decide +kernel) keyed_slots.2.2.1 (by decide +kernel)⟩

/-- A format-4 PIN block of PIN 1234, and the PAN field of 12 digits. -/
def pinPlain : List Byte := [0x44, 0x12, 0x34, 0xAA, 0xAA, 0xAA, 0xAA, 0xAA, 1, 2, 3, 4, 5, 6, 7, 8]
def panOnes : List Byte := (panField (List.replicate 12 0x31)).getD []

/-- The block under a key, and a job that translates it to the same key. -/
def pinBlock (k : List Byte) : List Byte := aesEnc k (xorBytes (aesEnc k pinPlain) panOnes)
def pinJob : Job :=
  { slotJob 0x50 5 9 16 (List.replicate 16 7) (pinBlock (List.replicate 16 7)) (List.replicate 12 0x31) with
    blobB := keyed.makeBlob 0 5 1 9 (aKey 9 16) (List.replicate 16 7),
    desc := leBytes 28 0x50 ++ leBytes 4 5 ++ leBytes 2 1 ++ leBytes 2 0 ++ leBytes 4 5 ++ leBytes 2 1 ++ leBytes 22 0 }

theorem pin_translates (k b r : List Byte) (hk : k.length = 16) : (pinTranslation k b panOnes (pinBlock k) r).isSome = true := by
  have hp : pinPlain.length = 16 := rfl
  have hq : panOnes.length = 16 := by decide +kernel
  obtain ⟨e1, e2⟩ := aesDec_aesEnc 4 k pinPlain (by omega) (by omega) hp
  obtain ⟨-, e3⟩ := aesDec_aesEnc 4 k (xorBytes (aesEnc k pinPlain) panOnes) (by omega) (by omega) ((length_xorBytes _ _).trans (by rw [e1, hq]; exact Nat.min_self 16))
  have e4 : aesDec k (xorBytes (aesDec k (pinBlock k)) panOnes) = pinPlain := by
    rw [pinBlock, e3, xorBytes_twice _ _ (Nat.le_of_eq (e1.trans hq.symm)), e2]
  simp only [pinTranslation, e4]
  have hg : pinGood pinPlain = true := by decide +kernel
  rw [if_pos hg]; rfl

theorem witness_pin :
    descOpcode pinJob.desc = 0x50 ∧ descKeyA pinJob.desc = 5 ∧ descKeyB pinJob.desc = 5 ∧ descGenB pinJob.desc = 1 ∧
    panField pinJob.aux = some panOnes ∧ (pinTranslation (List.replicate 16 7) (List.replicate 16 7) panOnes pinJob.input pinJob.rand).isSome = true ∧
    (Dev.working keyed pinJob).atWork 1 0x50 pinJob (Dev.working keyed pinJob) ∧
    (Dev.working keyed pinJob).keyOfA pinJob = some (List.replicate 16 7) ∧ (Dev.working keyed pinJob).keyOfB pinJob = some (List.replicate 16 7) := by
  have ha : descKeyA pinJob.desc = 5 := by decide +kernel
  refine ⟨by decide +kernel, ha, by decide +kernel, by decide +kernel, by decide +kernel, pin_translates _ _ _ rfl, ?_, ?_, ?_⟩
  · exact atWork_of _ _ _ keyed_slots.1 (by decide +kernel) (by decide +kernel) (by decide +kernel) (by decide +kernel)
  · exact keyOfA_of _ _ (aKey 9 16) _ rfl (by decide +kernel) (by rw [ha]; exact keyed_slots.2.1)
      (by rw [ha]; dsimp only [pinJob, slotJob, jobOf]; rfl) (by decide +kernel) keyed_kek
  · have hb : pinJob.blobB = keyed.makeBlob 0 5 1 (aKey 9 16).type (aKey 9 16) (List.replicate 16 7) := by dsimp only [pinJob]; rfl
    have hw : ∀ (d : Dev) (x : Job) (h : Nat), (Dev.working d x).keyAt h = d.keyAt h := fun _ _ _ => rfl
    have hk : (Dev.working keyed pinJob).keyAt 5 = aKey 9 16 := (hw _ _ _).trans keyed_slots.2.1
    have ho : ∀ (d : Dev) (x : Job) (h g : Nat) (k : KeyDesc) (b : List Byte), (Dev.working d x).openBlob 0 h g k b = d.openBlob 0 h g k b :=
      fun _ _ _ _ _ _ => rfl
    rw [Dev.keyOfB, show descKeyB pinJob.desc = 5 by decide +kernel, show descGenB pinJob.desc = 1 by decide +kernel, hk, hb,
      show pinJob.slot = some (0, 0) by decide +kernel]
    refine (ho _ _ _ _ _ _).trans ?_
    exact keyed.openBlob_makeBlob 0 5 1 (aKey 9 16) _ keyed_kek rfl

/-- A key without a blob does not unwrap. -/
theorem witness_badBlob :
    (let x := { slotJob 0x68 6 5 0 basePoint [] [] with blobA := [] }
     (Dev.working keyed x).atWork 1 0x68 x (Dev.working keyed x) ∧ (Dev.working keyed x).keyOfA x = none) ∧
    (let x := { pinJob with blobA := [] }
     (Dev.working keyed x).atWork 1 0x50 x (Dev.working keyed x) ∧ (Dev.working keyed x).keyOfA x = none ∧
       ((Dev.working keyed x).keyOfB x).isSome = true) := by
  refine ⟨⟨atWork_of _ _ _ keyed_slots.1 rfl rfl rfl (by decide +kernel), by decide +kernel⟩,
    atWork_of _ _ _ keyed_slots.1 (by decide +kernel) (by decide +kernel) (by decide +kernel) (by decide +kernel), by decide +kernel, ?_⟩
  have hb : ∀ (d : Dev) (x : Job) (b : List Byte),
      (Dev.working d { x with blobA := b }).keyOfB { x with blobA := b } = (Dev.working d x).keyOfB x := fun _ _ _ => rfl
  rw [hb, witness_pin.2.2.2.2.2.2.2.2]
  rfl

/-- A PIN block of zeros under a key whose plain text is not a PIN block: a plain PIN field that is no digit field. -/
theorem witness_pin_bad (k b r : List Byte) (hk : k.length = 16) :
    pinTranslation k b panOnes (aesEnc k (xorBytes (aesEnc k (zeros 16)) panOnes)) r = none := by
  have hq : panOnes.length = 16 := by decide +kernel
  obtain ⟨e1, e2⟩ := aesDec_aesEnc 4 k (zeros 16) (by omega) (by omega) (by decide)
  obtain ⟨-, e3⟩ := aesDec_aesEnc 4 k (xorBytes (aesEnc k (zeros 16)) panOnes) (by omega) (by omega) ((length_xorBytes _ _).trans (by rw [e1, hq]; exact Nat.min_self 16))
  have e4 : aesDec k (xorBytes (aesDec k (aesEnc k (xorBytes (aesEnc k (zeros 16)) panOnes))) panOnes) = zeros 16 := by
    rw [e3, xorBytes_twice _ _ (Nat.le_of_eq (e1.trans hq.symm)), e2]
  simp only [pinTranslation, e4]
  rw [if_neg (by decide +kernel)]

/-- The key store has started, with slot 5 in a state and its command register selecting it. -/
def keyStore (st : Nat) : Dev :=
  { (put [(rArraySelectAt 0x7100 tan, 5), (rInstKeyBase 0, 5), (rInstKeyCount 0, 1)] (keyed.keyPut 5 { aKey 9 16 with state := st })) with
    ks := { keyed.ks with started := true } }

theorem witness_keyCheck :
    (let x := { jobOf 0x40 0 5 16 [] [] [] with phase := phKey }
     let d := { keyStore ksActive with jobs := [(1, x)] }
     x.phase = phKey ∧ d.instClass x.inst = 1 ∧ stNamesA x.desc = true) ∧
    (let x := { jobOf 0x30 0 0 16 [] [] [] with phase := phKey }
     let d := { keyStore ksActive with jobs := [(1, x)] }
     (d.keyPhase x.inst x.desc).1.status = 0) ∧
    (let x := { jobOf 0x40 0 6 16 [] [] [] with phase := phKey }
     let d := { keyStore ksActive with jobs := [(1, x)] }
     stNamesA x.desc = true ∧ d.keyInRange x.inst (descKeyA x.desc) = false ∧ (d.keyPhase x.inst x.desc).1.status ≠ 0) := by decide +kernel

theorem witness_keyCommands :
    ∀ st ∈ [ksActive, ksSuspended, ksEmpty],
      (keyStore st).keySelected tan = 5 ∧ (((keyStore st).heard tan).keyFetch 5).1.state = st ∧ (keyStore st).ks.started = true ∧
      (keyStore st).get (rKsCommand 5) ≠ cmdRunning ∧ (keyStore st).admits tan 0x7101 0x0D 1 = true ∧
      (keyStore st).admits tan 0x7101 0x0D 2 = true ∧ (keyStore st).admits tan 0x7101 0x0D 3 = true := by decide +kernel

theorem witness_keySlots :
    ((keyStore ksErasing).ks.started = true ∧ ((keyStore ksErasing).keyAt 5).state = ksErasing ∧ (keyStore ksErasing).keyHeld 5 = false) ∧
    (5 = (keyStore ksEmpty).keySelected tan ∧ (((keyStore ksEmpty).heard tan).keyFetch 5).1.state = ksEmpty ∧
      (keyStore ksEmpty).admits tan 0x7101 0x06 (2 ^ 64 - 1) = true ∧ (keyStore ksEmpty).admits tan 0x7101 0x07 7 = true ∧
      (keyStore ksEmpty).admits tan 0x7101 0x09 1 = true ∧ (keyStore ksEmpty).admits tan 0x7101 0x08 0x1000 = true ∧ 0x1000 &&& 0x7000 ≠ 0) ∧
    (let d := { keyStore ksEmpty with attKeys := [] }
     d.admits tan 0x7101 0x0D 4 = true ∧ d.boot.mgmtDown = false ∧ d.mgmtChoose true = none) ∧
    (let d := keyStore ksEmpty
     d.admits tan 0x7101 0x0D 4 = true ∧ d.boot.mgmtDown = false ∧ d.get (rKsCommand 5) ≠ cmdRunning ∧ d.secureDown = false ∧
       (d.mgmtChoose true).isSome = true ∧ imageBad (d.dom (domKsImage 5) []) = true) := by decide +kernel

/-- An AES key in two components arrives: the first of them, for a slot that allows its type. -/
def importing : Dev :=
  ((keyStore ksEmpty).keyPut 5 { aKey 0 0 with state := ksEmpty, typeMask := 0x200, usageMask := 0x10, blobCap := 16 }).setDom (domKsImage 5)
    ([2, 9, 0x10, 0] ++ zeros 12 ++ List.replicate 16 7)

theorem witness_import :
    (importing.admits tan 0x7101 0x0D 4 = true ∧ imageBad (importing.dom (domKsImage 5) []) = false ∧
      byteAt (importing.dom (domKsImage 5) []) 0 = 2 ∧
      importing.ks.started = true ∧ importing.get (rKsCommand 5) ≠ cmdRunning ∧ importing.secureDown = false ∧
      (importing.mgmtChoose true).isSome = true ∧
      (let r := (importing.heard tan).keyFetch 5
       r.2.importError r.1 (importing.dom (domKsImage 5) []) = 0 ∧
         (((r.2.keyPut 5 { r.1 with state := ksPending }).claimKey 5 r.1.state).mgmtAdd (.import_ 5) (importing.dom (domKsImage 5) []) false 0).isSome
           = true)) ∧
    (let w : MgmtWork := ⟨.import_ 5, 0, [], false, none, 0, [], 0, 0⟩
     let d := { keyStore ksEmpty with mgmt := [w] }
     d.mgmtFront 0 = some w ∧ w.seq = none ∧ d.mgmtUsable 0 true = true) := by decide +kernel

theorem witness_ksStart :
    (let d := { keyStore ksEmpty with ks := { keyed.ks with started := false } }
     d.admits tan 0x7060 0x05 1 = true ∧ d.ks.started = false ∧ d.ksStartOk = false) ∧ (keyStore ksEmpty).ks.started = true := by decide +kernel

/-- A bank image at 0x60_0000 of one profile, one class, and one state, which takes every byte but 'B' and accepts at the end; its emitter gives "OK". -/
def bankImage : List Byte :=
  bankMagic ++ leBytes 4 7 ++ [1, 1, 1, 0] ++ leBytes 2 1 ++ leBytes 2 0 ++ leBytes 4 320 ++ leBytes 4 576 ++ leBytes 4 4672 ++ leBytes 4 4944 ++
    leBytes 4 4944 ++ leBytes 2 0 ++ leBytes 2 2 ++ leBytes 4 4944 ++ leBytes 4 4976 ++ leBytes 4 2 ++ leBytes 4 4978 ++ zeros 8 ++
    zeros 256 ++ zeros 0x42 ++ [0x80] ++ zeros 0xBD ++ zeros 4096 ++ ([0, 0, 0, 0] ++ [1, 0, 0, 0] ++ zeros 248 ++ [7, 0, 0, 0]) ++ zeros 12 ++
    ([1, 0, 0, 0] ++ leBytes 4 0 ++ leBytes 8 2) ++ zeros 16 ++ [0x4F, 0x4B]

/-- The package with that image as the active side of bank 3. -/
def banked : Dev :=
  let d := put [(rElbSide0Base 3, 0x60_0000), (rElbSide0State 3, 2), (rElBankMask 0, 8)] (inst0 2 instActive)
  { d with mem := (bankImage.zipIdx.map (fun x => (0x60_0000 + x.2, x.1))).filter (fun c => c.2 != 0) }
def bankLines : List Nat := (List.range 78).map (fun i => 0x60_0000 + 64 * i)
def trDesc (op : Nat) : List Byte := leBytes 2 op ++ leBytes 2 9 ++ leBytes 20 1 ++ leBytes 4 16 ++ leBytes 4 3 ++ zeros 32

/-- A job of one byte that is bound to the bank, with every line of the image at hand. -/
def trJob (op : Nat) (c : Byte) : Job := { jobOf op 0 0 0 [] [c] [] with desc := trDesc op, bank := some (3, 0), slot := some (64, 0), seen := bankLines }

/-- The run of a job ends with this status, and a line that is not at hand stops it. -/
theorem witness_electrum :
    (match banked.elRun (trJob 1 0x42) with
      | .error (.fail f) => [f.status, f.stage]
      | _ => []) = [jsIllegalClass, 1] ∧
    (let x := trJob 1 0x42
     x.phase = phExecute ∧ x.opDone = false ∧ x.bank = some (3, 0) ∧ descOpcode x.desc = 1) ∧
    (let x := { trJob 2 0x41 with bank := none, desc := leBytes 64 2 }
     x.phase = phExecute ∧ x.opDone = false ∧ x.bank = none ∧ descOpcode x.desc = 2 ∧ bitAt (banked.get (rElBankMask x.inst)) (descBank x.desc) = false) ∧
    (let x := { trJob 1 0x41 with seen := [] }
     banked.elMiss x = some 0x60_0040) ∧
    (let x := { trJob 0 0x41 with phase := phDispatch }
     let d := ({ banked with jobs := [(1, x)] }).setInst 0 { Inst.reset with queue := [1] }
     d.job 1 = some x ∧ d.instClass x.inst = 2 ∧ descOpcode x.desc = 0 ∧ x.target = none ∧ d.jobReady x.inst 1 = true) := by decide +kernel

theorem witness_banks :
    (let d := put [(rElbSide1State 63, 1)] (put [(rElbSide0State 63, 2)] banked)
     63 < 64 ∧ d.admits tan (0x7220 + 63) 0x05 1 = true ∧ d.get (rElbCommand 63) ≠ cmdRunning ∧ d.sideState 63 1 < 2 ∧
       d.admits tan (0x7220 + 63) 0x05 2 = true ∧ d.admits tan (0x7220 + 63) 0x05 3 = true ∧ d.sideState 63 1 = 1 ∧ d.sideState 63 (1 - 1) = 2 ∧
       d.admits tan (0x7220 + 63) 0x05 4 = true ∧ d.sideState 63 0 = 2 ∧ d.admits tan (0x7220 + 63) 0x05 5 = true) ∧
    (let d := put [(rElbSide1State 0, 2)] (put [(rElbSide0State 0, 1)] banked)
     d.sideState 0 0 = 1 ∧ d.sideState 0 1 = 2 ∧ d.sideState 0 0 < 2) ∧
    (let d := banked.setSide 63 1 ⟨0, 0, true, false, 0⟩
     (d.side 63 1).loading = true ∧ d.loadError (d.sideBase 63 1) = 1) ∧
    (let d := banked.setSide 63 1 ⟨0, 0, false, true, 0⟩
     (d.side 63 1).unloading = true ∧ d.sideFree 63 1 = true) := by decide +kernel
/-- A bound job misses a line that is not at hand. -/
theorem witness_electrum_miss :
    (({ banked with jobs := [(1, { trJob 1 0x41 with seen := [] })] }).missing 64 0 0x60_0040).isSome = true := by decide +kernel

/-- Regions for the key store: five MiB-aligned pieces of HBM under one Tantalum range. -/
def regions : Dev :=
  put [(rKsLocked, 1), (rKsDescBase, 0x1000_0000), (rKsBlobBase, 0x2000_0000), (rKsBlobSize, 0x100_0000), (rJnRingBase 0, 0x3000_0000),
    (rJnRingBase 1, 0x4000_0000), (rJnRingBase 2, 0x5000_0000), (rJnRingBase 3, 0x6000_0000), (rCkRingBase, 0x7000_0000),
    (rWrEnable 1, 1), (rWrBase 1, 0x1000_0000), (rWrLimit 1, 0xFFFF_FFFF), (rWrOwner 1, 1)] secured

theorem witness_ksStartOk : regions.admits tan 0x7060 0x05 1 = true ∧ regions.ks.started = false ∧ regions.ksStartOk = true := by decide +kernel

/-- Base die 3's journal has a record that waits. -/
def recorded (issued : Bool) : Dev :=
  ({ put [(rJnState 3, 1)] secured with clock := late.clock }).setJournal 3 { Journal.reset with staged := [⟨0, zeros 128, issued, []⟩] }

def awaits_ : Job := { jobOf 0x30 0 0 32 [] [] [] with phase := phJournal, journal := some (3, 0) }

theorem witness_journals :
    (3 < 4 ∧ ((recorded false).jnNext 3).isSome = true) ∧
    ((recorded true).journal 3).staged = [⟨0, zeros 128, true, []⟩] ∧ (recorded true).jobOf 3 0 = none ∧ (recorded true).mgmtOf 3 0 = none ∧
    (let d := { recorded true with jobs := [(1, awaits_)] }
     d.jobOf 3 0 = some (1, awaits_) ∧ d.job 1 = some awaits_ ∧ awaits_.deadline ≤ d.now ∧ awaits_.target = none) ∧
    (recorded true).get (rJnState 3) ≠ 2 := by decide +kernel

/-- The key store has started; a checkpoint is due, and there is one before it. -/
def checkpointing : Dev :=
  { put [(rCkNumber, 1), (rCkTimeInterval, 1)] secured with ks := { secured.ks with started := true }, clock := late.clock }

theorem witness_checkpoints :
    (let d := { put [(rTkState, 0)] checkpointing with ks := checkpointing.ks }
     d.ks.started = true ∧ d.ckBusy = false ∧ d.ck.lastTime + d.get rCkTimeInterval * 1000000 ≤ d.now ∧ d.secureDown = true ∧
       d.get rCkCommand ≠ cmdRunning) ∧
    (let d := checkpointing
     d.secureDown = false ∧ d.get rCkNumber - d.ck.freed < d.ckSize ∧ d.get rCkNumber ≠ 0 ∧ d.ck.wasDown = false ∧
       (d.mgmtChoose (MgmtKind.checkpoint 2).journaled).isSome = true) ∧
    (let d := { checkpointing with mgmt := [⟨.checkpoint 2, 0, [], false, none, 0, [], 0, 0⟩] }
     d.admits tan 0x706C 0x05 1 = true ∧ d.boot.mgmtDown = false ∧ d.ckBusy = true ∧ d.mgmtRuns 0 MgmtKind.isCheckpoint = true ∧
       (d.mgmtFront 0).isSome = true ∧ (d.drbgDraw 0 72).isSome = true) := by decide +kernel

/-- Instance 0 reads out the journal of base die 3, which has `n` unread records. -/
def reads (op phase n : Nat) : Dev :=
  { ((put [(rInstClass 0, 4), (rJrSource 0, 3), (rJnFill 3, n), (rJnNextSeq 3, n)] secured).setInst 0 { Inst.reset with queue := [1] }).setJournal 3
      { Journal.reset with ringSeq := if n = 0 then none else some (n - 1) } with
    jobs := [(1, { jobOf op 0 0 5 [] [] [] with phase := phase, slot := none })] }

theorem witness_readout :
    (reads 0 phDispatch 0).readoutReady 1 0 = true ∧
    ((reads 1 phDispatch 2).readoutReady 1 1 = true ∧ (reads 1 phDispatch 2).firstRead 1 = true ∧ (reads 1 phDispatch 2).jrUnread 3 ≠ 0) ∧
    ((reads 1 phDispatch 0).readoutReady 1 1 = true ∧ (reads 1 phDispatch 0).jrUnread 3 = 0 ∧ descOpData (descOf 1 0 0 5) % 2 ^ 32 ≠ 0) ∧
    ((reads 1 phExecute 0).readWaits 1 = true ∧ (jobOf 1 0 0 5 [] [] []).deadline ≤ (reads 1 phExecute 0).now) := by decide +kernel

/-- A DEFLATE job on a stream of its own. -/
def dfJob (op : Nat) (input : List Byte) : Job :=
  { jobOf op 0 0 0 [] input [] with desc := leBytes 28 op ++ leBytes 4 0 ++ leBytes 32 0, slot := some (80, 0) }

theorem witness_deflate :
    (let x := { dfJob 0 [] with phase := phDispatch }
     let d := ({ inst0 3 instActive with jobs := [(1, x)] }).setInst 0 { Inst.reset with queue := [1] }
     d.job 1 = some x ∧ d.instClass x.inst = 3 ∧ descOpcode x.desc = 0 ∧ x.target = none ∧ d.jobReady x.inst 1 = true) ∧
    (∀ op ∈ [1, 2],
      let x := { dfJob op [0x41] with desc := leBytes 28 op ++ leBytes 4 0x0003_0301 ++ leBytes 32 0 }
      let d := { inst0 3 instActive with jobs := [(1, x)] }
      d.job 1 = some x ∧ d.instClass x.inst = 3 ∧ x.phase = phExecute ∧ x.opDone = false ∧ descOpcode x.desc = op ∧ (d.dfStream x).isSome = true ∧
        dfSingle x.desc = true) ∧
    (∀ op ∈ [1, 2],
      let x := dfJob op [0x41]
      (inst0 3 instActive).dfStream x = none ∧ descOpcode x.desc = op) := by decide +kernel

/-- Core 1 runs the hart `h`. -/
def withHart (h : Hart) : Dev := (units [(.core 1, stActive)] secured).setHart 1 { h with running := true }

/-- A hart in M that owns the line at 0x20_0000, filled with 5s. -/
def owner : Hart := { Hart.reset with l2 := [(0x20_0000, ⟨.m, BitVec.ofNat 512 (leNat (List.replicate 64 5)), false, none, false, []⟩)] }

/-- An access of hart 1 to a register number at an address. -/
def acc (reg va size : Nat) : HartAccess := ⟨1, reg, BitVec.ofNat 64 va, size, true, 4⟩

/-- A buffered store of eight bytes. -/
def stored (pa pbmt : Nat) : StoreEntry := ⟨pa, 8, 7, false, .tantalum, .plain, 0, 0, pbmt⟩

/-- The bare translation of M gives the address itself. -/
theorem witness_loads :
    (let d := withHart owner
     let a := acc 31 0x20_003F 1
     (accessOk a = true ∧ d.ready a.hart = true ∧ (d.hart a.hart).regClosed a.reg = false) ∧ (d.region 0x20_003F).isMemory = true ∧
       firstPart a.va.toNat a.size = none ∧ (d.reach a.hart a.va.toNat .load false).1 = .ok 0x20_003F 0 0 ∧
       ((d.reach a.hart a.va.toNat .load false).2.hart 1).forwarded 0x20_003F a.size = none ∧ d.pointer a = a ∧ (d.hart 1).storeOnWay 0x20_003F a.size = false ∧
       (d.hart 1).refused (lineAddr 0x20_003F) .inst = false ∧ ((d.hart 1).line (lineAddr 0x20_003F)).mark = false ∧
       ((d.hart 1).line (lineAddr 0x20_003F)).state.readable = true) ∧
    (let d := withHart { owner with sbuf := [stored 0x20_0038 0] }
     (d.hart 1).forwarded 0x20_003C 4 = some (.value 0)) ∧
    (let d := withHart owner
     let a := acc 0 0x20_000C 8
     firstPart a.va.toNat a.size = some 4 ∧ (d.hart 1).half = none ∧ (d.reach 1 a.va.toNat .load false).1 = .ok 0x20_000C 0 0 ∧
       (d.reach 1 (a.va.toNat + 4) .load false).1 = .ok 0x20_0010 0 0 ∧ (d.hart 1).forwarded 0x20_0010 4 = none) ∧
    (let d := withHart { owner with half := some 9 }
     (d.hart 1).half = some 9) := by decide +kernel

/-- A hart in S with Sv48, every address open to it, and a page under NC in its data TLB; its home has answered a read of the line. -/
def ncPage : TlbEntry := ⟨false, false, 0, 0, true, 0x4000_0000, 12, 0x20_0000, true, true, false, false, true, true, true, 1, 0⟩
def sRegs : List (Nat × Word) := [(0x180, BitVec.ofNat 64 (9 * 2 ^ 60)), (0x3A0, 0x1F), (0x3B0, 0x3F_FFFF_FFFF_FFFF), (0x7C0, 1)]
def paged : Hart := { Hart.reset with priv := .s, csrs := sRegs, dtlb := [ncPage], homeDone := [⟨0x20_0000, false, true, 5⟩, ⟨0x20_0000, true, true, 0⟩] }

theorem witness_loads_nc :
    let d := withHart paged
    let a := acc 5 0x4000_0004 4
    (accessOk a = true ∧ d.ready a.hart = true ∧ (d.hart a.hart).regClosed a.reg = false) ∧ firstPart a.va.toNat a.size = none ∧
      (d.reach 1 a.va.toNat .load false).1 = .ok 0x20_0004 1 0 ∧ 1 ≠ 0 ∧ (d.hart 1).sbuf = [] ∧
      ((d.hart 1).line (lineAddr 0x20_0004)).state = .i ∧
      (d.hart 1).refused (lineAddr 0x20_0004) .inst = false ∧ (d.hart 1).storeOnWay 0x20_0004 4 = false ∧
      (d.hart 1).homeDone.find? (fun x => x.line = lineAddr 0x20_0004 && x.store = false) = some ⟨lineAddr 0x20_0004, false, true, 5⟩ := by decide +kernel

/-- A load of INST_STATUS of instance 0, whose request has its grant. -/
def ioAccess_ : HartAccess := acc 5 (mmioBase 0 + 8) 4
def ioReady : Dev := { withHart owner with fab := { secured.fab with net := [.ioLoad ioAccess_] } }
def loadingHart (x : IoLoadState) : Dev := withHart { owner with ioLoad := some x }
def ioWait : IoLoadState := ⟨9, mmioBase 0 + 8, 8, 31, false, 4, 0, false, .tantalum, none, .plain⟩

theorem witness_ioLoads :
    (let a := ioAccess_
     ioReady.ready a.hart = true ∧ (ioReady.reach 1 a.va.toNat .load false).1 = .ok (mmioBase 0 + 8) 0 0 ∧
       (ioReady.region (mmioBase 0 + 8)).isMemory = false ∧ (mmioBase 0 + 8) % a.size = 0 ∧ (ioReady.hart 1).drained = true ∧
       (ioReady.hart 1).accepted (ioReady.ioDest (mmioBase 0 + 8)) 6 = true ∧ ioReady.granted (.ioLoad a) = true ∧
       ioReady.ioAnswer (mmioBase 0 + 8) a.size .plain (ioReady.hart 1).world = some .ok ∧ ioReady.ioPlace (mmioBase 0 + 8) = .page 0 8) ∧
    (((loadingHart ioWait).hart 1).loading 9 = some ioWait ∧ ioWait.answer = none ∧ ioWait.size = 8 ∧ ioWait.reg < 32 ∧
      (loadingHart ioWait).unit (.core 1) = stActive) ∧
    (let x : NonPosted := ⟨9, mmioBase 0 + 8, 4, .tantalum, none, .plain, none, false⟩
     let d := withHart { owner with tracker := [x] }
     (d.hart 1).loading 9 = none ∧ (d.hart 1).tracked 9 = some x ∧ x.answer = none ∧
       (match d.ioPlace x.pa with | .port _ _ => false | _ => true) = true) ∧
    (let x : Acceptance := ⟨9, 1001, 6, 50000⟩
     let d := { withHart { owner with accepts := [x] } with clock := late.clock }
     (d.hart 1).accepts = x :: [] ∧ x.dest = 1001 ∧ x.deadline ≤ d.now) := by decide +kernel

theorem witness_stores :
    (let d := withHart owner
     let a := acc 31 0x20_0FFF 1
     (accessOk a = true ∧ d.ready a.hart = true ∧ (d.hart a.hart).regClosed a.reg = false) ∧ firstPart a.va.toNat a.size = none ∧
       (d.reach 1 a.va.toNat .store false).1 = .ok 0x20_0FFF 0 0 ∧ (d.region 0x20_0FFF).isMemory = true ∧ (d.hart 1).sbuf.length < 64) ∧
    (let d := withHart owner
     let a := acc 31 0x20_0FFC 8
     firstPart a.va.toNat a.size = some 4 ∧ (d.reach 1 a.va.toNat .store false).1 = .ok 0x20_0FFC 0 0 ∧
       (d.reach 1 (a.va.toNat + 4) .store false).1 = .ok 0x20_1000 0 0 ∧ (d.region 0x20_1000).isMemory = true ∧ (d.hart 1).sbuf.length < 63) ∧
    (let d := withHart { owner with sbuf := [stored 0x20_0038 0] }
     (d.hart 1).sbuf = stored 0x20_0038 0 :: [] ∧ d.unit (.core 1) = stActive ∧ (stored 0x20_0038 0).io = false ∧
       (d.hart 1).refused (lineAddr 0x20_0038) .store = false ∧ (d.hart 1).tracker.any (fun x => x.home) = false ∧
       ((d.hart 1).line (lineAddr 0x20_0038)).state.owned = true) ∧
    (let d := withHart { paged with sbuf := [stored 0x20_0008 1] }
     (stored 0x20_0008 1).pbmt ≠ 0 ∧ ((d.hart 1).line (lineAddr 0x20_0008)).state = .i ∧
       ((d.hart 1).homeDone.find? (fun x => x.line = lineAddr 0x20_0008 && x.store = true)).isSome = true) ∧
    (let d := withHart { paged with sbuf := [stored 0x20_0008 2] }
     (stored 0x20_0008 2).pbmt = 2 ∧ ((d.hart 1).line (lineAddr 0x20_0008)).state = .i ∧ (d.hart 1).tracker.length < 32 ∧
       d.opOf 1 (lineAddr 0x20_0008) = none) ∧
    (let e : StoreEntry := ⟨mmioBase 0 + 8, 4, 7, true, .tantalum, .plain, 0, 0, 0⟩
     let d := { put [(rRgnEnable 3, 1), (rRgnBase 3, mmioBase 0), (rRgnLimit 3, mmioBase 0 + 0xFFF), (rRgnPosted 3, 1)]
       (withHart { owner with sbuf := [e] }) with fab := { secured.fab with net := [.storeBufferDrain 1 .none] } }
     e.io = true ∧ e.kind = .plain ∧ d.ioPosted e.pa = true ∧ (d.hart 1).accepted (d.ioDest e.pa) 5 = true ∧
       d.granted (.storeBufferDrain 1 .none) = true ∧ d.ioAnswer e.pa e.size .plain e.world = some .ok) := by decide +kernel

theorem witness_atomics :
    (let d := withHart { owner with resv := some 0x20_0000 }
     let a := acc 31 0x20_0038 8
     amoOk a = true ∧ d.ready 1 = true ∧ 31 < 32 ∧ a.va.toNat % a.size = 0 ∧ (d.hart 1).drained = true ∧ 0x20_0038 % 64 + a.size ≤ 64 ∧
       (d.reach 1 a.va.toNat .store true).1 = .ok 0x20_0038 0 0 ∧ (d.reach 1 a.va.toNat .store false).1 = .ok 0x20_0038 0 0 ∧
       (d.hart 1).resv = some (lineAddr 0x20_0038) ∧ ((withHart owner).hart 1).resv = none) ∧
    ((firstPart (acc 5 0x20_000C 8).va.toNat 8).isSome = true ∧ (acc 5 0x20_000C 8).va.toNat % 8 ≠ 0) ∧
    (let d := withHart { owner with homeDone := [⟨0x20_0000, false, true, 0⟩] }
     let a := acc 0 0x20_003F 1
     accessOk a = true ∧ d.ready 1 = true ∧ (d.hart 1).cboLegal .clean = .ok ∧ (d.hart 1).cboLegal .zero = .ok ∧
       (d.reach 1 (lineAddr a.va.toNat) .store false).1 = .ok 0x20_0000 0 0 ∧ 0x20_0000 % 64 = 0 ∧
       (d.reach 1 a.va.toNat .store false).1 = .ok 0x20_003F 0 0 ∧ (d.hart 1).drained = true ∧ (d.hart 1).refused 0x20_0000 .inst = false ∧
       ((d.hart 1).line 0x20_0000).state.owned = true ∧
       (d.hart 1).homeDone.find? (fun x => x.line = lineAddr 0x20_003F && x.store = false) = some ⟨0x20_0000, false, true, 0⟩) ∧
    (let p : FenceSet := ⟨false, false, true, true⟩
     let d := withHart { owner with sbuf := [stored 0x20_0038 0] }
     fenceEmpty p = false ∧ (d.hart 1).fenceDone p p = false ∧ ((withHart owner).hart 1).fenceDone p p = true ∧
       fenceEmpty ⟨false, false, false, false⟩ = true) ∧
    (let d := withHart { owner with wait := .fence ⟨false, false, true, true⟩ ⟨false, false, true, true⟩ }
     d.hartRuns 1 = true ∧ (d.hart 1).fenceFree = true) := by decide +kernel

theorem witness_calls :
    (let d := withHart nHart
     d.ready 1 = true ∧ (0x0020_000B < 2 ^ 32 ∧ 0x0020_000B % 128 = 0x0B ∧ 0x0020_000B ≠ wcallWord ∧ 0x0020_000B ≠ wretWord) ∧
       (d.hart 1).v = false ∧ (d.hart 1).wcallOk = true ∧ (d.hart 1).idle = true ∧ d.secureDown = false ∧
       delegates ((d.hart 1).csr 0x302) (d.hart 1).ecallCause = false ∧ (d.hart 1).priv ≠ .m) ∧
    (let d := withHart { nHart with wait := .wcall }
     d.hartRuns 1 = true ∧ (d.hart 1).wait = .wcall ∧ (d.hart 1).idle = true ∧ (put [(rTkState, 0)] d).secureDown = true) ∧
    ((withHart owner).ready 1 = true ∧ ((withHart owner).hart 1).priv = .m) ∧
    (let d := withHart { owner with wait := .wret, csrs := [(0x7C3, 5)] }
     d.hartRuns 1 = true ∧ (d.hart 1).wait = .wret ∧ (d.hart 1).idle = true ∧ d.scrubs ((d.hart 1).csr 0x7C3) = false ∧
       (put [(rScrubValid, 0x8000), (rScrubFid 15, 5)] d).scrubs ((d.hart 1).csr 0x7C3) = true) ∧
    (let d := withHart { owner with csrs := [(0x300, 8), (0x304, 0x2000), (0x344, 0x2000)] }
     d.interruptible 1 = true ∧ d.nextInterrupt 1 = some 13 ∧ d.trapTarget (d.hart 1) (interruptTrap 13) = .m) := by decide +kernel

theorem witness_errorLogs :
    (let d := put [(rDbgTanNonInvasive, 1)] (withHart { owner with csrs := sRegs ++ [(0x7C9, 21), (0x7CC, 0x10_0000)], sampleDue := [(10, .tantalum)] })
     d.ready 1 = true ∧ (d.hart 1).priv = .m ∧ bitAt (0x7FFF_FFFF_FFFF_FFFF : Word).toNat 63 = false ∧ bitAt (21 : Word).toNat 0 = true ∧
       3 ≤ field (21 : Word).toNat 1 4 ∧ field (21 : Word).toNat 1 4 ≤ 10 ∧ sampleOk (zeros 64) = true ∧ d.hartRuns 1 = true ∧
       (d.hart 1).sampled 10 = true ∧ (10, World.tantalum) ∈ (d.hart 1).sampleDue ∧
       ((d.setHart 1 { d.hart 1 with sampleDue := (d.hart 1).sampleDue.erase (10, .tantalum) }).sampleRefused 1 ((d.hart 1).csr 0x7CC)
         .tantalum).isNone = true) ∧
    ((withHart nHart).ready 1 = true ∧ ((withHart nHart).hart 1).priv ≠ .m) := by decide +kernel

theorem witness_msiReceive :
    (secured.isShadow 239 = false ∧ stateDropsMsi ((withHart owner).unit (.core 1)) = false ∧ 2047 < 2048) ∧
    stateDropsMsi ((units [(.core 239, stFenced)] secured).unit (.core 239)) = true := by decide +kernel

theorem witness_coreErrors :
    (let d := put [(rCoreModeActive 0, 1)] (withHart owner)
     2 % 2 = 0 ∧ (units [(.core 2, stActive)] d).pairMode 2 = true ∧ (units [(.core 2, stActive)] d).unit (.core 2) = stActive ∧
       d.unit (.die (2 / 20)) ≠ stQuiescing) ∧
    (withHart owner).hartRuns 1 = true ∧
    ((withHart owner).pairMode 1 = false ∧ stateLive ((withHart owner).unit (.core 1)) = true ∧ (withHart owner).unit (.die (1 / 20)) ≠ stQuiescing) := by
  decide +kernel

theorem witness_fences :
    (let d := withHart paged
     d.ready 1 = true ∧ (d.hart 1).sfenceLegal = .ok ∧ (d.hart 1).hfenceLegal false = .ok ∧ (d.hart 1).hfenceLegal true = .ok ∧
       (d.hart 1).svinvalLegal = .ok ∧ (d.hart 1).drained = true) ∧
    ((withHart { paged with sbuf := [stored 0x20_0008 0] }).hart 1).drained = false ∧
    (let d := withHart { paged with priv := .u }
     d.ready 1 = true ∧ (d.hart 1).sfenceLegal = .illegal) ∧
    (let d := withHart { paged with wait := .inval .gvma none (some 3) }
     d.hartRuns 1 = true ∧ (d.hart 1).drained = true ∧ (d.hart 1).walks = [] ∧ (d.hart 1).wait = .inval .gvma none (some 3)) ∧
    (let h := { paged with tlb := [ncPage, { ncPage with v := true }, { ncPage with gstage := true }] }
     ncPage ∈ h.tlb ∧ ncPage.g = true ∧ inScope ncPage none none = true) := by decide +kernel

/-- A walk of Sv48 at a level, whose PTE is at 0x20_0008. -/
def walkAt (level : Nat) : Walk :=
  { va := 0x4000_0000, access := .load, amo := false, priv := .s, v := false, vmid := 0, asid := 3, world := .tantalum, spec := false, mode := 9,
    gmode := 0, level := level, table := 0x200, global := false, gw := none, ptePa := some 0x20_0008, leaf := none, read := [], gleaves := [] }

/-- A hart that walks, with the line of the PTE in its L2. -/
def walks (pte level : Nat) : Dev :=
  withHart { paged with walks := [walkAt level], l2 := [(0x20_0000, ⟨.e, BitVec.ofNat 512 (pte * 2 ^ 64), false, none, false, []⟩)] }

theorem witness_walks :
    (let d := walks 0 3
     d.hartRuns 1 = true ∧ (d.hart 1).walks = [walkAt 3] ∧ (d.region 0x20_0008).isMemory = true ∧
       (d.hart 1).pmpPermits .s .load 0x20_0008 = true ∧ d.refusedBy .tantalum 0x20_0008 = none ∧
       (d.hart 1).refused (lineAddr 0x20_0008) .walk = false ∧ ((d.hart 1).line (lineAddr 0x20_0008)).mark = false ∧
       ((d.hart 1).line (lineAddr 0x20_0008)).state.readable = true ∧ pteBroken (d.lineValue 1 0x20_0008 8) 3 = true) ∧
    (let pte := 0x8_0001
     pteBroken ((walks pte 3).lineValue 1 0x20_0008 8) 3 = false ∧ field pte 1 3 = 0 ∧ 0 < 3) ∧
    (let pte := 0x8_0000 + 0xC7
     pteBroken ((walks pte 0).lineValue 1 0x20_0008 8) 0 = false ∧ field pte 1 3 ≠ 0 ∧ pteMisaligned pte 0 = false ∧
       ((walks pte 0).hart 1).ptePermits (walkAt 0) pte = true) := by decide +kernel

/-- A request of root port 0. -/
def ioReq (a : Nat) (write : Bool) : IommuReq := ⟨none, 0, 0x100, none, a, write, .normal, .untranslated⟩

theorem witness_iommu :
    (let d := put [(rBlkWorld 8, 0)] secured
     d.ioReqOk (ioReq 0x20_0000 true) = true ∧ d.ioSource (ioReq 0x20_0000 true) = (.normal, 0x100, none) ∧ d.shadowFile 0x20_0000 = false ∧
       d.iommu.queueOn ioFqcsr = false ∧ d.shadowFile (mmioBase 0 + 0x0277_8000) = false ∧ d.iommu.ddtMode = 1 ∧ d.refusedBy .normal 0x20_0000 = none ∧
       (d.region 0x20_0000).isMapped = true ∧ (d.region 0x20_0000).isMemory = true ∧ 0x20_0000 % 64 = 0 ∧
       (put [(rWrEnable 1, 1), (rWrOwner 1, 1), (rWrBase 1, 0x20_0000), (rWrLimit 1, 0x3F_FFFF)] d).refusedBy .normal 0x20_0000 = some 1 ∧
       (d.region (mmioBase 0 + 0x0277_8000)).isMapped = true ∧ d.region (mmioBase 0 + 0x0277_8000) = .mmio 0x0277_8000 ∧
       d.inboundOpen = false) ∧
    (let e : IotlbEntry := { (default : IotlbEntry) with device := 0x100, pasid := none, iova := 0x4000_0000, log := 12, pa := 0x20_0000, w := true }
     let d := { secured with iommu := { secured.iommu with ddtMode := 3, atc := [e] } }
     2 ≤ d.iommu.ddtMode ∧ d.iommu.atc.find? (fun e => e.device = 0x100 && e.pasid = none && 0x4000_0FFF / 2 ^ e.log = e.iova / 2 ^ e.log && (!true || e.w)) = some e ∧
       d.refusedBy .normal (e.pa + 0x4000_0FFF % 2 ^ e.log) = none ∧ (d.region (e.pa + 0x4000_0FFF % 2 ^ e.log)).isMapped = true ∧
       d.shadowFile (e.pa + 0x4000_0FFF % 2 ^ e.log) = false) := by decide +kernel

/-- The slice of the line 0x20_0000, and a request of core 1 for it. -/
def hline : Nat := 0x20_0000
def hreq : HomeReq := { agent := 1, line := hline, world := .tantalum, hint := 0, stream := 0 }

/-- Pewter serves, and holds the line. -/
def pewtered (dirty : Bool) : Dev :=
  let d := put [(rPwState, stActive), (rPwEnable, 1), (rMcState 0, stActive)] (units [(.core 1, stActive), (.core 21, stActive), (.die 1, stActive)] secured)
  { d with pewter := tabPut [] (d.pewterKey hline) ⟨hline, dirty, false, BitVec.ofNat 512 7⟩ }

/-- With a directory entry of the line. -/
def entried (e : DirEntry) (d : Dev) : Dev := d.dirPut e

theorem witness_homesGrant :
    (∀ k ∈ [TxnKind.shared false, .shared true, .own, .invWrite 5 true, .partialWrite 3 5, .fetchAdd 4 60 0xFFFF_FFFF, .swap 8 56 9, .fetchOr 8 0 9,
        .cas 16 48 0 9, .cas 8 0 7 9, .clean, .flush],
      let d := pewtered true
      (d.reqOk hreq = true ∧ hreq.agent < 245 ∧ d.remoteHome hreq.line = none ∧ (d.homeRefusal hreq k).isNone = true ∧ atomicOk k = true ∧
        d.resv (d.homeSlice hreq.line) hreq.agent = none ∧ d.txn hreq.line = none ∧
        d.lineReserved (d.homeSlice hreq.line) hreq.line hreq.agent = false ∧ d.trackersBusy (d.homeSlice hreq.line) < 192 ∧
        d.dirEntry hreq.line = none ∧ d.setFull hreq.line = false)) ∧
    (let d := pewtered true
     hreq.agent < 240 ∧ d.filterEntry (hreq.agent / 20) hreq.line = none ∧ (d.filterSet (hreq.agent / 20) hreq.line).length < 12 ∧
       d.pewterServes = true ∧ d.pewterEntry hline = some ⟨hline, true, false, BitVec.ofNat 512 7⟩ ∧ d.lineLost hline = false) ∧
    lineField (BitVec.ofNat 512 7) 0 8 = 7 ∧ lineField (BitVec.ofNat 512 7) 48 16 = 0 := by decide +kernel

theorem witness_homesMaintain :
    (let d := pewtered true
     (d.place hline).isSome = true ∧ d.segLocked hline = false) ∧
    (let d := put [(rWrEnable 1, 1), (rWrOwner 1, 1), (rWrBase 1, 0x20_0000), (rWrLimit 1, 0x3F_FFFF)] (pewtered true)
     d.reqOk { hreq with world := .normal } = true ∧ d.remoteHome hline = none ∧
       (d.homeRefusal { hreq with world := .normal } (.invWrite 0 false)).isSome = true) ∧
    (let d := (pewtered true).addTxn (newTxn { hreq with agent := 21 } .own)
     (d.txn hline).isSome = true ∧ d.resv (d.homeSlice hline) 1 = none ∧ (d.homeRefusal hreq (.invWrite 0 false)).isNone = true) ∧
    (let e : DirEntry := ⟨hline, 1, 0, false, 2⟩
     let d := entried e (pewtered true)
     (d.homeRefusal hreq .own).isNone = true ∧ d.txn hline = none ∧ d.resv (d.homeSlice hline) 1 = none ∧
       d.lineReserved (d.homeSlice hline) hline 1 = false ∧ d.trackersBusy (d.homeSlice hline) < 192 ∧ d.dirEntry hline = some e ∧
       e.holders.testBit 1 = true ∧ stateGone (d.unit (.die 1)) = false ∧ d.filterEntry 0 hline = none ∧ (d.filterSet 0 hline).length < 12) := by
  decide +kernel

/-- A hart whose L2 has the line in a state. -/
def lined (st : L2State) : Dev := withHart { Hart.reset with l2 := [(hline, ⟨st, 9, false, some hreq, false, []⟩)] }

theorem witness_linesBetween :
    (let d := lined .is
     d.unit (.core 1) = stActive ∧ d.fromLost hline = false ∧ d.opOf 1 hline = none ∧ ((d.hart 1).line hline).state = .is ∧
       ((d.hart 1).line hline).state.waits = true) ∧
    (let d := { lined .i with fab := { (lined .i).fab with ops := [(1, hline, .readShared hreq true .none .none .none)] } }
     (d.opOf 1 hline).isSome = true ∧ hline % 64 = 0 ∧ d.storeWaits 1 hline = false) ∧
    ((lined .m).hart 1).line hline = ⟨.m, 9, false, some hreq, false, []⟩ ∧ ((lined .e).hart 1).line hline = ⟨.e, 9, false, some hreq, false, []⟩ ∧
    ((lined .ei).hart 1).line hline = ⟨.ei, 9, false, some hreq, false, []⟩ ∧ ((lined .mi).hart 1).line hline = ⟨.mi, 9, false, some hreq, false, []⟩ ∧
    (lined .m).filterLeaving 1 hline = false ∧ (lined .ei).unit (.core 1) = stActive ∧
    (let d := (lined .s).setFilter 0 hline [⟨hline, 2, false, 0⟩]
     d.filterEntry 0 hline = some ⟨hline, 2, false, 0⟩ ∧ (2 : Nat).testBit (1 % 20) = true ∧ ((d.hart 1).line hline).state = .s) := by decide +kernel

theorem witness_retriesAndPurge :
    (let l := (lined .is |>.hart 1).line hline
     l.req = some hreq ∧ (lined .is).opOf 1 hline = none ∧ (requestFor l.state hreq).isSome = true) ∧
    (let d := pewtered true
     let h := d.home 5
     let e := d.setHome 5 { h with resvs := [(1, ⟨hline, false, false⟩)] }
     e.resv 5 1 = some ⟨hline, false, false⟩ ∧ (e.arbitrate (arbReservation 5) 256 (e.resvReady 5)).1 = some 1) ∧
    (let e : DirEntry := ⟨hline, 2, 0, false, 1⟩
     let d := entried e (pewtered false)
     hline % 64 = 0 ∧ (d.region hline).isMemory = true ∧ d.remoteHome hline = none ∧ d.txn hline = none ∧ d.dirEntry hline = some e ∧
       d.pewterServes = true ∧ (d.pewterEntry hline).isSome = true ∧ e.owner = 1) ∧
    (let e : DirEntry := ⟨hline, 1, 0, false, 1⟩
     let d := entried e (pewtered false)
     d.dirEntry hline = some e ∧ d.filterEntry (1 / 20) hline = none) ∧
    (units [(.die 1, stFailed)] (pewtered false)).unit (.die 1) = stFailed := by decide +kernel

/-- A transaction of the line by core 1, open. -/
def opened (k : TxnKind) (f : Txn → Txn) : Dev := (pewtered false).addTxn (f (newTxn hreq k))

theorem witness_transactions :
    (∀ d ∈ [opened .own (fun x => { x with recalls := [2, 3] }), opened .own (fun x => { x with acks := [1, 2] }), opened .own (fun x => { x with acks := [1] }),
        opened .own (fun x => { x with grantee := some 1 }), opened .own (fun x => { x with memRead := true }),
        opened (.invWrite 3 false) (fun x => { x with memWrite := true })],
      (d.region hline).isMemory = true ∧ d.remoteHome hline = none ∧ (d.txn hline).map (fun x => x.req) = some hreq ∧ d.pewterServes = true ∧
        (d.pewterEntry hline).isSome = true ∧ d.lineLost hline = false) ∧
    (opened (.invWrite 3 false) (fun x => { x with memWrite := true })).writeInFlight hline = false := by decide +kernel

theorem witness_linesMore :
    ((lined .m).agentGone 1 = false ∧ stateGone ((lined .m).unit (.die 0)) = false) ∧
    (let d := { lined .i with fab := { (lined .i).fab with ops := [(1, hline, .partialWrite hreq 3 5 .none .none)] } }
     d.opOf 1 hline = some (.partialWrite hreq 3 5 .none .none) ∧ isStoreOp (.partialWrite hreq 3 5 .none .none) = true ∧
       isStoreOp (.readShared hreq true .none .none .none) = false) ∧
    (let e : DirEntry := ⟨hline, 1, 0, false, 1⟩
     let d := entried e (pewtered false)
     e.state = 1 ∧ ∀ x ∈ d.filterSet 0 hline, x.line = hline → bitClear x.presence 1 = 0) := by decide +kernel

theorem witness_pewter :
    (up.admits tan 0x5840 0x01 1 = true ∧ up.get rPwState = stOff) ∧
    ((pewtered true).admits tan 0x5840 0x01 0 = true ∧ (pewtered true).get rPwState = stActive ∧ (pewtered true).anySide = false) ∧
    (let d := put [(rPwState, stQuiescing)] (pewtered true)
     d.get rPwState = stQuiescing ∧ (d.pewter.map (fun e => e.1)).Nodup ∧ ∀ e ∈ d.pewter, (d.place e.2.line).isSome = true) ∧
    (let d := put [(rPwCmdBase tan, hline), (rPwCmdLength tan, 64)] (pewtered true)
     d.get rPwCommand ≠ cmdRunning ∧ d.get rPwState = stActive ∧ d.admits tan 0x5840 0x03 1 = true ∧ d.preloadDenied tan = false ∧ d.preloadRange tan = false) ∧
    (let d := put [(rPwCmdSlices nor, 2 ^ 31), (rPwCmdSegments nor, 2 ^ 63)] (pewtered true)
     (∀ code ∈ [2, 3, 4], d.admits nor 0x5840 0x03 code = true) ∧ d.segWorldDenied nor = false ∧ d.bankSelected nor = false ∧
       bitAt (d.get (rPwCmdSlices nor)) 31 = true ∧ bitAt (d.get (rPwCmdSegments nor)) 63 = true) ∧
    (let d := put [(rPwCommand, cmdRunning)] { pewtered true with pwJob := some (4, 2 ^ 31, 2 ^ 63) }
     d.get rPwCommand = cmdRunning ∧ d.pwJob = some (4, 2 ^ 31, 2 ^ 63) ∧ ∀ e ∈ d.pewter, (d.place e.2.line).isSome = true) ∧
    (let d := put [(rPwCommand, cmdRunning)] { pewtered true with pwJob := some (1, 0x40, 64) }
     d.get rPwCommand = cmdRunning ∧ d.pewterEntry 0x40 = none ∧ tabFind d.pewter (d.pewterKey 0x40) = none) ∧
    (let d := (pewtered true).setHome 31 { (pewtered true).home 31 with prefetches := [(0x40, true)] }
     (d.home 31).prefetches = [(0x40, true)] ∧
       .prefetchDataReturn 31 0x40 true ∈ ({ d with fab := { d.fab with net := [.prefetchDataReturn 31 0x40 true] } }).fab.net ∧
       (d.place 0x40).isSome = true ∧ (d.memView 0x40).2 = false ∧ d.pewterActive = true ∧ (d.home 31).sideBuf.length < 128) ∧
    (let n := (pewtered true).homeSlice hline
     let d := (put [(rPwScrubHours, 24)] (pewtered true)).setHome n { (pewtered true).home n with scrubPos := (pewtered true).pewterKey hline % 2 ^ 19 }
     d.get rPwScrubHours ≠ 0 ∧ n < 32 ∧ (d.pewterSlot n (d.home n).scrubPos).isSome = true ∧ (d.home n).scrubPos < 2 ^ 19) := by decide +kernel

/-- A flit between two dies. -/
def flitOf (src dest : Endpoint) (vn vc : Nat) : Flit := ⟨vn, vc, 0, dest, src, 1, 0, 5, .tantalum, 0x20_0000, 0⟩

/-- Every module in service. -/
def joined : Dev := (List.range 40).foldl (fun d c => d.setChan c { d.chan c with state := 5 }) secured

theorem witness_flits :
    (let f := flitOf ⟨12, 0⟩ ⟨13, 0⟩ 0 0
     routerHasPort 35 4 = true ∧ tabGet (joined.router 35).replaying 4 [] = [] ∧ f.kind ≠ 3 ∧
       ((List.range 160).any (fun n => match joined.hop n f with
          | .cross a => a < 80 && (joined.holdFor (routerMesh n).1 (a / 2) f).isNone
          | _ => false)) = true ∧ secured.hop 35 f = .lost ∧ tabGet (joined.router 35).fails 4 0 < 2) ∧
    (let f := flitOf ⟨12, 0⟩ ⟨13, 0⟩ 0 0
     let d := joined.setRouter 35 { joined.router 35 with replaying := [(4, [f])] }
     tabGet (d.router 35).replaying 4 [] ≠ [] ∧ (d.router 35).bypassed = false) ∧
    (let f := flitOf ⟨12, 0⟩ ⟨13, 0⟩ 5 0
     let h : OrderHold := ⟨[(0, f)], [], joined.routes⟩
     let d := { joined with fab := { joined.fab with held := [(0, h)] } }
     tabFind d.fab.held 0 = some h ∧ h.flits = [(0, f)] ∧ h.waits = [] ∧ d.crossing d.routes 0 f = some 0 ∧ (d.unheld 0).holdFor 0 0 f = none) := by
  decide +kernel

/-- A request that waits at injection point 255. -/
def injReq : InjReq := { (default : InjReq) with initiator := 7, cls := 1, flits := 2, msg := .wbAck 1 hline, timer := some (.hartLoad 1 9, 50) }

theorem witness_injection :
    (let d := { up with fab := { up.fab with injQ := [(255, [injReq])] } }
     (d.arbitrate (arbInjection 255) 4096 (fun i => (d.readyHead 255 i).isSome)).1 = some 7 ∧ d.readyHead 255 7 = some injReq) ∧
    (let x : IoLoadState := ⟨9, 0, 4, 5, true, 4, 0, false, .tantalum, none, .plain⟩
     let d := { withHart { owner with ioLoad := some x } with fab := { up.fab with reqs := [(3, ⟨.hartLoad 1 9, 0⟩)] } }
     tabFind d.fab.reqs 3 = some ⟨.hartLoad 1 9, 0⟩ ∧ 0 ≤ d.now ∧ ((d.hart 1).loading 9).isSome = true) := by decide +kernel

/-- Adapter 79 of a module in service, with two flits in its retry buffer. -/
def weladed (x : Adapter) : Dev := joined.setAdapter 79 x
def twoFlits : Adapter :=
  { (joined.adapter 79) with retry := [⟨4, flitOf ⟨12, 0⟩ ⟨16, 0⟩ 0 0, 0, false⟩, ⟨5, flitOf ⟨12, 0⟩ ⟨16, 0⟩ 1 0, 0, true⟩], due := [.nak 3] }

theorem witness_welade :
    ((weladed twoFlits).chan 39).state = 5 ∧ (weladed twoFlits).adapter 79 = twoFlits ∧ twoFlits.discarding = false ∧
    (weladed { twoFlits with discarding := true }).adapter 79 = { twoFlits with discarding := true } ∧
    (let d := { weladed { twoFlits with discarding := true } with clock := { joined.clock with root := 100000000 } }
     (d.adapter 79).nakSince + 64 ≤ d.fclk ∧ ((d.adapter 79).retry.head?.map (fun r => r.sent)).getD 0 + 512 ≤ d.fclk) ∧
    twoFlits.txq = [] ∧ twoFlits.retry.any (fun r => r.seq = 5) = true ∧ (List.replicate 32 0).length = 32 ∧
    twoFlits.replayRun + 1 < joined.get rSdReplayLimit ∧ joined.get rSdReplayLimit ≤ { twoFlits with replayRun := 7 }.replayRun + 1 := by
  decide +kernel

/-- Module 39 in a state, and the records that its ends exchange. -/
def module (st : Nat) : Dev := joined.setChan 39 { joined.chan 39 with state := st }
def capRec (e : Nat) : CapRecord := joined.ownRecord 39 e 0xFFFFFF

theorem witness_modules :
    ((module 2).chan 39).state = 2 ∧ ((module 2).chan 39).retrains < 3 ∧
    (let d := (module 3).setAdapter 79 { (module 3).adapter 79 with peerRec := some (capRec 0) }
     (d.chan 39).state = 3 ∧ (d.adapter 79).peerRec = some (capRec 0) ∧ (capRec 1).crcOk = true ∧ (d.adapter 78).txq = [] ∧ (d.adapter 79).txq = [] ∧
       d.exchangeCheck 39 (capRec 0) (capRec 1) = 0 ∧ d.exchangeCheck 39 (capRec 0) { capRec 1 with major := 2 } = 1 ∧
       d.exchangeCheck 39 (capRec 0) { capRec 1 with position := 9 } = 2 ∧ d.exchangeCheck 39 (capRec 0) { capRec 1 with dedicated := 1 } = 4 ∧
       (d.adapter 78).recFails < 3) ∧
    (let d := { module 3 with clock := { joined.clock with invar := 3000000, root := 36000000 } }
     (d.chan 39).state = 3 ∧ (d.chan 39).activeAt + 100000 ≤ d.now ∧ (d.chan 39).started + 2000000 ≤ d.now ∧ (d.chan 39).retrains < 3 ∧
       3 ≤ { (d.chan 39) with retrains := 3 }.retrains) ∧
    (∀ code ∈ [1, 2, 3], joined.admits tan (moduleIndex 39) 0x03 code = true) ∧ joined.hasFeature 1 = true ∧
    joined.get (rSdCommand 39) ≠ cmdRunning ∧ (joined.chan 39).state = 5 ∧ ((module 0).chan 39).state = 0 ∧ ((module 7).chan 39).state = 7 ∧
    (((module 6).chan 39).state = 6 ∧ ((module 6).adapter 78).retry = [] ∧ ((module 6).adapter 79).retry = [] ∧
      ((module 6).chan 39).drainEnd ≤ (module 6).now) ∧
    (let r : RetryFlit := ⟨4, flitOf ⟨12, 0⟩ ⟨16, 0⟩ 0 0, 0, false⟩
     let d := joined.setChan 39 { joined.chan 39 with state := 0, lostFlits := [(0, r), (0, { r with seq := 5 })] }
     chanEdge 38 = chanEdge 39 ∧ (d.chan 39).lostFlits = [(0, r), (0, { r with seq := 5 })] ∧ (d.chan 39).resyncEnd ≤ d.now ∧
       (edgeChans (chanEdge 39)).contains 39 = true ∧ (d.inService (chanEdge 39)).isEmpty = false) ∧
    (let r : RetryFlit := ⟨4, flitOf ⟨12, 0⟩ ⟨16, 0⟩ 0 0, 0, false⟩
     let r' : RetryFlit := { r with seq := 5, flit := flitOf ⟨15, 0⟩ ⟨16, 0⟩ 0 0 }
     let d := joined.setChan 39 { joined.chan 39 with state := 0, lostFlits := [(0, r), (0, r')] }
     chanEdge 36 = chanEdge 39 ∧ (edgeChans (chanEdge 39))[3]? = some 39 ∧ (d.chan 39).lostFlits = [(0, r), (0, r')] ∧
       d.crossing d.routes (endMesh 39 0) r'.flit = some 36 ∧ moduleEnd 36 (endMesh 39 0) = 0 ∧
       ∀ b ∈ edgeChans (chanEdge 39), b ≠ 39 → (d.chan b).lostFlits = []) := by decide +kernel

/-- Link 0 of a package of two, in a state. -/
def linked (st : Nat) : Dev := put [(rPkgCount, 2), (rHfState 0, st)] (secured.setHfLink 0 { secured.hfLink 0 with width := 0x10 })
/-- The record of its peer. -/
def peerRecord : HfRecord := { (linked 3).hfRecord 0 with package := 1 }

theorem witness_harfort :
    ((linked 2).get (rHfState 0) = 2 ∧ ((linked 2).hfPeer 0).isSome = true ∧ hfWidthOk 0x09 = true) ∧
    ((linked 3).get (rHfState 0) = 3 ∧ (linked 3).hfCheck 0 peerRecord = 0 ∧ (linked 3).hfCheck 0 { peerRecord with width := 8 } = 5 ∧
      (linked 3).hfCheck 0 { peerRecord with fenced := true } = 6 ∧ ((linked 3).hfLink 0).widthTries < 3) ∧
    (linked 5).hfUp 0 = true ∧ (∀ code ∈ [1, 2, 3], (linked 5).admits tan (0x6480 + 0) 0x04 code = true) ∧
    (linked 5).get (rHfCommand 0) ≠ cmdRunning ∧ (linked 0).hfEnableOk 0 = true ∧ (linked 7).hfEnableOk 0 = true ∧
    (let d := { (linked 0).setHfLink 0 { (linked 0).hfLink 0 with lostSince := some 0, unacked := [(1, flitOf ⟨12, 0⟩ ⟨16, 0⟩ 0 0, true)] } with
        clock := { secured.clock with invar := 20000, root := 240000 } }
     d.resendExpired 1 0 = true ∧ ∀ m < 4, m ≠ 0 → d.resendExpired 1 m = false) := by decide +kernel

/-- A package of two with no link in service since time 0, whose half holds no master. -/
def alone (master : Nat) : Dev :=
  let d := put [(rPkgCount, 2), (rPartMasterPkg, master)] secured
  { d with part := { d.part with lostAt := [(1, 0)], far := 7 }, clock := { d.clock with invar := 10 ^ 12, root := 12 * 10 ^ 12 } }

theorem witness_splits :
    (∀ d ∈ [alone 0, alone 1], d.get rPartState = 0 ∧ d.holdExpired = true ∧ d.part.far < 65536) ∧
    ((alone 0).get rPartMasterPkg < (alone 0).get rPkgCount ∧ bitAt (alone 0).reachMask ((alone 0).get rPartMasterPkg) = true) ∧
    ¬((alone 1).get rPartMasterPkg < (alone 1).get rPkgCount ∧ bitAt (alone 1).reachMask ((alone 1).get rPartMasterPkg) = true) ∧
    (let d := put [(rPartState, 1)] (alone 1)
     (∀ code ∈ [1, 2], d.admits tan 0x1208 0x03 code = true ∧ (alone 1).admits tan 0x1208 0x03 code = true) ∧ d.get rPartState = 1 ∧
       (alone 1).get rPartState ≠ 1 ∧ d.part.decideEnd ≤ d.now) := by decide +kernel

theorem witness_controllers :
    (let d := pewtered true
     (d.place hline).isSome = true ∧ hline % 64 = 0 ∧ d.mcTakes hline = true ∧ d.mcInOrder hline false = true ∧ d.mcInOrder hline true = true ∧
       (∀ p, d.place hline = some p → d.testLine p.mc hline = false ∧ d.get (rMcState p.mc) ≠ stFailed ∧
         (put [(rMcState p.mc, stFailed)] d).get (rMcState p.mc) = stFailed) ∧ d.memMark hline = false ∧
       { d with marks := [(hline, 1)] }.memMark hline = true ∧ Memory.wf d.mem = true ∧ (d.home (d.homeSlice hline)).lostLines.length < 64) := by
  refine ⟨by decide +kernel, by decide +kernel, by decide +kernel, by decide +kernel, by decide +kernel, ?_, by decide +kernel, by decide +kernel,
    by decide +kernel, by decide +kernel⟩
  have h : ∃ p, (pewtered true).place hline = some p ∧ (pewtered true).testLine p.mc hline = false ∧ (pewtered true).get (rMcState p.mc) ≠ stFailed ∧
      (put [(rMcState p.mc, stFailed)] (pewtered true)).get (rMcState p.mc) = stFailed := by
    have h0 : ((pewtered true).place hline).isSome = true := by decide +kernel
    obtain ⟨p, hp⟩ := Option.isSome_iff_exists.1 h0
    have h1 : ∀ x ∈ (pewtered true).place hline, (pewtered true).testLine x.mc hline = false ∧ (pewtered true).get (rMcState x.mc) ≠ stFailed ∧
      (put [(rMcState x.mc, stFailed)] (pewtered true)).get (rMcState x.mc) = stFailed := by decide +kernel
    exact ⟨p, hp, h1 p hp⟩
  intro p hp
  obtain ⟨q, hq, h⟩ := h
  obtain rfl : q = p := Option.some.inj (hq ▸ hp)
  exact h

theorem witness_mcCommands :
    (let d := secured
     d.get (rMcState 19) ≠ stFailed ∧ (0 + 1 < 8) ∧ (d.setMc 19 { d.mc 19 with replayRun := 7 }).mc 19 = { d.mc 19 with replayRun := 7 } ∧
       tabFind ({ d.mc 19 with rows := [(5, (3, 0, 0))] }).rows 5 = some (3, 0, 0) ∧ d.admits tan (controllerIndex 19) 0x10 1 = true ∧
       d.flag rMemPoisonMode = true ∧ d.get rPwState = stOff ∧ (put [(rMemPoisonMode, 0)] d).flag rMemPoisonMode = false) ∧
    ({ secured with clock := { secured.clock with invar := 10 ^ 9 } }).get (rMcPageIdle 19) ≤ 10 ^ 9 ∧
    (let d := (put [(rMcShadowRate 19, 6400)] secured).setDom (domMcShadowTiming 19) (1 :: zeros 63)
     d.admits tan (controllerIndex 19) 0x05 1 = true ∧ d.rateOk 19 (d.get (rMcShadowRate 19)) = true ∧
       byteAt (d.dom (domMcShadowTiming 19) (1 :: zeros 63)) 0 = 1 ∧ d.mcRunning 19 = false ∧ d.switchLimit 19 = false ∧
       (put [(rMcCommand 19, cmdRunning)] d).mcRunning 19 = true) ∧
    (let m := ((pewtered true).controllerOf hline).getD 99
     let d := put [(rMemPoisonMode, 1), (rMcSpareAddr m, hline)] (pewtered true)
     m < 20 ∧ d.spareAddrOk m = true ∧ d.admits tan (controllerIndex m) 0x05 2 = true ∧ d.admits tan (controllerIndex m) 0x05 3 = true ∧
       d.flag rMemPoisonMode = true ∧ d.mcQueued m = false ∧ d.mcRunning m = false ∧ (d.mc m).held = false ∧
       ((d.setMc m { d.mc m with spareAddr := hline }).place ((d.setMc m { d.mc m with spareAddr := hline }).mc m).spareAddr).isSome = true) := by decide +kernel

theorem witness_worlds :
    (let d := put [(rWrBase 31, 0x20_0000), (rWrLimit 31, 0x3F_FFFF)] secured
     d.admits tan (0x8010 + 31) 0x01 1 = true ∧ d.admits tan (0x8010 + 31) 0x01 0 = true ∧ d.wrBad 31 = false ∧
       (put [(rWrBase 31, 0x40_0000)] d).wrBad 31 = true ∧ (put [(rWrEnable 0, 1), (rWrBase 0, 0x3F_0000), (rWrLimit 0, 0x3F_FFFF)] d).wrBad 31 = true) ∧
    (∀ sub ∈ [1, 0x10, 0x11], secured.admits tan 0x8030 sub 1 = true) ∧
    (∀ sub ∈ [1, 4], secured.admits tan 0xA000 sub 1 = true ∧ secured.admits tan 0xA000 sub 0 = true ∧ bitAt secured.fuses.debugOff (sub - 1) = false ∧
      bitAt ({ secured.fuses with debugOff := 15 }).debugOff (sub - 1) = true) ∧
    (∀ n ∈ [0, 4, 33], secured.admits tan (0x8040 + n) 0x02 1 = true ∧ secured.admits tan (0x8040 + n) 0x02 2 = true ∧
      secured.get (rBlkCommand n) ≠ cmdRunning ∧ secured.blockCommandRuns n = false ∧ secured.get (rBlkWorld n) ≤ 1 ∧
      (put [(rBlkCommand n, cmdRunning)] secured).get (rBlkCommand n) = cmdRunning ∧ (put [(rBlkCommand n, cmdRunning)] secured).blockReleased n = true) ∧
    (let d := put [(rIrqSource, 1023)] secured
     d.admits tan 0x8080 0x02 1 = true ∧ d.admits tan 0x8080 0x02 2 = true ∧ d.get rIrqSource = 1023 ∧ d.get rIrqCommand ≠ cmdRunning ∧
       (put [(rIrqSource, 2)] secured).get rIrqSource = 2 ∧ d.irqWorldOf 1023 = .tantalum) := by decide +kernel

/-- The watchdog of the secure side runs and has expired. -/
def watched (deadline : Nat) : Dev := { secured with tk := { secured.tk with running := true, deadline := deadline } }

theorem witness_secureSide :
    (watched 0).watchdogDue = true ∧ (watched 5).watchdogDue = false ∧ (watched 0).admits tan 0x8000 0x03 1 = true ∧
    (watched 5).admits tan 0x8000 0x03 1 = true ∧ (watched 5).get rTkState = 1 ∧ (watched 5).ks.started = false ∧
    (put [(rTkState, 2)] secured).get rTkState = 2 ∧ (put [(rTkState, 2)] secured).admits tan 0x8000 0x03 1 = true ∧
    (let d := withHart { Hart.reset with lossDue := true, inWcall := true }
     (d.hart 1).lossDue = true ∧ d.hartRuns 1 = true ∧ (d.hart 1).priv = .m ∧ (d.hart 1).inWcall = true) ∧
    (let d := withHart { Hart.reset with lossDue := true }
     (d.hart 1).inWcall = false ∧ (d.hart 1).world = .tantalum ∧ d.pairMode 1 = false ∧ d.unit (.die (1 / 20)) ≠ stQuiescing) ∧
    (let d := withHart { nHart with lossDue := true }
     (d.hart 1).lossDue = true ∧ d.hartRuns 1 = true ∧ (d.hart 1).world = .normal) ∧
    (let d := put [(rTkState, 2)] secured
     d.admits tan 0x8000 0x04 1 = true ∧ d.get rBootState = 5 ∧ d.get rTkState = 2 ∧ d.measRoom = true ∧
       (put [(rMeasCount, 8191)] d).get rBootState = 5 ∧ secured.get rTkState ≠ 2) ∧
    (let d := put [(rTkState, 3), (rTkCommand, cmdRunning)] secured
     d.get rTkState = 3 ∧ d.get rTkCommand = cmdRunning ∧ d.boot.activating = false ∧ d.slotResult (d.get rBootSlotActive) ≠ 0) ∧
    (secured.admits tan 0x8000 0x04 2 = true ∧ secured.get rTkCommand ≠ cmdRunning ∧ secured.get rBootState = 5) := by decide +kernel

/-- A message of kind `k` waits at source `x`. -/
def told (x k cls : Nat) (d : Dev) : Dev :=
  let d := if cls = 0 then d else put [(rSrcClass x, cls)] d
  { d with fus := { d.fus with queues := [(x, [⟨5, false, 0, 0, k, false⟩])] } }

theorem witness_faults :
    (∀ x ∈ [0, 1, 880, 1535],
      let d := told x kRegulatorPhase 0 up
      (d.fus.queues.any (fun q => !q.2.isEmpty && q.1 < 1536)) = true ∧
        (d.arbitrate arbFusible 1536 (fun x => !(d.faultQueue x).isEmpty)).1 = some x ∧ d.faultQueue x = [⟨5, false, 0, 0, kRegulatorPhase, false⟩] ∧
        d.logPlace = some 0) := by decide +kernel

/-- Fusible's next message is that of source `x`, of class `cls`. -/
def nextFault (d : Dev) (x cls : Nat) : Bool :=
  d.fus.queues.any (fun q => !q.2.isEmpty && q.1 < 1536) && (d.arbitrate arbFusible 1536 (fun x => !(d.faultQueue x).isEmpty)).1 == some x &&
    (d.faultQueue x).length == 1 && d.classOf x kRegulatorPhase == cls

theorem witness_containment :
    (let d := told 1 kRegulatorPhase 3 (withHart owner)
     nextFault d 1 3 = true ∧ containUnit 1 = .core 1 ∧ d.pairMode 1 = false ∧ d.unit (.core 1) = stActive ∧ d.unit (.die (1 / 20)) ≠ stQuiescing) ∧
    (nextFault (told 491 kRegulatorPhase 3 up) 491 3 = true ∧ containUnit 491 = .die 11 ∧ up.unit (.die 11) ≠ stOff) ∧
    (nextFault (told 532 kRegulatorPhase 3 (engineIn stActive)) 532 3 = true ∧ containUnit 532 = .engine 0 ∧ (engineIn stActive).get (rEngState 0) = stActive) ∧
    (nextFault (told 695 kRegulatorPhase 3 up) 695 3 = true ∧ containUnit 695 = .link 3) ∧
    (∀ c ∈ [1, 2, 4, 5, 6], nextFault (told 0 kRegulatorPhase c up) 0 c = true) ∧ up.fus.stopped = false ∧ up.latch.length < 16 ∧
    up.unit (.cluster 0) = stActive := by decide +kernel

/-- An uncleared FATAL record. -/
def fatalRec : FaultRec := ⟨⟨5, false, 0, 0, kRegulatorPhase, false⟩, 0, 5, 1, false, false, 0, 0⟩

theorem tabFind_map {α : Type} (v : α) (l : List Nat) (e : Nat) (h : e ∈ l) : tabFind (l.map (fun x => (x, v))) e = some v := by
  induction l with
  | nil => simp at h
  | cons a t ih =>
    by_cases ha : a = e
    · simp [tabFind, ha]
    · rcases List.mem_cons.1 h with h | h
      · exact absurd h.symm ha
      · simp [tabFind, ha, ih h]

/-- A log whose every element from 0 to `n`, not included, holds an uncleared FATAL record. -/
def fullLog (n : Nat) : Tab FaultRec := (List.range n).map (fun e => (e, fatalRec))

theorem fullLog_find (n e : Nat) (h : e < n) : tabFind (fullLog n) e = some fatalRec :=
  tabFind_map fatalRec _ e (List.mem_range.2 h)

theorem fullLog_filter (n : Nat) (f : FaultRec → Bool) (hf : f fatalRec = false) : (fullLog n).filter (fun e => f e.2) = [] := by
  rw [List.filter_eq_nil_iff]
  intro x hx
  obtain ⟨e, -, rfl⟩ := List.mem_map.1 hx
  simp [hf]

theorem oldest_fullLog (d : Dev) (n : Nat) (h : d.fus.log = fullLog n) (f : FaultRec → Bool) (hf : f fatalRec = false) : d.oldestRec f = none := by
  rw [Dev.oldestRec, h, fullLog_filter n f hf]
  rfl

theorem find_fullLog (d : Dev) (n : Nat) (h : d.fus.log = fullLog n) : (List.range n).find? (fun e => (tabFind d.fus.log e).isNone) = none := by
  rw [List.find?_eq_none]
  intro e he
  rw [h, fullLog_find n e (List.mem_range.1 he)]
  decide

/-- A log with such a record in each of its 4,096 elements has no place. -/
theorem witness_folding (n : Nat) (hn : n = 4096) (d : Dev) (h : d.fus.log = fullLog n) : d.logPlace = none := by
  have h0 := find_fullLog d n h
  have h3 := oldest_fullLog d n h (fun r => r.state = 3) (by decide)
  have h1 := oldest_fullLog d n h (fun r => r.state = 1 && r.cls = 1) (by decide)
  rw [hn] at h0
  unfold Dev.logPlace
  rw [h0, h3, h1]

/-- A package with one record, of class `cls` in state `st`, in element 0, which the path selects. -/
def logged (cls st : Nat) : Dev :=
  { secured with fus := { secured.fus with log := [(0, { fatalRec with cls := cls, state := st, deadline := 9 })], folded := [(7, 4)], timers := [(7, 9)] } }

theorem witness_records :
    (∀ d ∈ [logged 4 1, logged 4 2, logged 5 1, logged 1 3], d.urgentDue 0 = false ∧ d.foldedDue 7 = false ∧ d.selected 0x9010 tan = 0 ∧
      (tabFind d.fus.log 0).isSome = true ∧ d.admits tan 0x9011 0x04 1 = true ∧ d.admits tan 0x9011 0x04 2 = true ∧
      d.admits tan (0x9200 + 1535) 0x05 1 = true ∧ d.admits tan 0x9000 0x06 1 = true) ∧
    tabFind secured.fus.log 0 = none ∧ ((tabFind (logged 4 1).fus.log 0).map (fun r => r.clearable)) = some true ∧
    ((tabFind (logged 5 1).fus.log 0).map (fun r => r.clearable)) = some false ∧
    (let d := { logged 4 1 with clock := { secured.clock with invar := 9, root := 108 } }
     (tabFind d.fus.log 0).map (fun r => (r.state, r.cls, r.deadline)) = some (1, 4, 9) ∧ 9 ≤ d.now ∧ tabFind d.fus.timers 7 = some 9 ∧
       tabGet d.fus.folded 7 0 = 4) := by decide +kernel

/-- Nothing of a log with one record, whose time has not come, escalates. -/
theorem nothing_due (d : Dev) (h : d.now < 9) (hl : ∃ r, d.fus.log = [(0, r)] ∧ r.deadline = 9) (ht : d.fus.timers = [(7, 9)]) :
    (∀ e, d.urgentDue e = false) ∧ ∀ x, d.foldedDue x = false := by
  obtain ⟨r, hr, h9⟩ := hl
  refine ⟨fun e => ?_, fun x => ?_⟩
  · by_cases he : e = 0
    · subst he; simp [Dev.urgentDue, hr, tabFind, h9]; omega
    · simp [Dev.urgentDue, hr, tabFind, Ne.symm he]
  · by_cases hx : x = 7
    · subst hx; simp [Dev.foldedDue, ht, tabFind]; omega
    · simp [Dev.foldedDue, ht, tabFind, Ne.symm hx]

/-! ### A boot slot that verifies

A public key that is a small constant lets anyone sign: each coefficient of the hashed point is divided by it. -/

/-- The public key 111 of degree 1,024. -/
def weakKey : List Byte := 10 :: 0x01 :: 0xBC :: zeros 1790
def weakPoly : List Nat := 111 :: List.replicate 1023 0

theorem falconKey_weak : falconKey 10 weakKey = some weakPoly := by decide +kernel

/-- The quotient of a coefficient by 111, to the nearest. -/
def quot111 (c : Nat) : Int := (centred (c : Int) + 55) / 111

theorem quot111_small (c : Nat) : (quot111 c).natAbs < 128 := by
  unfold quot111 centred falconQ
  dsimp only
  split <;> omega

theorem rest111_small (c : Nat) : (centred ((c : Int) - (quot111 c * 111) % (falconQ : Int))).natAbs ≤ 55 := by
  unfold quot111 centred falconQ
  dsimp only
  split <;> split <;> omega

/-- The bits of a coefficient below 128 in magnitude. -/
def encode (x : Int) : List Bool := (x < 0 : Bool) :: ((List.range 7).map (fun i => x.natAbs.testBit (6 - i)) ++ [true])

theorem bitsNat_seven : ∀ m < 128, bitsNat ((List.range 7).map (fun i => m.testBit (6 - i))) = m := by decide

theorem decompress_encode (l : List Int) (rest : List Bool) (hl : ∀ x ∈ l, x.natAbs < 128) (hr : rest.all (fun x => !x) = true) :
    falconDecompress l.length (l.flatMap encode ++ rest) = some l := by
  induction l with
  | nil => simp [falconDecompress, hr]
  | cons x t ih =>
    have hx : x.natAbs < 128 := hl x (by simp)
    have h7 : ((List.range 7).map (fun i => x.natAbs.testBit (6 - i))).length = 7 := by simp
    have hb := bitsNat_seven _ hx
    generalize hg : (List.range 7).map (fun i => x.natAbs.testBit (6 - i)) = g at h7 hb
    have e : (x :: t).flatMap encode ++ rest = (x < 0 : Bool) :: (g ++ true :: (t.flatMap encode ++ rest)) := by simp [encode, hg]
    have hl' : ¬ (g ++ true :: (t.flatMap encode ++ rest)).length < 7 := by simp [h7]
    have hu : falconUnary 16 0 (true :: (t.flatMap encode ++ rest)) = some (0, t.flatMap encode ++ rest) := rfl
    have hd : (g ++ true :: (t.flatMap encode ++ rest)).drop 7 = true :: (t.flatMap encode ++ rest) := by rw [← h7, List.drop_left]
    have ht : (g ++ true :: (t.flatMap encode ++ rest)).take 7 = g := by rw [← h7, List.take_left]
    have hn : ¬ ((decide (x < 0) && decide (128 * 0 + x.natAbs = 0)) || decide (2047 < 128 * 0 + x.natAbs)) = true := by
      simp only [Bool.or_eq_true, Bool.and_eq_true, decide_eq_true_eq, Nat.mul_zero, Nat.zero_add]; omega
    rw [e, List.length_cons, falconDecompress, if_neg hl', hd, hu]
    dsimp only
    rw [ht, hb, if_neg hn, ih (fun y hy => hl y (by simp [hy]))]
    have hv : (if (decide (x < 0)) = true then -((128 * 0 + x.natAbs : Nat) : Int) else ((128 * 0 + x.natAbs : Nat) : Int)) = x := by
      split <;> rename_i h <;> simp only [decide_eq_true_eq] at h <;> omega
    simp only [Option.map_some, hv]

/-- Eight bits make a byte. -/
def packBits : List Bool → List Byte
  | a :: b :: c :: d :: e :: f :: g :: h :: r => BitVec.ofNat 8 (bitsNat [a, b, c, d, e, f, g, h]) :: packBits r
  | _ => []

theorem bits_of_byte : ∀ a b c d e f g h : Bool,
    (List.range 8).map (fun i => (BitVec.ofNat 8 (bitsNat [a, b, c, d, e, f, g, h])).toNat.testBit (7 - i)) = [a, b, c, d, e, f, g, h] := by decide

theorem bitsOf_packBits (n : Nat) : ∀ l : List Bool, l.length = 8 * n → bitsOf (packBits l) = l ∧ (packBits l).length = n := by
  induction n with
  | zero => intro l h; obtain rfl := List.length_eq_zero_iff.1 h; exact ⟨rfl, rfl⟩
  | succ n ih =>
    intro l h
    match l, h with
    | a :: b :: c :: d :: e :: f :: g :: k :: r, h =>
      have hr : r.length = 8 * n := by simp at h; omega
      obtain ⟨h1, h2⟩ := ih r hr
      refine ⟨?_, by simp [packBits, h2]⟩
      show ((List.range 8).map _) ++ bitsOf (packBits r) = _
      rw [h1, bits_of_byte]
      rfl

/-- A signature of a message under the weak key. -/
def weakSig (m : List Byte) : List Byte :=
  let c := hashToPoint 1024 (zeros 40) m
  0x3A :: (zeros 40 ++ packBits (((List.range 1024).map (fun k => quot111 (c.getD k 0))).flatMap encode ++ List.replicate 696 false))

theorem length_encodeAll (l : List Int) : (l.flatMap encode).length = 9 * l.length := by
  induction l with
  | nil => rfl
  | cons x t ih => simp [ih, encode]; omega

theorem weakSig_parts (m : List Byte) : (weakSig m).length = 1280 ∧ ((weakSig m).drop 1).take 40 = zeros 40 ∧
    bitsOf ((weakSig m).drop 41) = ((List.range 1024).map (fun k => quot111 ((hashToPoint 1024 (zeros 40) m).getD k 0))).flatMap encode
      ++ List.replicate 696 false := by
  have hz : (zeros 40).length = 40 := List.length_replicate
  generalize hb : ((List.range 1024).map (fun k => quot111 ((hashToPoint 1024 (zeros 40) m).getD k 0))).flatMap encode ++ List.replicate 696 false = b
  have hl : b.length = 8 * 1239 := by rw [← hb, List.length_append, length_encodeAll, List.length_map, List.length_range, List.length_replicate]
  obtain ⟨h1, h2⟩ := bitsOf_packBits 1239 b hl
  have e : weakSig m = 0x3A :: (zeros 40 ++ packBits b) := by rw [← hb]; rfl
  refine ⟨by rw [e, List.length_cons, List.length_append, hz, h2], ?_, ?_⟩
  · rw [e, List.drop_succ_cons, List.drop_zero]
    exact List.take_left' hz
  · rw [e, List.drop_succ_cons, List.drop_left' hz, h1]

theorem fold_single (a : Nat → Int) (b : Nat → Nat) (N k : Nat) (hb : ∀ j, j ≠ 0 → b j = 0) (n : Nat) (hn : n ≤ N) :
    (List.range n).foldl (fun (acc : Int) i => if i ≤ k then acc + a i * (b (k - i) : Nat) else acc - a i * (b (N + k - i) : Nat)) 0
      = if k < n then a k * (b 0 : Nat) else 0 := by
  induction n with
  | zero => rfl
  | succ n ih =>
    rw [List.range_succ, List.foldl_append, ih (by omega)]
    simp only [List.foldl_cons, List.foldl_nil]
    rcases Nat.lt_trichotomy n k with h | h | h
    · have h1 : ¬ k < n := by omega
      have h2 : n ≤ k := by omega
      have h3 : ¬ k < n + 1 := by omega
      simp [h1, h2, h3, hb (k - n) (by omega)]
    · subst h; simp
    · have h1 : ¬ n ≤ k := by omega
      have h2 : k < n + 1 := by omega
      simp [h, h1, h2, hb (N + k - n) (by omega)]

theorem getD_replicate_zero (n i : Nat) : (List.replicate n 0).getD i 0 = 0 := by
  simp [List.getD_eq_getElem?_getD, List.getElem?_replicate]
  split <;> rfl

theorem all_false (n : Nat) : (List.replicate n false).all (fun x => !x) = true := by simp

theorem weakPoly_getD (j : Nat) (h : j ≠ 0) : weakPoly.getD j 0 = 0 := by
  obtain ⟨i, rfl⟩ := Nat.exists_eq_succ_of_ne_zero h
  rw [weakPoly, List.getD_cons_succ, getD_replicate_zero]

theorem polyCoeff_weak (a : List Int) (k : Nat) (hk : k < 1024) : polyCoeff 1024 a weakPoly k = (a.getD k 0 * 111) % (falconQ : Int) := by
  have h := fold_single (fun i => a.getD i 0) (fun j => weakPoly.getD j 0) 1024 k weakPoly_getD 1024 (Nat.le_refl _)
  rw [if_pos hk] at h
  show ((List.range 1024).foldl _ 0) % (falconQ : Int) = _
  exact congrArg (· % (falconQ : Int)) h

theorem sqNorm_le (l : List Int) (hl : ∀ x ∈ l, x.natAbs < 128) (a : Nat) : l.foldl (fun a x => a + (x * x).toNat) a ≤ a + 16384 * l.length := by
  induction l generalizing a with
  | nil => simp
  | cons x t ih =>
    have hx : (x * x).toNat ≤ 16384 := by
      have : (x * x).toNat = x.natAbs * x.natAbs := by rw [← Int.natAbs_mul_self]; rfl
      rw [this]
      have := hl x (by simp)
      exact Nat.le_trans (Nat.mul_le_mul (Nat.le_of_lt this) (Nat.le_of_lt this)) (by decide)
    have := ih (fun y hy => hl y (by simp [hy])) (a + (x * x).toNat)
    simp only [List.foldl_cons, List.length_cons]
    omega

/-- The signature verifies. -/
theorem falconCheck_weak (m : List Byte) : falconCheck 10 weakPoly m (weakSig m) = 0 := by
  obtain ⟨hl, hs, hb⟩ := weakSig_parts m
  have h0 : byteAt (weakSig m) 0 = 0x3A := rfl
  generalize hc : hashToPoint 1024 (zeros 40) m = c at hb
  generalize ha : (List.range 1024).map (fun k => quot111 (c.getD k 0)) = a at hb
  have hal : a.length = 1024 := by rw [← ha]; simp
  have hax : ∀ x ∈ a, x.natAbs < 128 := by
    intro x hx; rw [← ha] at hx
    obtain ⟨k, -, rfl⟩ := List.mem_map.1 hx
    exact quot111_small _
  have hd : falconDecompress 1024 (bitsOf ((weakSig m).drop 41)) = some a := by
    rw [hb]
    have := decompress_encode a (List.replicate 696 false) hax (all_false 696)
    rwa [hal] at this
  have hag : ∀ k < 1024, a.getD k 0 = quot111 (c.getD k 0) := by
    intro k hk; rw [← ha]; simp [List.getD_eq_getElem?_getD, hk]
  have h1 : ∀ x ∈ (List.range 1024).map (fun k => centred ((c.getD k 0 : Nat) - polyCoeff 1024 a weakPoly k)), x.natAbs < 128 := by
    intro x hx
    obtain ⟨k, hk, rfl⟩ := List.mem_map.1 hx
    have hk := List.mem_range.1 hk
    rw [polyCoeff_weak a k hk, hag k hk]
    exact Nat.lt_of_le_of_lt (rest111_small _) (by decide)
  have n1 := sqNorm_le _ h1 0
  have n2 := sqNorm_le a hax 0
  have p10 : (2 : Nat) ^ 10 = 1024 := rfl
  unfold falconCheck
  rw [p10]
  dsimp only
  rw [h0, hl, hd, hs, hc]
  rw [if_neg (by decide)]
  dsimp only
  rw [if_pos]
  simp only [List.length_map, List.length_range, hal] at n1 n2
  unfold sqNorm falconBound
  simp only [show ¬ (10 = 9) from by decide, if_false]
  omega

/-- Bytes in a flash, from an address on. -/
def flashOf (a : Nat) (l : List Byte) : Tab Byte := (l.zipIdx a).map (fun e => (e.2, e.1))

theorem find_flashOf (l : List Byte) (a i : Nat) : tabFind (flashOf a l) (a + i) = l[i]? := by
  induction l generalizing a i with
  | nil => rfl
  | cons x t ih =>
    cases i with
    | zero => simp [flashOf, tabFind]
    | succ i =>
      have := ih (a + 1) i
      simp only [flashOf] at this
      simp only [flashOf, List.zipIdx_cons, List.map_cons, tabFind, List.getElem?_cons_succ]
      rw [if_neg (by omega), show a + (i + 1) = a + 1 + i by omega]
      exact this

theorem find_flashOf_other (l : List Byte) (a b : Nat) (h : b < a ∨ a + l.length ≤ b) : tabFind (flashOf a l) b = none := by
  induction l generalizing a with
  | nil => rfl
  | cons x t ih =>
    have := ih (a + 1) (by simp at h; omega)
    simp only [flashOf] at this
    simp only [flashOf, List.zipIdx_cons, List.map_cons, tabFind]
    rw [if_neg (by simp at h; omega)]
    exact this

/-- A read within the bytes reads them; beyond them the flash is erased. -/
theorem flashRead_in (d : Dev) (a : Nat) (l : List Byte) (h : d.flash = flashOf a l) (o n : Nat) (ho : o + n ≤ l.length) :
    d.flashRead (a + o) n = (l.drop o).take n := by
  apply List.ext_getElem
  · simp [Dev.flashRead]; omega
  · intro i h1 h2
    simp only [Dev.flashRead, List.length_map, List.length_range] at h1
    have hi : o + i < l.length := by omega
    simp [Dev.flashRead, h, tabGet, show a + o + i = a + (o + i) by omega, find_flashOf, List.getElem?_eq_getElem hi]

theorem flashRead_out (d : Dev) (a : Nat) (l : List Byte) (h : d.flash = flashOf a l) (b n : Nat) (hb : b + n ≤ a ∨ a + l.length ≤ b) :
    d.flashRead b n = List.replicate n 0xFF := by
  apply List.ext_getElem
  · simp [Dev.flashRead]
  · intro i h1 h2
    simp only [Dev.flashRead, List.length_map, List.length_range] at h1
    simp [Dev.flashRead, h, tabGet, find_flashOf_other l a (b + i) (by omega)]

/-- The fields of a slot's header with a firmware version: its four components are the one erased byte after it. -/
def headFields (ver : Nat) : List Byte :=
  [0x58, 0x53, 0x46, 0x57, 1, 0, 0, 0] ++ leBytes 4 ver ++ leBytes 4 0 ++ leBytes 2 4 ++ zeros 46
    ++ [1, 2, 3, 4].flatMap (fun t => [t, 0, 0, 0] ++ leBytes 4 4096 ++ leBytes 4 1 ++ zeros 4 ++ shake256 [0xFF] 32) ++ zeros 192

/-- What is signed of the slot, and the whole header. -/
def headSigned (ver : Nat) : List Byte := headFields ver ++ (weakKey ++ zeros 575)
def headBytes (ver : Nat) : List Byte := headSigned ver ++ weakSig (shake256 (headSigned ver) 64)

theorem length_headFields : (headFields 5).length = 448 := by decide +kernel

/-- A package whose slot `k` holds that header, whose key is fused. -/
structure Slotted (d : Dev) (k : Nat) : Prop where
  flash : d.flash = flashOf (slotStart k) (headBytes 5)
  bad   : bitAt d.flashBad k = false
  key   : d.fuses.keyDigest0 = shake256 weakKey 32
  live  : d.fuses.revoked0 = false
  svn   : d.fuses.svn = 0
  mode  : d.flashMode % 4 ≠ 3

theorem length_headBytes : (headSigned 5).length = 2816 ∧ (headBytes 5).length = 4096 := by
  have h1 : (weakKey ++ zeros 575).length = 2368 := by decide +kernel
  have h2 : (headSigned 5).length = 2816 := by rw [headSigned, List.length_append, length_headFields, h1]
  exact ⟨h2, by rw [headBytes, List.length_append, h2, (weakSig_parts _).1]⟩

theorem take_drop_left (a b : List Byte) (o n : Nat) (h : o + n ≤ a.length) : ((a ++ b).drop o).take n = (a.drop o).take n := by
  rw [List.drop_append_of_le_length (by omega), List.take_append_of_le_length (by simp; omega)]

/-- A field of the header. -/
theorem slot_field (d : Dev) (k o n : Nat) (h : Slotted d k) (ho : o + n ≤ 448) :
    d.flashRead (slotStart k + o) n = ((headFields 5).drop o).take n := by
  rw [flashRead_in d _ _ h.flash o n (by rw [length_headBytes.2]; omega), headBytes, headSigned,
    take_drop_left _ _ _ _ (by rw [List.length_append, length_headFields]; omega), take_drop_left _ _ _ _ (by rw [length_headFields]; exact ho)]

theorem slot_hdr (d : Dev) (k o n : Nat) (h : Slotted d k) (ho : o + n ≤ 448) : d.hdr k o n = leNat (((headFields 5).drop o).take n) := by
  rw [Dev.hdr, slot_field d k o n h ho]

theorem slot_zero (d : Dev) (k o n : Nat) (h : Slotted d k) (ho : o + n ≤ 448) :
    d.hdrZero k o n = (((headFields 5).drop o).take n).all (fun b => b = 0) := by
  rw [Dev.hdrZero, slot_field d k o n h ho]

theorem entry_format : ∀ i < 4, (let f (o n : Nat) := ((headFields 5).drop o).take n
    (f (65 + 48 * i) 3).all (fun b => b = 0) && (f (76 + 48 * i) 4).all (fun b => b = 0) && decide (4096 ≤ leNat (f (68 + 48 * i) 4)) &&
      decide (leNat (f (68 + 48 * i) 4) % 4096 = 0) && decide (1 ≤ leNat (f (72 + 48 * i) 4)) && decide (leNat (f (72 + 48 * i) 4) ≤ 0x100_0000) &&
      decide (leNat (f (68 + 48 * i) 4) + leNat (f (72 + 48 * i) 4) ≤ 0x200_0000) && leNat (f (64 + 48 * i) 1) == i + 1 &&
      leNat (f (68 + 48 * i) 4) == 4096 && leNat (f (72 + 48 * i) 4) == 1 && (f (80 + 48 * i) 32) == shake256 [0xFF] 32) = true := by decide +kernel

theorem head_format : (let f (o n : Nat) := ((headFields 5).drop o).take n
    f 0 4 == [0x58, 0x53, 0x46, 0x57] && leNat (f 4 2) == 1 && leNat (f 6 1) == 0 && (f 7 1).all (fun b => b = 0) && leNat (f 8 4) == 5 &&
      leNat (f 12 4) == 0 && leNat (f 16 2) == 4 && (f 18 46).all (fun b => b = 0) && (f 256 192).all (fun b => b = 0)) = true := by decide +kernel

theorem all_zero (n : Nat) : (zeros n).all (fun b => b = 0) = true := by simp [zeros]

theorem slot_key (d : Dev) (k : Nat) (h : Slotted d k) :
    d.flashRead (slotStart k + 448) 1793 = weakKey ∧ d.hdrZero k 2241 575 = true := by
  have hl : weakKey.length = 1793 := by decide +kernel
  have hf := length_headFields
  have ht := length_headBytes.2
  have e : headBytes 5 = headFields 5 ++ (weakKey ++ (zeros 575 ++ weakSig (shake256 (headSigned 5) 64))) := by
    simp only [headBytes, headSigned, List.append_assoc]
  refine ⟨?_, ?_⟩
  · rw [flashRead_in d _ _ h.flash 448 1793 (by omega), e, List.drop_left' hf, List.take_left' hl]
  · rw [Dev.hdrZero, flashRead_in d _ _ h.flash 2241 575 (by omega), e, ← List.append_assoc, List.drop_left' (by rw [List.length_append, hf, hl]),
      List.take_left' (l₁ := zeros 575) List.length_replicate]
    exact all_zero 575

theorem slot_component (d : Dev) (k t : Nat) (h : Slotted d k) (h1 : 1 ≤ t) (h4 : t ≤ 4) : d.componentOk k t = true := by
  have hi := entry_format (t - 1) (by omega)
  have he : d.componentEntry k t = t - 1 := by
    have ht : ∀ i < 4, d.hdrType k i = i + 1 := by
      intro i hi
      have := entry_format i hi
      simp only [Bool.and_eq_true, beq_iff_eq] at this
      rw [Dev.hdrType, slot_hdr d k _ _ h (by omega)]
      exact this.1.1.1.2
    rcases (by omega : t = 1 ∨ t = 2 ∨ t = 3 ∨ t = 4) with rfl | rfl | rfl | rfl <;>
      simp [Dev.componentEntry, List.range_succ, ht]
  simp only [Bool.and_eq_true, beq_iff_eq] at hi
  have hb : d.componentBytes k t = [0xFF] := by
    have ho : d.hdrOffset k (t - 1) = 4096 := by rw [Dev.hdrOffset, slot_hdr d k _ _ h (by omega)]; exact hi.1.1.2
    have hn : d.hdrLength k (t - 1) = 1 := by rw [Dev.hdrLength, slot_hdr d k _ _ h (by omega)]; exact hi.1.2
    rw [Dev.componentBytes, he, ho, hn, flashRead_out d _ _ h.flash _ _ (by rw [length_headBytes.2]; omega)]
    rfl
  have hs : d.componentSeen k t = true := by
    have ho : d.hdrOffset k (t - 1) = 4096 := by rw [Dev.hdrOffset, slot_hdr d k _ _ h (by omega)]; exact hi.1.1.2
    have hn : d.hdrLength k (t - 1) = 1 := by rw [Dev.hdrLength, slot_hdr d k _ _ h (by omega)]; exact hi.1.2
    simp [Dev.componentSeen, he, ho, hn]
  rw [Dev.componentOk, hs, Dev.componentDigest, hb, he, Nat.add_assoc, slot_field d k _ _ h (by omega), hi.2]
  simp

theorem slot_fields (d : Dev) (k : Nat) (h : Slotted d k) :
    d.flashRead (slotStart k) 4 = [0x58, 0x53, 0x46, 0x57] ∧ d.hdrKeySlot k = 0 ∧ d.hdrVersion k = 5 ∧ d.hdrSvn k = 0 ∧ d.formatOk k = true := by
  have hh := head_format
  simp only [Bool.and_eq_true, beq_iff_eq] at hh
  obtain ⟨⟨⟨⟨⟨⟨⟨⟨a1, a2⟩, a3⟩, a4⟩, a5⟩, a6⟩, a7⟩, a8⟩, a9⟩ := hh
  have ks : d.hdrKeySlot k = 0 := by rw [Dev.hdrKeySlot, slot_hdr d k _ _ h (by omega), a3]
  have ver : d.hdrVersion k = 5 := by rw [Dev.hdrVersion, slot_hdr d k _ _ h (by omega), a5]
  have svn : d.hdrSvn k = 0 := by rw [Dev.hdrSvn, slot_hdr d k _ _ h (by omega), a6]
  have ty : ∀ i < 4, d.hdrType k i = i + 1 ∧ d.entryOk k i = true := by
    intro i hi
    have := entry_format i hi
    simp only [Bool.and_eq_true, beq_iff_eq, decide_eq_true_eq] at this
    obtain ⟨⟨⟨⟨⟨⟨⟨⟨⟨⟨b1, b2⟩, b3⟩, b4⟩, b5⟩, b6⟩, b7⟩, b8⟩, b9⟩, b10⟩, b11⟩ := this
    refine ⟨by rw [Dev.hdrType, slot_hdr d k _ _ h (by omega)]; exact b8, ?_⟩
    rw [Dev.entryOk, Dev.hdrOffset, Dev.hdrLength, slot_hdr d k _ _ h (by omega), slot_hdr d k _ _ h (by omega), slot_zero d k _ _ h (by omega),
      slot_zero d k _ _ h (by omega), b1, b2]
    simp only [b3, b4, b5, b6, b7, decide_true, Bool.and_self]
  have a0 := slot_field d k 0 4 h (by omega)
  rw [Nat.add_zero, a1] at a0
  refine ⟨a0, ks, ver, svn, ?_⟩
  rw [Dev.formatOk, slot_hdr d k 4 2 h (by omega), a2, ks, slot_zero d k 7 1 h (by omega), a4, ver, svn, slot_hdr d k 16 2 h (by omega), a7,
    slot_zero d k 18 46 h (by omega), a8, slot_zero d k 256 192 h (by omega), a9, (slot_key d k h).2]
  have e1 : (List.range 4).all (fun i => d.entryOk k i) = true := List.all_eq_true.2 (fun i hi => (ty i (List.mem_range.1 hi)).2)
  have e2 : ([1, 2, 3, 4].all (fun t => ((List.range 4).filter (fun i => d.hdrType k i = t)).length = 1)) = true := by
    have r : List.range 4 = [0, 1, 2, 3] := rfl
    rw [r]
    simp [(ty 0 (by omega)).1, (ty 1 (by omega)).1, (ty 2 (by omega)).1, (ty 3 (by omega)).1]
  rw [e1, e2]
  rfl

theorem signed_of (d : Dev) (k : Nat) (h : List Byte) (pk : List Nat) (hr : d.slotHeader k = h) (hk : falconKey 10 ((h.drop 448).take 1793) = some pk)
    (hc : falconCheck 10 pk (shake256 (h.take 2816) 64) (h.drop 2816) = 0) : d.slotSigned k = true := by
  unfold Dev.slotSigned
  rw [hr]
  simp only [hk, hc]
  rfl

theorem slot_signed (d : Dev) (k : Nat) (h : Slotted d k) : d.slotSigned k = true := by
  obtain ⟨h1, h2⟩ := length_headBytes
  have hr : d.slotHeader k = headBytes 5 := by
    have e := flashRead_in d _ _ h.flash 0 4096 (by omega)
    rw [List.drop_zero, List.take_of_length_le (by omega), Nat.add_zero] at e
    rw [Dev.slotHeader, e]
  have hk : ((headBytes 5).drop 448).take 1793 = weakKey := by
    rw [← (slot_key d k h).1, flashRead_in d _ _ h.flash 448 1793 (by rw [h2]; omega)]
  have ht : (headBytes 5).take 2816 = headSigned 5 := List.take_left' h1
  have hd : (headBytes 5).drop 2816 = weakSig (shake256 (headSigned 5) 64) := List.drop_left' h1
  have hc := falconCheck_weak (shake256 (headSigned 5) 64)
  rw [← hd] at hc
  exact signed_of d k _ weakPoly hr (by rw [hk, falconKey_weak]) (by rw [ht]; exact hc)

theorem slot_verifies (d : Dev) (k : Nat) (h : Slotted d k) : d.slotResult k = 0 := by
  obtain ⟨m, ks, -, svn, fmt⟩ := slot_fields d k h
  rw [Dev.slotResult, h.bad, m, fmt, (slot_key d k h).1, ks, slot_signed d k h, svn, h.svn, slot_component d k 1 h (by omega) (by omega)]
  simp [Dev.fusedDigest, Dev.keyRevoked, h.key, h.live, h.mode]

/-- A package in reset, with that header in slot 0 and its key fused. -/
def bootable (d : Dev) : Dev :=
  let f : Fuses := { Fuses.reset with keyDigest0 := shake256 weakKey 32 }
  { d with flash := flashOf (slotStart 0) (headBytes 5), flashBad := 0, flashMode := 0, fuses := f, pins := { Dev.reset.pins with rails := 255 } }

theorem bootable_fuses (d : Dev) :
    (bootable d).fuses.keyDigest0 = shake256 weakKey 32 ∧ (bootable d).fuses.revoked0 = false ∧ (bootable d).fuses.svn = 0 := by
  refine ⟨?_, ?_, ?_⟩ <;> simp only [bootable, Fuses.reset]

theorem bootable_slotted (d : Dev) : Slotted (bootable d) 0 where
  flash := by simp only [bootable]
  bad := by simp only [bootable, bitAt]; decide
  key := (bootable_fuses d).1
  live := (bootable_fuses d).2.1
  svn := (bootable_fuses d).2.2
  mode := by simp only [bootable]; decide

theorem bootable_chooses (d : Dev) : (bootable d).chooseSlot = some 0 := by
  have h0 := slot_verifies _ _ (bootable_slotted d)
  have hm : (bootable d).flashRead (slotStart 1) 4 = List.replicate 4 0xFF :=
    flashRead_out _ (slotStart 0) (headBytes 5) rfl _ _ (by rw [length_headBytes.2]; right; decide)
  have h1 : (bootable d).slotResult 1 = 1 := by
    have hb : bitAt (bootable d).flashBad 1 = false := by show bitAt 0 1 = false; decide
    have hc : (List.replicate 4 (0xFF : Byte) != [0x58, 0x53, 0x46, 0x57]) = true := by decide
    rw [Dev.slotResult, hm, hb, hc]
    simp
  rw [Dev.chooseSlot, h0, h1]
  rfl

/-- The package boots from it. -/
theorem witness_boots (d : Dev) :
    (bootable d).pins.rstN = false ∧ bitAt (bootable d).pins.rails 0 = true ∧ (bootable d).fuses.checkOk = true ∧
      (bootable d).latch = d.latch ∧ Dev.reset.latch = [] ∧ (bootable d).chooseSlot = some 0 ∧ (bootable d).componentOk 0 2 = true ∧
      (bootable d).componentOk 0 3 = true ∧ (bootable d).componentOk 0 4 = true :=
  ⟨rfl, by simp only [bootable]; decide +kernel, by simp only [bootable]; decide +kernel, by simp only [bootable], rfl, bootable_chooses d, slot_component _ _ 2 (bootable_slotted d) (by omega) (by omega),
    slot_component _ _ 3 (bootable_slotted d) (by omega) (by omega), slot_component _ _ 4 (bootable_slotted d) (by omega) (by omega)⟩

/-- The firmware of slot 0 is newer than that of a package that runs slot 1 at version 4. -/
theorem witness_slotNewer (d : Dev) : (bootable d).slotResult (1 - 1) = 0 ∧ 4 < (bootable d).hdrVersion (1 - 1) :=
  ⟨slot_verifies _ _ (bootable_slotted d), by rw [(slot_fields _ _ (bootable_slotted d)).2.2.1]; decide⟩

/-- A package in standby: its rails are up and PKG_RST_N is low; the latch holds `n` records. -/
def waits (n : Nat) : Dev := { Dev.reset with latch := List.replicate n fatalRec, pins := { Dev.reset.pins with rails := 255 } }

theorem witness_resets :
    bitAt (waits 0).pins.rails 0 = true ∧ (waits 0).pins.rstN = false ∧ (waits 0).boot.latchHold = false ∧ (waits 0).fuses.checkOk = true ∧
    (waits 0).latch = [] ∧ (waits 0).chooseSlot = none ∧ (waits 1).latch = fatalRec :: [] ∧
    (⟨[], [3], [41], [], [], []⟩ : BootFinding).unlocked = [] ∧ (⟨[], [3], [41], [], [], []⟩ : BootFinding).controllers = [] ∧
    ¬(2 < 12 ∧ 2 ∈ [3]) ∧ 40 / 20 ∉ [3] ∧ 40 ∉ [41] ∧ (waits 0).pairMode 40 = false := by decide +kernel

/-- A package that runs slot 1 at version 4, with a boot command that reads `cmd`. -/
def booted (cmd : Nat) : Dev := put [(rBootSlotActive, 1), (rMgmtFwVersion, 4), (rBootCommand, cmd)] secured

theorem witness_bootCommands :
    (booted 0).boot.mgmtDown = false ∧ (booted 0).get rBootState = 5 ∧ (booted 0).get rBootCommand ≠ cmdRunning ∧
    (booted cmdRunning).get rBootCommand = cmdRunning ∧ (booted 0).get rTkState ≠ 3 ∧ (booted 0).measRoom = true ∧
    ((booted 0).mgmtAdd .bootSlot [] false 0).isSome = true ∧
    (∀ v ∈ [1, 2, 3, 4, 5], (booted 0).admits tan 0x2200 0x09 v = true) ∧
    (put [(rMeasCount, 1024)] (booted 0)).measRoom = false ∧
    ((put [(rMeasCount, 1024)] (booted 0)).mgmtAdd .bootSlot [] false 0).isSome = true := by decide +kernel

/-- A blow in progress. -/
def blows (b : Blow) : Dev := { booted cmdRunning with boot := { secured.boot with blow := b, runKeySlot := 1, runSvn := 3 } }

theorem witness_activates :
    (let d : Dev := { booted cmdRunning with boot := { secured.boot with activating := true }, mgmt := [⟨.bootSlot, 0, [], false, none, 0, [], 0, 0⟩] }
     0 < 4 ∧ d.boot.activating = true ∧ d.mgmtRuns 0 MgmtKind.isBoot = true ∧ d.slotResult (1 - d.get rBootSlotActive) ≠ 0) ∧
    (blows .none).boot.runKeySlot = 1 ∧ (blows .none).boot.runKeySlot ≠ 0 ∧ (blows .none).fuses.revoked0 = false ∧
    (blows .none).fuses.revoked1 = false ∧ (blows .none).fuses.svn < (blows .none).boot.runSvn ∧ (booted 0).boot.runSvn ≤ (booted 0).fuses.svn ∧
    (blows .key0).boot.blow ≠ .none ∧ (3 ≤ 64 ∧ (blows (.svn 3)).fuses.svn ≤ 3 ∧ (blows (.svn 3)).boot.blow = .svn 3) := by decide +kernel

/-- The key store has started. -/
def measured : Dev := { secured with ks := { secured.ks with started := true } }

theorem witness_measures :
    (0x80#8 :: zeros 32).length = 33 ∧ measured.admits tan 0x2202 0x04 0 = true ∧ 0x80 ≤ byteAt (0x80#8 :: zeros 32) 0 ∧
    measured.measRoom = true ∧ measured.get rBootState = 5 ∧ (put [(rMeasCount, 1024)] measured).measRoom = false ∧
    measured.admits tan 0x2203 0x03 1 = true ∧ measured.boot.mgmtDown = false ∧ measured.get rAttCommand ≠ cmdRunning ∧
    measured.secureDown = false ∧ measured.ks.started = true ∧ (measured.mgmtAdd (.attest (pathNum tan)) [] false 0).isSome = true ∧
    (∀ k ∈ [MgmtKind.attest 2, .checkpoint 2],
      let w : MgmtWork := ⟨k, 0, [], false, none, 0, [], 0, 0⟩
      let d : Dev := { measured with mgmt := [w] }
      0 < 4 ∧ d.mgmtFront 0 = some w ∧ w.seq = none ∧ d.mgmtUsable 0 true = true ∧ (d.drbgDraw 0 72).isSome = true) := by decide +kernel

theorem witness_counters :
    (let g := late.selected 0x9810 tan
     late.admits tan 0x9811 2 1 = true ∧ eventCode (late.groupKind g) 1 = true ∧ eventCode (late.groupKind g) 0x7000 = false) ∧
    late.admits tan 0x9800 0x01 1 = true ∧ late.admits tan 0x9800 0x01 2 = true ∧ late.get rPcCommand ≠ cmdRunning ∧ late.get rPcFrozen = 0 ∧
    late.groupServes 0 = true ∧ (put [(rPcCommand, cmdRunning)] late).get rPcCommand = cmdRunning ∧
    (put [(rPcFrozen, 1)] late).get rPcFrozen = 1 ∧ (put [(rPcFrozen, 1)] late).get rPcCommand ≠ cmdRunning ∧
    (let d : Dev := { late with cnt := { late.cnt with gather := true } }; d.cnt.gather = true) := by decide +kernel

/-- A bandwidth reader in state `st` with one port and a ring of two or more entries. -/
def reads1 (st log2 head : Nat) : Dev :=
  put [(rBwState, st), (rBwRingBase, 0x20_0000), (rBwRingLog2, log2), (rBwRingHead, head), (rBwWindow, 10)] (late.setDom domBwList (leBytes 2 400))

theorem witness_windows :
    (reads1 0 2 0).admits tan 0x9820 0x01 1 = true ∧ (reads1 0 2 0).admits tan 0x9820 0x01 2 = true ∧ late.bwBad = true ∧
    (reads1 0 2 0).bwBad = false ∧ (reads1 0 2 0).get rBwState = 0 ∧ (reads1 1 2 0).bwBad = false ∧ (reads1 1 2 0).get rBwState ≠ 0 ∧
    (reads1 1 2 0).get rBwState = 1 ∧ (reads1 1 2 0).cnt.armed = false ∧ (reads1 1 2 0).windowEnd ≤ (reads1 1 2 0).now ∧
    (reads1 1 2 0).bwFull = false ∧ (reads1 1 2 0xFFFF_FFFE).bwFull = false ∧ (reads1 1 2 0xFFFF_FFFD).bwFull = true ∧
    (∀ w ∈ (reads1 1 2 0).bwWrites, (reads1 1 2 0).refusedBy (reads1 1 2 0).cnt.bwWorld w.1 = none ∧
      (reads1 1 2 0).firstMarked w.1 w.2.length = none) := by decide +kernel

/-- A running package out of reset with its supply. -/
def powered : Dev := { late with pins := { late.pins with rstN := true, rails := 255 } }

theorem witness_rails :
    powered.pins.rstN = true ∧ bitAt powered.pins.rails 0 = true ∧ bitAt powered.pins.rails 2 = true ∧ bitAt powered.pins.rails 7 = true ∧
    (let d : Dev := { powered with pins := { powered.pins with rstN := false } }; d.pins.rstN = false ∧ bitAt d.pins.rails 2 = true) ∧
    tabGet powered.power.phases 1456 0 = 0 ∧
    (let e : Dev := { powered with power := { powered.power with phases := tabPut powered.power.phases 1456 1 } }; e.phasesLost 1456 = 1) ∧
    (let d : Dev := { powered with power := { powered.power with phases := [(1457, 1)] } }
     let e : Dev := { d with power := { d.power with phases := tabPut d.power.phases 1456 1 } }
     e.phasesLost 1456 = 2 ∧ (1456 - 1456) % 20 < 18 ∧ 0 = 3 * ((1456 - 1456) / 20) + (1456 - 1456) % 20 / 6 ∧ d.unit (.die 0) ≠ stOff) ∧
    (let d : Dev := { powered with power := { powered.power with phases := [(1475, 1)] } }
     let e : Dev := { d with power := { d.power with phases := tabPut d.power.phases 1474 1 } }
     18 ≤ (1474 - 1456) % 20 ∧ e.phasesLost 1474 = 2) := by decide +kernel

theorem witness_mgmtMismatch :
    powered.boot.mgmtFailed = false ∧ powered.boot.mgmtDown = false ∧ powered.boot.lastMismatch = none ∧
    (let d : Dev := { powered with boot := { powered.boot with lastMismatch := some 1500000000 } }
     d.boot.lastMismatch = some 1500000000 ∧ d.now < 1500000000 + 1000000000) ∧
    (let d : Dev := { powered with boot := { powered.boot with mgmtDown := true } }
     d.boot.mgmtDown = true ∧ d.boot.mgmtFailed = false ∧ d.waiting.filter (fun w => w.firmware) = []) := by decide +kernel

theorem witness_throttle :
    powered.pins.throttleN = true ∧ powered.get (rPllState 0) = 1 ∧ tabFind powered.power.changes 0 = none ∧ powered.get (rCclkActive 0) ≠ 3 ∧
    (let d : Dev := { powered with pins := { powered.pins with throttleN := false }, power := { powered.power with throttled := true, liftAt := some 5 } }
     d.pins.throttleN = false ∧ d.power.throttled = true ∧ d.power.liftAt = some 5 ∧ 5 ≤ d.now) := by decide +kernel

/-- Sensors that cap and lift, and the power loop with one die that can be capped and one that is. -/
theorem witness_caps :
    powered.get rThThrottle ≤ 110 ∧ powered.spaced powered.power.lastTherm 0 1 = true ∧ powered.stepDue 0 < 3 ∧
    (let d : Dev := { powered with power := { powered.power with thermalCap := [(capKey 0 0, 2)], powerCap := [(0, 2)] } }
     20 + 5 < d.get rThThrottle ∧ d.spaced d.power.lastTherm 0 10 = true ∧ d.spaced d.power.lastCool 0 10 = true ∧
       (tabFind d.power.thermalCap (capKey 0 0)).isSome = true ∧ 0 * 100 < d.get rPkgPowerLimit * 1000 * 97 ∧
       d.power.lastLift + 10000000 ≤ d.now ∧ (d.arbitrate arbPowerCap 12 (fun n => (tabFind d.power.powerCap n).isSome)).1 = some 0) ∧
    powered.power.lastPower + 1000000 ≤ powered.now ∧ 0 ≤ powered.get rPkgPowerLimit * 1000 ∧
    powered.get rPkgPowerLimit * 1000 < 10 ^ 9 ∧ (powered.arbitrate arbPowerCap 12 (fun n => powered.powerCapable n)).1 = some 0 ∧
    (∀ n < 12, (units [(.die 0, stReset)] powered).powerCapable n = false) := by decide +kernel

theorem witness_rows :
    late.boot.mgmtDown = false ∧ late.pathLive tan = true ∧
    (∀ i ∈ [headerIndex (.cluster 0), 0x3002, moduleIndex 0, 0x8040, 0x9800, 0x9000, 0x8000], (late.heard tan).silentAt tan i = false) := by
  decide +kernel

/-- The next state of an outcome. -/
def next? : Host.Outcome State Fault Refusal → Option State
  | .next s => some s
  | _ => none

/-- A write of the dictionary is the row that stands for it. -/
theorem test_rowsAreWrites :
    (([(Instr.blkToTantalum tan 7, 0x8047, 0x02, 2), (.cclkStepWrite tan 0 3, 0x3002, 0x02, 3), (.tkRestart tan, 0x8000, 0x04, 1)]).all (fun i =>
      (next? (exec i.1 (at_ late))).isSome &&
        next? (exec (.dictWrite tan i.2.1 i.2.2.1 [i.2.2.2]) (at_ late)) == next? (exec i.1 (at_ late)))) = true := by decide +kernel

/-- The bytes of a text. -/
def txt (s : String) : List Byte := s.toList.map (fun c => BitVec.ofNat 8 c.toNat)

/-- Table 00-5: a four-port arbiter with ports 1 and 3 requesting, then none, then port 1. -/
theorem test_arbiterTable :
    (let both : Nat → Bool := fun i => i = 1 || i = 3
     [arbWinner 4 0 both, arbWinner 4 2 both, arbWinner 4 0 both, arbWinner 4 2 (fun _ => false), arbWinner 4 2 (fun i => i = 1)]
       = [some 1, some 3, some 1, none, some 1] ∧ [arbNext 4 1, arbNext 4 3] = [2, 0]) := by decide

/-- The worked example of the address map: global slice 18, and slice 0 of BD1 with the local region; HB7 interleaved, HB3 contiguous. -/
theorem test_homeSlice :
    homeHash 0x12_3456_7840 = 18 ∧ up.homeSlice 0x12_3456_7840 = 18 ∧
    (put [(rLrBase 0, 0x0C_0000_0000), (rLrLimit 0, 0x17_FFFF_FFFF), (rLrBaseDie 0, 1), (rLrEnable 0, 1)] up).homeSlice 0x12_3456_7840 = 8 ∧
    (put [(rHbmInterleave, 1)] up).hbmStack 0x12_3456_7840 = 7 ∧ (put [(rHbmInterleave, 0)] up).hbmStack 0x12_3456_7840 = 3 := by decide +kernel

/-- Its directory set and tag (12), its Pewter index and segment (11). -/
theorem test_directoryPlace :
    up.dirSetNo 0x12_3456_7840 = 2767 ∧ up.dirTag 0x12_3456_7840 = 3728 ∧ up.pewterIndex 0x12_3456_7840 = 0x6_8ACF ∧
    segmentOf 0x6_8ACF = 52 := by decide +kernel

/-- Line 0x100_0A3C_5D80 on twelve channels of 16 Gb ×4 DIMMs (15): channel 1, and its first line of the row. -/
theorem test_placement :
    (let d : Dev := { put [(rDdrInstalled, 12 * 64 * 2 ^ 30)] up with dimms := (List.range 12).map (fun c => ⟨c, 64 * 2 ^ 30, 2, 16, 16, 6400⟩) }
     d.place 0x100_0A3C_5D80 = some ⟨1, 0, 59, 2, 1, 27, 0⟩ ∧ d.place 0x100_0A3B_0100 = some ⟨1, 0, 0, 2, 1, 27, 0⟩) := by decide +kernel

/-- The ring read of chapter 02, the NOTIFY and the verdict of chapter 18. -/
theorem test_frames :
    frameHead ⟨1, 0, 0x2A, false, false, 1, 0, 0x1002, 2, 0, 0, []⟩ = [0x10, 0x2A, 0x01, 0x00, 0x02, 0x10, 0x02, 0x00, 0x00, 0x00, 0x00] ∧
    frameHead (responseTo ⟨1, 0, 0x2A, false, false, 1, 0, 0x1002, 2, 0, 0, []⟩ .ok [4])
      = [0x01, 0x2A, 0x81, 0x00, 0x02, 0x10, 0x02, 0x00, 0x00, 0x01, 0x00, 0x04] ∧
    (let d := put [(rRingNode, 1)] up
     frameHead ({ d with ring := { d.ring with nextSeq := 7 } }.ownFrame 0 cmdNotify 0x1208 2 (leBytes 4 3))
       = [0x01, 0x07, 0x05, 0x00, 0x08, 0x12, 0x02, 0x00, 0x00, 0x04, 0x00, 0x03, 0x00, 0x00, 0x00]) ∧
    frameHead ⟨1, 0, 0x31, false, false, 2, 0, 0x1208, 3, 0, 1, [1]⟩ = [0x10, 0x31, 0x02, 0x00, 0x08, 0x12, 0x03, 0x00, 0x00, 0x01, 0x00, 0x01] := by
  decide +kernel

/-- The check values of the three checksums for the nine digits are those of their standards. -/
theorem test_checksums :
    crc32c (txt "123456789") = 0xE306_9283 ∧ crc32 (txt "123456789") = 0xCBF4_3926 ∧ adler32 (txt "ABABABAB") = 0x093C_020D := by decide +kernel

/-- The squashed record of chapter 03, its instance with phase 1. -/
theorem test_squashRecord :
    (let y : Inst := { Inst.reset with phase := true }
     let d : Dev := { (put [(rInstClass 0, 3)] up).setInst 0 y with clock := { up.clock with invar := 0x0000_0123_4567_89AB } }
     d.record { jobOf 0 0 0 0 [] [] [] with desc := leBytes 2 0x0001 ++ leBytes 2 0x0013 ++ zeros 60, status := jsSquashed, opDone := false }
       = [0x13, 0, 1, 1, 0, 0, 0, 0] ++ zeros 16 ++ [0xAB, 0x89, 0x67, 0x45, 0x23, 1, 0, 0]) := by decide +kernel

/-- The descriptor of the Falcon-1024 signing job of chapter 04 and its record; the journal record's first 48 bytes (05). -/
def signDesc : List Byte :=
  [0x13, 1, 1, 5, 0xD2, 0, 0, 0, 0, 0, 0, 0x10, 0, 0x7F, 0, 0, 0, 0x40, 0, 0x10, 0, 0x7F, 0, 0, 0, 5, 0, 0, 0x17, 0x2A, 4, 0, 3] ++ zeros 31

theorem test_signJob :
    signDesc.length = 64 ∧ stDecode signDesc = jsOk ∧ descOpcode signDesc = 0x13 ∧ descIrq signDesc = true ∧ descTag signDesc = 0x0501 ∧
    descInLen signDesc = 210 ∧ descCap signDesc = 1280 ∧ descKeyA signDesc = 0x4_2A17 ∧ descGenA signDesc = 3 ∧
    (let y : Inst := { Inst.reset with phase := true }
     let d : Dev := { (put [(rInstClass 0, 1)] up).setInst 0 y with clock := { up.clock with invar := 0x0000_0123_4A5B_6C7D } }
     d.record { jobOf 0 0 0 0 [] [] [] with desc := signDesc, status := jsOk, written := 1280, detail := 0x01F3_A2C4, genA := 3, result := 3, attempts := 1 }
       = [1, 5, 0, 1, 0, 5, 0, 0, 0xC4, 0xA2, 0xF3, 1, 0, 0, 0, 0, 2, 1, 3, 0, 0, 0, 0, 0, 0x7D, 0x6C, 0x5B, 0x4A, 0x23, 1, 0, 0]) := by decide +kernel

theorem test_journalRecord :
    (jnBody 2 0x01F3_A2C4 0x0000_0123_4A5B_6895 ⟨0x1C2, 0x13, 0, 0x0B17, 0x4_2A17, 3, 0, 0, false, false, 1, zeros 210, zeros 1280⟩).take 48
      = [0xC4, 0xA2, 0xF3, 1, 0, 0, 0, 0, 0x95, 0x68, 0x5B, 0x4A, 0x23, 1, 0, 0, 0xC2, 1, 0x13, 0, 0x17, 0x0B, 0, 0, 0x17, 0x2A, 4, 0, 3, 0, 0, 0,
         0, 0, 0, 0, 6, 0, 0, 0, 0xD2, 0, 0, 0, 0, 5, 0, 0] := by decide +kernel

/-- The PAN field and the PIN field of chapter 04. -/
theorem test_panField :
    panField (txt "4000123456789010") = some ([0x44, 0, 1, 0x23, 0x45, 0x67, 0x89, 1] ++ zeros 8) ∧
    pinGood [0x44, 0x12, 0x34, 0xAA, 0xAA, 0xAA, 0xAA, 0xAA, 0x3C, 0x91, 0x5E, 0x07, 0xD2, 0x68, 0xB4, 0x1F] = true := by decide +kernel

/-- The bytes that a conversion gives. -/
def given : Conv → Option (List Byte)
  | .ok l => some l
  | .error _ => none

/-- The conversions of the map of chapter 06. -/
theorem test_conversions :
    given (amountToDec 2 (txt "000000012550")) = some (txt "125.50") ∧
    given (datetime (txt "MMDDhhmmss") (txt "YYYY-MM-DDThh:mm:ss") (txt "20260314") (txt "0314093015")) = some (txt "2026-03-14T09:30:15") := by
  decide +kernel

/-- The COMPRESS job of chapter 07: zlib, STRATEGY 1, FINISH; and back, with EXPECT; and with a byte of the stream changed. -/
def dfDesc (op flags flush strategy expected cap n : Nat) : List Byte :=
  leBytes 4 op ++ leBytes 4 n ++ zeros 16 ++ leBytes 4 cap ++ leBytes 1 1 ++ leBytes 1 flags ++ leBytes 1 flush ++ leBytes 1 strategy ++ zeros 4
    ++ leBytes 4 expected ++ zeros 24

def dfStreamBytes : List Byte := [0x78, 0x01, 0x73, 0x74, 0x82, 0x40, 0x00, 0x09, 0x3C, 0x02, 0x0D]

theorem test_compress :
    (let b := dfDesc 1 1 3 1 0 37 8
     let r := dfCompress b (dfNew b) (txt "ABABABAB")
     dfDecode b = jsOk ∧ r.1 = dfStreamBytes ∧ leBytes 8 (dfResult r.2.check r.2.total) = [0x0D, 2, 0x3C, 9, 8, 0, 0, 0]) := by decide +kernel

theorem test_decompress :
    (let b := dfDesc 2 7 0 0 0x093C_020D 64 11
     let r := dfDecompress b (dfNew b) dfStreamBytes
     let bad := dfDecompress b (dfNew b) (dfStreamBytes.set 2 0x77)
     dfDecode b = jsOk ∧ r.status = jsOk ∧ r.ended = true ∧ r.used = 88 ∧ r.run.output = txt "ABABABAB" ∧ bad.status = jsIllegalCode ∧ bad.pos = 16) := by
  decide +kernel

/-- The record of the urgent row fault of chapter 17. -/
theorem test_faultRecord :
    faultBytes ⟨⟨0x0000_0124_0100_0000, true, 0x100_0A3B_0100, 0, 0x4B, false⟩, 605, 4, 1, false, false, 0x1A2B, 0⟩
      = [0, 0, 0, 1, 0x24, 1, 0, 0, 0, 1, 0x3B, 0x0A, 0, 1, 0, 0x80, 0, 0, 0, 0, 0x5D, 2, 0x4B, 4, 1, 0, 0, 0, 0x2B, 0x1A, 0, 0] := by decide +kernel

/-- The bandwidth ring's entries of chapter 20. -/
theorem test_bandwidthEntries :
    bwHeader false false 41 0x0000_0124_1006_4200 = [0xFF, 0xFF, 0, 0, 0x29, 0, 0, 0, 0, 0x42, 6, 0x10, 0x24, 1, 0, 0] ∧
    bwPortEntry 0xB9 true 1152000 640000 = [0xB9, 0, 1, 0, 0, 0x94, 0x11, 0, 0, 0, 0, 0xC4, 9, 0, 0, 0] ∧
    bwPortEntry 0x99 true 128000 320000 = [0x99, 0, 1, 0, 0, 0xF4, 1, 0, 0, 0, 0, 0xE2, 4, 0, 0, 0] ∧
    (put [(rBwRingBase, 0x100_0020_0000), (rBwRingLog2, 8)] up).bwEntryAt 123 = 0x100_0020_07B0 := by decide +kernel

/-- The capability record of BD3 in chapter 14, before and after its repair. -/
theorem test_capabilityRecord :
    (recordBytes ⟨true, 1, 0, 2, 0x20, 1, 0x21, 0x21, 2 ^ 64 - 1, 2, 0x40, 0⟩).take 28
      = [1, 0, 2, 0x20, 1, 0, 0x21, 0x21] ++ List.replicate 8 0xFF ++ [2, 0x40] ++ zeros 10 ∧
    ((recordBytes ⟨true, 1, 0, 2, 0x20, 1, 0x21, 0x40, 2 ^ 64 - 1, 2, 0x40, 0x8985⟩).drop 18).take 2 = [0x85, 0x89] ∧
    endPosition 13 0 ∈ [0x11, 0x21] ∧ endPosition 13 1 ∈ [0x11, 0x21] := by decide +kernel

/-- The straps of chapter 21: fourteen root ports; root port 1 has no assignment object, and group 229 no kind. -/
theorem test_straps :
    (let d := put [(rStrapRaw, 0b11_01_00_10 * 2 ^ 9)] up
     (List.range 24).filter d.rootPort = [0, 4, 6, 7, 8, 9, 10, 11, 12, 14, 16, 18, 22, 23] ∧ d.groupKind 229 = 0 ∧ d.blockExists 9 = false) := by
  decide +kernel

/-- Two store errors of chapter 08: the first is logged, the second sets OVF and LOST. -/
theorem test_storeErrors :
    (let h : Hart := ((up.logBusError 57 1 0x4_0100_0020_0040 4 .normal).logBusError 57 1 0x4_0100_0020_0044 4 .normal).hart 57
     h.logN.info = 0xC000_0000_0001_0102#64 ∧ h.logN.addr = 0x0004_0100_0020_0040#64) := by decide +kernel

/-- The divisors of the CCLK steps (Table 01-7). -/
theorem test_stepCodes : [cclkDivisor 0, cclkDivisor 1, cclkDivisor 2, cclkDivisor 3] = [4, 5, 6, 8] := by decide

/-- The example vector of FIPS 197 for AES-128. -/
theorem test_aes :
    aesEnc (beBytes 16 0x0001_0203_0405_0607_0809_0A0B_0C0D_0E0F) (beBytes 16 0x0011_2233_4455_6677_8899_AABB_CCDD_EEFF)
      = beBytes 16 0x69C4_E0D8_6A7B_0430_D8CD_B780_70B4_C55A := by decide +kernel

/-- One ill-formed command for each check, which the check refuses; beside it the last one that is well formed. -/
theorem smoke_numbers :
    ([Instr.wret 240, .storeBufferDrain 240 .none, .pllLockLost 17, .cclkDividerSwitch 12, .attSigned 4, .updateDrainDone 88, .msiSend 4096,
      .reservationGrant 32 0, .reservationGrant 0 248, .elbLoadDone 64 0, .elbLoadDone 0 2, .routerBypass 160 true, .resyncTimeout 136,
      .nakRepeat 272, .mcSwitchDone 20 true, .harfortReplayLimit 4, .harfortResendTimeout 4, .sessionIdleExpiry 16, .wbAck 240 0,
      .vnOrderHoldRelease 24, .injectionGrant 192, .ksEraseComplete 0x10_0000, .urgentEscalation 4096, .foldedUrgentEscalation 1536,
      .regulatorPhaseLoss 1455, .railOutOfTolerance 0, .railOutOfTolerance 8, .thermalTrip 0 16, .handoverReleaseDone 34, .tableLineFill 63 0 0,
      .tableLineFill 64 8 0, .msiReceive 0 8 1, .lockstepMismatch 1, .jobSlotStart (.reserved 4096), .jobSlotStart (.pool 0 .normal),
      .jobSlotStart (.pool 4 .normal), .linkReplayRequest 0 99, .harfortL0 0 4, .syncReceive (2 ^ 64) true, .inv 12 0 none,
      .evictClean 240 0, .memoryWriteComplete 1, .mcLineRead 63 0 .clean .clean, .grantAck 0 32, .extest [(9216, true)]].all
        (fun i => !i.wellFormed)) = true ∧
    ([Instr.wret 239, .pllLockLost 16, .cclkDividerSwitch 11, .attSigned 3, .updateDrainDone 87, .msiSend 4095, .reservationGrant 31 247,
      .elbLoadDone 63 1, .routerBypass 159 true, .resyncTimeout 135, .nakRepeat 271, .mcSwitchDone 19 true, .harfortReplayLimit 3,
      .sessionIdleExpiry 15, .regulatorPhaseLoss 1456, .regulatorPhaseLoss 1535, .railOutOfTolerance 7, .handoverReleaseDone 33,
      .tableLineFill 79 7 0, .jobSlotStart (.pool 3 .tantalum), .harfortL0 0 0x10, .inv 247 0 none, .evictClean 245 64, .grantAck 0 64,
      .extest [(9215, true)]].all (fun i => i.wellFormed)) = true := by decide +kernel

theorem smoke_operands :
    ([Instr.unitNop (.ring 16) .package, .unitNop tan (.core 240), .unitNop tan (.cluster 6), .unitNop tan (.die 17), .cclkStepWrite tan 17 0,
      .localRegionEnable tan 16 1, .wrEnableWrite tan 32 1, .scrubListWrite tan 0x12 0, .debugEnableWrite tan 0 1, .srcClear tan 1536,
      .cgEventWrite tan 1 0, .cgEventWrite tan 2 65536, .ksProvisionWrite tan 6 0, .sessionIdleWrite tan (2 ^ 32), .blkToNormal tan 34,
      .sdRetrain tan 52, .mcSwitch tan 20, .hfEnable tan 4, .elbSwitch tan 64, .engNop tan 88, .esRestart tan 4 1,
      .registerWrite (.mailbox .normal 2 0), .registerWrite (.instPage 4096 0 .normal 0), .registerWrite (.csr 240 0 0),
      .load ⟨0, 1088, 0, 4, true, 4⟩ .none, .load ⟨0, 1, 0, 3, true, 4⟩ .none, .store ⟨0, 1, 0, 4, true, 3⟩, .lr ⟨0, 1, 0, 2, true, 4⟩,
      .amo ⟨0, 1, 0, 4, true, 4⟩ .add 32, .wcall 0 0x33, .readOwn ⟨248, 0, .normal, 0, 0⟩ .none .none .none,
      .readOwn ⟨0, 1, .normal, 0, 0⟩ .none .none .none, .homeSwap ⟨0, 0, .normal, 0, 0⟩ 2 0 0 .none .none,
      .homeSwap ⟨0, 0, .normal, 0, 0⟩ 8 4 0 .none .none, .homeSwap ⟨0, 0, .normal, 0, 0⟩ 8 64 0 .none .none,
      .iommuTranslate ⟨some 4096, 0, 0, none, 0, true, .normal, .untranslated⟩, .iommuTranslate ⟨none, 24, 0, none, 0, true, .normal, .untranslated⟩,
      .ringFrameReceive ⟨16, 0, 0, false, true, 0, 0, 0, 0, 0, 0, []⟩ .good].all (fun i => !i.wellFormed)) = true ∧
    ([Instr.unitNop (.ring 15) (.core 239), .cclkStepWrite tan 16 3, .load ⟨239, 1087, 0, 8, false, 0⟩ .none, .lr ⟨0, 1, 0, 4, true, 4⟩,
      .wcall 0 0x0B, .homeSwap ⟨0, 0, .normal, 0, 0⟩ 8 56 0 .none .none, .registerWrite (.instPage 4095 0xFFC .normal 0)].all
        (fun i => i.wellFormed)) = true := by decide +kernel

end Sys2Proof.Tests
end

section
/-!
SUPPORT. Keys of registers, and what a read finds where the registers of an index have been reset.
-/
namespace Sys2Proof.Machine

theorem keySub_regKey (idx elem : Nat) {sub : Nat} (h : sub < 2 ^ 8) : keySub (regKey idx elem sub) = sub := by
  unfold keySub regKey; omega

theorem keyIndex_regKey (idx : Nat) {elem sub : Nat} (he : elem < 2 ^ 24) (hs : sub < 2 ^ 8) :
    keyIndex (regKey idx elem sub) = idx := by
  unfold keyIndex regKey; omega

/-- Registers with different sub-indices have different keys. -/
theorem regKey_ne_of_sub {i e a j f b : Nat} (ha : a < 2 ^ 8) (hb : b < 2 ^ 8) (h : a ≠ b) : regKey i e a ≠ regKey j f b := by
  intro hk
  have := congrArg keySub hk
  rw [keySub_regKey _ _ ha, keySub_regKey _ _ hb] at this
  exact h this

/-- Dropping keys leaves the others alone. -/
theorem tabFind_tabDrop_other {α : Type} (t : Tab α) {f : Nat → Bool} {k : Nat} (h : f k = false) :
    tabFind (tabDrop t f) k = tabFind t k := by
  induction t with
  | nil => rfl
  | cons e r ih =>
    obtain ⟨k', v'⟩ := e
    cases hk : f k' with
    | true =>
      have hne : k' ≠ k := fun hEq => by rw [hEq, h] at hk; cases hk
      have : tabDrop ((k', v') :: r) f = tabDrop r f := by simp [tabDrop, hk]
      simp [this, ih, tabFind, hne]
    | false =>
      have : tabDrop ((k', v') :: r) f = (k', v') :: tabDrop r f := by simp [tabDrop, hk]
      simp [this, tabFind, ih]

/-- A read depends on the register store alone. -/
theorem Dev.get_congr {d e : Dev} (h : e.regs = d.regs) (q : Reg) : e.get q = d.get q := by simp [Dev.get, h]

/-- A reset of some indices leaves the registers of the others alone (R48). -/
theorem Dev.get_resetRegs_other (d : Dev) {f : Nat → Bool} {q : Reg} (h : f (keyIndex q.key) = false) :
    (d.resetRegs f).get q = d.get q := by
  simp [Dev.get, Dev.resetRegs, tabGet, tabFind_tabDrop_other (f := fun k => f (keyIndex k)) _ h]

/-- What a fold's every step leaves alone, the fold leaves alone. -/
theorem foldl_keeps {α β γ : Type} (g : β → γ) {f : β → α → β} (h : ∀ b a, g (f b a) = g b) (l : List α) (b : β) :
    g (l.foldl f b) = g b :=
  List.foldlRecOn l f (motive := fun e => g e = g b) rfl (fun e he a _ => (h e a).trans he)

/-- A device whose register store is another's but for one write reads the value written. -/
theorem Dev.get_of_regs_set {d e : Dev} {r : Reg} {v : Nat} (h : e.regs = (d.set r v).regs) : e.get r = v := by
  rw [Dev.get_congr h, Dev.get_set_same]

/-- It reads as that one everywhere else. -/
theorem Dev.regsBut_of_regs_set {d e : Dev} {r : Reg} {v : Nat} (h : e.regs = (d.set r v).regs) : d.regsBut e [r] := by
  intro q hq
  rw [Dev.get_congr h]
  exact d.get_set_other v (fun hk => hq (by simp [hk]))

end Sys2Proof.Machine
end

section
/-!
SUPPORT. The register frame of a compute die that leaves service (R30, R195): its cores stop and their lines leave, and of the registers
only command registers of headers and those of cores in reset are written.
-/
namespace Sys2Proof.Machine

@[simp] theorem Dev.setL2_regs (d : Dev) (k line : Nat) (l : L2Line) : (d.setL2 k line l).regs = d.regs := rfl

@[simp] theorem Dev.loseResv_regs (d : Dev) (k line : Nat) : (d.loseResv k line).regs = d.regs := by
  unfold Dev.loseResv; dsimp only; split <;> rfl

@[simp] theorem Dev.sendVn4_regs (d : Dev) (k : Nat) (m : Instr) : (d.sendVn4 k m).regs = d.regs := by
  unfold Dev.sendVn4
  split
  · rfl
  · dsimp only; split <;> rfl

@[simp] theorem Dev.evict_regs (d : Dev) (k line : Nat) : (d.evict k line).regs = d.regs := by
  unfold Dev.evict
  dsimp only
  split <;> simp

@[simp] theorem Dev.flushMarked_regs (d : Dev) (k : Nat) : (d.flushMarked k).regs = d.regs := by
  refine foldl_keeps Dev.regs (fun e a => ?_) _ d
  dsimp only
  split
  · simp
  · split <;> simp

@[simp] theorem Dev.fenceCore_regs (d : Dev) (k : Nat) : (d.fenceCore k).regs = d.regs := by
  change ((d.haltCore k).flushMarked k).regs = d.regs
  rw [Dev.flushMarked_regs]
  rfl

@[simp] theorem Dev.setCore_regs (d : Dev) (k st : Nat) : (d.setCore k st).regs = d.regs := by
  unfold Dev.setCore; dsimp only; split <;> rfl

/-- A register that the header commands and the reset of a core leave alone: it lies below the cores' objects and is no `unitCommand`. -/
def Reg.quiet (q : Reg) : Prop := keyIndex q.key < 0x4000 ∧ keySub q.key ≠ 8

/-- A command register is not quiet. -/
theorem Reg.quiet.ne_unitCommand {q : Reg} (h : q.quiet) (u : UnitRef) : (rUnitCommand u).key ≠ q.key := by
  intro hk
  apply h.2
  rw [← hk]
  exact keySub_regKey _ _ (by decide)

theorem Dev.get_set_unitCommand (d : Dev) {q : Reg} (h : q.quiet) (u : UnitRef) (v : Nat) :
    (d.set (rUnitCommand u) v).get q = d.get q :=
  d.get_set_other v (h.ne_unitCommand u)

theorem Dev.get_holdCore (d : Dev) {q : Reg} (h : q.quiet) (k : Nat) : (d.holdCore k).get q = d.get q := by
  unfold Dev.holdCore
  split
  · rfl
  · refine d.get_resetRegs_other (f := fun i => 0x4000 + 0x10 * k < i && i < 0x4010 + 0x10 * k) ?_
    have := h.1
    simp only [Bool.and_eq_false_iff, decide_eq_false_iff_not]
    omega

theorem Dev.get_holdCores (d : Dev) {q : Reg} (h : q.quiet) (n : Nat) (l : List Nat) :
    (l.foldl (fun d c => d.holdCore (20 * n + c)) d).get q = d.get q :=
  foldl_keeps (fun e : Dev => e.get q) (fun e c => e.get_holdCore h (20 * n + c)) l d

theorem Dev.get_dieDrained (d : Dev) {q : Reg} (h : q.quiet) (n : Nat) : (d.dieDrained n).get q = d.get q := by
  unfold Dev.dieDrained
  split
  · split
    · rw [Dev.setUnit_read_get, Dev.get_holdCores _ h]
      rfl
    · rw [Dev.get_set_unitCommand _ h, Dev.setUnit_read_get]
  · rfl

/-- A running command of a unit ends as REFUSED. -/
theorem Dev.get_refuseRunning (d : Dev) {q : Reg} (h : q.quiet) (u : UnitRef) :
    (if d.get (rUnitCommand u) = cmdRunning then d.set (rUnitCommand u) cmdRefused else d).get q = d.get q := by
  split
  · exact d.get_set_unitCommand h u cmdRefused
  · rfl

theorem Dev.get_fencePair (d : Dev) {q : Reg} (h : q.quiet) (k : Nat) : (d.fencePair k).get q = d.get q := by
  unfold Dev.fencePair
  dsimp only
  generalize (if d.pairMode k then k / 2 * 2 else k) = lead
  split
  · rw [Dev.get_dieDrained _ h, Dev.get_refuseRunning _ h]
    exact Dev.get_congr (by simp) q
  · rfl

theorem Dev.get_fenceDie (d : Dev) {q : Reg} (h : q.quiet) (n : Nat) : (d.fenceDie n).get q = d.get q :=
  foldl_keeps (fun e : Dev => e.get q) (fun e k => e.get_fencePair h k) _ (d.setUnit (.die n) stFenced)

theorem Dev.get_dieLost (d : Dev) {q : Reg} (h : q.quiet) (n : Nat) : (d.dieLost n).get q = d.get q := by
  unfold Dev.dieLost
  split
  · rfl
  · exact (Dev.get_refuseRunning _ h (.die n)).trans (d.get_fenceDie h n)

/-- R30: a die that has power and is lost reads FAILED. -/
theorem Dev.unit_dieLost (d : Dev) {n : Nat} (h : d.unit (.die n) ≠ stOff) : (d.dieLost n).unit (.die n) = stFailed := by
  unfold Dev.dieLost
  by_cases hf : d.unit (.die n) = stFailed
  · simp [hf]
  · simp only [hf, h, decide_false, Bool.or_self, Bool.false_eq_true, if_false]
    split
    · exact Dev.unit_setUnit_same _ _ _
    · exact Dev.unit_setUnit_same _ _ _

end Sys2Proof.Machine
end

section
/-!
SUPPORT. The step changes of the compute dies (R31, R32, R443): when one begins, goes on and ends, and that it touches nothing but the
list of changes.
-/
namespace Sys2Proof.Machine

/-- The device with other step changes in progress. -/
def Dev.withChanges (d : Dev) (c : Tab StepChange) : Dev := { d with power := { d.power with changes := c } }

/-- The beginning of a change touches the list of changes alone. -/
theorem Dev.startStep_withChanges (d : Dev) (n : Nat) : ∃ c, d.startStep n = d.withChanges c := by
  unfold Dev.startStep
  split
  · exact ⟨d.power.changes, rfl⟩
  · exact ⟨_, rfl⟩

/-- So does the progress of one. -/
theorem Dev.stepGoes_withChanges (d : Dev) (n : Nat) (x : StepChange) : ∃ c, d.stepGoes n x = d.withChanges c := by
  unfold Dev.stepGoes
  split
  · obtain ⟨c, hc⟩ := (d.withChanges (tabErase d.power.changes n)).startStep_withChanges n
    exact ⟨c, hc⟩
  · exact ⟨_, rfl⟩

@[simp] theorem Dev.stepGoes_regs (d : Dev) (n : Nat) (x : StepChange) : (d.stepGoes n x).regs = d.regs := by
  obtain ⟨c, hc⟩ := d.stepGoes_withChanges n x
  rw [hc]; rfl

/-- A step due that is not in effect begins a change, where the PLL is locked and none is in progress. -/
theorem Dev.startStep_begins {d : Dev} {n : Nat} (hl : d.get (rPllState n) = 1) (hc : tabFind d.power.changes n = none)
    (hs : d.stepDue n ≠ d.get (rCclkActive n)) :
    tabFind (d.startStep n).power.changes n = some ⟨d.stepDue n, d.stepDue n < d.get (rCclkActive n), false, false⟩ := by
  simp [Dev.startStep, hl, hc, hs]

/-- A step due that is in effect begins none. -/
theorem Dev.startStep_idle {d : Dev} {n : Nat} (hs : d.stepDue n = d.get (rCclkActive n)) : d.startStep n = d := by
  simp [Dev.startStep, hs]

/-- A change one of whose parts is not over goes on. -/
theorem Dev.stepGoes_waits (d : Dev) (n : Nat) {x : StepChange} (h : (x.switched && x.settled) = false) :
    tabFind (d.stepGoes n x).power.changes n = some x := by
  simp [Dev.stepGoes, h]

/-- A change both of whose parts are over ends, where the step due is in effect. -/
theorem Dev.stepGoes_ends {d : Dev} {n : Nat} {x : StepChange} (h : (x.switched && x.settled) = true)
    (hs : d.stepDue n = d.get (rCclkActive n)) : tabFind (d.stepGoes n x).power.changes n = none := by
  have hi : (d.withChanges (tabErase d.power.changes n)).startStep n = d.withChanges (tabErase d.power.changes n) :=
    Dev.startStep_idle hs
  have hg : d.stepGoes n x = (d.withChanges (tabErase d.power.changes n)).startStep n := by
    simp only [Dev.stepGoes, h, if_true]; rfl
  rw [hg, hi]
  exact tabFind_tabErase_same _ _

/-- The step due rests on `cclkStep` and the caps. -/
theorem Dev.stepDue_congr {d e : Dev} {n : Nat} (hp : e.power = d.power) (hs : e.get (rCclkStep n) = d.get (rCclkStep n)) :
    e.stepDue n = d.stepDue n := by
  simp only [Dev.stepDue, Dev.capOf, hp, hs]

/-- After a write of `cclkStep` the slower of the step and the cap is due. -/
theorem Dev.stepDue_set_cclkStep (d : Dev) (n v : Nat) : (d.set (rCclkStep n) v).stepDue n = max v (d.capOf n) := by
  simp only [Dev.stepDue, Dev.get_set_same]; rfl

theorem rCclkStep_key_ne_rPllState (n : Nat) : (rCclkStep n).key ≠ (rPllState n).key :=
  regKey_ne_of_sub (by decide) (by decide) (by decide)

theorem rCclkStep_key_ne_rCclkActive (n : Nat) : (rCclkStep n).key ≠ (rCclkActive n).key :=
  regKey_ne_of_sub (by decide) (by decide) (by decide)

theorem rStepChanges_key_ne_rCclkStep (n : Nat) : (rStepChanges n).key ≠ (rCclkStep n).key :=
  regKey_ne_of_sub (by decide) (by decide) (by decide)

theorem rStepChanges_key_ne_rCclkActive (n : Nat) : (rStepChanges n).key ≠ (rCclkActive n).key :=
  regKey_ne_of_sub (by decide) (by decide) (by decide)

end Sys2Proof.Machine
end

section
/-!
PROOF. The commands of the CCLK steps (R31, R32, R443).
-/
namespace Sys2Proof.Machine

theorem Dev.stepBarred_takeTurn (d : Dev) (p : Path) (v : Nat) : (d.takeTurn p).stepBarred v = d.stepBarred v := by
  simp [Dev.stepBarred, Dev.hasFeature, Dev.get]

theorem Dev.cclkWrite_range {d : Dev} {v : Nat} (n : Nat) (h : d.stepBarred v = true) : d.cclkWrite n v = (.range, d) := by
  simp [Dev.cclkWrite, h]

theorem Dev.cclkWrite_busy {d : Dev} {n v : Nat} (h : d.stepBarred v = false) (hc : (tabFind d.power.changes n).isSome = true) :
    d.cclkWrite n v = (.busy, d) := by
  simp [Dev.cclkWrite, h, hc]

theorem Dev.cclkWrite_ok {d : Dev} {n v : Nat} (h : d.stepBarred v = false) (hc : tabFind d.power.changes n = none) :
    d.cclkWrite n v = (.ok, (d.set (rCclkStep n) v).startStep n) := by
  simp [Dev.cclkWrite, h, hc]

/-- A step write that no condition of Table 02-3 turns away is answered as `cclkWrite` says. -/
theorem cclkStepWrite_gives {s : State} {p : Path} {n v : Nat} {r : Reply} (hn : n < 17)
    (ha : s.dev.admits p (0x3002 + 0x80 * n) 0x02 v = true) (hr : (s.dev.heard p).cclkWrite n v = r) :
    Gives (.cclkStepWrite p n v) s (r.2.respond p r.1 []) := by
  subst hr
  change execCclkStepWrite p n v s = _
  rw [execCclkStepWrite, if_pos hn]
  exact writeCommand_admitted ha

/-- R32, R443: a step write that nothing bars is taken, and the change to the slower of the step and the cap begins. -/
theorem cclkStepWrite_taken {s : State} {p : Path} {n v : Nat} (hn : n < 17)
    (ha : s.dev.admits p (0x3002 + 0x80 * n) 0x02 v = true) (hb : s.dev.stepBarred v = false)
    (hc : tabFind s.dev.power.changes n = none) :
    Reaches (.cclkStepWrite p n v) s (fun t => t.answered p .ok ∧ t.get (rCclkStep n) = v ∧
      (s.dev.get (rPllState n) = 1 → max v (s.dev.capOf n) ≠ s.dev.get (rCclkActive n) →
        tabFind t.power.changes n = some ⟨max v (s.dev.capOf n), max v (s.dev.capOf n) < s.dev.get (rCclkActive n), false, false⟩) ∧
      (max v (s.dev.capOf n) = s.dev.get (rCclkActive n) → tabFind t.power.changes n = none) ∧
      s.dev.regsBut t [rCclkStep n] ∧ s.dev.stores t) := by
  have hc' : tabFind (s.dev.heard p).power.changes n = none := by simpa using hc
  refine ⟨_, cclkStepWrite_gives hn ha (Dev.cclkWrite_ok ((s.dev.stepBarred_takeTurn p v).trans hb) hc'), ?_⟩
  generalize he : (s.dev.heard p).set (rCclkStep n) v = e
  have hregs : e.regs = (s.dev.set (rCclkStep n) v).regs := by simp [← he, Dev.set]
  have hdue : e.stepDue n = max v (s.dev.capOf n) := by simp [← he, Dev.stepDue_set_cclkStep, Dev.capOf]
  have hpll : e.get (rPllState n) = s.dev.get (rPllState n) := by
    rw [Dev.get_congr hregs, Dev.get_set_other _ _ (rCclkStep_key_ne_rPllState n)]
  have hact : e.get (rCclkActive n) = s.dev.get (rCclkActive n) := by
    rw [Dev.get_congr hregs, Dev.get_set_other _ _ (rCclkStep_key_ne_rCclkActive n)]
  have hnone : tabFind e.power.changes n = none := by simpa [← he] using hc
  have htregs : ((e.startStep n).respond p .ok []).regs = (s.dev.set (rCclkStep n) v).regs := by simp [hregs]
  refine ⟨Dev.respond_resp_same _ _ _ _, Dev.get_of_regs_set htregs, fun hl hs => ?_, fun hs => ?_,
    Dev.regsBut_of_regs_set htregs, ?_⟩
  · rw [← hdue, ← hact] at hs ⊢
    exact Dev.startStep_begins (hpll.trans hl) hnone hs
  · rw [Dev.startStep_idle (hdue.trans (hs.trans hact.symm))]
    exact hnone
  · simp [Dev.stores, ← he]

/-- R49: a barred step gives RANGE. -/
theorem cclkStepWrite_range {s : State} {p : Path} {n v : Nat} (hn : n < 17)
    (ha : s.dev.admits p (0x3002 + 0x80 * n) 0x02 v = true) (hb : s.dev.stepBarred v = true) :
    Gives (.cclkStepWrite p n v) s ((s.dev.heard p).respond p .range []) :=
  cclkStepWrite_gives hn ha (Dev.cclkWrite_range n ((s.dev.stepBarred_takeTurn p v).trans hb))

/-- R32: a write while a change is in progress gives BUSY. -/
theorem cclkStepWrite_busy {s : State} {p : Path} {n v : Nat} (hn : n < 17)
    (ha : s.dev.admits p (0x3002 + 0x80 * n) 0x02 v = true) (hb : s.dev.stepBarred v = false)
    (hc : (tabFind s.dev.power.changes n).isSome = true) :
    Gives (.cclkStepWrite p n v) s ((s.dev.heard p).respond p .busy []) :=
  cclkStepWrite_gives hn ha (Dev.cclkWrite_busy ((s.dev.stepBarred_takeTurn p v).trans hb) (by simpa using hc))

/-- A register write and the progress of a change leave the stores alone. -/
theorem Dev.stores_set_stepGoes (d : Dev) (r : Reg) (v n : Nat) (x : StepChange) : d.stores ((d.set r v).stepGoes n x) := by
  obtain ⟨c, hc⟩ := (d.set r v).stepGoes_withChanges n x
  rw [hc]
  exact ⟨rfl, rfl, rfl, rfl, rfl⟩

/-- R31: when the divider may switch; toward a faster step the voltage has settled. -/
theorem Dev.switchDue_of {d : Dev} {n : Nat} {c : StepChange} (hc : tabFind d.power.changes n = some c) (hw : c.switched = false)
    (hf : c.faster = true → c.settled = true) (hr : d.sinceLock n % 120 = 0) : d.switchDue n = true := by
  have hv : (!c.faster || c.settled) = true := by
    cases hb : c.faster with
    | false => rfl
    | true => exact hf hb
  simp [Dev.switchDue, hc, hw, hv, hr]

/-- R31: the switch of the divider. -/
theorem cclkDividerSwitch_reaches {s : State} {n : Nat} {c : StepChange} (hn : n < 12) (hc : tabFind s.dev.power.changes n = some c)
    (hw : c.switched = false) (hf : c.faster = true → c.settled = true) (hr : s.dev.sinceLock n % 120 = 0) :
    Reaches (.cclkDividerSwitch n) s (fun t => t.get (rCclkActive n) = c.target ∧
      (c.settled = false → tabFind t.power.changes n = some { c with switched := true }) ∧
      (c.settled = true → s.dev.stepDue n = c.target → tabFind t.power.changes n = none) ∧
      s.dev.regsBut t [rCclkActive n] ∧ s.dev.stores t) := by
  have hdue : s.dev.switchDue n = true := Dev.switchDue_of hc hw hf hr
  refine ⟨(s.dev.set (rCclkActive n) c.target).stepGoes n { c with switched := true }, ?_,
    Dev.get_of_regs_set (Dev.stepGoes_regs _ _ _), fun hs => ?_, fun hs ht => ?_,
    Dev.regsBut_of_regs_set (Dev.stepGoes_regs _ _ _), Dev.stores_set_stepGoes _ _ _ _ _⟩
  · change execCclkDividerSwitch n s = _
    rw [execCclkDividerSwitch, occursAt_next (decide_eq_true hn) hdue, hc]
  · exact Dev.stepGoes_waits _ _ (by simp [hs])
  · refine Dev.stepGoes_ends (by simp [hs]) ?_
    rw [Dev.get_set_same, ← ht]
    exact Dev.stepDue_congr rfl (Dev.get_set_other _ _ (rCclkStep_key_ne_rCclkActive n).symm)

/-- R31: the voltage settles. -/
theorem stepVoltageSettled_reaches {s : State} {n : Nat} {c : StepChange} (hn : n < 12) (hc : tabFind s.dev.power.changes n = some c)
    (hs : c.settled = false) (hf : c.faster = true ∨ c.switched = true) :
    Reaches (.stepVoltageSettled n) s (fun t =>
      t.get (rStepChanges n) = (s.dev.get (rStepChanges n) + 1) % 2 ^ 32 ∧
      (c.switched = false → tabFind t.power.changes n = some { c with settled := true }) ∧
      (c.switched = true → s.dev.stepDue n = s.dev.get (rCclkActive n) → tabFind t.power.changes n = none) ∧
      s.dev.regsBut t [rStepChanges n] ∧ s.dev.stores t) := by
  refine ⟨(s.dev.addWrap32 (rStepChanges n)).stepGoes n { c with settled := true }, ?_,
    Dev.get_of_regs_set (Dev.stepGoes_regs _ _ _), fun hw => ?_, fun hw ht => ?_,
    Dev.regsBut_of_regs_set (Dev.stepGoes_regs _ _ _), Dev.stores_set_stepGoes _ _ _ _ _⟩
  · change execStepVoltageSettled n s = _
    rw [execStepVoltageSettled, occursAt_next (decide_eq_true hn) (by simp [hc, hs, hf]), hc]
  · exact Dev.stepGoes_waits _ _ (by simp [hw])
  · refine Dev.stepGoes_ends (by simp [hw]) ?_
    rw [Dev.addWrap32, Dev.get_set_other _ _ (rStepChanges_key_ne_rCclkActive n), ← ht]
    exact Dev.stepDue_congr rfl (Dev.get_set_other _ _ (rStepChanges_key_ne_rCclkStep n))

end Sys2Proof.Machine
end

section
/-!
PROOF. The loss of a PLL's lock and of REFCLK (R30).
-/
namespace Sys2Proof.Machine

theorem rPllState_quiet {n : Nat} (hn : n < 17) : (rPllState n).quiet := by
  unfold Reg.quiet rPllState
  rw [keyIndex_regKey _ (by decide) (by decide), keySub_regKey _ _ (by decide)]
  omega

/-- A fault leaves the PLLs' states alone. -/
theorem Dev.get_raise_rPllState (d : Dev) (kind src syn n : Nat) : (d.raise kind src syn).get (rPllState n) = d.get (rPllState n) :=
  d.get_raise kind src syn (regKey_ne_of_sub (by decide) (by decide) (by decide))

/-- R30: a compute die that loses lock reads LOST and FAILED. -/
theorem pllLockLost_compute {s : State} {n : Nat} (hn : n < 12) (hl : s.dev.get (rPllState n) = 1) (ho : s.dev.unit (.die n) ≠ stOff) :
    Reaches (.pllLockLost n) s (fun t => t.get (rPllState n) = 2 ∧ t.unit (.die n) = stFailed) := by
  refine ⟨((s.dev.set (rPllState n) 2).dieLost n).raise kPllLost (480 + n) 0, ?_, ?_, ?_⟩
  · change execPllLockLost n s = _
    rw [execPllLockLost, occursAt_next (decide_eq_true (by omega)) (decide_eq_true hl)]
    simp only [hn, if_true]
  · rw [Dev.get_raise_rPllState, Dev.get_dieLost _ (rPllState_quiet (by omega)), Dev.get_set_same]
  · have hu : (s.dev.set (rPllState n) 2).unit (.die n) ≠ stOff := ho
    simpa [Dev.unit, Dev.raise] using Dev.unit_dieLost _ hu

/-- R30: a base die or the IOD that loses lock raises CLOCK_LOST. -/
theorem pllLockLost_base {s : State} {n : Nat} (h12 : 12 ≤ n) (hn : n < 17) (hl : s.dev.get (rPllState n) = 1) :
    Gives (.pllLockLost n) s ((s.dev.set (rPllState n) 2).raise kClockLost (if n < 16 then 480 + n else 880) 0) := by
  change execPllLockLost n s = _
  rw [execPllLockLost, occursAt_next (decide_eq_true hn) (decide_eq_true hl)]
  simp only [show ¬ n < 12 by omega, if_false]

/-- The PLLs of the first `m` dies read LOST, the others as before. -/
theorem Dev.get_foldl_pllLost (d : Dev) (n m : Nat) :
    ((List.range m).foldl (fun d i => d.set (rPllState i) 2) d).get (rPllState n) = if n < m then 2 else d.get (rPllState n) := by
  induction m with
  | zero => simp
  | succ m ih =>
    rw [List.range_succ, List.foldl_append, List.foldl_cons, List.foldl_nil, Dev.get_set, ih]
    have hkey : (rPllState m).key = (rPllState n).key ↔ m = n := by simp only [rPllState, regKey]; omega
    by_cases hm : m = n
    · rw [if_pos (hkey.2 hm), if_pos (by omega)]
    · rw [if_neg (fun hk => hm (hkey.1 hk))]
      have hlt : n < m ↔ n < m + 1 := by omega
      simp only [hlt]

/-- Every PLL of the package reads LOST. -/
theorem Dev.get_allPllsLost (d : Dev) {n : Nat} (hn : n < 17) : d.allPllsLost.get (rPllState n) = 2 := by
  rw [Dev.allPllsLost, Dev.get_foldl_pllLost, if_pos hn]

/-- The loss of every PLL's lock leaves the stores alone. -/
theorem Dev.stores_allPllsLost (d : Dev) : d.stores d.allPllsLost :=
  List.foldlRecOn (List.range 17) _ (motive := fun e => d.stores e) ⟨rfl, rfl, rfl, rfl, rfl⟩ (fun _ he _ _ => he)

/-- R30: without REFCLK every PLL of the package reads LOST. -/
theorem refclkLost_reaches {s : State} (hc : s.dev.pins.refclk = true) (hr : s.dev.pins.rstN = true) :
    Reaches .refclkLost s (fun t => (∀ n, n < 17 → t.get (rPllState n) = 2) ∧ t.pins = { s.dev.pins with refclk := false } ∧
      s.dev.stores t) := by
  have hgive : Gives .refclkLost s
      (({ s.dev.allPllsLost with pins := { s.dev.pins with refclk := false } }).raise kClockLost 880 0) := by
    change execRefclkLost s = _
    rw [execRefclkLost, occurs_next (by simp [hc, hr])]
  have hget : ∀ n, n < 17 → s.dev.allPllsLost.get (rPllState n) = 2 := fun n hn => s.dev.get_allPllsLost hn
  have hstores := s.dev.stores_allPllsLost
  generalize s.dev.allPllsLost = e at hgive hget hstores
  refine ⟨_, hgive, fun n hn => ?_, ?_, ?_⟩
  · rw [Dev.get_raise_rPllState]
    exact hget n hn
  · simp [Dev.raise]
  · simpa [Dev.stores, Dev.raise] using hstores

end Sys2Proof.Machine
end

section
/-!
PROOF. The statement about the CCLK steps, assembled from the lemmas of its commands.
-/
namespace Sys2Proof.Machine

/-- Settles O7: each clause is the lemma of its command. -/
theorem cclkStepsChangeAsAsked : Obligations.CclkStepsChangeAsAsked := by
  refine ⟨?taken, ?turnedAway, ?changing, ?lost⟩
  case taken =>
    intro s p n v hn ha hb hc
    exact cclkStepWrite_taken hn ha hb hc
  case turnedAway =>
    intro s p n v hn ha
    exact ⟨fun hb => cclkStepWrite_range hn ha hb, fun hb hc => cclkStepWrite_busy hn ha hb hc⟩
  case changing =>
    intro s n c hn hc
    exact ⟨fun hw hf hr => cclkDividerSwitch_reaches hn hc hw hf hr, fun hs hf => stepVoltageSettled_reaches hn hc hs hf⟩
  case lost =>
    intro s
    exact ⟨fun n hn hl ho => pllLockLost_compute hn hl ho, fun n h12 hn hl => pllLockLost_base h12 hn hl,
      fun hc hr => refclkLost_reaches hc hr⟩

end Sys2Proof.Machine
end

section
/-!
PROOF. Phase 2 of a Sterling job and the commands of a key slot (R92, R130, R131, R133, R134).
-/
namespace Sys2Proof.Machine

/-- A job in phase 2 of a Sterling instance meets KEY_CHECK: its key checks, then dispatch or its end. -/
theorem keyCheck_gives {s : State} {j : Nat} {x : Job} {a : KeyAnswer} {e : Dev} (hj : s.dev.job j = some x)
    (hp : x.phase = phKey) (hc : s.dev.instClass x.inst = 1) (hk : s.dev.keyPhase x.inst x.desc = (a, e)) :
    Gives (.keyCheck j) s
      (let d := e.setJob j { x with keyOk := a.status = 0, genA := a.gen, holds := a.holds, target := a.target, phase := phDispatch }
       if a.status = 0 then d else d.endJob j a.status 0) := by
  change execKeyCheck j s = _
  rw [execKeyCheck, occurs_next (by simp [Dev.jobIs, hj, hp, hc])]
  simp only [hj, hk]

/-- A job that is ended has its record due with the status. -/
theorem Dev.endJob_job {d : Dev} {j : Nat} {x : Job} (h : d.job j = some x) (st detail : Nat) :
    (d.endJob j st detail).job j = some { x with phase := phComplete, status := st, detail := detail, target := none } := by
  simp only [Dev.endJob, h, Dev.job_setJob_same]

/-- The end of a job that has claimed no slot changes the jobs alone. -/
theorem Dev.endJob_of_target_none {d : Dev} {j : Nat} {x : Job} (h : d.job j = some x) (ht : x.target = none) (st detail : Nat) :
    d.endJob j st detail = d.setJob j { x with phase := phComplete, status := st, detail := detail, target := none } := by
  simp only [Dev.endJob, h, Dev.releaseTarget, ht]

/-- R92: a handle outside the instance's range is the first condition of phase 2. -/
theorem Dev.keyPhase_outOfRange {d : Dev} {i : Nat} {b : List Byte} (hn : stNamesA b = true)
    (hr : d.keyInRange i (descKeyA b) = false) : d.keyPhase i b = (⟨jsKeyRange, 0, [], none⟩, d) := by
  simp [Dev.keyPhase, hn, hr]

/-- R133, R134: a job whose checks pass goes on to dispatch. -/
theorem keyCheck_passes {s : State} {j : Nat} {x : Job} {a : KeyAnswer} {e : Dev} (hj : s.dev.job j = some x)
    (hp : x.phase = phKey) (hc : s.dev.instClass x.inst = 1) (hk : s.dev.keyPhase x.inst x.desc = (a, e)) (ha : a.status = 0) :
    Gives (.keyCheck j) s
      (e.setJob j { x with keyOk := true, genA := a.gen, holds := a.holds, target := a.target, phase := phDispatch }) := by
  have h := keyCheck_gives hj hp hc hk
  simpa only [ha, decide_true, if_true] using h

/-- R133, R134: one whose checks fail has its record due. -/
theorem keyCheck_fails {s : State} {j : Nat} {x : Job} {a : KeyAnswer} {e : Dev} (hj : s.dev.job j = some x)
    (hp : x.phase = phKey) (hc : s.dev.instClass x.inst = 1) (hk : s.dev.keyPhase x.inst x.desc = (a, e)) (ha : a.status ≠ 0) :
    Reaches (.keyCheck j) s (fun t => ∃ y, t.job j = some y ∧ y.phase = phComplete ∧ y.status = a.status) := by
  have h := keyCheck_gives hj hp hc hk
  simp only [ha, if_false] at h
  exact ⟨_, h, _, Dev.endJob_job (Dev.job_setJob_same _ _ _) _ _, rfl, rfl⟩

/-- R92: one whose handle lies outside the range has its record due with KEY_RANGE; nothing is written. -/
theorem keyCheck_outOfRange {s : State} {j : Nat} {x : Job} (hj : s.dev.job j = some x) (hp : x.phase = phKey)
    (hc : s.dev.instClass x.inst = 1) (hn : stNamesA x.desc = true) (hr : s.dev.keyInRange x.inst (descKeyA x.desc) = false) :
    Reaches (.keyCheck j) s (fun t => ∃ y, t.job j = some y ∧ y.phase = phComplete ∧ y.status = jsKeyRange ∧
      t.regs = s.dev.regs ∧ s.dev.stores t) := by
  have h := keyCheck_gives hj hp hc (Dev.keyPhase_outOfRange hn hr)
  simp only [show jsKeyRange ≠ 0 by decide, if_false] at h
  rw [Dev.endJob_of_target_none (Dev.job_setJob_same _ _ _) rfl] at h
  exact ⟨_, h, _, Dev.job_setJob_same _ _ _, rfl, rfl, rfl, rfl, rfl, rfl, rfl, rfl⟩

/-! ## SUSPEND, RESUME, DESTROY -/

theorem Dev.keySelected_takeTurn (d : Dev) (p : Path) : (d.takeTurn p).keySelected p = d.keySelected p := by
  simp [Dev.keySelected, Dev.selected, Dev.get]

/-- A write of a key command that nothing turns away is answered as its effect on the selected slot says. -/
theorem keyCommandWrite_gives {s : State} {p : Path} {code : Nat} {f : Dev → Nat → Reply} {st : Status} {d : Dev}
    (ha : s.dev.admits p 0x7101 0x0D code = true) (hr : f (s.dev.heard p) (s.dev.keySelected p) = (st, d)) :
    writeCommand p 0x7101 0x0D code (fun d _ => f d (d.keySelected p)) s = .next { s with dev := d.respond p st [] } := by
  rw [writeCommand_admitted ha, Dev.keySelected_takeTurn, hr]

theorem ksSuspend_gives {s : State} {p : Path} {st : Status} {d : Dev} (ha : s.dev.admits p 0x7101 0x0D 1 = true)
    (hr : (s.dev.heard p).ksToggle (s.dev.keySelected p) true = (st, d)) : Gives (.ksSuspend p) s (d.respond p st []) :=
  keyCommandWrite_gives (f := fun d h => d.ksToggle h true) ha hr

theorem ksResume_gives {s : State} {p : Path} {st : Status} {d : Dev} (ha : s.dev.admits p 0x7101 0x0D 2 = true)
    (hr : (s.dev.heard p).ksToggle (s.dev.keySelected p) false = (st, d)) : Gives (.ksResume p) s (d.respond p st []) :=
  keyCommandWrite_gives (f := fun d h => d.ksToggle h false) ha hr

theorem ksDestroy_gives {s : State} {p : Path} {st : Status} {d : Dev} (ha : s.dev.admits p 0x7101 0x0D 3 = true)
    (hr : (s.dev.heard p).ksDestroy (s.dev.keySelected p) = (st, d)) : Gives (.ksDestroy p) s (d.respond p st []) :=
  keyCommandWrite_gives (f := Dev.ksDestroy) ha hr

/-- SUSPEND in a started store, with no DESTROY of the slot running: an ACTIVE slot is SUSPENDED, of another BUSY is returned. -/
theorem Dev.ksToggle_suspend {d e : Dev} {h : Nat} {k : KeyDesc} (hf : d.keyFetch h = (k, e)) (hs : d.ks.started = true)
    (hc : d.get (rKsCommand h) ≠ cmdRunning) :
    d.ksToggle h true =
      if k.state = ksActive then (.ok, (e.keyPut h { k with state := ksSuspended }).set (rKsCommand h) cmdDone) else (.busy, e) := by
  by_cases hk : k.state = ksActive <;> simp [Dev.ksToggle, Dev.keyWindowBusy, hf, hs, hc, hk]

/-- RESUME under the same conditions: a SUSPENDED slot is ACTIVE, of another BUSY is returned. -/
theorem Dev.ksToggle_resume {d e : Dev} {h : Nat} {k : KeyDesc} (hf : d.keyFetch h = (k, e)) (hs : d.ks.started = true)
    (hc : d.get (rKsCommand h) ≠ cmdRunning) :
    d.ksToggle h false =
      if k.state = ksSuspended then (.ok, (e.keyPut h { k with state := ksActive }).set (rKsCommand h) cmdDone) else (.busy, e) := by
  by_cases hk : k.state = ksSuspended <;> simp [Dev.ksToggle, Dev.keyWindowBusy, hf, hs, hc, hk]

/-- DESTROY of a started store with none running. -/
theorem Dev.ksDestroy_eq {d e : Dev} {h : Nat} {k : KeyDesc} (hf : d.keyFetch h = (k, e)) (hs : d.ks.started = true)
    (hc : d.get (rKsCommand h) ≠ cmdRunning) :
    d.ksDestroy h =
      if k.state = ksEmpty then (.ok, e.set (rKsCommand h) cmdDone)
      else if k.state = ksActive ∨ k.state = ksSuspended ∨ k.state = ksPartial ∨ k.state = ksCorrupt then
        (.ok, (e.keyPut h { k with state := ksErasing }).set (rKsCommand h) cmdRunning)
      else (.busy, e) := by
  simp [Dev.ksDestroy, Dev.keyWindowBusy, hf, hs, hc, or_assoc]

/-- Settles O23: phase 2 by what the key checks answer, the key commands by the state of the slot. -/
theorem keysGateJobsAndFollowCommands : Obligations.KeysGateJobsAndFollowCommands := by
  refine ⟨?checks, ?commands⟩
  case checks =>
    intro s j x hj hp hc
    exact ⟨fun a e hk ha => keyCheck_passes hj hp hc hk ha, fun a e hk ha => keyCheck_fails hj hp hc hk ha,
      fun hn hr => keyCheck_outOfRange hj hp hc hn hr⟩
  case commands =>
    intro s p h k e hh hf hs hc
    subst hh
    have hs' : (s.dev.heard p).ks.started = true := by simpa using hs
    have hc' : (s.dev.heard p).get (rKsCommand (s.dev.keySelected p)) ≠ cmdRunning := by simpa [Dev.get] using hc
    have suspend := Dev.ksToggle_suspend hf hs' hc'
    have resume := Dev.ksToggle_resume hf hs' hc'
    have destroy := Dev.ksDestroy_eq hf hs' hc'
    refine ⟨fun ha hk => ?_, fun ha hk => ?_, fun ha hk => ?_, fun ha hk => ?_, fun ha hk => ?_, fun ha hk => ?_⟩
    · exact ksSuspend_gives ha (suspend.trans (if_pos hk))
    · exact ksSuspend_gives ha (suspend.trans (if_neg hk))
    · exact ksResume_gives ha (resume.trans (if_pos hk))
    · exact ksResume_gives ha (resume.trans (if_neg hk))
    · exact ksDestroy_gives ha (destroy.trans ((if_neg (by simp [hk, ksActive, ksEmpty])).trans (if_pos (Or.inl hk))))
    · exact ksDestroy_gives ha (destroy.trans (if_pos hk))

end Sys2Proof.Machine
end

section
/-!
PROOF. The commands of an instance (R78 to R81, R94 to R96).
-/
namespace Sys2Proof.Machine

theorem Dev.selected_takeTurn (d : Dev) (base : Nat) (p q : Path) : (d.takeTurn p).selected base q = d.selected base q := by
  simp [Dev.selected, Dev.get]

/-- What a transaction finds differs from the state before it in the ring's sessions and the arbiters alone. -/
theorem Dev.takeTurn_changes (d : Dev) (p : Path) : ∃ r a, d.takeTurn p = { d with ring := r, arb := a } := by
  unfold Dev.takeTurn Dev.grantPort Dev.arbitrate Dev.touchSession
  split <;> split <;> (try split) <;> exact ⟨_, _, rfl⟩

/-- An instance is left alone by a write of another's. -/
theorem Dev.inst_setInst_other (d : Dev) {i k : Nat} (x : Inst) (h : i ≠ k) : (d.setInst i x).inst k = d.inst k := by
  simp [Dev.inst, Dev.setInst, tabGet_tabPut_other _ _ _ h]

/-- An instance command that nothing turns away is answered as its effect on the selected instance says. -/
theorem instRow_gives {s : State} {p : Path} {code : Nat} {f : Dev → Nat → Reply} {st : Status} {d : Dev}
    (ha : s.dev.admits p 0x7803 0x02 code = true) (hr : f (s.dev.heard p) (s.dev.selected 0x7800 p) = (st, d)) :
    instRow p code f s = .next { s with dev := d.respond p st [] } := by
  rw [instRow, writeCommand_admitted ha, Dev.selected_takeTurn, hr]

theorem instState_ne_instCommand (i : Nat) : (rInstState i).key ≠ (rInstCommand i).key :=
  regKey_ne_of_sub (by decide) (by decide) (by decide)

theorem instState_ne_haltStatus (i : Nat) : (rInstState i).key ≠ (rHaltStatus i).key :=
  regKey_ne_of_sub (by decide) (by decide) (by decide)

theorem instCommand_ne_haltStatus (i : Nat) : (rInstCommand i).key ≠ (rHaltStatus i).key :=
  regKey_ne_of_sub (by decide) (by decide) (by decide)

/-! ## CREATE -/

/-- The placement of slots changes the owners of slots alone. -/
theorem placeMany_slots {i n : Nat} {d e : Dev} {mine all : List (Nat × Nat)} (h : Dev.placeMany i n d mine = some (all, e)) :
    ∃ sl, e = { d with slots := sl } := by
  induction n generalizing d mine with
  | zero =>
    obtain ⟨-, rfl⟩ := Prod.mk.inj (Option.some.inj h)
    exact ⟨_, rfl⟩
  | succ n ih =>
    simp only [Dev.placeMany] at h
    split at h
    · cases h
    · obtain ⟨sl, rfl⟩ := ih h
      exact ⟨sl, rfl⟩

theorem placePairs_slots {i n : Nat} {d e : Dev} {mine all : List (Nat × Nat)} (h : Dev.placePairs i n d mine = some (all, e)) :
    ∃ sl, e = { d with slots := sl } := by
  induction n generalizing d mine with
  | zero =>
    obtain ⟨-, rfl⟩ := Prod.mk.inj (Option.some.inj h)
    exact ⟨_, rfl⟩
  | succ n ih =>
    simp only [Dev.placePairs] at h
    split at h
    · cases h
    · split at h
      · cases h
      · obtain ⟨sl, rfl⟩ := ih h
        exact ⟨sl, rfl⟩

theorem Dev.placeInst_slots {d e : Dev} {i : Nat} {mine : List (Nat × Nat)} (h : d.placeInst i = some (mine, e)) :
    ∃ sl, e = { d with slots := sl } := by
  unfold Dev.placeInst at h
  split at h
  · exact placePairs_slots h
  · exact placeMany_slots h

theorem Dev.createBad_takeTurn (d : Dev) (p : Path) (i : Nat) : (d.takeTurn p).createBad i = d.createBad i := by
  obtain ⟨r, a, h⟩ := d.takeTurn_changes p
  rw [h]; rfl

/-- The page of an instance that has just been bound. -/
def Dev.boundInst (d : Dev) (i : Nat) (mine : List (Nat × Nat)) : Inst :=
  { Inst.reset with slotMap := mine.map some, dbErrors := (d.inst i).dbErrors, dlOn := (d.inst i).dlOn,
                    dlWait := (d.inst i).dlWait }

/-- CREATE of a FREE instance whose binding is sound writes its page and registers; its last two are READY and DONE. -/
theorem Dev.bound_eq (d : Dev) (i : Nat) (mine : List (Nat × Nat)) :
    ∃ r, d.bound i mine =
      ({ d.setInst i (d.boundInst i mine) with regs := r }.set (rInstState i) instReady).set (rInstCommand i) cmdDone := by
  unfold Dev.bound
  dsimp only
  split <;> split <;> (try split) <;> exact ⟨_, rfl⟩

/-- A device whose last writes are the state and the command of an instance reads them. -/
theorem Dev.get_stateAndCommand (d : Dev) (i st c : Nat) :
    ((d.set (rInstState i) st).set (rInstCommand i) c).get (rInstState i) = st ∧
      ((d.set (rInstState i) st).set (rInstCommand i) c).get (rInstCommand i) = c :=
  ⟨by rw [Dev.get_set_other _ _ (instState_ne_instCommand i).symm, Dev.get_set_same], Dev.get_set_same _ _ _⟩

/-- R78, R80. -/
theorem instCreate_reaches {s : State} {p : Path} {i : Nat} {mine : List (Nat × Nat)} {e : Dev} (hi : i = s.dev.selected 0x7800 p)
    (ha : s.dev.admits p 0x7803 0x02 1 = true) (hf : s.dev.get (rInstState i) = instFree) (hb : s.dev.createBad i = false)
    (hp : (s.dev.heard p).placeInst i = some (mine, e)) :
    Reaches (.instCreate p) s (fun t => t.answered p .ok ∧ t.get (rInstState i) = instReady ∧ t.get (rInstCommand i) = cmdDone ∧
      (t.inst i).slotMap = mine.map some ∧ (t.inst i).sqTail = 0 ∧ (t.inst i).sqHead = 0 ∧ (t.inst i).cqTail = 0 ∧
      (t.inst i).phase = true ∧ t.slots = e.slots ∧ (∀ k, k ≠ i → t.inst k = s.dev.inst k) ∧ s.dev.stores t) := by
  have hgive : Gives (.instCreate p) s ((e.bound i mine).respond p .ok []) := by
    subst hi
    refine instRow_gives ha ?_
    simp [Dev.instCreate, hf, Dev.createBad_takeTurn, hb, hp]
  obtain ⟨r, hr⟩ := e.bound_eq i mine
  rw [hr] at hgive
  obtain ⟨sl, he⟩ := Dev.placeInst_slots hp
  obtain ⟨hst, hcmd⟩ := Dev.get_stateAndCommand { e.setInst i (e.boundInst i mine) with regs := r } i instReady cmdDone
  have hinst : (e.setInst i (e.boundInst i mine)).inst i = e.boundInst i mine := Dev.inst_setInst_same _ _ _
  refine ⟨_, hgive, Dev.respond_resp_same _ _ _ _, hst, hcmd, congrArg Inst.slotMap hinst, congrArg Inst.sqTail hinst,
    congrArg Inst.sqHead hinst, congrArg Inst.cqTail hinst, congrArg Inst.phase hinst, rfl, fun k hk => ?_, ?_⟩
  · have hother : (e.setInst i (e.boundInst i mine)).inst k = e.inst k := Dev.inst_setInst_other _ _ hk.symm
    exact hother.trans (by rw [he]; exact s.dev.takeTurn_read_inst p k)
  · rw [he]
    simp [Dev.stores]

/-! ## ENABLE, the resets, DESTROY -/

/-- R81: a READY instance whose rings are well placed becomes ACTIVE. -/
theorem Dev.instEnable_ready {d : Dev} {i : Nat} (hs : d.get (rInstState i) = instReady)
    (hl : d.get (rSqLog2 i) ≤ d.get (rCqLog2 i)) (hq : d.get (rSqBase i) % 4096 = 0) (hc : d.get (rCqBase i) % 4096 = 0) :
    d.instEnable i = (.ok, (d.set (rInstState i) instActive).set (rInstCommand i) cmdDone) := by
  simp [Dev.instEnable, hs, hq, hc, Nat.not_lt.2 hl, instReady, instActive]

/-- The device in which the reset of an instance has begun. -/
def Dev.resetBegun (d : Dev) (i : Nat) (squash : Bool) : Dev :=
  (((d.set (rInstState i) instQuiescing).set (rInstCommand i) cmdRunning).set (rHaltStatus i) 0).setInst i
    { d.inst i with squash := squash }

/-- R94: DRAIN begins the reset of an instance; SQUASH does no more where the instance has no job. -/
theorem Dev.instQuiesce_begins {d : Dev} {i : Nat} {squash : Bool}
    (hs : d.get (rInstState i) = instReady ∨ d.get (rInstState i) = instActive ∨ d.get (rInstState i) = instHalted)
    (hq : squash = true → (d.inst i).queue = []) : d.instQuiesce i squash = (.ok, d.resetBegun i squash) := by
  have hst : (!(d.get (rInstState i) = instReady || d.get (rInstState i) = instActive || d.get (rInstState i) = instHalted)) = false := by
    rcases hs with h | h | h <;> simp [h]
  cases squash with
  | false => simp [Dev.instQuiesce, hst, Dev.resetBegun]
  | true => simp [Dev.instQuiesce, hst, Dev.resetBegun, hq rfl]

/-- What the start of a reset leaves. -/
theorem Dev.resetBegun_spec (d : Dev) (i : Nat) (squash : Bool) :
    (d.resetBegun i squash).get (rInstState i) = instQuiescing ∧ (d.resetBegun i squash).get (rInstCommand i) = cmdRunning ∧
      (d.resetBegun i squash).inst i = { d.inst i with squash := squash } ∧ (d.resetBegun i squash).jobs = d.jobs ∧
      d.regsBut (d.resetBegun i squash) [rInstState i, rInstCommand i, rHaltStatus i] ∧ d.stores (d.resetBegun i squash) := by
  obtain ⟨hst, hcmd⟩ := d.get_stateAndCommand i instQuiescing cmdRunning
  refine ⟨?_, ?_, Dev.inst_setInst_same _ _ _, rfl, fun q hq => ?_, rfl, rfl, rfl, rfl, rfl⟩
  · rw [Dev.resetBegun, Dev.setInst_read_get, Dev.get_set_other _ _ (instState_ne_haltStatus i).symm, hst]
  · rw [Dev.resetBegun, Dev.setInst_read_get, Dev.get_set_other _ _ (instCommand_ne_haltStatus i).symm, hcmd]
  · simp only [List.map_cons, List.map_nil, List.mem_cons, List.not_mem_nil, or_false, not_or] at hq
    obtain ⟨h1, h2, h3⟩ := hq
    rw [Dev.resetBegun, Dev.setInst_read_get, Dev.get_set_other _ _ (Ne.symm h3), Dev.get_set_other _ _ (Ne.symm h2),
      Dev.get_set_other _ _ (Ne.symm h1)]

/-- R94, R95: what a reset command leaves of an instance of which it squashes nothing. -/
theorem instReset_reaches {s : State} {p : Path} {i : Nat} {squash : Bool} {c : Instr} (hi : i = s.dev.selected 0x7800 p)
    (hgive : ∀ {st d}, (s.dev.heard p).instQuiesce (s.dev.selected 0x7800 p) squash = (st, d) → Gives c s (d.respond p st []))
    (hs : s.dev.get (rInstState i) = instReady ∨ s.dev.get (rInstState i) = instActive ∨ s.dev.get (rInstState i) = instHalted)
    (hq : squash = true → (s.dev.inst i).queue = []) :
    Reaches c s (fun t => t.answered p .ok ∧ t.get (rInstState i) = instQuiescing ∧ t.get (rInstCommand i) = cmdRunning ∧
      t.inst i = { s.dev.inst i with squash := squash } ∧ t.jobs = s.dev.jobs ∧
      s.dev.regsBut t [rInstState i, rInstCommand i, rHaltStatus i] ∧ s.dev.stores t) := by
  subst hi
  have hbegin : (s.dev.heard p).instQuiesce (s.dev.selected 0x7800 p) squash =
      (.ok, (s.dev.heard p).resetBegun (s.dev.selected 0x7800 p) squash) :=
    Dev.instQuiesce_begins (by simpa using hs) (by simpa using hq)
  obtain ⟨hst, hcmd, hinst, hjobs, hregs, hstores⟩ := (s.dev.heard p).resetBegun_spec (s.dev.selected 0x7800 p) squash
  refine ⟨_, hgive hbegin, Dev.respond_resp_same _ _ _ _, hst, hcmd, ?_, ?_, fun q hm => ?_, ?_⟩
  · simpa using hinst
  · simpa using hjobs
  · simpa using hregs q hm
  · simpa [Dev.stores] using hstores

/-- No slot is the instance's once its slots have been given back. -/
theorem Dev.slot_filter_ne (d : Dev) (i e k : Nat) :
    ({ d with slots := d.slots.filter (fun p => p.2 != SlotOwner.inst i) } : Dev).slot e k ≠ .inst i := by
  simp only [Dev.slot, tabGet]
  induction d.slots with
  | nil => simp [tabFind]
  | cons x r ih =>
    obtain ⟨key, o⟩ := x
    by_cases ho : o = SlotOwner.inst i
    · simpa [ho] using ih
    · by_cases hk : key = slotKey e k
      · simp [ho, tabFind, hk]
      · simpa [ho, tabFind, hk] using ih

/-- DESTROY of a READY instance: its slots and moves go, and its last two register writes are FREE and DONE. -/
theorem Dev.instDestroy_ready {d : Dev} {i : Nat} (hs : d.get (rInstState i) = instReady) :
    ∃ r, d.instDestroy i =
      (.ok, (({ { d with slots := d.slots.filter (fun p => p.2 != SlotOwner.inst i), moves := d.moves.filter (fun m => m.inst != i) }.setInst i
        { d.inst i with slotMap := [] } with regs := r }).set (rInstState i) instFree).set (rInstCommand i) cmdDone) := by
  simp only [Dev.instDestroy, hs, bne_self_eq_false, Bool.false_eq_true, if_false]
  split <;> exact ⟨_, rfl⟩

/-- R80. -/
theorem instDestroy_reaches {s : State} {p : Path} {i : Nat} (hi : i = s.dev.selected 0x7800 p)
    (ha : s.dev.admits p 0x7803 0x02 5 = true) (hs : s.dev.get (rInstState i) = instReady) :
    Reaches (.instDestroy p) s (fun t => t.answered p .ok ∧ t.get (rInstState i) = instFree ∧ t.get (rInstCommand i) = cmdDone ∧
      (∀ e k, t.slot e k ≠ .inst i) ∧ (t.inst i).slotMap = [] ∧ t.jobs = s.dev.jobs ∧ s.dev.stores t) := by
  subst hi
  obtain ⟨r, hr⟩ := Dev.instDestroy_ready (d := s.dev.heard p) (i := s.dev.selected 0x7800 p) (by simpa using hs)
  refine ⟨_, instRow_gives ha hr, Dev.respond_resp_same _ _ _ _, (Dev.get_stateAndCommand _ _ _ _).1,
    (Dev.get_stateAndCommand _ _ _ _).2, Dev.slot_filter_ne (s.dev.heard p) _, ?_, ?_, ?_⟩
  · exact congrArg Inst.slotMap (Dev.inst_setInst_same _ _ _)
  · exact s.dev.takeTurn_jobs p
  · simp [Dev.stores]

/-- R96: the page of an instance whose reset has ended. -/
def Inst.afterReset (x : Inst) : Inst :=
  { x with sqTail := 0, sqHead := 0, cqHead := 0, cqTail := 0, phase := true, dbErrors := 0, unreleased := 0, squash := false, sent := [] }

/-- R96. -/
theorem instResetDone_gives {s : State} {i : Nat} (hi : i < 4096) (hs : s.dev.get (rInstState i) = instQuiescing)
    (hf : (s.dev.inst i).fetching = false) (hq : (s.dev.inst i).queue = []) (hm : (s.dev.inst i).msis = [])
    (hd : s.dev.delivered (s.dev.inst i).sent = true) :
    Gives (.instResetDone i) s ((((s.dev.setInst i (s.dev.inst i).afterReset).set (rDoorbellErrors i) 0).set (rInstState i)
      instReady).set (rInstCommand i) cmdDone) := by
  change execInstResetDone i s = _
  rw [execInstResetDone, occursAt_next (decide_eq_true hi) (by simp [hs, hf, hq, hm, hd])]
  rfl

/-- R96. -/
theorem instResetDone_reaches {s : State} {i : Nat} (hi : i < 4096) (hs : s.dev.get (rInstState i) = instQuiescing)
    (hf : (s.dev.inst i).fetching = false) (hq : (s.dev.inst i).queue = []) (hm : (s.dev.inst i).msis = [])
    (hd : s.dev.delivered (s.dev.inst i).sent = true) :
    Reaches (.instResetDone i) s (fun t => t.get (rInstState i) = instReady ∧ t.get (rInstCommand i) = cmdDone ∧
      (t.inst i).sqTail = 0 ∧ (t.inst i).sqHead = 0 ∧ (t.inst i).cqHead = 0 ∧ (t.inst i).cqTail = 0 ∧ (t.inst i).phase = true ∧
      (t.inst i).dbErrors = 0 ∧ (t.inst i).slotMap = (s.dev.inst i).slotMap ∧ (∀ k, k ≠ i → t.inst k = s.dev.inst k) ∧
      s.dev.regsBut t [rInstState i, rInstCommand i, rDoorbellErrors i] ∧ s.dev.stores t) := by
  refine ⟨_, instResetDone_gives hi hs hf hq hm hd, (Dev.get_stateAndCommand _ _ _ _).1, (Dev.get_stateAndCommand _ _ _ _).2, ?_⟩
  simp only [Dev.set_read_inst, Dev.inst_setInst_same]
  refine ⟨rfl, rfl, rfl, rfl, rfl, rfl, rfl, fun k hk => Dev.inst_setInst_other _ _ hk.symm, fun q hm => ?_, rfl, rfl, rfl, rfl, rfl⟩
  simp only [List.map_cons, List.map_nil, List.mem_cons, List.not_mem_nil, or_false, not_or] at hm
  obtain ⟨h1, h2, h3⟩ := hm
  rw [Dev.get_set_other _ _ (Ne.symm h2), Dev.get_set_other _ _ (Ne.symm h1), Dev.get_set_other _ _ (Ne.symm h3),
    Dev.setInst_read_get]

/-- Settles O15: each clause is the lemma of its command. -/
theorem instancesFollowTheirCommands : Obligations.InstancesFollowTheirCommands := by
  refine ⟨?commands, ?resetDone⟩
  case commands =>
    intro s p i
    refine ⟨fun mine e ha hf hb hp => instCreate_reaches rfl ha hf hb hp, fun ha hs hl hq hc => ?_, fun ha hs => ?_,
      fun ha hs hq => ?_, fun ha hs => instDestroy_reaches rfl ha hs⟩
    · have hready : (s.dev.heard p).instEnable i =
          (.ok, ((s.dev.heard p).set (rInstState i) instActive).set (rInstCommand i) cmdDone) :=
        Dev.instEnable_ready (by simpa using hs) (by simpa using hl) (by simpa using hq) (by simpa using hc)
      exact instRow_gives ha hready
    · exact instReset_reaches rfl (fun h => instRow_gives (f := fun d i => d.instQuiesce i false) ha h) hs (by simp)
    · exact instReset_reaches rfl (fun h => instRow_gives (f := fun d i => d.instQuiesce i true) ha h) hs (fun _ => hq)
  case resetDone =>
    intro s i hi hs hf hq hm hd
    exact instResetDone_reaches hi hs hf hq hm hd

end Sys2Proof.Machine
end

section
/-!
PROOF. Doorbells, and descriptors that become jobs or halt their instance (R77, R82, R83, R89).
-/
namespace Sys2Proof.Machine

/-! ## Doorbells -/

/-- A doorbell is a write of its page register, once its message has left the network. -/
theorem sqTailDoorbell_gives {s : State} {i v : Nat} {w : World} {d : Dev} (hi : i < 4096)
    (hd : (s.dev.takeMsg (fun m => m = .sqTailDoorbell i w v)).instPageWrite i 0x000 w v = d) :
    Gives (.sqTailDoorbell i w v) s d := by
  subst hd
  change execSqTailDoorbell i w v s = _
  rw [execSqTailDoorbell, occursAt_next (decide_eq_true hi) rfl]

theorem cqHeadWrite_gives {s : State} {i v : Nat} {w : World} {d : Dev} (hi : i < 4096)
    (hd : (s.dev.takeMsg (fun m => m = .cqHeadWrite i w v)).instPageWrite i 0x008 w v = d) :
    Gives (.cqHeadWrite i w v) s d := by
  subst hd
  change execCqHeadWrite i w v s = _
  rw [execCqHeadWrite, occursAt_next (decide_eq_true hi) rfl]

/-- R77: a FREE instance takes no write. -/
theorem Dev.instPageWrite_free (d : Dev) {i : Nat} (h : d.get (rInstState i) = instFree) (off : Nat) (w : World) (v : Nat) :
    d.instPageWrite i off w v = d := by
  simp [Dev.instPageWrite, h]

/-- R77: a normal-world write to a Tantalum instance raises WORLD_VIOLATION and does nothing else. -/
theorem Dev.instPageWrite_mismatch (d : Dev) {i : Nat} {w : World} (h : d.get (rInstState i) ≠ instFree)
    (hm : d.pageMismatch i w = true) (off v : Nat) : d.instPageWrite i off w v = d.raisePage i off := by
  simp [Dev.instPageWrite, h, hm]

/-- An instance that is READY or ACTIVE is not FREE. -/
theorem not_free_of_readyOrActive {d : Dev} {i : Nat}
    (h : d.get (rInstState i) = instReady ∨ d.get (rInstState i) = instActive) : d.get (rInstState i) ≠ instFree := by
  rcases h with h | h <;> simp [h, instReady, instActive, instFree]

/-- R82: SQ_TAIL of an instance that is READY or ACTIVE moves within the ring; an index outside is discarded and counted. -/
theorem Dev.instPageWrite_sqTail (d : Dev) {i v : Nat} {w : World} (hm : d.pageMismatch i w = false)
    (h : d.get (rInstState i) = instReady ∨ d.get (rInstState i) = instActive) (hv : v < 2 ^ 16) :
    d.instPageWrite i 0x000 w v =
      if v < d.sqSize i then d.setInst i { d.inst i with sqTail := v } else d.doorbellError i := by
  have hst : (d.get (rInstState i) = instReady || d.get (rInstState i) = instActive) = true := by simpa using h
  have hmod : v % 65536 = v := Nat.mod_eq_of_lt hv
  simp [Dev.instPageWrite, not_free_of_readyOrActive h, hm, Dev.sqTailWrite, hst, hmod]

/-- R82: CQ_HEAD moves over records that are not yet released; another index is discarded and counted. -/
theorem Dev.instPageWrite_cqHead (d : Dev) {i v : Nat} {w : World} (hf : d.get (rInstState i) ≠ instFree)
    (hm : d.pageMismatch i w = false) : d.instPageWrite i 0x008 w v = d.cqHeadSet i v := by
  simp [Dev.instPageWrite, hf, hm]

theorem Dev.cqHeadSet_inside (d : Dev) {i v : Nat} (hv : v < 2 ^ 16) (hn : v < d.cqSize i) (hne : v ≠ (d.inst i).cqHead)
    (hk : (v + d.cqSize i - (d.inst i).cqHead) % d.cqSize i ≤ (d.inst i).unreleased) :
    d.cqHeadSet i v = d.setInst i { d.inst i with
      cqHead := v, unreleased := (d.inst i).unreleased - (v + d.cqSize i - (d.inst i).cqHead) % d.cqSize i } := by
  have hmod : v % 65536 = v := Nat.mod_eq_of_lt hv
  simp [Dev.cqHeadSet, hmod, hn, hne, hk]

theorem Dev.cqHeadSet_outside (d : Dev) {i v : Nat} (hv : v < 2 ^ 16) (hn : d.cqSize i ≤ v) : d.cqHeadSet i v = d.doorbellError i := by
  have hmod : v % 65536 = v := Nat.mod_eq_of_lt hv
  simp [Dev.cqHeadSet, hmod, Nat.not_lt.2 hn]

/-! ## The fetch of a descriptor -/

/-- R83. -/
theorem descriptorFetch_gives {s : State} {i : Nat} (hi : i < 4096) (hs : s.dev.get (rInstState i) = instActive)
    (hf : (s.dev.inst i).fetching = false) (hw : (s.dev.inst i).sqHead ≠ (s.dev.inst i).sqTail)
    (hq : (s.dev.inst i).inFlight < s.dev.get (rInstQuota i))
    (hc : (s.dev.inst i).inFlight < s.dev.cqSize i - (s.dev.inst i).unreleased) :
    Gives (.descriptorFetch i) s (s.dev.setInst i { s.dev.inst i with fetching := true }) := by
  change execDescriptorFetch i s = _
  rw [execDescriptorFetch, occursAt_next (decide_eq_true hi) (by simp [hs, hf, hw, hq, hc])]

/-- The decode of a descriptor reads neither jobs nor instances. -/
theorem Dev.decodeDesc_with (d : Dev) (t : Tab Job) (n : Nat) (u : Tab Inst) (i : Nat) (b : List Byte) :
    ({ d with jobs := t, nextJob := n, insts := u } : Dev).decodeDesc i b = d.decodeDesc i b := rfl

/-- A job that has just been admitted: Sterling jobs stand before their key checks. -/
def Dev.admitted (d : Dev) (i : Nat) (b : List Byte) : Job :=
  { newJob i b with phase := if d.instClass i = 1 then phKey else phDispatch }

/-- The device after a job has joined its instance's queue. -/
def Dev.queued (d : Dev) (i : Nat) (b : List Byte) : Dev :=
  (({ d with nextJob := d.nextJob + 1 } : Dev).setJob d.nextJob (d.admitted i b)).setInst i
    { d.inst i with fetching := false, sqHead := ((d.inst i).sqHead + 1) % d.sqSize i, queue := (d.inst i).queue ++ [d.nextJob] }

/-- A job that has joined the queue is squashed where its instance is, and ended where its descriptor is not well formed. -/
theorem Dev.admitJob_eq (d : Dev) (i : Nat) (b : List Byte) :
    d.admitJob i b =
      if (d.inst i).squash then (d.queued i b).squashJob d.nextJob
      else if d.decodeDesc i b = jsOk then d.queued i b else (d.queued i b).endJob d.nextJob (d.decodeDesc i b) 0 := by
  have hdec : (d.queued i b).decodeDesc i b = d.decodeDesc i b := d.decodeDesc_with _ _ _ i b
  rw [← hdec]
  rfl

/-- What DESCRIPTOR_RECEIVED does with the answer of the fetch. -/
theorem descriptorReceived_gives {s : State} {i : Nat} {r : InstIo} {e : Dev} (hi : i < 4096) (hf : (s.dev.inst i).fetching = true)
    (hr : s.dev.instFetch i (s.dev.get (rSqBase i) + 64 * (s.dev.inst i).sqHead) = (r, e)) :
    (∀ b, r = .ok b → Gives (.descriptorReceived i) s (e.admitJob i b)) ∧
      ((∀ b, r ≠ .ok b) → Gives (.descriptorReceived i) s
        ((e.setInst i { s.dev.inst i with fetching := false }).haltInst i r.status r.addr 0)) := by
  have hgive : execDescriptorReceived i s = .next { s with dev := _ } := occursAt_next (decide_eq_true hi) hf
  simp only [hr] at hgive
  refine ⟨fun b hb => ?_, fun hb => ?_⟩
  · subst hb
    exact hgive
  · cases r with
    | ok b => exact absurd rfl (hb b)
    | fault a => exact hgive
    | address a => exact hgive
    | memory a => exact hgive

/-- R83: a well-formed descriptor of an instance that is in no squash joins the queue. -/
theorem descriptorReceived_joins {s : State} {i : Nat} {b : List Byte} {e : Dev} (hi : i < 4096)
    (hf : (s.dev.inst i).fetching = true)
    (hr : s.dev.instFetch i (s.dev.get (rSqBase i) + 64 * (s.dev.inst i).sqHead) = (.ok b, e))
    (hs : (e.inst i).squash = false) (hd : e.decodeDesc i b = jsOk) :
    Reaches (.descriptorReceived i) s (fun t => ∃ y, t.job e.nextJob = some y ∧ y.inst = i ∧ y.desc = b ∧
      y.phase = (if e.instClass i = 1 then phKey else phDispatch) ∧ t.nextJob = e.nextJob + 1 ∧
      (t.inst i).queue = (e.inst i).queue ++ [e.nextJob] ∧ (t.inst i).fetching = false ∧
      (t.inst i).sqHead = ((e.inst i).sqHead + 1) % e.sqSize i) := by
  have hgive := (descriptorReceived_gives hi hf hr).1 b rfl
  simp only [Dev.admitJob_eq, hs, hd, Bool.false_eq_true, if_false, if_true] at hgive
  have hjob : (e.queued i b).job e.nextJob = some (e.admitted i b) := Dev.job_setJob_same _ _ _
  have hinst : (e.queued i b).inst i = _ := Dev.inst_setInst_same _ _ _
  exact ⟨_, hgive, e.admitted i b, hjob, rfl, rfl, rfl, rfl, congrArg Inst.queue hinst, congrArg Inst.fetching hinst,
    congrArg Inst.sqHead hinst⟩

/-- Settles O16: the doorbells by the page write that they are, the descriptors by the answer of their fetch. -/
theorem doorbellsAndDescriptorsMakeJobs : Obligations.DoorbellsAndDescriptorsMakeJobs := by
  refine ⟨?doorbells, fun s i hi => ⟨?fetch, ?joins, ?halts⟩⟩
  case doorbells =>
    intro s i v w hi hv d e
    refine ⟨fun hf => ⟨?_, ?_⟩, fun hf hm => ⟨?_, ?_⟩, fun hm hst => ⟨fun hn => ?_, fun hn => ?_, fun k hn hne hk hle => ?_, fun hn => ?_⟩⟩
    · exact sqTailDoorbell_gives hi (d.instPageWrite_free hf _ _ _)
    · exact cqHeadWrite_gives hi (e.instPageWrite_free hf _ _ _)
    · exact sqTailDoorbell_gives hi (d.instPageWrite_mismatch hf hm _ _)
    · exact cqHeadWrite_gives hi (e.instPageWrite_mismatch hf hm _ _)
    · exact sqTailDoorbell_gives hi ((d.instPageWrite_sqTail hm hst hv).trans (if_pos hn))
    · exact sqTailDoorbell_gives hi ((d.instPageWrite_sqTail hm hst hv).trans (if_neg (Nat.not_lt.2 hn)))
    · subst hk
      exact cqHeadWrite_gives hi ((e.instPageWrite_cqHead (not_free_of_readyOrActive hst) hm).trans (e.cqHeadSet_inside hv hn hne hle))
    · exact cqHeadWrite_gives hi ((e.instPageWrite_cqHead (not_free_of_readyOrActive hst) hm).trans (e.cqHeadSet_outside hv hn))
  case fetch => exact fun hs hf hw hq hc => descriptorFetch_gives hi hs hf hw hq hc
  case joins => exact fun b e hf hr hs hd => descriptorReceived_joins hi hf hr hs hd
  case halts => exact fun r e hf hr hb => (descriptorReceived_gives hi hf hr).2 hb

end Sys2Proof.Machine
end

section
/-!
PROOF. The statement about jobs and their records fails: it speaks of every state, and there is one in which the job that leaves flight
changes the size of its own completion ring.

A job that ends leaves its bank side, and a side that drains and has no other job reads LOADED (R165): the register of the side's state is
written. Nothing in `State` confines a job's bank to the 64 of the package. Were there a bank 0x5E2, the state of its side 1 would stand at
index 0x7802, sub-index 4; that is `cqLog2`, and its element 0 is that of instance 0.
-/
namespace Sys2Proof.Machine

/-- A job of instance 0 whose record is due, bound to side 1 of a bank that the package does not have. -/
def strayBankJob : Job := { newJob 0 (zeros 64) with phase := phComplete, bank := some (0x5E2, 1) }

/-- Instance 0 in flight with that job, with record 1 of a ring of 8 next. The ring lies in the MMIO window, and the IOMMU passes addresses
through. -/
def strayBankState : State :=
  { pending := []
    dev := (({ State.reset.dev with
                jobs := [(0, strayBankJob)], insts := [(0, { Inst.reset with cqTail := 1, queue := [0] })],
                iommu := { State.reset.dev.iommu with ddtMode := 1 } }.set (rCqLog2 0) 3).set (rCqBase 0) (mmioBase 0)) }

/-- The 32 bytes of the record are written. -/
theorem strayBank_record_written :
    (strayBankState.dev.instWrite 0 (strayBankState.dev.get (rCqBase 0) + 32 * (strayBankState.dev.inst 0).cqTail)
      (strayBankState.dev.record strayBankJob) true).1 = (.ok [], 32) := by decide +kernel

/-- The tail of instance 0 in a next state. -/
def tailAfter : Out → Option Nat
  | .next t => some (t.dev.inst 0).cqTail
  | _ => none

/-- The ring of 8 has become one of 2 when the tail moves on from record 1, so that the tail wraps. -/
theorem strayBank_tail_wraps : tailAfter (exec (.completionRecordWrite 0) strayBankState) = some 0 := by decide +kernel

/-- Refutes O17: the tail of a ring of 8 goes from 1 to 0, where the statement has it go to 2. -/
theorem not_jobsRunToTheirRecords : ¬ Obligations.JobsRunToTheirRecords := by
  rintro ⟨-, -, hrecord⟩
  obtain ⟨t, hgive, -, htail, -⟩ :=
    hrecord strayBankState 0 strayBankJob [] 32 _ rfl (by decide) rfl (Prod.ext strayBank_record_written rfl)
  have hwrap := strayBank_tail_wraps
  rw [show exec (.completionRecordWrite 0) strayBankState = _ from hgive] at hwrap
  have hzero : (t.inst 0).cqTail = 0 := Option.some.inj hwrap
  have hsize : strayBankState.dev.cqSize 0 = 8 := by decide +kernel
  have hone : (strayBankState.dev.inst 0).cqTail = 1 := by decide +kernel
  rw [show strayBankJob.inst = 0 from rfl, hzero, hone, hsize] at htail
  exact absurd htail (by decide)

end Sys2Proof.Machine
end

section
/-!
SUPPORT. What accesses to memory leave alone: the instances, the jobs, the engines, and the state registers, which stand at sub-index 1.
-/
namespace Sys2Proof.Machine

/-- The key of a sub-entry 1 of an object below 0x8000: the state of an engine, a cluster or an instance among them. -/
def stateKey (k : Nat) : Prop := k % 2 ^ 8 = 1 ∧ k < 0x8000 * 2 ^ 32

/-- A sub-entry of another number is no state. -/
theorem not_stateKey_of_sub {idx elem sub : Nat} (hs : sub < 2 ^ 8) (h : sub ≠ 1) : ¬ stateKey (regKey idx elem sub) := by
  unfold stateKey regKey; omega

/-- Nor is one of an object from 0x8000 on. -/
theorem not_stateKey_of_index {idx elem sub : Nat} (h : 0x8000 ≤ idx) : ¬ stateKey (regKey idx elem sub) := by
  unfold stateKey regKey; omega

/-- The part of a device that accesses to memory leave alone. -/
structure EngineSide where
  insts  : Tab Inst
  jobs   : Tab Job
  engs   : Tab Eng
  states : Nat → Option Nat

open Classical in
/-- That part of a device. -/
noncomputable def Dev.engineSide (d : Dev) : EngineSide :=
  { insts := d.insts, jobs := d.jobs, engs := d.engs, states := fun k => if stateKey k then tabFind d.regs k else none }

/-! ## What an equal engine side says -/

section
variable {d e : Dev} (h : e.engineSide = d.engineSide)
include h

theorem Dev.insts_of_engineSide : e.insts = d.insts := congrArg EngineSide.insts h

theorem Dev.inst_of_engineSide (i : Nat) : e.inst i = d.inst i := by simp [Dev.inst, Dev.insts_of_engineSide h]

theorem Dev.eng_of_engineSide (n : Nat) : e.eng n = d.eng n := by
  simp [Dev.eng, show e.engs = d.engs from congrArg EngineSide.engs h]

theorem Dev.get_of_engineSide {q : Reg} (hq : stateKey q.key) : e.get q = d.get q := by
  have hk := congrFun (congrArg EngineSide.states h) q.key
  simp only [Dev.engineSide, hq, if_true] at hk
  simp [Dev.get, tabGet, hk]

end

/-! ## Registers -/

/-- A write of a register that is no state. -/
@[simp] theorem Dev.engineSide_set (d : Dev) {r : Reg} (v : Nat) (h : ¬ stateKey r.key) : (d.set r v).engineSide = d.engineSide := by
  have hk : ∀ k, stateKey k → tabFind (tabPut d.regs r.key v) k = tabFind d.regs k := fun k hk =>
    tabFind_tabPut_other _ _ (fun he => h (he ▸ hk))
  simp only [Dev.engineSide, Dev.set, EngineSide.mk.injEq, true_and]
  funext k
  split
  · exact hk k ‹_›
  · rfl

@[simp] theorem Dev.engineSide_add (d : Dev) {r : Reg} (n : Nat) (h : ¬ stateKey r.key) : (d.add r n).engineSide = d.engineSide :=
  d.engineSide_set _ h

@[simp] theorem Dev.engineSide_addSat (d : Dev) {r : Reg} (n : Nat) (h : ¬ stateKey r.key) : (d.addSat r n).engineSide = d.engineSide :=
  d.engineSide_set _ h

@[simp] theorem Dev.sendFault_engineSide (d : Dev) (src : Nat) (m : FaultMsg) : (d.sendFault src m).engineSide = d.engineSide := by
  unfold Dev.sendFault
  dsimp only
  split
  · rfl
  · exact d.engineSide_addSat 1 (not_stateKey_of_index (by omega))

@[simp] theorem Dev.raise_engineSide (d : Dev) (kind src syn : Nat) : (d.raise kind src syn).engineSide = d.engineSide :=
  d.sendFault_engineSide _ _

@[simp] theorem Dev.raiseAt_engineSide (d : Dev) (kind src addr syn : Nat) : (d.raiseAt kind src addr syn).engineSide = d.engineSide :=
  d.sendFault_engineSide _ _

@[simp] theorem Dev.countEvent_engineSide (d : Dev) (g code n : Nat) (w : Option World) :
    (d.countEvent g code n w).engineSide = d.engineSide := by
  unfold Dev.countEvent
  split
  · rfl
  · refine foldl_keeps Dev.engineSide (fun e j => ?_) _ d
    unfold Dev.bumpCounter
    have hcount := e.engineSide_set (r := rCgCount g j) ((e.get (rCgCount g j) + n) % 2 ^ 48) (not_stateKey_of_index (by decide))
    dsimp only
    split
    · exact hcount
    · rw [Dev.engineSide_set _ _ (not_stateKey_of_index (by decide))]
      exact hcount

@[simp] theorem Dev.countBytes_engineSide (d : Dev) (g inn out : Nat) (w : Option World) :
    (d.countBytes g inn out w).engineSide = d.engineSide := by
  unfold Dev.countBytes; split <;> rfl

/-! ## Parts of the device that are not of the engine side -/

@[simp] theorem Dev.setHart_engineSide (d : Dev) (k : Nat) (x : Hart) : (d.setHart k x).engineSide = d.engineSide := rfl
@[simp] theorem Dev.setHome_engineSide (d : Dev) (n : Nat) (x : Home) : (d.setHome n x).engineSide = d.engineSide := rfl
@[simp] theorem Dev.setMc_engineSide (d : Dev) (n : Nat) (x : Mc) : (d.setMc n x).engineSide = d.engineSide := rfl
@[simp] theorem Dev.setHfLink_engineSide (d : Dev) (n : Nat) (x : HfLink) : (d.setHfLink n x).engineSide = d.engineSide := rfl
@[simp] theorem Dev.setL2_engineSide (d : Dev) (k line : Nat) (x : L2Line) : (d.setL2 k line x).engineSide = d.engineSide := rfl
@[simp] theorem Dev.updateFilter_engineSide (d : Dev) (n line : Nat) (f : FilterEntry → FilterEntry) :
    (d.updateFilter n line f).engineSide = d.engineSide := rfl
@[simp] theorem Dev.remoteLeave_engineSide (d : Dev) (n line : Nat) : (d.remoteLeave n line).engineSide = d.engineSide := rfl
@[simp] theorem Dev.dirPut_engineSide (d : Dev) (x : DirEntry) : (d.dirPut x).engineSide = d.engineSide := rfl
@[simp] theorem Dev.dropSide_engineSide (d : Dev) (line : Nat) : (d.dropSide line).engineSide = d.engineSide := rfl
@[simp] theorem Dev.setMemLine_engineSide (d : Dev) (line : Nat) (v : Line) (mark : Bool) : (d.setMemLine line v mark).engineSide = d.engineSide := by
  simp only [Dev.setMemLine, Dev.memWrite, Dev.engineSide]
@[simp] theorem Dev.post_engineSide (d : Dev) (m : Instr) : (d.post m).engineSide = d.engineSide := rfl
@[simp] theorem Dev.inject_engineSide (d : Dev) (point init cls flits : Nat) (m : Instr) (timer : Option (ReqOwner × Nat)) :
    (d.inject point init cls flits m timer).engineSide = d.engineSide := rfl
@[simp] theorem Dev.bufferCommand_engineSide (d : Dev) (m line : Nat) (write : Bool) :
    (d.bufferCommand m line write).engineSide = d.engineSide := rfl
@[simp] theorem Dev.takeWord_engineSide (d : Dev) : d.takeWord.2.engineSide = d.engineSide := rfl
@[simp] theorem Dev.iommuSet_engineSide (d : Dev) (off v : Nat) : (d.iommuSet off v).engineSide = d.engineSide := rfl
@[simp] theorem Dev.usedPwc_engineSide (d : Dev) (x : PwcEntry) : (d.usedPwc x).engineSide = d.engineSide := rfl
@[simp] theorem Dev.ioCache_engineSide (d : Dev) (l : List PwcEntry) : (d.ioCache l).engineSide = d.engineSide := rfl

@[simp] theorem Dev.grantPort_engineSide (d : Dev) (name n port : Nat) : (d.grantPort name n port).engineSide = d.engineSide := by
  unfold Dev.grantPort Dev.arbitrate; split <;> rfl

@[simp] theorem Dev.clearLost_engineSide (d : Dev) (line : Nat) (mark : Bool) : (d.clearLost line mark).engineSide = d.engineSide := by
  unfold Dev.clearLost; split <;> rfl

@[simp] theorem Dev.loseResv_engineSide (d : Dev) (k line : Nat) : (d.loseResv k line).engineSide = d.engineSide := by
  unfold Dev.loseResv; dsimp only; split <;> rfl

@[simp] theorem Dev.filterLeave_engineSide (d : Dev) (k line : Nat) (owner : Bool) : (d.filterLeave k line owner).engineSide = d.engineSide := by
  unfold Dev.filterLeave
  extract_lets c e
  split
  · exact Dev.remoteLeave_engineSide e _ _
  · rfl

@[simp] theorem Dev.injectNow_engineSide (d : Dev) (point cls flits : Nat) : (d.injectNow point cls flits).engineSide = d.engineSide := by
  unfold Dev.injectNow
  dsimp only
  split
  · rfl
  · exact d.engineSide_add _ (not_stateKey_of_sub (by decide) (by decide))

/-! ## Registers that are no states -/

@[simp] theorem not_stateKey_rPwHits (s : Nat) : ¬ stateKey (rPwHits s).key := not_stateKey_of_sub (by decide) (by decide)
@[simp] theorem not_stateKey_rPwMisses (s : Nat) : ¬ stateKey (rPwMisses s).key := not_stateKey_of_sub (by decide) (by decide)
@[simp] theorem not_stateKey_rPwBypasses (s : Nat) : ¬ stateKey (rPwBypasses s).key := not_stateKey_of_sub (by decide) (by decide)
@[simp] theorem not_stateKey_rPwPfIssued (s : Nat) : ¬ stateKey (rPwPfIssued s).key := not_stateKey_of_sub (by decide) (by decide)
@[simp] theorem not_stateKey_rPwPfUsed (s : Nat) : ¬ stateKey (rPwPfUsed s).key := not_stateKey_of_sub (by decide) (by decide)
@[simp] theorem not_stateKey_rHsRecalls (s : Nat) : ¬ stateKey (rHsRecalls s).key := not_stateKey_of_sub (by decide) (by decide)
@[simp] theorem not_stateKey_rMcMarkedReads (m : Nat) : ¬ stateKey (rMcMarkedReads m).key := not_stateKey_of_sub (by decide) (by decide)
@[simp] theorem not_stateKey_rWrViolations (n : Nat) : ¬ stateKey (rWrViolations n).key := not_stateKey_of_sub (by decide) (by decide)
@[simp] theorem not_stateKey_rMemMarkedReads : ¬ stateKey rMemMarkedReads.key := not_stateKey_of_sub (by decide) (by decide)

/-! ## The homes and Pewter -/

@[simp] theorem Dev.request64_engineSide (d : Dev) (u : MemUse) (line flits : Nat) : (d.request64 u line flits).engineSide = d.engineSide := by
  unfold Dev.request64
  cases u.point <;> simp

@[simp] theorem Dev.takeCopy_engineSide (d : Dev) (k line : Nat) : (d.takeCopy k line).engineSide = d.engineSide := by
  unfold Dev.takeCopy
  dsimp only
  split <;> simp

@[simp] theorem Dev.sendWrite_engineSide (d : Dev) (line hint : Nat) (data : Line) (mark : Bool) :
    (d.sendWrite line hint data mark).engineSide = d.engineSide := by
  unfold Dev.sendWrite
  split
  · rfl
  · exact d.setMemLine_engineSide _ _ _

@[simp] theorem Dev.evictVictim_engineSide (d : Dev) (line : Nat) : (d.evictVictim line).engineSide = d.engineSide := by
  unfold Dev.evictVictim
  split
  · rfl
  · split <;> simp

@[simp] theorem Dev.pewterPut_engineSide (d : Dev) (line : Nat) (data : Line) (mark dirty : Bool) :
    (d.pewterPut line data mark dirty).engineSide = d.engineSide := d.evictVictim_engineSide line

@[simp] theorem Dev.homeWrite_engineSide (d : Dev) (line hint : Nat) (data : Line) (mark : Bool) :
    (d.homeWrite line hint data mark).2.engineSide = d.engineSide := by
  unfold Dev.homeWrite
  dsimp only
  split
  · simp
  · split
    · simp
    · split
      · simp
      · simp

@[simp] theorem Dev.shareOwner_engineSide (d : Dev) (line : Nat) (w : World) : (d.shareOwner line w).engineSide = d.engineSide := by
  unfold Dev.shareOwner
  split
  · rfl
  · split
    · rfl
    · dsimp only
      split <;> simp

@[simp] theorem Dev.pewterHit_engineSide (d : Dev) (line : Nat) (w : World) : (d.pewterHit line w).engineSide = d.engineSide := by
  simp [Dev.pewterHit]

@[simp] theorem Dev.sideHit_engineSide (d : Dev) (line : Nat) (data : Line) (w : World) :
    (d.sideHit line data w).engineSide = d.engineSide := by
  unfold Dev.sideHit
  dsimp only
  split <;> simp

@[simp] theorem Dev.pewterMiss_engineSide (d : Dev) (line : Nat) (w : World) (refill : Bool) :
    (d.pewterMiss line w refill).engineSide = d.engineSide := by
  unfold Dev.pewterMiss
  dsimp only
  split <;> simp

@[simp] theorem Dev.homeRead_engineSide (d : Dev) (line : Nat) (w : World) (refill : Bool) :
    (d.homeRead line w refill).2.engineSide = d.engineSide := by
  unfold Dev.homeRead
  split
  · rfl
  · split
    · simp
    · split <;> simp

@[simp] theorem Dev.prefetchOne_engineSide (d : Dev) (slice from_ line : Nat) (w : World) :
    (d.prefetchOne slice from_ line w).engineSide = d.engineSide := by
  unfold Dev.prefetchOne
  dsimp only
  split
  · rfl
  · simp

@[simp] theorem Dev.prefetchFrom_engineSide (d : Dev) (slice line : Nat) (e : Stream) :
    (d.prefetchFrom slice line e).engineSide = d.engineSide := by
  unfold Dev.prefetchFrom
  dsimp only
  split
  · rfl
  · exact foldl_keeps Dev.engineSide (fun d l => d.prefetchOne_engineSide _ _ l _) _ d

@[simp] theorem Dev.train_engineSide (d : Dev) (line : Nat) (w : World) (req hint : Nat) : (d.train line w req hint).engineSide = d.engineSide := by
  unfold Dev.train
  dsimp only
  split <;> simp

@[simp] theorem Dev.touchRow_engineSide (d : Dev) (p : Placement) (hint : Nat) (w : World) : (d.touchRow p hint w).engineSide = d.engineSide := by
  simp [Dev.touchRow]

@[simp] theorem Dev.controllerRead_engineSide (d : Dev) (line hint : Nat) (who : Option World) :
    (d.controllerRead line hint who).engineSide = d.engineSide := by
  unfold Dev.controllerRead
  split
  · rfl
  · dsimp only
    split <;> simp

@[simp] theorem Dev.pewterFillRead_engineSide (d : Dev) (line : Nat) (data : Line) (mark refill : Bool) :
    (d.pewterFillRead line data mark refill).engineSide = d.engineSide := by
  unfold Dev.pewterFillRead
  split <;> simp

@[simp] theorem Dev.touchRead_engineSide (u : MemUse) (train : Bool) (d : Dev) (line : Nat) :
    (d.touchRead u train line).engineSide = d.engineSide := by
  unfold Dev.touchRead
  dsimp only
  split <;> split <;> simp

@[simp] theorem Dev.readLine64_engineSide (u : MemUse) (d : Dev) (line : Nat) : (d.readLine64 u line).engineSide = d.engineSide := by
  simp [Dev.readLine64]

@[simp] theorem Dev.touch_engineSide (d : Dev) (u : MemUse) (a n : Nat) : (d.touch u a n).engineSide = d.engineSide :=
  foldl_keeps Dev.engineSide (fun e l => e.readLine64_engineSide u l) _ d

@[simp] theorem Dev.countProbes_engineSide (d : Dev) (line : Nat) (w : World) : (d.countProbes line w).engineSide = d.engineSide := by
  unfold Dev.countProbes
  dsimp only
  split
  · rfl
  · split <;> simp

@[simp] theorem Dev.coherentPut_engineSide (d : Dev) (line hint : Nat) (data : Line) (mark : Bool) :
    (d.coherentPut line hint data mark).engineSide = d.engineSide := by
  have hcopies : (d.harts.foldl (fun d e => d.takeCopy e.1 line) d).engineSide = d.engineSide :=
    foldl_keeps Dev.engineSide (fun e (k : Nat × Hart) => e.takeCopy_engineSide k.1 line) _ d
  unfold Dev.coherentPut
  dsimp only
  rw [Dev.homeWrite_engineSide]
  split <;> exact hcopies

@[simp] theorem Dev.writeLine64_engineSide (d : Dev) (u : MemUse) (line : Nat) (data : Line) (mark whole : Bool) :
    (d.writeLine64 u line data mark whole).engineSide = d.engineSide := by
  unfold Dev.writeLine64
  dsimp only
  split <;> simp

@[simp] theorem Dev.cohWrite_engineSide (d : Dev) (u : MemUse) (a : Nat) (b : List Byte) : (d.cohWrite u a b).engineSide = d.engineSide := by
  refine foldl_keeps Dev.engineSide (fun e x => ?_) _ d
  dsimp only
  split <;> simp

/-! ## Refusals and the IOMMU -/

@[simp] theorem Dev.noteRefusal_engineSide (d : Dev) (n src a : Nat) : (d.noteRefusal n src a).engineSide = d.engineSide := by
  simp [Dev.noteRefusal]

@[simp] theorem Dev.consumed_engineSide (d : Dev) (src a : Nat) : (d.consumed src a).engineSide = d.engineSide := by
  unfold Dev.consumed
  split <;> simp

@[simp] theorem Dev.ioRead8_engineSide (d : Dev) (w : World) (a : Nat) : (d.ioRead8 w a).2.engineSide = d.engineSide := by
  unfold Dev.ioRead8
  split
  · rfl
  · split
    · simp
    · split
      · simp
      · dsimp only
        split <;> simp

@[simp] theorem Dev.ioWalkG_engineSide (lvl : Nat) (d : Dev) (c : IoCtx) (gpa : Nat) (impl : Bool) (table : Nat) (acc : List PwcEntry) :
    (d.ioWalkG lvl c gpa impl table acc).dev.engineSide = d.engineSide := by
  induction lvl generalizing d table acc with
  | zero =>
    unfold Dev.ioWalkG
    dsimp only
    split
    · simp
    · split
      · simp
      · split
        · simp
        · split
          · simp
          · simp
  | succ n ih =>
    unfold Dev.ioWalkG
    dsimp only
    split
    · simp
    · split
      · simp
      · split
        · simp [ih]
        · split
          · simp
          · simp

end Sys2Proof.Machine
end

section
/-!
SUPPORT. The walks of the IOMMU, the messages and the stores of an instance leave the engine side alone.
-/
namespace Sys2Proof.Machine

@[simp] theorem Dev.ioG_engineSide (d : Dev) (c : IoCtx) (gpa : Nat) (impl : Bool) : (d.ioG c gpa impl).dev.engineSide = d.engineSide := by
  unfold Dev.ioG
  split
  · rfl
  · split
    · rfl
    · split <;> simp

@[simp] theorem Dev.ioWalkS_engineSide (lvl : Nat) (d : Dev) (c : IoCtx) (va table : Nat) (glob : Bool) (acc : List PwcEntry) :
    (d.ioWalkS lvl c va table glob acc).dev.engineSide = d.engineSide := by
  induction lvl generalizing d table glob acc with
  | zero =>
    unfold Dev.ioWalkS
    dsimp only
    split
    · simp
    · split
      · simp
      · split
        · simp
        · split
          · simp
          · split
            · simp
            · simp
  | succ n ih =>
    unfold Dev.ioWalkS
    dsimp only
    split
    · simp
    · split
      · simp
      · split
        · simp
        · split
          · simp [ih]
          · split
            · simp
            · simp

@[simp] theorem Dev.ioS_engineSide (d : Dev) (c : IoCtx) (va : Nat) : (d.ioS c va).dev.engineSide = d.engineSide := by
  unfold Dev.ioS
  split
  · rfl
  · split
    · rfl
    · split <;> simp

@[simp] theorem Dev.ddtWalk_engineSide (lvl : Nat) (d : Dev) (w : World) (dev table : Nat) :
    (Dev.ddtWalk lvl d w dev table).2.engineSide = d.engineSide := by
  induction lvl generalizing d table with
  | zero => rfl
  | succ n ih =>
    unfold Dev.ddtWalk
    dsimp only
    split
    · simp
    · split
      · simp
      · split <;> simp [ih]

@[simp] theorem Dev.ioReadWords_engineSide (n : Nat) (d : Dev) (w : World) (a : Nat) (acc : List Word) :
    (Dev.ioReadWords n d w a acc).2.engineSide = d.engineSide := by
  induction n generalizing d a acc with
  | zero => rfl
  | succ n ih =>
    unfold Dev.ioReadWords
    dsimp only
    split <;> simp [ih]

@[simp] theorem Dev.withIommu_engineSide (d : Dev) (x : Iommu) : ({ d with iommu := x } : Dev).engineSide = d.engineSide := rfl

@[simp] theorem Dev.deviceContext_engineSide (d : Dev) (dev : Nat) (w : World) : (d.deviceContext dev w).2.engineSide = d.engineSide := by
  unfold Dev.deviceContext
  dsimp only
  split
  · rfl
  · split
    · rfl
    · split
      · simp
      · split
        · simp
        · split
          · simp
          · split <;> simp

@[simp] theorem Dev.pdtRead_engineSide (d : Dev) (c : IoCtx) (gpa : Nat) : (d.pdtRead c gpa).2.engineSide = d.engineSide := by
  unfold Dev.pdtRead
  dsimp only
  split
  · simp
  · split <;> simp

@[simp] theorem Dev.pdtWalk_engineSide (lvl : Nat) (d : Dev) (c : IoCtx) (pid table : Nat) :
    (Dev.pdtWalk lvl d c pid table).2.engineSide = d.engineSide := by
  induction lvl generalizing d table with
  | zero => rfl
  | succ n ih =>
    unfold Dev.pdtWalk
    dsimp only
    split
    · simp
    · split
      · simp
      · split <;> simp [ih]

@[simp] theorem Dev.processContext_engineSide (d : Dev) (dev pid : Nat) (c : IoCtx) (fsc : Nat) :
    (d.processContext dev pid c fsc).2.engineSide = d.engineSide := by
  unfold Dev.processContext
  dsimp only
  split
  · rfl
  · split
    · rfl
    · split
      · simp
      · split
        · simp
        · split
          · simp
          · split
            · simp
            · split <;> simp

theorem Dev.msiTranslate_engineSide {d e : Dev} {dc : List Word} {w : World} {gpa : Nat} {x : IoRes}
    (h : d.msiTranslate dc w gpa = some (x, e)) : e.engineSide = d.engineSide := by
  unfold Dev.msiTranslate at h
  have hread := d.ioReadWords_engineSide 2 w (field (wordAt dc 4) 0 44 * 4096 + 16 * extractBits (gpa / 4096) (wordAt dc 5)) []
  dsimp only at h
  split at h
  · split at h
    · cases h; exact hread
    · split at h
      · cases h; exact hread
      · split at h <;> (cases h; exact hread)
  · cases h

@[simp] theorem Dev.ioFill_engineSide (d : Dev) (c : IoCtx) (dev : Nat) (pasid proc : Option Nat) (iova log pa gpa : Nat) (w g : Bool) :
    (d.ioFill c dev pasid proc iova log pa gpa w g).engineSide = d.engineSide := by
  unfold Dev.ioFill
  dsimp only
  split <;> rfl

@[simp] theorem Dev.ioStages_engineSide (d : Dev) (dc : List Word) (dev : Nat) (pasid proc : Option Nat) (c : IoCtx) (iova : Nat) :
    (d.ioStages dc dev pasid proc c iova).2.engineSide = d.engineSide := by
  unfold Dev.ioStages
  dsimp only
  split
  · simp
  · split
    · rename_i h
      simp [Dev.msiTranslate_engineSide h]
    · rename_i h
      split <;> simp [Dev.msiTranslate_engineSide h]
    · split <;> simp

@[simp] theorem Dev.ioTranslateRaw_engineSide (d : Dev) (dev : Nat) (pasid : Option Nat) (iova : Nat) (w : World) (write : Bool) (ats : AtsKind) :
    (d.ioTranslateRaw dev pasid iova w write ats).2.engineSide = d.engineSide := by
  unfold Dev.ioTranslateRaw
  split
  · rfl
  · split
    · rfl
    · split
      · rfl
      · dsimp only
        split
        · simp
        · split
          · simp
          · split
            · simp
            · split
              · split <;> simp
              · split
                · simp
                · split
                  · simp
                  · split <;> simp

/-! ## Messages -/

@[simp] theorem Dev.hfEnter_engineSide (d : Dev) (l peer : Nat) (f : Flit) (data : Bool) : (d.hfEnter l peer f data).engineSide = d.engineSide := by
  unfold Dev.hfEnter
  dsimp only
  split <;> simp

@[simp] theorem not_stateKey_rHfFlitsLost : ¬ stateKey rHfFlitsLost.key := not_stateKey_of_sub (by decide) (by decide)

@[simp] theorem Dev.hfSend_engineSide (d : Dev) (peer : Nat) (f : Flit) (data : Bool) : (d.hfSend peer f data).engineSide = d.engineSide := by
  unfold Dev.hfSend
  split
  · rfl
  · split <;> simp

@[simp] theorem Dev.postMsi_engineSide (d : Dev) (w : World) (cls a v : Nat) : (d.postMsi w cls a v).engineSide = d.engineSide := by
  unfold Dev.postMsi
  split
  · split <;> simp
  · simp
  · rfl

@[simp] theorem Dev.iommuInterrupt_engineSide (d : Dev) (csr b : Nat) : (d.iommuInterrupt csr b).engineSide = d.engineSide := by
  unfold Dev.iommuInterrupt
  dsimp only
  split
  · rfl
  · split <;> simp

@[simp] theorem Dev.queueRecord_engineSide (d : Dev) (w : World) (f : IommuFault) : (d.queueRecord w f).engineSide = d.engineSide := by
  unfold Dev.queueRecord
  extract_lets x next a
  split
  · rfl
  · split
    · rw [Dev.iommuInterrupt_engineSide, Dev.iommuSet_engineSide]
    · split
      · rw [Dev.iommuInterrupt_engineSide, Dev.iommuSet_engineSide]
      · rw [Dev.iommuInterrupt_engineSide, Dev.iommuSet_engineSide, Dev.cohWrite_engineSide]

@[simp] theorem Dev.ioFault_engineSide (d : Dev) (w : World) (f : IommuFault) : (d.ioFault w f).engineSide = d.engineSide := by
  simp [Dev.ioFault]

/-! ## The accesses of an instance -/

@[simp] theorem Dev.ioAccessOf_engineSide (d : Dev) (dev : Nat) (pasid : Option Nat) (iova : Nat) (w : World) (write : Bool) (ats : AtsKind) :
    (d.ioAccessOf dev pasid iova w write ats).2.engineSide = d.engineSide := by
  unfold Dev.ioAccessOf
  dsimp only
  split
  · dsimp only
    split <;> simp
  · split
    · simp
    · split <;> simp

@[simp] theorem Dev.ioAccessAt_engineSide (d : Dev) (dev : Nat) (pasid : Option Nat) (iova : Nat) (w : World) (write : Bool) :
    (d.ioAccessAt dev pasid iova w write).2.engineSide = d.engineSide :=
  d.ioAccessOf_engineSide dev pasid iova w write .untranslated

@[simp] theorem Dev.raiseGuarded_engineSide (d : Dev) (kept : Option Nat) (src a : Nat) : (d.raiseGuarded kept src a).engineSide = d.engineSide := by
  cases kept
  · rfl
  · exact d.raiseAt_engineSide _ _ _ _

theorem Dev.homeRefusal_engineSide {d e : Dev} {r : HomeReq} {k : TxnKind} (h : d.homeRefusal r k = some e) :
    e.engineSide = d.engineSide := by
  unfold Dev.homeRefusal at h
  dsimp only at h
  split at h
  · cases h; simp
  · split at h
    · cases h; simp
    · cases h

theorem Dev.storeRefused_engineSide {d e : Dev} {u : MemUse} {pa n : Nat} (h : d.storeRefused u pa n = some e) :
    e.engineSide = d.engineSide := by
  obtain ⟨l, -, hl⟩ := List.exists_of_findSome?_eq_some h
  exact Dev.homeRefusal_engineSide hl

@[simp] theorem not_stateKey_rDlStatus (i : Nat) : ¬ stateKey (rDlStatus i).key := not_stateKey_of_sub (by decide) (by decide)
@[simp] theorem not_stateKey_rDlBitsSet (i : Nat) : ¬ stateKey (rDlBitsSet i).key := not_stateKey_of_sub (by decide) (by decide)

@[simp] theorem Dev.dirtyMark_engineSide (d : Dev) (i gpa : Nat) : (d.dirtyMark i gpa).2.engineSide = d.engineSide := by
  unfold Dev.dirtyMark
  dsimp only
  split
  · rfl
  · split
    · simp
    · split
      · rename_i h
        simp [Dev.storeRefused_engineSide h]
      · split <;> simp

@[simp] theorem Dev.instRemote_engineSide (d : Dev) (u : MemUse) (pa n msg : Nat) : (d.instRemote u pa n msg).engineSide = d.engineSide := by
  refine foldl_keeps Dev.engineSide (fun e l => ?_) _ d
  split
  · unfold Dev.sendRemote
    rw [Dev.hfSend_engineSide]
    split <;> simp
  · rfl

/-- Through the translation, the dirty bit, and the store or message at the address that it found. -/
theorem Dev.instWritePage_engineSide (d : Dev) (i iova : Nat) (b : List Byte) (log : Bool) :
    (d.instWritePage i iova b log).2.engineSide = d.engineSide := by
  unfold Dev.instWritePage
  have hacc := d.ioAccessAt_engineSide (d.get (rInstDeviceId i)) (d.instPid i) iova (d.instWorld i) true
  split <;> rename_i h <;> rw [h] at hacc
  · exact hacc
  · exact hacc
  · rename_i pa gpa e
    have hmark : (if log then e.dirtyMark i gpa else (.ok [], e)).2.engineSide = d.engineSide := by
      split <;> simp [hacc]
    split <;> rename_i h <;> rw [h] at hmark
    · exact hmark
    · exact hmark
    · exact hmark
    · split
      iterate 3
        · split
          · rename_i hr
            simpa [Dev.storeRefused_engineSide hr] using hmark
          · simpa using hmark
      · simpa using hmark
      · simpa using hmark

@[simp] theorem Dev.instWriteN_engineSide (i : Nat) (log : Bool) (n : Nat) (d : Dev) (a : Nat) (b : List Byte) :
    (Dev.instWriteN i log n d a b).2.engineSide = d.engineSide := by
  induction n generalizing d a b with
  | zero => rfl
  | succ n ih =>
    unfold Dev.instWriteN
    split
    · rfl
    · have hpage := d.instWritePage_engineSide i a (b.take (min b.length (4096 - a % 4096))) log
      dsimp only
      split
      · rename_i h
        rw [h] at hpage
        simpa [ih] using hpage
      · rename_i h
        rw [h] at hpage
        exact hpage

@[simp] theorem Dev.instWrite_engineSide (d : Dev) (i iova : Nat) (b : List Byte) (log : Bool) :
    (d.instWrite i iova b log).2.engineSide = d.engineSide := Dev.instWriteN_engineSide ..

end Sys2Proof.Machine
end

section
/-!
PROOF. MSIs that are sent, dirty logging, engines that leave service, and slots whose move completes (R87, R93, R97, R105).
-/
namespace Sys2Proof.Machine

/-! ## MSIs and dirty logging -/

@[simp] theorem Dev.haltInst_insts (d : Dev) (i status addr tag : Nat) : (d.haltInst i status addr tag).insts = d.insts := by
  have hraise := Dev.insts_of_engineSide (d.raiseAt_engineSide kInstanceHalt 883 addr 0)
  unfold Dev.haltInst
  dsimp only
  split
  · exact hraise
  · exact hraise

@[simp] theorem Dev.inst_haltInst (d : Dev) (i status addr tag k : Nat) : (d.haltInst i status addr tag).inst k = d.inst k := by
  simp [Dev.inst]

@[simp] theorem Dev.inst_instWrite (d : Dev) (i iova : Nat) (b : List Byte) (log : Bool) (k : Nat) :
    (d.instWrite i iova b log).2.inst k = d.inst k := Dev.inst_of_engineSide (d.instWrite_engineSide i iova b log) k

/-- R87: the first MSI that is due is sent and leaves the list. -/
theorem msiSend_reaches {s : State} {i tag : Nat} {rest : List Nat} (hi : i < 4096) (hm : (s.dev.inst i).msis = tag :: rest) :
    Reaches (.msiSend i) s (fun t => (t.inst i).msis = rest ∧ (t.inst i).queue = (s.dev.inst i).queue) := by
  have hgive : exec (.msiSend i) s = execMsiSend i s := rfl
  rw [execMsiSend, occursAt_next (by simpa using hi) (by simp [hm])] at hgive
  refine ⟨_, hgive, ?_⟩
  dsimp only
  split <;> simp [hm]

/-- A command of dirty logging that nothing turns away is answered as its effect on the selected instance says. -/
theorem dirtyLogWrite_gives {s : State} {p : Path} {code : Nat} {f : Dev → Nat → Reply} {st : Status} {d : Dev}
    (ha : s.dev.admits p 0x7804 0x01 code = true) (hr : f (s.dev.heard p) (s.dev.selected 0x7800 p) = (st, d)) :
    writeCommand p 0x7804 0x01 code (fun d _ => f d (d.selected 0x7800 p)) s = .next { s with dev := d.respond p st [] } := by
  rw [writeCommand_admitted ha, Dev.selected_takeTurn, hr]

theorem Dev.inDram_takeTurn (d : Dev) (p : Path) (a n : Nat) : (d.takeTurn p).inDram a n = d.inDram a n := by
  obtain ⟨r, x, h⟩ := d.takeTurn_changes p
  rw [h]; rfl

/-- R97: dirty logging starts unless it is starting already or its bitmap is not in memory. -/
theorem dlStart_gives {s : State} {p : Path} {i : Nat} (hi : i = s.dev.selected 0x7800 p) (ha : s.dev.admits p 0x7804 0x01 1 = true)
    (hrun : s.dev.get (rDlControl i) ≠ cmdRunning)
    (hmap : s.dev.get (rDlPages i) = 0 ∨ s.dev.inDram (s.dev.get (rDlBitmap i)) ((s.dev.get (rDlPages i) + 7) / 8) = true) :
    Gives (.dlStart p) s (((((s.dev.heard p).setInst i { s.dev.inst i with dlOn := true, dlWait := (s.dev.inst i).sent }).set
      (rDlBitsSet i) 0).set (rDlControl i) cmdRunning).ok p) := by
  subst hi
  refine dirtyLogWrite_gives (f := Dev.dlStart) ha ?_
  have hplaced : ¬ ((s.dev.heard p).get (rDlPages (s.dev.selected 0x7800 p)) != 0 &&
      !(s.dev.heard p).inDram ((s.dev.heard p).get (rDlBitmap (s.dev.selected 0x7800 p)))
        (((s.dev.heard p).get (rDlPages (s.dev.selected 0x7800 p)) + 7) / 8)) = true := by
    rw [Dev.inDram_takeTurn]
    rcases hmap with h | h <;> simp [h]
  rw [Dev.dlStart, if_neg (by simpa using hrun), if_neg hplaced]
  simp

/-- R97: it stops at once (log 23). -/
theorem dlStop_gives {s : State} {p : Path} {i : Nat} (hi : i = s.dev.selected 0x7800 p) (ha : s.dev.admits p 0x7804 0x01 0 = true)
    (hrun : s.dev.get (rDlControl i) ≠ cmdRunning) :
    Gives (.dlStop p) s ((((s.dev.heard p).setInst i { s.dev.inst i with dlOn := false }).set (rDlControl i) cmdDone).ok p) := by
  subst hi
  refine dirtyLogWrite_gives (f := Dev.dlStop) ha ?_
  rw [Dev.dlStop, if_neg (by simpa using hrun)]
  simp

/-- R97: the start ends once the instance's earlier messages have arrived. -/
theorem dlStartDone_gives {s : State} {i : Nat} (hi : i < 4096) (hrun : s.dev.get (rDlControl i) = cmdRunning)
    (hgone : s.dev.delivered (s.dev.inst i).dlWait = true) : Gives (.dlStartDone i) s (s.dev.set (rDlControl i) cmdDone) := by
  have hgive : exec (.dlStartDone i) s = execDlStartDone i s := rfl
  rwa [execDlStartDone, occursAt_next (by simpa using hi) (by simp [hrun, hgone])] at hgive

/-! ## The move of a slot -/

/-- R105: the one slot that was to move to an engine stands there. -/
theorem slotMoveComplete_reaches {s : State} {e : Nat} {m : SlotMove} (he : e < 88)
    (hm : s.dev.moves.filter (fun m => m.eng = e) = [m]) (hinst : m.inst ≠ 0xFFFE) (hpos : m.pos < (s.dev.inst m.inst).slotMap.length) :
    Reaches (.slotMoveComplete e) s (fun t => (∀ k ∈ t.moves, k.eng ≠ e) ∧
      (t.inst m.inst).slotMap.getD m.pos none = some m.place ∧ t.regs = s.dev.regs ∧ s.dev.stores t) := by
  have honly : ∀ k ∈ s.dev.moves, k.eng = e → k = m := fun k hk hke => by
    have : k ∈ s.dev.moves.filter (fun m => m.eng = e) := by simp [hk, hke]
    simpa [hm] using this
  have hmem : m ∈ s.dev.moves ∧ m.eng = e := by
    simpa using (hm ▸ List.mem_singleton_self m : m ∈ s.dev.moves.filter (fun m => m.eng = e))
  have hmgmt : s.dev.moves.filter (fun m => m.eng = e && m.inst = 0xFFFE) = [] := by
    rw [List.filter_eq_nil_iff]
    rintro k hk hke
    simp only [Bool.and_eq_true, decide_eq_true_eq] at hke
    exact hinst (honly k hk hke.1 ▸ hke.2)
  have hgive : exec (.slotMoveComplete e) s = execSlotMoveComplete e s := rfl
  rw [execSlotMoveComplete, occursAt_next (by simpa using he) (by
    rw [hmgmt, Bool.and_eq_true]
    exact ⟨List.any_eq_true.2 ⟨m, hmem.1, by simpa using hmem.2⟩, rfl⟩)] at hgive
  refine ⟨_, hgive, ?_⟩
  rw [hm]
  simp only [List.foldl_cons, List.foldl_nil, if_neg hinst, Dev.inst_setInst_same]
  refine ⟨fun k hk => ?_, ?_, rfl, rfl, rfl, rfl, rfl, rfl⟩
  · simpa using (List.mem_filter.1 hk).2
  · have hlen : m.pos < (({ s.dev with moves := s.dev.moves.filter (fun m => m.eng != e) } : Dev).inst m.inst).slotMap.length := hpos
    simp [List.getD_eq_getElem?_getD, hlen]

/-! ## Engines that leave service -/

/-- The engine's state reads `st`, and it is at no task. -/
def Dev.engineRests (d : Dev) (e st : Nat) : Prop := d.get (rEngState e) = st ∧ (d.eng e).task = .none

theorem engState_stateKey {e : Nat} (he : e < 88) : stateKey (rEngState e).key := by
  unfold rEngState
  split
  · simp only [stateKey, rStEngState, regKey]; omega
  · split
    · simp only [stateKey, rElEngState, regKey]; omega
    · simp only [stateKey, rDfEngState, regKey]; omega

/-- A register that each class of engine has at an index of its own is no state where none of the three is. -/
theorem not_stateKey_of_classes {e : Nat} {a b c : Reg} (ha : ¬ stateKey a.key) (hb : ¬ stateKey b.key) (hc : ¬ stateKey c.key) :
    ¬ stateKey (if e < 64 then a else if e < 80 then b else c).key := by
  split
  · exact ha
  · split
    · exact hb
    · exact hc

@[simp] theorem not_stateKey_rEngCommand (e : Nat) : ¬ stateKey (rEngCommand e).key :=
  not_stateKey_of_classes (not_stateKey_of_sub (by decide) (by decide)) (not_stateKey_of_sub (by decide) (by decide))
    (not_stateKey_of_sub (by decide) (by decide))

@[simp] theorem not_stateKey_rEngJobs (e : Nat) : ¬ stateKey (rEngJobs e).key :=
  not_stateKey_of_classes (not_stateKey_of_sub (by decide) (by decide)) (not_stateKey_of_sub (by decide) (by decide))
    (not_stateKey_of_sub (by decide) (by decide))

@[simp] theorem not_stateKey_rEngRestarts (e : Nat) : ¬ stateKey (rEngRestarts e).key :=
  not_stateKey_of_classes (not_stateKey_of_sub (by decide) (by decide)) (not_stateKey_of_sub (by decide) (by decide))
    (not_stateKey_of_sub (by decide) (by decide))

@[simp] theorem not_stateKey_rStEngSelfTest (e : Nat) : ¬ stateKey (rStEngSelfTest e).key := not_stateKey_of_sub (by decide) (by decide)
@[simp] theorem not_stateKey_rStSlotsUnplaced : ¬ stateKey rStSlotsUnplaced.key := not_stateKey_of_sub (by decide) (by decide)
@[simp] theorem not_stateKey_rCkMissed : ¬ stateKey rCkMissed.key := not_stateKey_of_sub (by decide) (by decide)
@[simp] theorem not_stateKey_rCkCommand : ¬ stateKey rCkCommand.key := not_stateKey_of_sub (by decide) (by decide)
@[simp] theorem not_stateKey_rAttCommand : ¬ stateKey rAttCommand.key := not_stateKey_of_sub (by decide) (by decide)
@[simp] theorem not_stateKey_rBootCommand : ¬ stateKey rBootCommand.key := not_stateKey_of_sub (by decide) (by decide)
@[simp] theorem not_stateKey_rKsCommand (h : Nat) : ¬ stateKey (rKsCommand h).key := not_stateKey_of_sub (by decide) (by decide)
@[simp] theorem not_stateKey_rKsImportError (h : Nat) : ¬ stateKey (rKsImportError h).key := not_stateKey_of_sub (by decide) (by decide)

@[simp] theorem Dev.ringReply_engineSide (d : Dev) (f : Frame) (r : Status) (data : List Byte) :
    (d.ringReply f r data).engineSide = d.engineSide := by
  unfold Dev.ringReply Dev.sendFrame
  dsimp only
  split
  · exact Dev.grantPort_engineSide _ _ _ _
  · rfl

@[simp] theorem Dev.endOpening_engineSide (d : Dev) (id : Nat) (r : Status) : (d.endOpening id r).engineSide = d.engineSide := by
  unfold Dev.endOpening
  split
  · rfl
  · unfold Dev.answerPath Dev.ringAnswer
    dsimp only
    split
    · rfl
    · exact Dev.ringReply_engineSide _ _ _ _

@[simp] theorem Dev.withKs_engineSide (d : Dev) (x : KeyStore) : ({ d with ks := x } : Dev).engineSide = d.engineSide := rfl

@[simp] theorem Dev.importRefused_engineSide (d : Dev) (h err : Nat) : (d.importRefused h err).engineSide = d.engineSide := by
  unfold Dev.importRefused Dev.keyPut
  dsimp only
  split
  · split <;> simp
  · simp

@[simp] theorem Dev.ckMissed_engineSide (d : Dev) (trigger : Nat) : (d.ckMissed trigger).engineSide = d.engineSide := by
  have hcount : (d.addSat rCkMissed 1).engineSide = d.engineSide := by simp
  unfold Dev.ckMissed
  dsimp only
  split
  · exact (Dev.engineSide_set _ _ not_stateKey_rCkCommand).trans hcount
  · exact hcount

/-- The jobs that start again elsewhere change neither states nor engines. -/
theorem Dev.restartJobs_keeps (d : Dev) (k : Nat) {q : Reg} (hq : stateKey q.key) :
    (d.restartJobs k).get q = d.get q ∧ (d.restartJobs k).engs = d.engs := by
  refine Prod.mk.inj (foldl_keeps (fun f : Dev => (f.get q, f.engs)) (fun f (p : Nat × Job) => ?_) d.jobs d)
  dsimp only
  split
  · have hside : ∀ x : Dev, ∀ w, ((x.addWrap32 (rEngRestarts k)).countEvent (engGroup k) 6 1 w).engineSide = x.engineSide :=
      fun x w => (Dev.countEvent_engineSide _ _ _ _ _).trans (x.engineSide_set _ (not_stateKey_rEngRestarts k))
    exact Prod.ext (Dev.get_of_engineSide (hside _ _) hq) (congrArg EngineSide.engs (hside _ _))
  · rfl

section
variable {d f : Dev} {e st : Nat} (he : e < 88)
include he

theorem Dev.engineRests.of_engineSide (h : d.engineRests e st) (hside : f.engineSide = d.engineSide) : f.engineRests e st :=
  ⟨(Dev.get_of_engineSide hside (engState_stateKey he)).trans h.1, (Dev.eng_of_engineSide hside e).symm ▸ h.2⟩

/-- A write of a register that is no state. -/
theorem Dev.engineRests.set (h : d.engineRests e st) {r : Reg} (v : Nat) (hr : ¬ stateKey r.key) : (d.set r v).engineRests e st :=
  h.of_engineSide he (d.engineSide_set v hr)

omit he in
/-- A change of neither registers nor engines. -/
theorem Dev.engineRests.of_same (h : d.engineRests e st) (hregs : f.regs = d.regs) (hengs : f.engs = d.engs) : f.engineRests e st :=
  ⟨(Dev.get_congr hregs _).trans h.1, by rw [Dev.eng, hengs]; exact h.2⟩

omit he in
/-- An engine, the same or another, is left without a task. -/
theorem Dev.engineRests.setEng (h : d.engineRests e st) (k : Nat) {x : Eng} (hx : x.task = .none) : (d.setEng k x).engineRests e st := by
  refine ⟨h.1, ?_⟩
  by_cases hk : k = e
  · rw [hk, Dev.eng_setEng_same]; exact hx
  · rw [Dev.eng, Dev.setEng, tabGet_tabPut_other _ _ _ hk]; exact h.2

/-- The jobs on an engine that leaves service start again elsewhere. -/
theorem Dev.engineRests.restartJobs (h : d.engineRests e st) (k : Nat) : (d.restartJobs k).engineRests e st := by
  obtain ⟨hget, hengs⟩ := d.restartJobs_keeps k (engState_stateKey he)
  exact ⟨hget.trans h.1, by rw [Dev.eng, hengs]; exact h.2⟩

theorem Dev.engineRests.moveSlot (h : d.engineRests e st) (i k s : Nat) : (d.moveSlot i k s).engineRests e st := by
  unfold Dev.moveSlot
  dsimp only
  split
  · exact h.of_same rfl rfl
  · generalize Dev.placeSlot _ _ _ = placed
    cases placed with
    | none => exact Dev.engineRests.set he (h.of_same rfl rfl) _ not_stateKey_rStSlotsUnplaced
    | some q => exact h.of_same rfl rfl

theorem Dev.engineRests.takeMgmtSlot (h : d.engineRests e st) (k : Nat) : (d.takeMgmtSlot k).engineRests e st := by
  unfold Dev.takeMgmtSlot
  dsimp only
  split
  · exact (h.moveSlot he _ k 15).of_same rfl rfl
  · exact h.of_same rfl rfl

theorem Dev.engineRests.giveMgmtSlot (h : d.engineRests e st) (b k : Nat) : (d.giveMgmtSlot b k).engineRests e st := by
  unfold Dev.giveMgmtSlot
  split
  · exact h.takeMgmtSlot he k
  · exact h.of_same rfl rfl

/-- Work that finds no other slot ends as its kind says. -/
theorem Dev.engineRests.mgmtFail (h : d.engineRests e st) (w : MgmtWork) : (d.mgmtFail w).engineRests e st := by
  unfold Dev.mgmtFail
  cases w.kind with
  | session _ id => exact h.of_engineSide he (d.endOpening_engineSide id .busy)
  | import_ k => exact h.of_engineSide he (d.importRefused_engineSide k 8)
  | checkpoint t => exact h.of_engineSide he (d.ckMissed_engineSide t)
  | attest _ => exact h.set he _ not_stateKey_rAttCommand
  | bootSlot => exact (h.set he cmdRefused not_stateKey_rBootCommand).of_same rfl rfl
  | ucode k => exact (h.setEng k rfl).set he _ (not_stateKey_rEngCommand k)

/-- Management work of a die goes to another die's slot. -/
theorem Dev.engineRests.mgmtRehome (h : d.engineRests e st) (b : Nat) : (d.mgmtRehome b).engineRests e st := by
  unfold Dev.mgmtRehome
  refine List.foldlRecOn _ _ (motive := fun f : Dev => f.engineRests e st) (h.of_same rfl rfl) fun f hf w _ => ?_
  split
  · rename_i g hg
    obtain ⟨_, -, rfl⟩ := Option.map_eq_some_iff.1 hg
    exact hf.of_same rfl rfl
  · exact hf.mgmtFail he w

/-- The slots of an engine that leaves service move. -/
theorem Dev.engineRests.moveSlots (h : d.engineRests e st) (k : Nat) : (d.moveSlots k).engineRests e st := by
  unfold Dev.moveSlots
  extract_lets d₁ had freed d₂ d₃ d₄
  have h₂ : d₂.engineRests e st := by
    simp only [d₂]
    split <;> exact h.of_same rfl rfl
  have h₃ : d₃.engineRests e st := by
    refine List.foldlRecOn _ _ (motive := fun f : Dev => f.engineRests e st) h₂ fun f hf s _ => ?_
    split
    · exact hf.moveSlot he _ k s
    · exact hf
  have h₄ : d₄.engineRests e st := by
    simp only [d₄]
    split
    · exact h₃.giveMgmtSlot he _ _
    · exact h₃
  split
  · split
    · exact h₄.mgmtRehome he _
    · exact h₄
  · exact h₃

end

/-- R93: an engine that leaves service is in the state given, without a task. -/
theorem Dev.engineOut_rests (d : Dev) {e : Nat} (he : e < 88) (st : Nat) : (d.engineOut e st).engineRests e st := by
  unfold Dev.engineOut
  extract_lets d₁ x d₂ y d₃
  have h₂ : d₂.engineRests e st := ⟨d.get_set_same (rEngState e) st, by simp [d₂]⟩
  have h₃ : d₃.engineRests e st := by
    simp only [d₃]
    split
    · have hrefused := h₂.set he cmdRefused (not_stateKey_rEngCommand e)
      exact hrefused.setEng e hrefused.2
    · exact h₂
  have hdropped : (d₃.dropUcode e).engineRests e st := h₃.of_same rfl rfl
  exact (hdropped.restartJobs he e).moveSlots he e

/-- Clearing a counter group leaves the states alone. -/
theorem Dev.get_clearGroup_of_stateKey (d : Dev) (g : Nat) {q : Reg} (hq : stateKey q.key) : (d.clearGroup g).get q = d.get q := by
  have hindex : ¬ keyIndex q.key = 0x9811 := fun hx => by
    have hlow := hq.2
    unfold keyIndex at hx
    omega
  simp only [Dev.get, tabGet, Dev.clearGroup]
  rw [tabFind_tabDrop_other _ (by simp [hindex])]

@[simp] theorem Dev.engObjectReset_engineSide (d : Dev) (e : Nat) : (d.engObjectReset e).engineSide = d.engineSide := by
  unfold Dev.engObjectReset
  dsimp only
  split <;> simp

/-- R93: an engine that was reset is in RESET and tests itself. -/
theorem Dev.engineReset_tests (d : Dev) {e : Nat} (he : e < 88) :
    (d.engineReset e).get (rEngState e) = stReset ∧ ((d.engineReset e).eng e).task = .selfTest := by
  have hkey := engState_stateKey he
  unfold Dev.engineReset
  extract_lets d₁ d₂ d₃ x d₄ d₅
  have h₁ : d₁.get (rEngState e) = stReset := by
    have hrestarted := (Dev.restartJobs_keeps ((d.dropUcode e).set (rEngState e) stReset) e hkey).1.trans (Dev.get_set_same _ _ _)
    exact (Dev.get_of_engineSide (Dev.engObjectReset_engineSide _ e) hkey).trans hrestarted
  have h₂ : d₂.get (rEngState e) = stReset := (Dev.get_clearGroup_of_stateKey _ _ hkey).trans h₁
  have h₃ : d₃.get (rEngState e) = stReset := by
    simp only [d₃]
    split
    · exact (Dev.get_of_engineSide (d₂.engineSide_set _ (not_stateKey_rEngCommand e)) hkey).trans h₂
    · exact h₂
  have h₄ : d₄.engineRests e stReset := ⟨h₃, by simp [d₄]⟩
  have h₅ : d₅.engineRests e stReset := by
    simp only [d₅]
    split
    · exact h₄.mgmtRehome he _
    · exact h₄
  exact ⟨h₅.1, by simp [Dev.startSelfTest]⟩

/-- R93: an engine that is on fails. -/
theorem engineFailed_gives {s : State} {e : Nat} (he : e < 88) (hon : s.dev.get (rEngState e) ≠ stOff) :
    Gives (.engineFailure e .failed) s ((s.dev.engineOut e stFailed).raise kEngineSelfTest (engSource e) 0) := by
  change execEngineFailure e .failed s = _
  rw [execEngineFailure, occursAt_next (by simpa using he) (by simpa using hon)]

/-- R93: an engine that is on is reset. -/
theorem engineLostToReset_gives {s : State} {e : Nat} (he : e < 88) (hon : s.dev.get (rEngState e) ≠ stOff) :
    Gives (.engineFailure e .reset) s (s.dev.engineReset e) := by
  change execEngineFailure e .reset s = _
  rw [execEngineFailure, occursAt_next (by simpa using he) (by simpa using hon)]

/-- Settles O18: each step's one change survives what else the step does, since accesses to memory leave the engine side alone. -/
theorem msisDirtyLoggingAndMoves : Obligations.MsisDirtyLoggingAndMoves := by
  unfold Obligations.MsisDirtyLoggingAndMoves
  refine ⟨fun s p i hi => ⟨fun tag rest hm => msiSend_reaches hi hm, fun hsel ha hrun hmap => dlStart_gives hsel ha hrun hmap,
    fun hrun hgone => dlStartDone_gives hi hrun hgone, fun hsel ha hrun => dlStop_gives hsel ha hrun⟩,
    fun s e he => ⟨fun hon => ⟨?_, ?_⟩, fun m hm hinst hpos => slotMoveComplete_reaches he hm hinst hpos⟩⟩
  · exact ⟨_, engineFailed_gives he hon, (s.dev.engineOut_rests he stFailed).of_engineSide he (Dev.raise_engineSide _ _ _ _)⟩
  · exact ⟨_, engineLostToReset_gives he hon, s.dev.engineReset_tests he⟩

end Sys2Proof.Machine
end

section
/-!
SUPPORT. What accesses to memory can change at all: the memory system, its counters and registers, and the arbiters. Every other part of the
device is as it was, the key store with its claims, the journals and the management work among them. (`Dev.engineSide` says which registers an
access leaves alone; here all registers are given up, and every part that an access never writes is kept.)
-/
namespace Sys2Proof.Machine

/-- What of a device lies beyond its memory system: the device with every part that an access to memory may change put to its reset value. -/
def Dev.beyondMemory (d : Dev) : Dev :=
  { d with
    regs := [], mem := [], marks := [], harts := [], homes := [], pewter := [], filters := [], remote := [], mcs := [], arb := [],
    fab := State.reset.dev.fab, cnt := State.reset.dev.cnt }

section
variable {d e : Dev} (h : e.beyondMemory = d.beyondMemory)
include h

theorem Dev.ks_of_beyondMemory : e.ks = d.ks := show e.beyondMemory.ks = d.beyondMemory.ks from congrArg Dev.ks h

theorem Dev.mgmt_of_beyondMemory : e.mgmt = d.mgmt := show e.beyondMemory.mgmt = d.beyondMemory.mgmt from congrArg Dev.mgmt h

end

/-! ## Parts of the memory system -/

@[simp] theorem Dev.set_beyondMemory (d : Dev) (r : Reg) (v : Nat) : (d.set r v).beyondMemory = d.beyondMemory := rfl
@[simp] theorem Dev.add_beyondMemory (d : Dev) (r : Reg) (n : Nat) : (d.add r n).beyondMemory = d.beyondMemory := rfl
@[simp] theorem Dev.setHome_beyondMemory (d : Dev) (n : Nat) (x : Home) : (d.setHome n x).beyondMemory = d.beyondMemory := rfl
@[simp] theorem Dev.setMc_beyondMemory (d : Dev) (n : Nat) (x : Mc) : (d.setMc n x).beyondMemory = d.beyondMemory := rfl
@[simp] theorem Dev.setL2_beyondMemory (d : Dev) (k line : Nat) (x : L2Line) : (d.setL2 k line x).beyondMemory = d.beyondMemory := rfl
@[simp] theorem Dev.updateFilter_beyondMemory (d : Dev) (n line : Nat) (f : FilterEntry → FilterEntry) :
    (d.updateFilter n line f).beyondMemory = d.beyondMemory := rfl
@[simp] theorem Dev.remoteLeave_beyondMemory (d : Dev) (n line : Nat) : (d.remoteLeave n line).beyondMemory = d.beyondMemory := rfl
@[simp] theorem Dev.dirPut_beyondMemory (d : Dev) (x : DirEntry) : (d.dirPut x).beyondMemory = d.beyondMemory := rfl
@[simp] theorem Dev.dropSide_beyondMemory (d : Dev) (line : Nat) : (d.dropSide line).beyondMemory = d.beyondMemory := rfl
@[simp] theorem Dev.setMemLine_beyondMemory (d : Dev) (line : Nat) (v : Line) (mark : Bool) :
    (d.setMemLine line v mark).beyondMemory = d.beyondMemory := by
  simp only [Dev.setMemLine, Dev.memWrite, Dev.beyondMemory]
@[simp] theorem Dev.post_beyondMemory (d : Dev) (m : Instr) : (d.post m).beyondMemory = d.beyondMemory := rfl
@[simp] theorem Dev.inject_beyondMemory (d : Dev) (point init cls flits : Nat) (m : Instr) (timer : Option (ReqOwner × Nat)) :
    (d.inject point init cls flits m timer).beyondMemory = d.beyondMemory := rfl
@[simp] theorem Dev.bufferCommand_beyondMemory (d : Dev) (m line : Nat) (write : Bool) :
    (d.bufferCommand m line write).beyondMemory = d.beyondMemory := rfl

@[simp] theorem Dev.grantPort_beyondMemory (d : Dev) (name n port : Nat) : (d.grantPort name n port).beyondMemory = d.beyondMemory := by
  unfold Dev.grantPort Dev.arbitrate; split <;> rfl

@[simp] theorem Dev.countEvent_beyondMemory (d : Dev) (g code n : Nat) (w : Option World) :
    (d.countEvent g code n w).beyondMemory = d.beyondMemory := by
  unfold Dev.countEvent
  split
  · rfl
  · refine foldl_keeps Dev.beyondMemory (fun e j => ?_) _ d
    unfold Dev.bumpCounter; dsimp only; split <;> rfl

@[simp] theorem Dev.countBytes_beyondMemory (d : Dev) (g inn out : Nat) (w : Option World) :
    (d.countBytes g inn out w).beyondMemory = d.beyondMemory := by
  unfold Dev.countBytes; split <;> rfl

@[simp] theorem Dev.injectNow_beyondMemory (d : Dev) (point cls flits : Nat) : (d.injectNow point cls flits).beyondMemory = d.beyondMemory := by
  unfold Dev.injectNow; dsimp only; split <;> rfl

@[simp] theorem Dev.clearLost_beyondMemory (d : Dev) (line : Nat) (mark : Bool) : (d.clearLost line mark).beyondMemory = d.beyondMemory := by
  unfold Dev.clearLost; split <;> rfl

@[simp] theorem Dev.loseResv_beyondMemory (d : Dev) (k line : Nat) : (d.loseResv k line).beyondMemory = d.beyondMemory := by
  unfold Dev.loseResv; dsimp only; split <;> rfl

@[simp] theorem Dev.filterLeave_beyondMemory (d : Dev) (k line : Nat) (owner : Bool) :
    (d.filterLeave k line owner).beyondMemory = d.beyondMemory := by
  unfold Dev.filterLeave
  extract_lets c e
  split
  · exact e.remoteLeave_beyondMemory _ _
  · rfl

@[simp] theorem Dev.takeCopy_beyondMemory (d : Dev) (k line : Nat) : (d.takeCopy k line).beyondMemory = d.beyondMemory := by
  unfold Dev.takeCopy; dsimp only; split <;> simp

/-! ## The homes, Pewter and the memory controllers -/

@[simp] theorem Dev.request64_beyondMemory (d : Dev) (u : MemUse) (line flits : Nat) :
    (d.request64 u line flits).beyondMemory = d.beyondMemory := by
  unfold Dev.request64
  cases u.point <;> simp

@[simp] theorem Dev.sendWrite_beyondMemory (d : Dev) (line hint : Nat) (data : Line) (mark : Bool) :
    (d.sendWrite line hint data mark).beyondMemory = d.beyondMemory := by
  unfold Dev.sendWrite; split <;> simp

/-- A line that Pewter takes may push out another, which is written back. -/
@[simp] theorem Dev.pewterPut_beyondMemory (d : Dev) (line : Nat) (data : Line) (mark dirty : Bool) :
    (d.pewterPut line data mark dirty).beyondMemory = d.beyondMemory := by
  change (d.evictVictim line).beyondMemory = d.beyondMemory
  unfold Dev.evictVictim
  split
  · rfl
  · split <;> simp

@[simp] theorem Dev.homeWrite_beyondMemory (d : Dev) (line hint : Nat) (data : Line) (mark : Bool) :
    (d.homeWrite line hint data mark).2.beyondMemory = d.beyondMemory := by
  have hdrop : ((d.dropSide line).clearLost line mark).beyondMemory = d.beyondMemory := by simp
  unfold Dev.homeWrite
  generalize (d.dropSide line).clearLost line mark = e at hdrop
  dsimp only
  split
  · simpa using hdrop
  · split
    · simpa using hdrop
    · split <;> simpa using hdrop

@[simp] theorem Dev.shareOwner_beyondMemory (d : Dev) (line : Nat) (w : World) : (d.shareOwner line w).beyondMemory = d.beyondMemory := by
  unfold Dev.shareOwner
  split
  · rfl
  · split
    · rfl
    · dsimp only
      split <;> simp

@[simp] theorem Dev.sideHit_beyondMemory (d : Dev) (line : Nat) (data : Line) (w : World) :
    (d.sideHit line data w).beyondMemory = d.beyondMemory := by
  unfold Dev.sideHit; dsimp only; split <;> simp

@[simp] theorem Dev.pewterMiss_beyondMemory (d : Dev) (line : Nat) (w : World) (refill : Bool) :
    (d.pewterMiss line w refill).beyondMemory = d.beyondMemory := by
  unfold Dev.pewterMiss; dsimp only; split <;> simp

@[simp] theorem Dev.homeRead_beyondMemory (d : Dev) (line : Nat) (w : World) (refill : Bool) :
    (d.homeRead line w refill).2.beyondMemory = d.beyondMemory := by
  unfold Dev.homeRead
  split
  · rfl
  · split
    · simp [Dev.pewterHit]
    · split <;> simp

/-- What the prefetcher trains on and asks for is of the homes. -/
@[simp] theorem Dev.train_beyondMemory (d : Dev) (line : Nat) (w : World) (req hint : Nat) :
    (d.train line w req hint).beyondMemory = d.beyondMemory := by
  have hone : ∀ (e : Dev) (s a l : Nat) (x : World), (e.prefetchOne s a l x).beyondMemory = e.beyondMemory := fun e s a l x => by
    unfold Dev.prefetchOne; dsimp only; split <;> simp
  unfold Dev.train
  dsimp only
  split
  · unfold Dev.prefetchFrom
    dsimp only
    split
    · rfl
    · exact foldl_keeps Dev.beyondMemory (fun e l => hone e _ _ l _) _ (d.setHome _ _)
  · rfl

@[simp] theorem Dev.controllerRead_beyondMemory (d : Dev) (line hint : Nat) (who : Option World) :
    (d.controllerRead line hint who).beyondMemory = d.beyondMemory := by
  unfold Dev.controllerRead
  split
  · rfl
  · dsimp only
    split <;> simp [Dev.touchRow]

@[simp] theorem Dev.pewterFillRead_beyondMemory (d : Dev) (line : Nat) (data : Line) (mark refill : Bool) :
    (d.pewterFillRead line data mark refill).beyondMemory = d.beyondMemory := by
  unfold Dev.pewterFillRead; split <;> simp

/-! ## Reads and writes -/

@[simp] theorem Dev.touchRead_beyondMemory (u : MemUse) (train : Bool) (d : Dev) (line : Nat) :
    (d.touchRead u train line).beyondMemory = d.beyondMemory := by
  unfold Dev.touchRead
  dsimp only
  split <;> split <;> simp

@[simp] theorem Dev.countProbes_beyondMemory (d : Dev) (line : Nat) (w : World) : (d.countProbes line w).beyondMemory = d.beyondMemory := by
  unfold Dev.countProbes
  dsimp only
  split
  · rfl
  · split <;> simp

@[simp] theorem Dev.coherentPut_beyondMemory (d : Dev) (line hint : Nat) (data : Line) (mark : Bool) :
    (d.coherentPut line hint data mark).beyondMemory = d.beyondMemory := by
  have hcopies : (d.harts.foldl (fun d e => d.takeCopy e.1 line) d).beyondMemory = d.beyondMemory :=
    foldl_keeps Dev.beyondMemory (fun e (k : Nat × Hart) => e.takeCopy_beyondMemory k.1 line) _ d
  unfold Dev.coherentPut
  dsimp only
  rw [Dev.homeWrite_beyondMemory]
  split <;> exact hcopies

@[simp] theorem Dev.writeLine64_beyondMemory (d : Dev) (u : MemUse) (line : Nat) (data : Line) (mark whole : Bool) :
    (d.writeLine64 u line data mark whole).beyondMemory = d.beyondMemory := by
  unfold Dev.writeLine64
  dsimp only
  split <;> simp

/-- A write to memory changes nothing beyond the memory system. -/
@[simp] theorem Dev.cohWrite_beyondMemory (d : Dev) (u : MemUse) (a : Nat) (b : List Byte) :
    (d.cohWrite u a b).beyondMemory = d.beyondMemory := by
  refine foldl_keeps Dev.beyondMemory (fun e x => ?_) _ d
  dsimp only
  split <;> simp

end Sys2Proof.Machine
end

section
/-!
SUPPORT. Management work and checkpoints: how a piece joins the queue, and what the trigger of a checkpoint can change (R151, R152, R451).
-/
namespace Sys2Proof.Machine

/-- A piece of work that finds a slot joins the queue, and changes nothing else. -/
theorem Dev.mgmtAdd_some {d f : Dev} {kind : MgmtKind} {data : List Byte} {restarted : Bool} {fails : Nat}
    (h : d.mgmtAdd kind data restarted fails = some f) : ∃ w, f = { d with mgmt := d.mgmt ++ [w] } := by
  obtain ⟨b, -, rfl⟩ := Option.map_eq_some_iff.1 h
  exact ⟨_, rfl⟩

/-- A change of the running piece that leaves it on its die. -/
theorem find?_modFirst {b : Nat} {f : MgmtWork → MgmtWork} (hf : ∀ w, (f w).die = w.die) (l : List MgmtWork) :
    (modFirst b f l).find? (fun w => w.die = b) = (l.find? (fun w => w.die = b)).map f := by
  induction l with
  | nil => rfl
  | cons w r ih => by_cases hw : w.die = b <;> simp [modFirst, hw, hf, ih]

/-- Then the changed piece is the running one. -/
theorem Dev.mgmtFront_of_modFirst {d e : Dev} {b : Nat} {f : MgmtWork → MgmtWork} {v : MgmtWork} (he : e.mgmt = modFirst b f d.mgmt)
    (hf : ∀ w, (f w).die = w.die) (hv : d.mgmtFront b = some v) : e.mgmtFront b = some (f v) := by
  unfold Dev.mgmtFront at hv ⊢
  rw [he, find?_modFirst hf, hv, Option.map_some]

theorem Dev.stores.refl (d : Dev) : d.stores d := ⟨rfl, rfl, rfl, rfl, rfl⟩

theorem Dev.stores.trans {d e f : Dev} (h : d.stores e) (h' : e.stores f) : d.stores f := by
  obtain ⟨hmem, hmarks, hfuses, hflash, hbad⟩ := h
  simpa only [Dev.stores, hmem, hmarks, hfuses, hflash, hbad] using h'

theorem Dev.regsBut.trans {d e f : Dev} {w : List Reg} (h : d.regsBut e w) (h' : e.regsBut f w) : d.regsBut f w :=
  fun r hr => (h' r hr).trans (h r hr)

/-- A write of a register that the list has. -/
theorem Dev.regsBut_set {d : Dev} {r : Reg} {w : List Reg} (v : Nat) (h : r ∈ w) : d.regsBut (d.set r v) w :=
  fun _ hq => d.get_set_other v (fun hk => hq (hk ▸ List.mem_map_of_mem h))

/-- What a trigger leaves: the registers but for `ckMissed` and `ckCommand`, the stores, the key store, and the start's time. -/
structure Dev.triggered (d e : Dev) : Prop where
  regs : d.regsBut e [rCkMissed, rCkCommand]
  stores : d.stores e
  ks : e.ks = d.ks
  start : e.ck.startTime = d.ck.startTime

theorem Dev.triggered.refl (d : Dev) : d.triggered d := ⟨fun _ _ => rfl, .refl d, rfl, rfl⟩

theorem Dev.triggered.trans {d e f : Dev} (h : d.triggered e) (h' : e.triggered f) : d.triggered f where
  regs := h.regs.trans h'.regs
  stores := h.stores.trans h'.stores
  ks := h'.ks.trans h.ks
  start := h'.start.trans h.start

/-- A register of the checkpoints is written. -/
theorem Dev.triggered_set (d : Dev) {r : Reg} (v : Nat) (h : r ∈ [rCkMissed, rCkCommand]) : d.triggered (d.set r v) :=
  ⟨Dev.regsBut_set v h, .refl d, rfl, rfl⟩

/-- The journals, the queue and the checkpoints' own state change, all but the start's time. -/
theorem Dev.triggered_with (d : Dev) (j : Tab Journal) (m : List MgmtWork) (c : Checkpoints) (h : c.startTime = d.ck.startTime) :
    d.triggered { d with jns := j, mgmt := m, ck := c } :=
  ⟨fun _ _ => rfl, .refl d, rfl, h⟩

/-- A command that runs reads REFUSED. -/
theorem Dev.triggered_refused (d : Dev) : d.triggered (if d.get rCkCommand = cmdRunning then d.set rCkCommand cmdRefused else d) := by
  split
  · exact d.triggered_set _ (by simp)
  · exact .refl d

theorem Dev.ckMissed_triggered (d : Dev) (trigger : Nat) : d.triggered (d.ckMissed trigger) := by
  have hmiss := (d.triggered_set (r := rCkMissed) (satAdd32 (d.get rCkMissed) 1) (by simp)).trans (Dev.triggered_refused _)
  exact hmiss.trans (Dev.triggered_with _ _ _ _ rfl)

theorem Dev.ckLatched_journals (d : Dev) : ∃ j, d.ckLatched = { d with jns := j } :=
  List.foldlRecOn (List.range 4) _ (motive := fun e : Dev => ∃ j, e = { d with jns := j }) ⟨d.jns, rfl⟩
    (by rintro _ ⟨j, rfl⟩ b -; exact ⟨_, rfl⟩)

/-- Whatever comes of a trigger, it leaves that much. -/
theorem Dev.ckTrigger_triggered (d : Dev) (trigger : Nat) : d.triggered (d.ckTrigger trigger) := by
  unfold Dev.ckTrigger
  split
  · exact .refl d
  · split
    · exact d.triggered_refused.trans (Dev.triggered_with _ _ _ _ rfl)
    · split
      · exact d.ckMissed_triggered trigger
      · obtain ⟨j, hj⟩ := d.ckLatched_journals
        have hlatched : d.triggered d.ckLatched := hj ▸ d.triggered_with j d.mgmt d.ck rfl
        dsimp only
        split
        · exact hlatched.trans (Dev.ckMissed_triggered _ _)
        · rename_i f hf
          obtain ⟨w, rfl⟩ := Dev.mgmtAdd_some hf
          exact hlatched.trans (Dev.triggered_with _ _ _ _ rfl)

theorem Dev.ckCount_triggered (d : Dev) : d.triggered d.ckCount := by
  unfold Dev.ckCount
  split
  · exact d.ckTrigger_triggered 1
  · exact .refl d

/-- A missed trigger waits for its time (R151). -/
theorem Dev.ckCount_of_retry {d : Dev} (h : d.ck.retry = true) : d.ckCount = d := by simp [Dev.ckCount, h]

theorem Dev.triggered.get {d e : Dev} (h : d.triggered e) {q : Reg} (hm : q.key ≠ rCkMissed.key) (hc : q.key ≠ rCkCommand.key) :
    e.get q = d.get q :=
  h.regs q (by simp [hm, hc])

/-! ## The record of a piece of work -/

theorem rJnNextSeq_not_ck (b : Nat) : (rJnNextSeq b).key ≠ rCkMissed.key ∧ (rJnNextSeq b).key ≠ rCkCommand.key :=
  ⟨regKey_ne_of_sub (by decide) (by decide) (by decide), regKey_ne_of_sub (by decide) (by decide) (by decide)⟩

/-- R452: the record takes the journal's next number, whether or not it makes a checkpoint due. -/
theorem Dev.get_mgmtAppend_nextSeq (d : Dev) (b : Nat) (w : MgmtWork) (f : JnFields) (out : List Byte) :
    (d.mgmtAppend b w f out).get (rJnNextSeq b) = d.get (rJnNextSeq b) + 1 := by
  obtain ⟨hm, hc⟩ := rJnNextSeq_not_ck b
  exact ((Dev.ckCount_triggered _).get hm hc).trans (Dev.get_set_same _ _ _)

/-- R452: the running work waits for that record; shown while a missed trigger waits for its time, so that no checkpoint comes of it. -/
theorem Dev.mgmtFront_mgmtAppend {d : Dev} {b : Nat} {w v : MgmtWork} (f : JnFields) (out : List Byte) (hr : d.ck.retry = true)
    (hv : d.mgmtFront b = some v) :
    ∃ y, (d.mgmtAppend b w f out).mgmtFront b = some y ∧ y.seq = some (d.get (rJnNextSeq b)) := by
  unfold Dev.mgmtAppend
  extract_lets r e
  rw [Dev.ckCount_of_retry (by exact hr)]
  exact ⟨_, Dev.mgmtFront_of_modFirst rfl (fun _ => rfl) hv, rfl⟩

end Sys2Proof.Machine
end

section
/-!
PROOF. Erasure, provisioning and import of key slots, and the start of the key store (R131, R137, R144 to R146, R451).
-/
namespace Sys2Proof.Machine

/-! ## Erasure and the fields of a descriptor -/

/-- R131: an ERASING slot that no job holds ends as an EMPTY one, with zeros over its blob area. -/
theorem ksEraseComplete_gives {s : State} {h : Nat} (hs : s.dev.ks.started = true) (hh : h < 1048576)
    (he : (s.dev.keyAt h).state = ksErasing) (hj : s.dev.keyHeld h = false) :
    Gives (.ksEraseComplete h) s
      (((s.dev.cohWrite (unitUse (keyDie h)) (s.dev.blobAddr (s.dev.keyAt h)) (zeros (16 * (s.dev.keyAt h).blobCap))).keyPut h
        { s.dev.keyAt h with state := ksEmpty, type := 0, usage := 0, aesLen := 0, comps := 0, count := 0, limit := 0, blobLen := 0,
                             created := 0 }).set (rKsCommand h) cmdDone) := by
  change execKsEraseComplete h s = _
  rw [execKsEraseComplete, occursAt_next (decide_eq_true hh) (by simp [hs, hj, Dev.erasing, he])]

/-- A write of a sub-entry of the window that nothing turns away is answered as its effect on the selected slot says. -/
theorem keyWindowWrite_gives {s : State} {p : Path} {sub v : Nat} {f : Dev → Nat → Reply} {st : Status} {d : Dev}
    (ha : s.dev.admits p 0x7101 sub v = true) (hr : f (s.dev.heard p) (s.dev.keySelected p) = (st, d)) :
    writeCommand p 0x7101 sub v (fun d _ => f d (d.keySelected p)) s = .next { s with dev := d.respond p st [] } := by
  rw [writeCommand_admitted ha, Dev.keySelected_takeTurn, hr]

/-- R137: a started store takes the use limit of a slot. -/
theorem Dev.ksUseLimit_eq {d e : Dev} {h : Nat} {k : KeyDesc} (hs : d.ks.started = true) (hf : d.keyFetch h = (k, e)) (v : Nat) :
    d.ksUseLimit h v = (.ok, e.keyPut h { k with limit := v }) := by
  simp [Dev.ksUseLimit, Dev.keyWindowBusy, hs, hf]

theorem ksUseLimitWrite_gives {s : State} {p : Path} {v : Nat} {k : KeyDesc} {e : Dev} (hs : s.dev.ks.started = true)
    (hf : (s.dev.heard p).keyFetch (s.dev.keySelected p) = (k, e)) (ha : s.dev.admits p 0x7101 0x06 v = true) :
    Gives (.ksUseLimitWrite p v) s ((e.keyPut (s.dev.keySelected p) { k with limit := v }).ok p) :=
  keyWindowWrite_gives (f := fun d h => d.ksUseLimit h v) ha (Dev.ksUseLimit_eq (by simpa using hs) hf v)

theorem ksProvisionWrite_gives {s : State} {p : Path} {sub v : Nat} {st : Status} {d : Dev} (hsub : 0x07 ≤ sub ∧ sub ≤ 0x0C)
    (ha : s.dev.admits p 0x7101 sub v = true) (hr : (s.dev.heard p).ksProvision (s.dev.keySelected p) sub v = (st, d)) :
    Gives (.ksProvisionWrite p sub v) s (d.respond p st []) := by
  change execKsProvisionWrite p sub v s = _
  rw [execKsProvisionWrite, if_pos (by simpa using hsub)]
  exact keyWindowWrite_gives (f := fun d h => d.ksProvision h sub v) ha hr

/-- R144: a field without reserved bits that does not place the blob area is written while the slot is EMPTY; else BUSY is returned. -/
theorem Dev.ksProvision_eq {d e : Dev} {h sub : Nat} {k : KeyDesc} (hs : d.ks.started = true) (hf : d.keyFetch h = (k, e))
    (hsub : sub = 0x07 ∨ sub = 0x09) (v : Nat) :
    d.ksProvision h sub v = if k.state = ksEmpty then (.ok, e.keyPut h (provisioned k sub v)) else (.busy, e) := by
  rcases hsub with rfl | rfl <;> by_cases hk : k.state = ksEmpty <;>
    simp [Dev.ksProvision, provisionRes0, Dev.keyWindowBusy, hs, hf, hk]

/-- R144, R15: an owner with a reserved bit gives RANGE. -/
theorem Dev.ksProvision_reserved (d : Dev) (h : Nat) {v : Nat} (hv : v &&& 0x7000 ≠ 0) : d.ksProvision h 0x08 v = (.range, d) := by
  simp [Dev.ksProvision, provisionRes0, hv]

/-! ## Import -/

theorem Dev.mgmtChoose_takeTurn (d : Dev) (p : Path) (j : Bool) : (d.takeTurn p).mgmtChoose j = d.mgmtChoose j := by
  obtain ⟨r, a, h⟩ := d.takeTurn_changes p
  rw [h]; rfl

/-- An IMPORT that nothing turns away, while the firmware runs, is answered as its effect on the selected slot says. -/
theorem ksImport_gives {s : State} {p : Path} {st : Status} {d : Dev} (ha : s.dev.admits p 0x7101 0x0D 4 = true)
    (hd : s.dev.boot.mgmtDown = false) (hr : (s.dev.heard p).ksImport (s.dev.keySelected p) = (st, d)) :
    Gives (.ksImport p) s (d.respond p st []) := by
  change execKsImport p s = _
  rw [execKsImport, firmwareCommand_admitted ha hd, Dev.keySelected_takeTurn, hr]

/-- R451: with no management slot for journaled work an import returns BUSY. -/
theorem Dev.ksImport_noSlot {d : Dev} (h : Nat) (hm : d.mgmtChoose true = none) : d.ksImport h = (.busy, d) := by
  simp [Dev.ksImport, hm]

/-- An import of the slot may begin (R145, R146, R367, R451). -/
structure Dev.importDue (d : Dev) (h : Nat) : Prop where
  started : d.ks.started = true
  idle : d.get (rKsCommand h) ≠ cmdRunning
  secure : d.secureDown = false
  slot : (d.mgmtChoose true).isSome = true

theorem Dev.importDue.heard {d : Dev} {h : Nat} (hd : d.importDue h) (p : Path) : (d.heard p).importDue h where
  started := by simpa using hd.started
  idle := by simpa using hd.idle
  secure := by simpa [Dev.secureDown] using hd.secure
  slot := by rw [Dev.mgmtChoose_takeTurn]; exact hd.slot

/-- Such an import is turned away by none of the conditions that return BUSY. -/
theorem Dev.importDue.not_busy {d : Dev} {h : Nat} (hd : d.importDue h) :
    ¬ (d.keyWindowBusy || d.get (rKsCommand h) = cmdRunning || d.secureDown || (d.mgmtChoose true).isNone) = true := by
  obtain ⟨b, hb⟩ := Option.isSome_iff_exists.1 hd.slot
  simp [Dev.keyWindowBusy, hd.started, hd.idle, hd.secure, hb]

/-- R145: an image with an error of format ends the command as REFUSED with error 1. -/
theorem Dev.ksImport_badImage {d e : Dev} {h : Nat} {k : KeyDesc} (hd : d.importDue h) (hi : imageBad (d.dom (domKsImage h) []) = true)
    (hf : d.keyFetch h = (k, e)) : d.ksImport h = (.ok, (e.set (rKsImportError h) 1).set (rKsCommand h) cmdRefused) := by
  rw [Dev.ksImport, if_neg hd.not_busy]
  simp [hi, hf, Dev.importError, firstFail]

/-- R145: an image that meets no error claims the slot and becomes work of a management slot. -/
theorem Dev.ksImport_claims {d e f : Dev} {h : Nat} {k : KeyDesc} {img : List Byte} (hd : d.importDue h)
    (himg : d.dom (domKsImage h) [] = img) (hi : imageBad img = false)
    (hf : (if byteAt img 0 = 2 then d else (d.keyLoad (fieldLe img 8 4)).2).keyFetch h = (k, e)) (herr : e.importError k img = 0)
    (hw : ((e.keyPut h { k with state := ksPending }).claimKey h k.state).mgmtAdd (.import_ h) img false 0 = some f) :
    d.ksImport h = (.ok, f.set (rKsCommand h) cmdRunning) := by
  unfold Dev.claimKey at hw
  rw [Dev.ksImport, if_neg hd.not_busy]
  simp [himg, hi, hf, herr, hw]

/-- A descriptor that is written leaves the claims and the management work alone. -/
theorem Dev.keyPut_keeps_work (d : Dev) (h : Nat) (k : KeyDesc) : (d.keyPut h k).ks = d.ks ∧ (d.keyPut h k).mgmt = d.mgmt :=
  have hrest : (d.keyPut h k).beyondMemory = d.beyondMemory := d.cohWrite_beyondMemory _ _ _
  ⟨Dev.ks_of_beyondMemory hrest, Dev.mgmt_of_beyondMemory hrest⟩

/-- The import's claim and its work are each one more than before. -/
theorem Dev.import_joins {e f : Dev} {h : Nat} {k k' : KeyDesc} {img : List Byte}
    (hw : ((e.keyPut h k').claimKey h k.state).mgmtAdd (.import_ h) img false 0 = some f) :
    f.ks.claims = e.ks.claims ++ [(h, k.state)] ∧ f.mgmt.length = e.mgmt.length + 1 := by
  obtain ⟨hks, hmgmt⟩ := e.keyPut_keeps_work h k'
  obtain ⟨w, rfl⟩ := Dev.mgmtAdd_some hw
  simp [Dev.claimKey, hks, hmgmt]

/-- R145, R452: the execution of an import appends its record. -/
theorem importExecuteDone_gives {s : State} {b h : Nat} {w : MgmtWork} (hb : b < 4) (hw : s.dev.mgmtFront b = some w)
    (hk : w.kind = .import_ h) (hq : w.seq = none) (hu : s.dev.mgmtUsable b true = true) :
    ∃ f out, Gives (.importExecuteDone b) s (s.dev.mgmtAppend b w f out) := by
  have hruns : s.dev.mgmtRuns b MgmtKind.isImport = true := by
    simp [Dev.mgmtRuns, hw, hk, hq, hu, MgmtKind.isImport, MgmtKind.journaled]
  have hgive : exec (.importExecuteDone b) s = execImportExecuteDone b s := rfl
  rw [execImportExecuteDone, occursAt_next (decide_eq_true hb) hruns] at hgive
  simp only [hw, hk] at hgive
  exact ⟨_, _, hgive⟩

theorem importExecuteDone_reaches {s : State} {b h : Nat} {w : MgmtWork} (hb : b < 4) (hw : s.dev.mgmtFront b = some w)
    (hk : w.kind = .import_ h) (hq : w.seq = none) (hu : s.dev.mgmtUsable b true = true) :
    Reaches (.importExecuteDone b) s (fun t => t.get (rJnNextSeq b) = s.dev.get (rJnNextSeq b) + 1 ∧
      (s.dev.ck.retry = true → ∃ v, t.mgmtFront b = some v ∧ v.seq = some (s.dev.get (rJnNextSeq b)))) := by
  obtain ⟨f, out, hgive⟩ := importExecuteDone_gives hb hw hk hq hu
  exact ⟨_, hgive, Dev.get_mgmtAppend_nextSeq _ _ _ _ _, fun hr => Dev.mgmtFront_mgmtAppend f out hr hw⟩

/-! ## The start -/

theorem ksStart_gives {s : State} {p : Path} {st : Status} {d : Dev} (ha : s.dev.admits p 0x7060 0x05 1 = true)
    (hr : (s.dev.heard p).ksStart = (st, d)) : Gives (.ksStart p 1) s (d.respond p st []) := by
  change execKsStart p 1 s = _
  rw [execKsStart, writeCommand_admitted ha, hr]

theorem Dev.ksStartOk_takeTurn (d : Dev) (p : Path) : (d.takeTurn p).ksStartOk = d.ksStartOk := by
  obtain ⟨r, a, h⟩ := d.takeTurn_changes p
  rw [h]; rfl

/-- R146: a second start has no effect. -/
theorem Dev.ksStart_again {d : Dev} (hs : d.ks.started = true) : d.ksStart = (.ok, d) := by simp [Dev.ksStart, hs]

/-- The journals of some base dies run from the genesis of a start at time `t` (R146, R147). -/
def Dev.journalsRun (d : Dev) (t : Nat) (l : List Nat) : Dev :=
  l.foldl (fun d b => (d.setJournal b { Journal.reset with genesis := d.jnGenesis b t }).set (rJnState b) 1) d

/-- That changes registers and journals alone. -/
theorem Dev.journalsRun_changes (d : Dev) (t : Nat) (l : List Nat) : ∃ r j, d.journalsRun t l = { d with regs := r, jns := j } :=
  List.foldlRecOn l _ (motive := fun e : Dev => ∃ r j, e = { d with regs := r, jns := j }) ⟨d.regs, d.jns, rfl⟩
    (by rintro _ ⟨r, j, rfl⟩ b -; exact ⟨_, _, rfl⟩)

/-- A journal that runs already, or is among those that the start runs, runs after it. -/
theorem Dev.get_journalsRun (d : Dev) (t b : Nat) (l : List Nat) (h : d.get (rJnState b) = 1 ∨ b ∈ l) :
    (d.journalsRun t l).get (rJnState b) = 1 := by
  induction l generalizing d with
  | nil => simpa [Dev.journalsRun] using h
  | cons a r ih =>
    refine ih _ ?_
    by_cases hab : (rJnState a).key = (rJnState b).key
    · exact .inl (by rw [Dev.get_set, if_pos hab])
    · have hne : b ≠ a := fun hba => hab (hba ▸ rfl)
      rw [Dev.get_set_other _ _ hab, Dev.setJournal_read_get]
      exact h.imp_right (fun hm => (List.mem_cons.1 hm).resolve_left hne)

/-- The device whose key store has just started; its journals have not. -/
def Dev.ksOn (d : Dev) : Dev :=
  { d with ks := { d.ks with started := true }, ck := { d.ck with startTime := d.now, lastTime := d.now } }

/-- The device as the start leaves it to the trigger of checkpoint 0. -/
def Dev.ksBegun (d : Dev) : Dev := (d.ksOn.journalsRun d.now (List.range 4)).set rKsStart cmdDone

/-- R146: a store that has not started does so where its regions allow it. -/
theorem Dev.ksStart_eq {d : Dev} (hs : d.ks.started = false) :
    d.ksStart = if d.ksStartOk then (.ok, d.ksBegun.ckTrigger 0) else (.range, d) := by
  cases hok : d.ksStartOk
  · simp [Dev.ksStart, hs, hok]
  · rw [Dev.ksStart, if_neg (by simp [hs]), if_neg (by simp [hok])]
    rfl

theorem Dev.get_ksBegun_rJnState (d : Dev) {b : Nat} (hb : b < 4) : d.ksBegun.get (rJnState b) = 1 := by
  rw [Dev.ksBegun, Dev.get_set_other _ _ (regKey_ne_of_sub (by decide) (by decide) (by decide))]
  exact Dev.get_journalsRun _ _ _ _ (.inr (List.mem_range.2 hb))

/-- Beside registers and journals the start has changed the key store and the start's times alone. -/
theorem Dev.ksBegun_changes (d : Dev) : ∃ r j, d.ksBegun = { d.ksOn with regs := r, jns := j } := by
  obtain ⟨r, j, h⟩ := d.ksOn.journalsRun_changes d.now (List.range 4)
  exact ⟨_, j, by rw [Dev.ksBegun, h]; rfl⟩

/-- R146: the start. -/
theorem ksStart_reaches {s : State} {p : Path} (ha : s.dev.admits p 0x7060 0x05 1 = true) (hs : s.dev.ks.started = false)
    (hok : s.dev.ksStartOk = true) :
    Reaches (.ksStart p 1) s (fun t => t.answered p .ok ∧ t.ks.started = true ∧ t.get rKsStart = cmdDone ∧
      t.ck.startTime = s.dev.now ∧ (∀ b, b < 4 → t.get (rJnState b) = 1) ∧ s.dev.stores t) := by
  have heq := Dev.ksStart_eq (d := s.dev.heard p) (by simpa using hs)
  rw [Dev.ksStartOk_takeTurn, if_pos hok] at heq
  refine ⟨_, ksStart_gives ha heq, Dev.respond_resp_same _ _ _ _, ?_⟩
  have htrig := (s.dev.heard p).ksBegun.ckTrigger_triggered 0
  obtain ⟨r, j, hbegun⟩ := (s.dev.heard p).ksBegun_changes
  simp only [Dev.respond_ks, Dev.respond_ck, Dev.respond_read_get, htrig.ks, htrig.start]
  refine ⟨by rw [hbegun]; rfl, ?_, by rw [hbegun]; exact s.dev.takeTurn_read_now p, fun b hb => ?_, ?_⟩
  · rw [htrig.get (by decide) (by decide)]
    exact Dev.get_set_same _ _ _
  · rw [htrig.get (regKey_ne_of_sub (by decide) (by decide) (by decide)) (regKey_ne_of_sub (by decide) (by decide) (by decide))]
    exact Dev.get_ksBegun_rJnState _ hb
  · have hstart : (s.dev.heard p).stores (s.dev.heard p).ksBegun := by rw [hbegun]; exact .refl _
    simpa [Dev.stores] using hstart.trans htrig.stores

/-- Settles O24: each clause is the lemma of its command. -/
theorem keySlotsAreProvisionedAndImported : Obligations.KeySlotsAreProvisionedAndImported := by
  refine ⟨?slots, ?imports, ?start⟩
  case slots =>
    intro s h hs
    refine ⟨fun hh he hj => ksEraseComplete_gives hs hh he hj, ?_⟩
    rintro p k e v rfl hf
    have provision : ∀ {sub}, sub = 0x07 ∨ sub = 0x09 → (s.dev.heard p).ksProvision (s.dev.keySelected p) sub v = _ := fun hsub =>
      Dev.ksProvision_eq (by simpa using hs) hf hsub v
    refine ⟨fun ha => ksUseLimitWrite_gives hs hf ha, fun ha hk => ?_, fun ha hk => ?_, fun ha hk => ?_, fun ha hv => ?_⟩
    · exact ksProvisionWrite_gives (by decide) ha ((provision (.inl rfl)).trans (if_pos hk))
    · exact ksProvisionWrite_gives (by decide) ha ((provision (.inr rfl)).trans (if_pos hk))
    · exact ksProvisionWrite_gives (by decide) ha ((provision (.inl rfl)).trans (if_neg hk))
    · exact ksProvisionWrite_gives (by decide) ha (Dev.ksProvision_reserved _ _ hv)
  case imports =>
    intro s
    refine ⟨fun p ha hd hm => ?_, ?_, ?_, fun b w h hb hw hk hq hu => importExecuteDone_reaches hb hw hk hq hu⟩
    · exact ksImport_gives ha hd (Dev.ksImport_noSlot _ ((s.dev.mgmtChoose_takeTurn p true).trans hm))
    · rintro p h k e rfl ha hd hs hc hsec hm hi hf
      have hdue := Dev.importDue.heard ⟨hs, hc, hsec, hm⟩ p
      exact ksImport_gives ha hd (Dev.ksImport_badImage hdue (by simpa [Dev.dom] using hi) hf)
    · rintro p h k d e f rfl ha hd hs hc hsec hm image hi rfl hf herr hw
      have hdue := Dev.importDue.heard ⟨hs, hc, hsec, hm⟩ p
      exact ⟨ksImport_gives ha hd (Dev.ksImport_claims hdue (by simp [Dev.dom, image]) hi hf herr hw), Dev.import_joins hw⟩
  case start =>
    intro s p ha
    refine ⟨fun hs => ksStart_gives ha (Dev.ksStart_again (by simpa using hs)), fun hs hok => ?_, fun hs hok => ksStart_reaches ha hs hok⟩
    refine ksStart_gives ha ((Dev.ksStart_eq (by simpa using hs)).trans (if_neg ?_))
    rw [Dev.ksStartOk_takeTurn, hok]
    exact Bool.false_ne_true

end Sys2Proof.Machine
end

section
/-!
SUPPORT. The registers of a rule bank (Table 06-19), and what a write of one of them leaves alone: the other ones, and what is read from
memory, which rests on registers of the memory system.
-/
namespace Sys2Proof.Machine

theorem elbSideState_ne_elbCommand (n k : Nat) : (rElbSideState n k).key ≠ (rElbCommand n).key := by
  unfold rElbSideState; split <;> exact regKey_ne_of_sub (by decide) (by decide) (by decide)

theorem elbSideState_ne_elbLoadError (n k : Nat) : (rElbSideState n k).key ≠ (rElbLoadError n).key := by
  unfold rElbSideState; split <;> exact regKey_ne_of_sub (by decide) (by decide) (by decide)

theorem elbLoadError_ne_elbCommand (n : Nat) : (rElbLoadError n).key ≠ (rElbCommand n).key :=
  regKey_ne_of_sub (by decide) (by decide) (by decide)

/-- The two sides of a bank have a state each. -/
theorem elbSideState_ne_other (n : Nat) {k : Nat} (hk : k < 2) : (rElbSideState n k).key ≠ (rElbSideState n (1 - k)).key := by
  obtain rfl | rfl : k = 0 ∨ k = 1 := by omega
  · exact regKey_ne_of_sub (by decide) (by decide) (by decide)
  · exact regKey_ne_of_sub (by decide) (by decide) (by decide)

theorem Dev.sideState_eq (d : Dev) (n k : Nat) : d.sideState n k = d.get (rElbSideState n k) := rfl

@[simp] theorem Dev.sideState_set_same (d : Dev) (n k v : Nat) : (d.set (rElbSideState n k) v).sideState n k = v :=
  d.get_set_same _ _

@[simp] theorem Dev.sideState_set_elbCommand (d : Dev) (n k v : Nat) : (d.set (rElbCommand n) v).sideState n k = d.sideState n k :=
  d.get_set_other v (elbSideState_ne_elbCommand n k).symm

@[simp] theorem Dev.sideState_takeTurn (d : Dev) (p : Path) (n k : Nat) : (d.takeTurn p).sideState n k = d.sideState n k :=
  d.takeTurn_read_get p _

@[simp] theorem Dev.side_takeTurn (d : Dev) (p : Path) (n k : Nat) : (d.takeTurn p).side n k = d.side n k := by simp [Dev.side]

@[simp] theorem Dev.sideFree_takeTurn (d : Dev) (p : Path) (n k : Nat) : (d.takeTurn p).sideFree n k = d.sideFree n k := by
  simp [Dev.sideFree]

@[simp] theorem Dev.side_setSide_same (d : Dev) (n k : Nat) (x : BankSide) : (d.setSide n k x).side n k = x := by
  simp [Dev.side, Dev.setSide]

/-- What a transaction finds has every sub-entry and the stores as they were. -/
theorem Dev.regsBut_heard (d : Dev) (p : Path) (w : List Reg) : d.regsBut (d.heard p) w := fun q _ => d.takeTurn_read_get p q

theorem Dev.stores_heard (d : Dev) (p : Path) : d.stores (d.heard p) := by simp [Dev.stores]

/-! ## Reads of memory -/

/-- A register that neither the local regions nor Pewter's state have: its sub-index is above theirs. -/
def Reg.offMemory (q : Reg) : Prop := 4 < keySub q.key

theorem rElbLoadError_offMemory (n : Nat) : (rElbLoadError n).offMemory := by
  change 4 < keySub (regKey _ _ _)
  rw [keySub_regKey _ _ (by decide)]
  decide

section
variable {r : Reg} (h : r.offMemory)
include h

theorem Reg.offMemory.ne {i e sub : Nat} (hs : sub ≤ 4) : r.key ≠ regKey i e sub := by
  intro hk
  have hsub := congrArg keySub hk
  rw [keySub_regKey _ _ (by omega)] at hsub
  unfold Reg.offMemory at h
  omega

theorem Dev.localRegion_set (d : Dev) (v a : Nat) : (d.set r v).localRegion a = d.localRegion a := by
  have henable : ∀ n, (d.set r v).get (rLrEnable n) = d.get (rLrEnable n) := fun n => d.get_set_other v (h.ne (by decide))
  have hbase : ∀ n, (d.set r v).get (rLrBase n) = d.get (rLrBase n) := fun n => d.get_set_other v (h.ne (by decide))
  have hlimit : ∀ n, (d.set r v).get (rLrLimit n) = d.get (rLrLimit n) := fun n => d.get_set_other v (h.ne (by decide))
  unfold Dev.localRegion Dev.flag Dev.lrLimit
  congr 1
  funext n
  rw [henable, hbase, hlimit]

theorem Dev.homeSlice_set (d : Dev) (v a : Nat) : (d.set r v).homeSlice a = d.homeSlice a := by
  have hdie : ∀ n, (d.set r v).get (rLrBaseDie n) = d.get (rLrBaseDie n) := fun n => d.get_set_other v (h.ne (by decide))
  simp [Dev.homeSlice, Dev.localRegion_set h, hdie]

theorem Dev.pewterEntry_set (d : Dev) (v line : Nat) : (d.set r v).pewterEntry line = d.pewterEntry line := by
  simp [Dev.pewterEntry, Dev.pewterKey, Dev.pewterIndex, Dev.homeSlice_set h, Dev.localRegion_set h]

theorem Dev.lineView_set (d : Dev) (v line : Nat) : (d.set r v).lineView line = d.lineView line := by
  have hpw : (d.set r v).get rPwState = d.get rPwState := d.get_set_other v (h.ne (by decide))
  have hserves : (d.set r v).pewterServes = d.pewterServes := by simp [Dev.pewterServes, hpw]
  have hlost : (d.set r v).lineLost line = d.lineLost line := by simp [Dev.lineLost, Dev.homeSlice_set h]
  have hmem : (d.set r v).memView line = d.memView line := rfl
  simp only [Dev.lineView, hserves, hlost, hmem, Dev.pewterEntry_set h]

/-- What is read from memory does not rest on such a register. -/
theorem Dev.cohRead_set (d : Dev) (v a n : Nat) : (d.set r v).cohRead a n = d.cohRead a n := by
  have hline : ∀ line, (d.set r v).coherentLine line = d.coherentLine line := fun line => by
    simp only [Dev.coherentLine, Dev.lineView_set h]; rfl
  simp only [Dev.cohRead, hline]

end

end Sys2Proof.Machine
end

section
/-!
PROOF. The commands of the rule banks and the end of their verification (R164, R166).
-/
namespace Sys2Proof.Machine

/-- A bank command that nothing turns away is answered as its effect says. -/
theorem bankCommand_gives {s : State} {p : Path} {n code : Nat} {k : Dev → Reply} {st : Status} {d : Dev} (hn : n < 64)
    (ha : s.dev.admits p (0x7220 + n) 0x05 code = true) (hk : k (s.dev.heard p) = (st, d)) :
    bankCommand p n code k s = .next { s with dev := d.respond p st [] } := by
  rw [bankCommand, if_pos hn, writeCommand_admitted ha, hk]

/-! ## LOAD -/

/-- The device in which the verification of a bank side has begun. -/
def Dev.loadBegun (d : Dev) (n k : Nat) : Dev := (d.set (rElbCommand n) cmdRunning).setSide n k { d.side n k with loading := true }

/-- LOAD of a side that is EMPTY or LOADED. -/
theorem Dev.elbLoad_begins {d : Dev} {n k : Nat} (hc : d.get (rElbCommand n) ≠ cmdRunning) (hs : d.sideState n k < 2) :
    d.elbLoad n k = (.ok, d.loadBegun n k) := by
  have hst : (d.sideState n k = 0 || d.sideState n k = 1) = true := by
    simp only [Bool.or_eq_true, decide_eq_true_eq]
    omega
  simp only [Dev.elbLoad, hc, hst, Dev.loadBegun, decide_false, Bool.not_true, Bool.or_false, Bool.false_eq_true, if_false]

/-- R164: what a LOAD command leaves. -/
theorem elbLoad_reaches {s : State} {p : Path} {n k : Nat} {c : Instr}
    (hgive : ∀ {st d}, (s.dev.heard p).elbLoad n k = (st, d) → Gives c s (d.respond p st []))
    (hc : s.dev.get (rElbCommand n) ≠ cmdRunning) (hs : s.dev.sideState n k < 2) :
    Reaches c s (fun t => t.answered p .ok ∧ t.get (rElbCommand n) = cmdRunning ∧
      t.side n k = { s.dev.side n k with loading := true } ∧ t.sideState n k = s.dev.sideState n k ∧
      s.dev.regsBut t [rElbCommand n] ∧ s.dev.stores t) := by
  refine ⟨_, hgive (Dev.elbLoad_begins (by simpa using hc) (by simpa using hs)), Dev.respond_resp_same _ _ _ _, Dev.get_set_same _ _ _,
    ?_, ?_, ?_, s.dev.stores_heard p⟩
  · exact (Dev.side_setSide_same _ _ _ _).trans (by rw [Dev.side_takeTurn])
  · exact (Dev.sideState_set_elbCommand _ _ _ _).trans (s.dev.sideState_takeTurn p n k)
  · exact (s.dev.regsBut_heard p _).trans (Dev.regsBut_set cmdRunning (by simp))

/-! ## SWITCH -/

/-- The device after a SWITCH to side `k` of a bank from the other one. A side that was ACTIVE and has no bound job reads LOADED at once
(log 104). -/
def Dev.switched (d : Dev) (n k : Nat) : Dev :=
  ((d.set (rElbSideState n (1 - k)) (if d.sideFree n (1 - k) then 1 else 3)).set (rElbSideState n k) 2).set (rElbCommand n) cmdDone

theorem Dev.elbSwitch_switches {d : Dev} {n k : Nat} (hk : k < 2) (hc : d.get (rElbCommand n) ≠ cmdRunning)
    (hnew : d.sideState n k = 1) (hold : d.sideState n (1 - k) = 2) : d.elbSwitch n = (.ok, d.switched n k) := by
  obtain rfl | rfl : k = 0 ∨ k = 1 := by omega
  · simp [Dev.elbSwitch, hc, hnew, hold, Dev.switched]
  · simp [Dev.elbSwitch, hc, hnew, hold, Dev.switched]

theorem Dev.sideState_switched_new (d : Dev) (n k : Nat) : (d.switched n k).sideState n k = 2 := by simp [Dev.switched]

theorem Dev.sideState_switched_old (d : Dev) (n : Nat) {k : Nat} (hk : k < 2) :
    (d.switched n k).sideState n (1 - k) = if d.sideFree n (1 - k) then 1 else 3 := by
  rw [Dev.switched, Dev.sideState_set_elbCommand, Dev.sideState_eq, Dev.get_set_other _ _ (elbSideState_ne_other n hk),
    Dev.get_set_same]

theorem Dev.regsBut_switched (d : Dev) (n k : Nat) :
    d.regsBut (d.switched n k) [rElbCommand n, rElbSideState n k, rElbSideState n (1 - k)] :=
  ((Dev.regsBut_set _ (by simp)).trans (Dev.regsBut_set _ (by simp))).trans (Dev.regsBut_set _ (by simp))

/-- The version of a bank is that of its one ACTIVE side. -/
theorem Dev.bankVersion_of_active {d : Dev} {n k : Nat} (hk : k < 2) (ha : d.sideState n k = 2) (ho : d.sideState n (1 - k) ≠ 2) :
    d.bankVersion n = (d.side n k).version := by
  obtain rfl | rfl : k = 0 ∨ k = 1 := by omega
  · simp [Dev.bankVersion, ha]
  · simp [Dev.bankVersion, ha, show d.sideState n 0 ≠ 2 from ho]

/-- R164. -/
theorem elbSwitch_reaches {s : State} {p : Path} {n k : Nat} (hn : n < 64) (hk : k < 2)
    (ha : s.dev.admits p (0x7220 + n) 0x05 3 = true) (hc : s.dev.get (rElbCommand n) ≠ cmdRunning) (hnew : s.dev.sideState n k = 1)
    (hold : s.dev.sideState n (1 - k) = 2) :
    Reaches (.elbSwitch p n) s (fun t => t.answered p .ok ∧ t.get (rElbCommand n) = cmdDone ∧ t.sideState n k = 2 ∧
      t.sideState n (1 - k) = (if s.dev.sideFree n (1 - k) then 1 else 3) ∧ t.bankVersion n = (s.dev.side n k).version ∧
      t.jobs = s.dev.jobs ∧ s.dev.regsBut t [rElbCommand n, rElbSideState n k, rElbSideState n (1 - k)] ∧ s.dev.stores t) := by
  have hswitch : (s.dev.heard p).elbSwitch n = (.ok, (s.dev.heard p).switched n k) :=
    Dev.elbSwitch_switches hk (by simpa using hc) (by simpa using hnew) (by simpa using hold)
  have hother : ((s.dev.heard p).switched n k).sideState n (1 - k) = if s.dev.sideFree n (1 - k) then 1 else 3 := by
    rw [Dev.sideState_switched_old _ n hk, Dev.sideFree_takeTurn]
  have hnot : ((s.dev.heard p).switched n k).sideState n (1 - k) ≠ 2 := by rw [hother]; split <;> decide
  have hactive := Dev.sideState_switched_new (s.dev.heard p) n k
  refine ⟨_, bankCommand_gives hn ha hswitch, Dev.respond_resp_same _ _ _ _, Dev.get_set_same _ _ _, hactive, hother, ?_,
    s.dev.takeTurn_jobs p, (s.dev.regsBut_heard p _).trans (Dev.regsBut_switched _ n k), s.dev.stores_heard p⟩
  exact (Dev.bankVersion_of_active hk hactive hnot).trans (congrArg BankSide.version (s.dev.side_takeTurn p n k))

/-! ## UNLOAD -/

/-- UNLOAD of a LOADED side empties it. -/
theorem Dev.elbUnload_loaded {d : Dev} {n k : Nat} (hc : d.get (rElbCommand n) ≠ cmdRunning) (hs : d.sideState n k = 1) :
    d.elbUnload n k = (.ok, (d.set (rElbSideState n k) 0).set (rElbCommand n) cmdDone) := by
  simp [Dev.elbUnload, hc, hs]

/-- UNLOAD of an ACTIVE side waits for the jobs that are bound to it. -/
theorem Dev.elbUnload_active {d : Dev} {n k : Nat} (hc : d.get (rElbCommand n) ≠ cmdRunning) (hs : d.sideState n k = 2) :
    d.elbUnload n k = (.ok, (d.setSide n k { d.side n k with unloading := true }).set (rElbCommand n) cmdRunning) := by
  simp [Dev.elbUnload, hc, hs]

/-- R164: an UNLOAD command of a side that is LOADED, and of one that is ACTIVE. -/
theorem elbUnload_outcomes {s : State} {p : Path} {n k : Nat} {c : Instr}
    (hgive : ∀ {st d}, (s.dev.heard p).elbUnload n k = (st, d) → Gives c s (d.respond p st []))
    (hc : s.dev.get (rElbCommand n) ≠ cmdRunning) :
    (s.dev.sideState n k = 1 → Gives c s ((((s.dev.heard p).set (rElbSideState n k) 0).set (rElbCommand n) cmdDone).ok p)) ∧
      (s.dev.sideState n k = 2 → Reaches c s (fun t => t.answered p .ok ∧ t.get (rElbCommand n) = cmdRunning ∧ t.sideState n k = 2 ∧
        t.side n k = { s.dev.side n k with unloading := true })) := by
  have hheard : (s.dev.heard p).get (rElbCommand n) ≠ cmdRunning := by simpa using hc
  refine ⟨fun hs => hgive (Dev.elbUnload_loaded hheard (by simpa using hs)), fun hs => ?_⟩
  have hactive : (s.dev.heard p).sideState n k = 2 := by simpa using hs
  refine ⟨_, hgive (Dev.elbUnload_active hheard hactive), Dev.respond_resp_same _ _ _ _, Dev.get_set_same _ _ _, ?_, ?_⟩
  · exact (Dev.sideState_set_elbCommand _ _ _ _).trans hactive
  · exact (Dev.side_setSide_same _ _ _ _).trans (by rw [Dev.side_takeTurn])

/-! ## The ends of a verification and of an unload -/

/-- The last two writes of the end of a bank command: the state of the side and the command's outcome. -/
def Dev.bankEnded (d : Dev) (n k st c : Nat) : Dev := (d.set (rElbSideState n k) st).set (rElbCommand n) c

theorem Dev.bankEnded_spec (d : Dev) (n k st c : Nat) :
    (d.bankEnded n k st c).sideState n k = st ∧ (d.bankEnded n k st c).get (rElbCommand n) = c ∧
      (d.bankEnded n k st c).get (rElbLoadError n) = d.get (rElbLoadError n) ∧
      (∀ w, rElbSideState n k ∈ w → rElbCommand n ∈ w → d.regsBut (d.bankEnded n k st c) w) := by
  refine ⟨by simp [Dev.bankEnded], Dev.get_set_same _ _ _, ?_, fun w hs hc => (Dev.regsBut_set st hs).trans (Dev.regsBut_set c hc)⟩
  rw [Dev.bankEnded, Dev.get_set_other _ _ (elbLoadError_ne_elbCommand n).symm,
    Dev.get_set_other _ _ (elbSideState_ne_elbLoadError n k)]

/-- The end of a verification whose error is `err`: the side is `x`, its state and the command's outcome are written. -/
def Dev.loadEnded (d : Dev) (n k err : Nat) (tc : List (Nat × Nat)) (x : BankSide) (st c : Nat) : Dev :=
  ({ d.set (rElbLoadError n) err with tcache := tc }.setSide n k x).bankEnded n k st c

theorem Dev.loadEnded_spec (d : Dev) (n k err : Nat) (tc : List (Nat × Nat)) (x : BankSide) (st c : Nat) :
    (d.loadEnded n k err tc x st c).sideState n k = st ∧ (d.loadEnded n k err tc x st c).get (rElbCommand n) = c ∧
      (d.loadEnded n k err tc x st c).get (rElbLoadError n) = err ∧ (d.loadEnded n k err tc x st c).side n k = x ∧
      d.regsBut (d.loadEnded n k err tc x st c) [rElbSideState n k, rElbCommand n, rElbLoadError n] ∧
      d.stores (d.loadEnded n k err tc x st c) := by
  have herr : d.regsBut ({ d.set (rElbLoadError n) err with tcache := tc }.setSide n k x)
      [rElbSideState n k, rElbCommand n, rElbLoadError n] := Dev.regsBut_set (r := rElbLoadError n) err (by simp)
  obtain ⟨hst, hcmd, hkeep, hregs⟩ := Dev.bankEnded_spec ({ d.set (rElbLoadError n) err with tcache := tc }.setSide n k x) n k st c
  exact ⟨hst, hcmd, hkeep.trans (d.get_set_same _ _), Dev.side_setSide_same _ _ _ _, herr.trans (hregs _ (by simp) (by simp)),
    rfl, rfl, rfl, rfl, rfl⟩

/-- A bank side with nothing in it. -/
def BankSide.empty : BankSide := { version := 0, loadOrder := 0, loading := false, unloading := false, length := 0 }

/-- The header of the image at an address. -/
def Dev.headerAt (d : Dev) (a : Nat) : BankHeader := parseBank (d.cohRead a 64).1

/-- The side that a verification without error leaves, from the image's header. -/
def Dev.loadedSide (d : Dev) (n k : Nat) (h : BankHeader) : BankSide :=
  { version := h.version, loadOrder := (d.side n (1 - k)).loadOrder + 1, loading := false, unloading := false, length := h.length }

section
variable {s : State} {n k : Nat} (hn : n < 64) (hk : k < 2) (hl : (s.dev.side n k).loading = true)
include hn hk hl

/-- R164, R166: a verification that finds no error. The header is read again once the error has been written. -/
theorem elbLoadDone_sound (he : s.dev.loadError (s.dev.sideBase n k) = 0) {e : Dev} (hread : e = s.dev.imageRead n k) {h : BankHeader}
    (hh : h = e.headerAt (s.dev.sideBase n k)) :
    Gives (.elbLoadDone n k) s
      (e.loadEnded n k 0 (e.dropTables (s.dev.sideBase n k) h.length).tcache (e.loadedSide n k h) 1 cmdDone) := by
  subst hread hh
  change execElbLoadDone n k s = _
  rw [execElbLoadDone, occursAt_next (by simp [hn, hk]) hl]
  simp only [he, if_true, Dev.cohRead_set (rElbLoadError_offMemory n), Dev.imageRead]
  rfl

/-- R164, R166: a verification that finds an error. -/
theorem elbLoadDone_faulty (he : s.dev.loadError (s.dev.sideBase n k) ≠ 0) {e : Dev} (hread : e = s.dev.imageRead n k) :
    Gives (.elbLoadDone n k) s (e.loadEnded n k (s.dev.loadError (s.dev.sideBase n k)) e.tcache .empty 0 cmdRefused) := by
  subst hread
  change execElbLoadDone n k s = _
  rw [execElbLoadDone, occursAt_next (by simp [hn, hk]) hl]
  simp only [he, if_false]
  rfl

end

/-- R164: an unload that waited, once no job is bound to the side. -/
theorem elbUnloadDone_gives {s : State} {n k : Nat} (hn : n < 64) (hk : k < 2) (hu : (s.dev.side n k).unloading = true)
    (hf : s.dev.sideFree n k = true) :
    Gives (.elbUnloadDone n k) s ((s.dev.setSide n k .empty).bankEnded n k 0 cmdDone) := by
  change execElbUnloadDone n k s = _
  rw [execElbUnloadDone, occursAt_next (by simp [hn, hk]) (by simp [hu, hf])]
  rfl

/-- Settles O26: each clause is the lemma of its command. -/
theorem ruleBanksMoveAndAreVerified : Obligations.RuleBanksMoveAndAreVerified := by
  refine ⟨fun s p n hn => ⟨?load0, ?load1, ?switch, ?unload0, ?unload1⟩, fun s n k hn hk => ⟨?loadDone, ?unloadDone⟩⟩
  case load0 => exact fun ha hc hs => elbLoad_reaches (fun h => bankCommand_gives (k := fun d => d.elbLoad n 0) hn ha h) hc hs
  case load1 =>
    intro ha hc hs
    obtain ⟨t, hgive, hanswer, hcmd, hside, -, hkept⟩ :=
      elbLoad_reaches (c := .elbLoad1 p n) (fun h => bankCommand_gives (k := fun d => d.elbLoad n 1) hn ha h) hc hs
    exact ⟨t, hgive, hanswer, hcmd, hside, hkept⟩
  case switch => exact fun k hk ha hc hnew hold => elbSwitch_reaches hn hk ha hc hnew hold
  case unload0 => exact fun ha hc => elbUnload_outcomes (fun h => bankCommand_gives (k := fun d => d.elbUnload n 0) hn ha h) hc
  case unload1 => exact fun ha hc => elbUnload_outcomes (fun h => bankCommand_gives (k := fun d => d.elbUnload n 1) hn ha h) hc
  case loadDone =>
    intro e hl hread
    refine ⟨fun he => ?_, fun he => ?_⟩
    · obtain ⟨hst, hcmd, herr, hside, hregs, hstores⟩ := e.loadEnded_spec n k 0 _ (e.loadedSide n k _) 1 cmdDone
      exact ⟨_, elbLoadDone_sound hn hk hl he hread rfl, hst, hcmd, herr, congrArg BankSide.version hside,
        congrArg BankSide.loading hside, hregs, hstores⟩
    · obtain ⟨hst, hcmd, herr, hside, hregs, hstores⟩ := e.loadEnded_spec n k _ e.tcache .empty 0 cmdRefused
      exact ⟨_, elbLoadDone_faulty hn hk hl he hread, hst, hcmd, herr, congrArg BankSide.version hside,
        congrArg BankSide.loading hside, hregs, hstores⟩
  case unloadDone =>
    intro hu hf
    obtain ⟨hst, hcmd, -, hregs⟩ := (s.dev.setSide n k .empty).bankEnded_spec n k 0 cmdDone
    have hside : ((s.dev.setSide n k .empty).bankEnded n k 0 cmdDone).side n k = .empty := Dev.side_setSide_same _ _ _ _
    exact ⟨_, elbUnloadDone_gives hn hk hu hf, hst, hcmd, congrArg BankSide.unloading hside, rfl, hregs _ (by simp) (by simp),
      rfl, rfl, rfl, rfl, rfl⟩

end Sys2Proof.Machine
end

section
/-!
PROOF. The statement about Electrum jobs fails: its clause of an unbound job leaves out that the jobs of an instance bind in fetch order (R161).

An instance may have two jobs in execution, on two engines. While the one fetched first has not bound, the other does not bind, so that it
does not find out either that its bank accepts no bind: its row changes nothing.
-/
namespace Sys2Proof.Machine

/-- A VALIDATE job of instance 0 for bank 0, in execution at slot 0 of an engine, which has not bound. -/
def unboundJob (eng : Nat) : Job :=
  { newJob 0 (leBytes 2 2 ++ zeros 62) with phase := phExecute, slot := some (eng, 0) }

/-- Instance 0, of the Electrum class and ACTIVE, has fetched jobs 1 and 2; they are at two engines, and bank 0, which is empty, takes no binds. -/
def unboundState : State :=
  { pending := []
    dev := ({ State.reset.dev with
                jobs := [(1, unboundJob 64), (2, unboundJob 65)],
                insts := [(0, { Inst.reset with queue := [1, 2] })] }.set (rInstClass 0) 2).set (rInstState 0) instActive }

/-- Job 2 waits for job 1 to bind. -/
theorem unbound_waits : unboundState.dev.bindTurn 2 (unboundJob 65) = false := by decide +kernel

/-- A job that has not bound and waits for another's bind: its row changes nothing (R161). -/
theorem electrumValidate_waits {s : State} {j : Nat} {x : Job} (hj : s.dev.job j = some x) (hb : x.bank = none)
    (ht : s.dev.bindTurn j x = false) : exec (.electrumValidate j) s = .next s := by
  change execElectrumValidate j s = _
  rw [execElectrumValidate, elExec, occurs_idle]
  simp [Dev.elReady, Dev.jobIs, hj, hb, ht]

/-- Refutes O27: job 2, which is behind an unbound job, does not end with BANK_UNAVAILABLE. -/
theorem not_electrumRunsItsTables : ¬ Obligations.ElectrumRunsItsTables := by
  intro h
  have hjob : unboundState.dev.job 2 = some (unboundJob 65) := rfl
  have hclass : unboundState.dev.instClass (unboundJob 65).inst = 2 := by decide +kernel
  have hmask : bitAt (unboundState.dev.get (rElBankMask (unboundJob 65).inst)) (descBank (unboundJob 65).desc) = false := by decide +kernel
  obtain ⟨-, -, -, hunbound, -⟩ := h unboundState 2 (unboundJob 65) hjob hclass
  obtain ⟨t, hgive, ⟨y, hy, hdone, -⟩, -⟩ := hunbound rfl rfl rfl (by decide +kernel) (.inl hmask)
  have hstays : t = unboundState.dev := by
    have hnext := (show exec (.electrumValidate 2) unboundState = _ from hgive).symm.trans (electrumValidate_waits hjob rfl unbound_waits)
    injection hnext with hnext
    exact congrArg State.dev hnext
  rw [hstays, hjob] at hy
  obtain rfl := Option.some.inj hy
  exact absurd hdone (by decide)

end Sys2Proof.Machine
end

section
/-!
PROOF. DEFLATE jobs: how the operation of a job ends, and its rows (R179, R180, R183, R186, R187).

Every row ends the operation of its job by `Dev.opEnd` and then writes the job's Result, and the context that it leaves. Whatever else a row
changes is no job, and of the registers it changes `dfBytesIn` and, for a decompression, the counters of event 7.
-/
namespace Sys2Proof.Machine

/-! ## The end of an operation -/

/-- A job whose operation has ended. -/
def Job.opEnded (x : Job) (r : OpEnd) : Job :=
  { x with opDone := true, status := r.status, detail := r.detail, out := r.out, attempts := r.attempts, blobA := r.key, blobB := r.partner }

theorem Dev.modJob_of_job {d : Dev} {j : Nat} {x : Job} (h : d.job j = some x) (f : Job → Job) : d.modJob j f = d.setJob j (f x) := by
  simp only [Dev.modJob, h]

/-- The job, where a change follows the end of its operation. -/
theorem Dev.job_modJob_opEnd {d : Dev} {j : Nat} {x : Job} (h : d.job j = some x) (r : OpEnd) (f : Job → Job) :
    ((d.opEnd j r).modJob j f).job j = some (f (x.opEnded r)) := by
  have hend : d.opEnd j r = d.setJob j (x.opEnded r) := Dev.modJob_of_job h _
  rw [hend, Dev.modJob_of_job (Dev.job_setJob_same _ _ _), Dev.job_setJob_same]

theorem Dev.modJob_regs (d : Dev) (j : Nat) (f : Job → Job) : (d.modJob j f).regs = d.regs := by
  unfold Dev.modJob; split <;> rfl

theorem Dev.stores_modJob (d : Dev) (j : Nat) (f : Job → Job) : d.stores (d.modJob j f) := by
  unfold Dev.modJob; split <;> exact .refl d

theorem Dev.modJob_opEnd_regs (d : Dev) (j : Nat) (r : OpEnd) (f : Job → Job) : ((d.opEnd j r).modJob j f).regs = d.regs :=
  (Dev.modJob_regs _ j f).trans (d.modJob_regs j _)

theorem Dev.stores_modJob_opEnd (d : Dev) (j : Nat) (r : OpEnd) (f : Job → Job) : d.stores ((d.opEnd j r).modJob j f) :=
  (d.stores_modJob j _).trans (Dev.stores_modJob _ j f)

/-- An event counts in registers, and leaves the jobs alone. -/
theorem Dev.countEvent_job (d : Dev) (g code n : Nat) (w : Option World) (j : Nat) : (d.countEvent g code n w).job j = d.job j :=
  congrArg (fun l => tabFind l j) (congrArg EngineSide.jobs (d.countEvent_engineSide g code n w))

/-! ## The ends of DEFLATE operations -/

/-- The job of an operation that ends with OK has its status, its bytes, the check and the total of the stream that it leaves, and a context
unless it is single-shot (R184, R187). -/
theorem Dev.dfOk_job {d : Dev} {j : Nat} {y : Job} (h : d.job j = some y) (x : Job) (detail : Nat) (out : List Byte) (ended : Bool)
    (t : DfStream) : ∃ ctx, (dfSingle x.desc = true → ctx = []) ∧
      (d.dfOk j x detail out ended t).job j =
        some { y.opEnded { status := jsOk, detail := detail, out := out } with result := dfResult t.check t.total, ctxOut := ctx } := by
  unfold Dev.dfOk
  cases dfSingle x.desc with
  | true => exact ⟨[], fun _ => rfl, Dev.job_modJob_opEnd h _ _⟩
  | false => exact ⟨(d.dfClose x.desc ended t).1, nofun, Dev.job_modJob_opEnd (d := (d.dfClose x.desc ended t).2) h _ _⟩

theorem Dev.dfOk_regs (d : Dev) (j : Nat) (x : Job) (detail : Nat) (out : List Byte) (ended : Bool) (t : DfStream) :
    (d.dfOk j x detail out ended t).regs = d.regs := by
  refine (Dev.modJob_opEnd_regs _ j _ _).trans ?_
  split <;> rfl

theorem Dev.stores_dfOk (d : Dev) (j : Nat) (x : Job) (detail : Nat) (out : List Byte) (ended : Bool) (t : DfStream) :
    d.stores (d.dfOk j x detail out ended t) := by
  refine Dev.stores.trans ?_ (Dev.stores_modJob_opEnd _ j _ _)
  split <;> exact .refl d

/-- The stream of a decompression has the check and the total of the bytes produced, however it ends (R186, R187). -/
theorem Dev.decompress_job {d : Dev} {j : Nat} {x : Job} (h : d.job j = some x) (t : DfStream) {r : DfEnd}
    (hr : r = dfDecompress x.desc t x.input) : ∃ detail ctx, (d.decompress j x t).job j =
      some { x.opEnded { status := r.status, detail := detail, out := r.run.output }
        with result := dfResult (dfCheckRun (dfFraming x.desc) t.check r.run.output) (t.total + r.run.made), ctxOut := ctx } := by
  subst hr
  unfold Dev.decompress
  extract_lets r held used out stream counted d'
  have hjob : d'.job j = some x := (counted.countEvent_job _ _ _ _ j).trans h
  split
  next hok =>
    obtain ⟨ctx, -, hend⟩ := Dev.dfOk_job hjob x (used + boolNat r.ended * 2 ^ 32) out r.ended stream
    exact ⟨_, ctx, hok ▸ hend⟩
  next w e off _ =>
    have hfree : e.job j = some x := by
      unfold e; split <;> exact hjob
    exact ⟨off, x.ctxOut, Dev.job_modJob_opEnd hfree _ _⟩

/-! ## The rows -/

/-- COMPRESS is the DEFLATE row of opcode 1. -/
theorem compress_row (j : Nat) (s : State) : exec (.compress j) s = dfExec 183 j 1 (fun d x t => d.compress j x t) s := rfl

/-- DECOMPRESS is that of opcode 2. -/
theorem decompress_row (j : Nat) (s : State) : exec (.decompress j) s = dfExec 186 j 2 (fun d x t => d.decompress j x t) s := rfl

section
variable {s : State} {j : Nat} {x : Job} (hj : s.dev.job j = some x) (hc : s.dev.instClass x.inst = 3)
include hj hc

/-- R179: a NOP that is ready has its record due with OK. -/
theorem deflateNop_gives (hop : descOpcode x.desc = 0) (ht : x.target = none) (hr : s.dev.jobReady x.inst j = true) :
    Gives (.deflateNop j) s (s.dev.setJob j { x with phase := phComplete, status := jsOk, detail := 0 }) := by
  change execDeflateNop j s = _
  rw [execDeflateNop, occurs_next (by simp [Dev.jobIs, hj, hc, hop, hr]), Dev.endJob_of_target_none hj ht, ← ht]

variable {op : Nat} (hp : x.phase = phExecute) (hd : x.opDone = false) (hop : descOpcode x.desc = op)
include hp hd hop

theorem dfReady_of_job : s.dev.dfReady j op = true := by
  simp [Dev.dfReady, Dev.jobIs, hj, hc, hp, hd, hop]

variable {i : Instr} {rule : Nat} {f : Dev → Job → DfStream → Dev} (hrow : exec i s = dfExec rule j op f s)
include hrow

/-- A row runs on the stream of its job. -/
theorem dfRow_gives {t : DfStream} (ht : s.dev.dfStream x = some t) : Gives i s (f s.dev x t) := by
  rw [Gives, hrow, dfExec, occurs_next (dfReady_of_job hj hc hp hd hop)]
  simp only [hj, ht]

/-- Where the job has none, a row ends the operation with CONTEXT_INVALID and no output (R184, Table 07-5). -/
theorem dfRow_noStream (ht : s.dev.dfStream x = none) :
    Reaches i s (fun t => (∃ y, t.job j = some y ∧ y.opDone = true ∧ y.status = jsContextInvalid ∧ y.out = []) ∧
      t.regs = s.dev.regs ∧ s.dev.stores t) := by
  refine ⟨s.dev.dfNoContext j, ?_, ⟨_, Dev.job_modJob_opEnd (d := s.dev.takeWord.2) hj _ _, rfl, rfl, rfl⟩,
    Dev.modJob_opEnd_regs s.dev.takeWord.2 j _ _, Dev.stores_modJob_opEnd s.dev.takeWord.2 j _ _⟩
  rw [Gives, hrow, dfExec, occurs_next (dfReady_of_job hj hc hp hd hop)]
  simp only [hj, ht]

end

/-- What COMPRESS leaves (R180, R183, R187). -/
theorem Dev.compress_spec {d : Dev} {j : Nat} {x : Job} (h : d.job j = some x) (t : DfStream) :
    (∃ y, (d.compress j x t).job j = some y ∧ y.opDone = true ∧ y.status = jsOk ∧ y.detail = 0 ∧
      y.out = (dfCompress x.desc t x.input).1 ∧
      y.result = dfCheckRun (dfFraming x.desc) t.check x.input + (t.total + x.input.length) % 2 ^ 32 * 2 ^ 32 ∧
      (dfSingle x.desc = true → y.ctxOut = [])) ∧
    (d.compress j x t).get rDfBytesIn = wrapAdd 64 (d.get rDfBytesIn) x.input.length ∧ d.regsBut (d.compress j x t) [rDfBytesIn] ∧
    d.stores (d.compress j x t) := by
  have hadd : (d.add rDfBytesIn x.input.length).job j = some x := h
  have hregs : (d.compress j x t).regs = (d.set rDfBytesIn (wrapAdd 64 (d.get rDfBytesIn) x.input.length)).regs :=
    Dev.dfOk_regs _ j x _ _ _ _
  have hstores : d.stores (d.compress j x t) := Dev.stores_dfOk (d.add rDfBytesIn x.input.length) j x _ _ _ _
  obtain ⟨ctx, hsingle, hjob⟩ := Dev.dfOk_job hadd x 0 _ _ _
  exact ⟨⟨_, hjob, rfl, rfl, rfl, rfl, rfl, hsingle⟩, Dev.get_of_regs_set hregs, Dev.regsBut_of_regs_set hregs, hstores⟩

/-- Settles O28: each clause is the row of its opcode, with a stream and without one. -/
theorem deflateRunsItsStreams : Obligations.DeflateRunsItsStreams := by
  refine fun s j x hj hc => ⟨?nop, ?compress, ?decompress, fun hp hd ht => ⟨?compressInvalid, ?decompressInvalid⟩⟩
  case nop => exact fun hop htarget hready => deflateNop_gives hj hc hop htarget hready
  case compress => exact fun t hp hd hop ht => ⟨_, dfRow_gives hj hc hp hd hop (compress_row j s) ht, Dev.compress_spec hj t⟩
  case decompress =>
    intro t hp hd hop ht
    obtain ⟨detail, ctx, hjob⟩ := Dev.decompress_job hj t rfl
    exact ⟨_, dfRow_gives hj hc hp hd hop (decompress_row j s) ht, _, hjob, rfl, rfl, rfl⟩
  case compressInvalid => exact fun hop => dfRow_noStream hj hc hp hd hop (compress_row j s) ht
  case decompressInvalid => exact fun hop => dfRow_noStream hj hc hp hd hop (decompress_row j s) ht

end Sys2Proof.Machine
end

section
/-!
SUPPORT. What an instruction of a hart leaves when it retires. Its one write outside what it does itself is to the program counter and to the
counters: `minstret` and those that count its events (R207, Table 20-5), which are CSRs, and the samples that fall due (R206).
-/
namespace Sys2Proof.Machine

/-! ## Devices that differ in one hart -/

/-- `e` is `d` but for the record of hart `k`. -/
def Dev.onlyHart (d e : Dev) (k : Nat) : Prop := e = { d with harts := e.harts } ∧ ∀ j, j ≠ k → e.hart j = d.hart j

theorem Dev.onlyHart.refl (d : Dev) (k : Nat) : d.onlyHart d k := ⟨rfl, fun _ _ => rfl⟩

theorem Dev.onlyHart.trans {d e f : Dev} {k : Nat} (h : d.onlyHart e k) (h' : e.onlyHart f k) : d.onlyHart f k := by
  obtain ⟨he, hj⟩ := h
  obtain ⟨hf, hj'⟩ := h'
  refine ⟨?_, fun j hne => (hj' j hne).trans (hj j hne)⟩
  rw [hf, he]

theorem Dev.onlyHart_setHart (d : Dev) (k : Nat) (h : Hart) : d.onlyHart (d.setHart k h) k :=
  ⟨rfl, fun _ hj => d.hart_setHart_other h hj.symm⟩

theorem Dev.onlyHart.regs {d e : Dev} {k : Nat} (h : d.onlyHart e k) : e.regs = d.regs := by rw [h.1]

theorem Dev.onlyHart.stores {d e : Dev} {k : Nat} (h : d.onlyHart e k) : d.stores e := by
  rw [h.1]
  exact Dev.stores.refl d

/-! ## Events and retirement -/

/-- `g` is `h` but for its CSRs and the samples that are due. -/
def Hart.counted (h g : Hart) : Prop := g = { h with csrs := g.csrs, sampleDue := g.sampleDue }

theorem Hart.counted.refl (h : Hart) : h.counted h := rfl

theorem Hart.counted.trans {f g h : Hart} (hg : f.counted g) (hh : g.counted h) : f.counted h := by
  unfold Hart.counted at *
  rw [hh, hg]

theorem Hart.counted_setCsr (h : Hart) (r v : Nat) : h.counted (h.setCsr r v) := rfl

theorem Hart.counted_setOverflow (h : Hart) (j : Nat) : h.counted (h.setOverflow j) := by
  unfold Hart.setOverflow
  simp only
  split <;> exact rfl

/-- `e` is `d` after counters of hart `k` have counted. -/
def Dev.counts (d : Dev) (k : Nat) (e : Dev) : Prop := d.onlyHart e k ∧ (d.hart k).counted (e.hart k)

theorem Dev.counts.setHart {d e : Dev} {k : Nat} {h : Hart} (hd : d.counts k e) (hh : (e.hart k).counted h) : d.counts k (e.setHart k h) :=
  ⟨hd.1.trans (e.onlyHart_setHart k h), by rw [Dev.hart_setHart_same]; exact hd.2.trans hh⟩

theorem Dev.counts_hartEvent (d : Dev) (k code : Nat) : d.counts k (d.hartEvent k code) := by
  have hrefl : d.counts k d := ⟨.refl d k, .refl _⟩
  unfold Dev.hartEvent
  split
  · exact hrefl
  · refine List.foldlRecOn _ _ (motive := d.counts k) hrefl (fun e he j _ => ?_)
    dsimp only
    split
    · refine he.setHart ?_
      split
      · exact rfl
      · split
        · exact rfl
        · exact (Hart.counted_setCsr _ _ _).trans (Hart.counted_setOverflow _ j)
    · exact he

theorem Dev.retire_spec (d : Dev) (k ilen : Nat) : d.onlyHart (d.retire k ilen) k ∧
    { d.hart k with pc := (d.hart k).pc + BitVec.ofNat 64 ilen, returned := false }.counted ((d.retire k ilen).hart k) := by
  unfold Dev.retire
  simp only
  generalize hg : { d.hart k with pc := (d.hart k).pc + BitVec.ofNat 64 ilen, returned := false } = g
  split
  · obtain ⟨hdev, hhart⟩ := Dev.counts_hartEvent ((d.setHart k g).setHart k (g.setCsr 0xB02 (wrapAdd 64 (g.csr 0xB02) 1))) k 2
    rw [Dev.hart_setHart_same] at hhart
    exact ⟨((d.onlyHart_setHart k g).trans (Dev.onlyHart_setHart _ k _)).trans hdev, (g.counted_setCsr _ _).trans hhart⟩
  · exact ⟨d.onlyHart_setHart k g, by rw [Dev.hart_setHart_same]; exact .refl g⟩

/-! ## Before an instruction retires -/

/-- `d` is `e` after an instruction of hart `k` has done part of its work: nothing but that hart's record has changed, and neither its program
counter nor an integer register. -/
def Dev.underWay (e d : Dev) (k : Nat) : Prop :=
  e.onlyHart d k ∧ (d.hart k).pc = (e.hart k).pc ∧ (d.hart k).xregs = (e.hart k).xregs

theorem Dev.underWay.refl (e : Dev) (k : Nat) : e.underWay e k := ⟨.refl e k, rfl, rfl⟩

theorem Dev.underWay.setHart {e d : Dev} {k : Nat} {h : Hart} (hd : e.underWay d k) (hpc : h.pc = (d.hart k).pc)
    (hx : h.xregs = (d.hart k).xregs) : e.underWay (d.setHart k h) k := by
  obtain ⟨hdev, hpc', hx'⟩ := hd
  rw [Dev.underWay, Dev.hart_setHart_same]
  exact ⟨hdev.trans (d.onlyHart_setHart k h), hpc.trans hpc', hx.trans hx'⟩

theorem Dev.underWay.hartEvent {e d : Dev} {k : Nat} (hd : e.underWay d k) (code : Nat) : e.underWay (d.hartEvent k code) k := by
  obtain ⟨hdev, hpc, hx⟩ := hd
  obtain ⟨hdev', hhart⟩ := d.counts_hartEvent k code
  exact ⟨hdev.trans hdev', by rw [hhart]; exact hpc, by rw [hhart]; exact hx⟩

/-- An instruction without a destination retires. -/
theorem Dev.underWay.retired {e d : Dev} {a : HartAccess} (hd : e.underWay d a.hart) : e.retired (d.retire a.hart a.ilen) a none := by
  obtain ⟨hdev, hpc, hx⟩ := hd
  obtain ⟨hdev', hhart⟩ := d.retire_spec a.hart a.ilen
  have hall := hdev.trans hdev'
  refine ⟨by rw [hhart, ← hpc], fun r _ => ?_, hall.2, hall.regs, hall.stores⟩
  rw [hhart]
  simp [Hart.x, hx]

theorem Dev.l2_retire (d : Dev) (k ilen : Nat) : ((d.retire k ilen).hart k).l2 = (d.hart k).l2 := by
  rw [(d.retire_spec k ilen).2]

theorem Hart.loadReg_integer (h : Hart) {r : Nat} (hr : r < 32) (size : Nat) (signed : Bool) (v : Nat) :
    h.loadReg r size signed v = h.setX r (extended size signed v) := by
  simp [Hart.loadReg, Hart.setReg, Hart.dirtied, hr]

theorem Hart.setX_eq (h : Hart) (r : Nat) (v : Word) : h.setX r v = { h with xregs := (h.setX r v).xregs } := by
  unfold Hart.setX
  split <;> rfl

theorem Hart.x_setX (h : Hart) (r q : Nat) (v : Word) : (h.setX r v).x q = if q ≠ 0 ∧ q = r then v else h.x q := by
  unfold Hart.setX Hart.x
  by_cases hq : q = r
  · subst hq
    by_cases h0 : q = 0 <;> simp [h0]
  · by_cases h0 : r = 0 <;> simp [h0, hq, tabGet_tabPut_other _ _ _ (Ne.symm hq)]

/-- A load into an integer register ends. -/
theorem Dev.finishLoad_spec (d : Dev) {a : HartAccess} (hr : a.reg < 32) (v : Nat) : d.onlyHart (d.finishLoad a v) a.hart ∧
    { (d.hart a.hart).setX a.reg (extended a.size a.signed v) with
      half := none, pc := (d.hart a.hart).pc + BitVec.ofNat 64 a.ilen, returned := false }.counted ((d.finishLoad a v).hart a.hart) := by
  simp only [Dev.finishLoad, Hart.loadReg_integer _ hr]
  obtain ⟨hdev, hhart⟩ := Dev.retire_spec
    (d.setHart a.hart { (d.hart a.hart).setX a.reg (extended a.size a.signed v) with half := none }) a.hart a.ilen
  refine ⟨(d.onlyHart_setHart _ _).trans hdev, ?_⟩
  rw [Dev.hart_setHart_same] at hhart
  rwa [show (d.hart a.hart).pc = ((d.hart a.hart).setX a.reg (extended a.size a.signed v)).pc by rw [Hart.setX_eq]]

/-- The instruction retires with `size` bytes of `v` in its integer register. -/
theorem Dev.underWay.finishLoad {e d : Dev} {a : HartAccess} (hd : e.underWay d a.hart) (hr : a.reg < 32) (size : Nat)
    (signed : Bool) (v : Nat) :
    e.retired (d.finishLoad { a with size := size, signed := signed } v) a (some (extended size signed v)) := by
  obtain ⟨hdev, hpc, hx⟩ := hd
  obtain ⟨hdev', hhart⟩ := d.finishLoad_spec (a := { a with size := size, signed := signed }) hr v
  have hall := hdev.trans hdev'
  have hread (r : Nat) : (d.hart a.hart).x r = (e.hart a.hart).x r := by simp [Hart.x, hx]
  refine ⟨by rw [hhart, ← hpc], fun r _ => ?_, hall.2, hall.regs, hall.stores⟩
  rw [hhart]
  exact (Hart.x_setX _ _ _ _).trans (by rw [hread]; rfl)

theorem Dev.l2_finishLoad (d : Dev) {a : HartAccess} (hr : a.reg < 32) (v : Nat) :
    ((d.finishLoad a v).hart a.hart).l2 = (d.hart a.hart).l2 := by
  rw [(d.finishLoad_spec hr v).2, Hart.setX_eq]

theorem Dev.resv_finishLoad (d : Dev) {a : HartAccess} (hr : a.reg < 32) (v : Nat) :
    ((d.finishLoad a v).hart a.hart).resv = (d.hart a.hart).resv := by
  rw [(d.finishLoad_spec hr v).2, Hart.setX_eq]

end Sys2Proof.Machine
end

section
/-!
SUPPORT. The lines of an L2 as an instruction meets them: a read of a line held, the ownership of a line, and a write of an owned line.
-/
namespace Sys2Proof.Machine

/-! ## Bytes of a line -/

theorem leNat_leBytes (n v : Nat) : leNat (leBytes n v) = v % 256 ^ n := by
  induction n generalizing v with
  | zero => simp [leBytes, leNat, Nat.mod_one]
  | succ n ih =>
    rw [leBytes, leNat, ih, Nat.pow_succ', Nat.mod_mul]
    simp

theorem drop_leBytes (o n v : Nat) : (leBytes n v).drop o = leBytes (n - o) (v / 256 ^ o) := by
  induction o generalizing n v with
  | zero => simp
  | succ o ih =>
    cases n with
    | zero => simp [leBytes]
    | succ n => rw [leBytes, List.drop_succ_cons, ih, Nat.div_div_eq_div_mul, Nat.pow_succ', Nat.add_sub_add_right]

theorem take_leBytes {m n : Nat} (h : m ≤ n) (v : Nat) : (leBytes n v).take m = leBytes m v := by
  induction m generalizing n v with
  | zero => simp [leBytes]
  | succ m ih =>
    cases n with
    | zero => omega
    | succ n => rw [leBytes, List.take_succ_cons, ih (by omega), leBytes]

/-- A field within a line is the quotient and remainder of the line's number. -/
theorem fieldLe_lineBytes (l : Line) {o n : Nat} (h : o + n ≤ 64) : fieldLe (lineBytes l) o n = l.toNat / 256 ^ o % 256 ^ n := by
  rw [fieldLe, lineBytes, drop_leBytes, take_leBytes (by omega), leNat_leBytes]

/-! ## Reads -/

/-- Once every earlier store is visible, no buffered store holds a load back or serves it. -/
theorem Hart.drained_forwards {h : Hart} (hd : h.drained = true) (pa n : Nat) : h.forwarded pa n = none ∧ h.storeOnWay pa n = false := by
  simp only [Hart.drained, Hart.memVisible, Bool.and_eq_true, List.isEmpty_iff, Bool.not_eq_true', List.any_eq_false] at hd
  obtain ⟨hsbuf, -, htracker⟩ := hd
  refine ⟨by simp [Hart.forwarded, hsbuf], List.any_eq_false.2 fun x hx => ?_⟩
  simp [htracker x hx]

/-- A read of a line that the L2 holds gives its bytes, and moves on in nothing but the L1D and the counters. -/
theorem Dev.cachedRead_of_hasLine {d : Dev} {k pa : Nat} (h : d.hasLine k pa false) (n hint : Nat) (fill : Bool) :
    ∃ e, d.cachedRead k pa n hint .none fill = (.value (d.lineValue k pa n), e) ∧ d.underWay e k := by
  obtain ⟨href, hmark, hread⟩ := h
  simp only [Bool.false_eq_true, if_false] at hread
  have hmiss := (Dev.underWay.refl d k).hartEvent 3
  by_cases hl1 : lineAddr pa ∈ (d.hart k).l1d
  · exact ⟨d, by simp [Dev.cachedRead, href, hread, hmark, hl1, Dev.pairError, Dev.l1dHit, Dev.lineValue], .refl d k⟩
  · cases fill with
    | false =>
      refine ⟨d.hartEvent k 3, ?_, hmiss⟩
      simp [Dev.cachedRead, href, hread, hmark, hl1, Dev.pairError, Dev.l2Error, Dev.lineValue]
    | true =>
      refine ⟨_, ?_, hmiss.setHart (h := ((d.hartEvent k 3).hart k).fillL1d (lineAddr pa)) rfl rfl⟩
      simp [Dev.cachedRead, href, hread, hmark, hl1, Dev.pairError, Dev.l2Error, Dev.lineValue]

/-! ## Ownership and writes -/

/-- An owned line that no refusal and no mark keeps from the access is had at once. -/
theorem Dev.ownLine_of_owned {d : Dev} {k line : Nat} {whole : Bool} (href : (d.hart k).refused line .inst = false)
    (hown : ((d.hart k).line line).state.owned = true) (hmark : (((d.hart k).line line).mark && !whole) = false) (hint : Nat) :
    d.ownLine k line hint whole = (.value ((d.hart k).line line).data.toNat, d) := by
  simp [Dev.ownLine, href, hown, hmark]

theorem Hart.line_setLine_same (h : Hart) (line : Nat) {l : L2Line} (hl : l.state ≠ .i) : (h.setLine line l).line line = l := by
  simp [Hart.setLine, hl, Hart.line]

theorem Hart.line_of_l2 {g h : Hart} (hl : g.l2 = h.l2) (line : Nat) : g.line line = h.line line := by
  rw [Hart.line, hl, Hart.line]

theorem Dev.line_putL2 (d : Dev) (k line : Nat) (data : Line) (mark : Bool) :
    ((d.putL2 k line data mark).hart k).line line = { (d.hart k).line line with state := .m, data := data, mark := mark } := by
  rw [Dev.putL2, Dev.setL2, Dev.hart_setHart_same, Hart.line_setLine_same _ _ (by simp)]

theorem Dev.underWay_putL2 (d : Dev) (k line : Nat) (data : Line) (mark : Bool) : d.underWay (d.putL2 k line data mark) k :=
  (Dev.underWay.refl d k).setHart (by simp [Hart.setLine]) (by simp [Hart.setLine])

end Sys2Proof.Machine
end

section
/-!
PROOF. Atomics, cache-block operations and fences (R191, R222, R225, R226, R273).

Each instruction is first its step on the access with its pointer masked; the step, once the address is reached, is its work on memory.
-/
namespace Sys2Proof.Machine

theorem accessOk_of_amoOk {a : HartAccess} (h : amoOk a = true) : accessOk a = true := by
  simp only [amoOk, Bool.and_eq_true] at h
  exact h.1.1

theorem hart_of_accessOk {a : HartAccess} (h : accessOk a = true) : a.hart < 240 := by
  simp only [accessOk, Bool.and_eq_true, decide_eq_true_eq] at h
  exact h.1.1.1

theorem reg_of_amoOk {a : HartAccess} (h : amoOk a = true) : a.reg < 32 := by
  simp only [amoOk, Bool.and_eq_true, decide_eq_true_eq] at h
  exact h.2

/-! ## AMO, LR and SC -/

section
variable {s : State} {b : HartAccess} (hok : amoOk (s.dev.pointer b) = true) (hready : s.dev.ready (s.dev.pointer b).hart = true)
include hok hready

theorem amo_gives {src : Nat} (hsrc : src < 32) (op : AmoOp) :
    ∃ io, Gives (.amo b op src) s (s.dev.amoStep (s.dev.pointer b) op src io) := by
  have hb : amoOk b = true := hok
  exact ⟨_, occursAt_next (by simp [hb, hsrc]) hready⟩

theorem lr_gives : ∃ io, Gives (.lr b) s (s.dev.lrStep (s.dev.pointer b) io) := ⟨_, occursAt_next hok hready⟩

theorem sc_gives {src : Nat} (hsrc : src < 32) : ∃ io, Gives (.sc b src) s (s.dev.scStep (s.dev.pointer b) src io) := by
  have hb : amoOk b = true := hok
  exact ⟨_, occursAt_next (by simp [hb, hsrc]) hready⟩

end

section
variable {d e : Dev} {a : HartAccess} {pa pbmt hint : Nat} (hmem : (e.region pa).isMemory = true)
include hmem

theorem Dev.amoStep_memory (hreach : d.reaches a .store true pa pbmt hint e) (op : AmoOp) (src : Nat) (io : Nat → Dev → Dev) :
    d.amoStep a op src io = e.amoMemory a op ((e.hart a.hart).getReg src a.size) pa hint := by
  obtain ⟨hwhole, hreach⟩ := hreach
  simp [Dev.amoStep, hwhole, hreach, hmem]

theorem Dev.lrStep_memory (hreach : d.reaches a .load false pa pbmt hint e) (halign : a.va.toNat % a.size = 0) (io : Nat → Dev → Dev) :
    d.lrStep a io = e.lrMemory a pa hint := by
  simp [Dev.lrStep, halign, hreach.2, hmem]

theorem Dev.scStep_memory (hreach : d.reaches a .store false pa pbmt hint e) (halign : a.va.toNat % a.size = 0) (src : Nat)
    (io : Nat → Dev → Dev) : d.scStep a src io = e.scMemory a ((e.hart a.hart).getReg src a.size) pa hint := by
  simp [Dev.scStep, halign, hreach.2, hmem]

end

/-- How an SC ends: its result is `v`, its reservation is gone, and the L2 is as before. -/
theorem Dev.finishSc_spec {e d : Dev} {a : HartAccess} (hr : a.reg < 32) (hd : e.underWay d a.hart) (v : Nat) :
    e.retired (d.finishSc a v) a (some (extended 8 false v)) ∧ ((d.finishSc a v).hart a.hart).resv = none ∧
    ∀ l, ((d.finishSc a v).hart a.hart).line l = (d.hart a.hart).line l := by
  refine ⟨(hd.setHart (by rfl) (by rfl)).finishLoad hr 8 false v, ?_, fun l => Hart.line_of_l2 ?_ l⟩
  · rw [Dev.finishSc, Dev.resv_finishLoad _ (a := { a with size := 8, signed := false }) hr, Dev.hart_setHart_same]
  · rw [Dev.finishSc, Dev.l2_finishLoad _ (a := { a with size := 8, signed := false }) hr, Dev.hart_setHart_same]

section
variable {e : Dev} {a : HartAccess} {pa : Nat} (hr : a.reg < 32) (hdrain : (e.hart a.hart).drained = true)
include hr hdrain

/-- R222: an AMO on an owned line. -/
theorem Dev.amoMemory_spec (hin : pa % 64 + a.size ≤ 64) (hline : e.hasLine a.hart pa true) (op : AmoOp) (src hint : Nat) :
    e.retired (e.amoMemory a op src pa hint) a (some (extended a.size true (e.lineValue a.hart pa a.size))) ∧
    (((e.amoMemory a op src pa hint).hart a.hart).line (lineAddr pa)).data =
      lineWith ((e.hart a.hart).line (lineAddr pa)).data (pa % 64) a.size (amoResult op a.size (e.lineValue a.hart pa a.size) src) := by
  obtain ⟨href, hmark, hown⟩ := hline
  have heq : e.amoMemory a op src pa hint =
      (e.putL2 a.hart (lineAddr pa) (lineWith ((e.hart a.hart).line (lineAddr pa)).data (pa % 64) a.size
        (amoResult op a.size (e.lineValue a.hart pa a.size) src)) false).finishLoad { a with signed := true } (e.lineValue a.hart pa a.size) := by
    simp [Dev.amoMemory, hdrain, Dev.ownLine_of_owned (whole := false) href hown (by simp [hmark]), hmark, Dev.lineValue,
      fieldLe_lineBytes _ hin]
  rw [heq]
  refine ⟨(e.underWay_putL2 a.hart _ _ _).finishLoad hr a.size true _, ?_⟩
  rw [Hart.line_of_l2 (Dev.l2_finishLoad _ (a := { a with signed := true }) hr _), Dev.line_putL2]

/-- R222: an LR of a line that the L2 holds. -/
theorem Dev.lrMemory_spec (hline : e.hasLine a.hart pa false) (hint : Nat) :
    e.retired (e.lrMemory a pa hint) a (some (extended a.size true (e.lineValue a.hart pa a.size))) ∧
    ((e.lrMemory a pa hint).hart a.hart).resv = some (lineAddr pa) := by
  obtain ⟨hforward, hway⟩ := Hart.drained_forwards hdrain pa a.size
  obtain ⟨d, hread, hd⟩ := Dev.cachedRead_of_hasLine hline a.size hint true
  have heq : e.lrMemory a pa hint = (d.setHart a.hart { d.hart a.hart with resv := some (lineAddr pa) }).finishLoad
      { a with signed := true } (e.lineValue a.hart pa a.size) := by
    simp [Dev.lrMemory, hforward, hway, hread]
  rw [heq]
  refine ⟨(hd.setHart (by rfl) (by rfl)).finishLoad hr a.size true _, ?_⟩
  rw [Dev.resv_finishLoad _ (a := { a with signed := true }) hr, Dev.hart_setHart_same]

/-- R222: an SC whose reservation stands, on an owned line. -/
theorem Dev.scMemory_reserved (hresv : (e.hart a.hart).resv = some (lineAddr pa)) (hline : e.hasLine a.hart pa true) (src hint : Nat) :
    e.retired (e.scMemory a src pa hint) a (some 0) ∧ ((e.scMemory a src pa hint).hart a.hart).resv = none ∧
    (((e.scMemory a src pa hint).hart a.hart).line (lineAddr pa)).data =
      lineWith ((e.hart a.hart).line (lineAddr pa)).data (pa % 64) a.size src := by
  obtain ⟨href, hmark, hown⟩ := hline
  have heq : e.scMemory a src pa hint =
      (e.putL2 a.hart (lineAddr pa) (lineWith ((e.hart a.hart).line (lineAddr pa)).data (pa % 64) a.size src) false).finishSc a 0 := by
    simp [Dev.scMemory, hdrain, hresv, Dev.ownLine_of_owned (whole := false) href hown (by simp [hmark]), hmark]
  rw [heq]
  obtain ⟨hret, hgone, hlines⟩ := Dev.finishSc_spec hr (e.underWay_putL2 a.hart (lineAddr pa) _ _) 0
  exact ⟨hret, hgone, by rw [hlines, Dev.line_putL2]⟩

/-- R222: an SC without its reservation. -/
theorem Dev.scMemory_unreserved (hresv : (e.hart a.hart).resv ≠ some (lineAddr pa)) (src hint : Nat) :
    e.retired (e.scMemory a src pa hint) a (some 1) ∧ ((e.scMemory a src pa hint).hart a.hart).resv = none ∧
    ∀ l, ((e.scMemory a src pa hint).hart a.hart).line l = (e.hart a.hart).line l := by
  have heq : e.scMemory a src pa hint = e.finishSc a 1 := by simp [Dev.scMemory, hdrain, hresv]
  rw [heq]
  exact Dev.finishSc_spec hr (.refl e a.hart) 1

end

/-! ## Cache-block operations -/

/-- A cache-block operation that is legal and reaches memory does its work there. -/
theorem cbo_gives {s : State} {b : HartAccess} {i : Instr} {kind : StoreKind} {pa pbmt hint : Nat} {e : Dev}
    (hrow : exec i s = occursAt 273 (accessOk b) (fun d => d.ready b.hart) (fun d => d.cboStep b kind) s)
    (hok : accessOk b = true) (hready : s.dev.ready b.hart = true) (hlegal : (s.dev.hart b.hart).cboLegal kind = .ok)
    (hreach : s.dev.reach b.hart (s.dev.pointer b).va.toNat .store false = (.ok pa pbmt hint, e)) (hmem : (e.region pa).isMemory = true) :
    Gives i s (e.cboMemory (s.dev.pointer b) kind (lineAddr pa) pbmt hint) := by
  have hreach' : s.dev.reach (s.dev.pointer b).hart (s.dev.pointer b).va.toNat .store false = (.ok pa pbmt hint, e) := hreach
  rw [Gives, hrow, occursAt_next hok hready]
  simp [Dev.cboStep, hlegal, Dev.fenced, hreach', hmem]

/-- R273: an operation that the home of its line has performed retires. -/
theorem Dev.cboAtHome_answered {e : Dev} {a : HartAccess} {line flits v : Nat} {m : Instr} (hm : isStoreOp m = false)
    (hdone : (e.hart a.hart).homeDone.find? (fun x => x.line = line && x.store = false) = some ⟨line, false, true, v⟩) :
    e.retired (e.cboAtHome a line flits m) a none := by
  simp only [Dev.cboAtHome, Dev.homeOp, hm, hdone, if_true]
  exact ((Dev.underWay.refl e a.hart).setHart (by rfl) (by rfl)).retired

/-- R225, R273: a clean, a flush or an invalidation whose home has answered. -/
theorem Dev.cboMemory_answered {e : Dev} {a : HartAccess} {kind : StoreKind} (hkind : kind ≠ .zero) {line v : Nat}
    (hdrain : (e.hart a.hart).drained = true)
    (hdone : (e.hart a.hart).homeDone.find? (fun x => x.line = line && x.store = false) = some ⟨line, false, true, v⟩) (pbmt hint : Nat) :
    e.retired (e.cboMemory a kind line pbmt hint) a none := by
  simp only [Dev.cboMemory, hdrain]
  cases kind with
  | zero => exact absurd rfl hkind
  | clean | flush | inval | plain => exact Dev.cboAtHome_answered rfl hdone

/-- R225: CBO.ZERO of an owned line, marked or not. -/
theorem Dev.zeroLine_spec {e : Dev} {a : HartAccess} {line : Nat} (href : (e.hart a.hart).refused line .inst = false)
    (hown : ((e.hart a.hart).line line).state.owned = true) (hint : Nat) :
    e.retired (e.zeroLine a line hint) a none ∧
    ((e.zeroLine a line hint).hart a.hart).line line = { (e.hart a.hart).line line with state := .m, data := 0, mark := false } := by
  have heq : e.zeroLine a line hint = (e.putL2 a.hart line 0 false).retire a.hart a.ilen := by
    simp [Dev.zeroLine, Dev.ownLine_of_owned (whole := true) href hown (by simp)]
  rw [heq]
  exact ⟨(e.underWay_putL2 a.hart line 0 false).retired, by rw [Hart.line_of_l2 (Dev.l2_retire _ _ _), Dev.line_putL2]⟩

/-! ## Fences -/

section
variable {s : State} {k : Nat} (hk : k < 240)
include hk

section
variable (hready : s.dev.ready k = true)
include hready

theorem fence_retires {p q : FenceSet} {tso : Bool}
    (hnone : tso = true ∨ fenceEmpty p = true ∨ fenceEmpty q = true ∨ (s.dev.hart k).fenceDone p q = true) :
    Gives (.fence k p q tso) s (s.dev.retire k 4) := by
  change execFence k p q tso s = _
  rw [execFence, occursAt_next (by simpa using hk) hready, if_pos (by simpa only [Bool.or_eq_true, or_assoc] using hnone)]

theorem fence_waits {p q : FenceSet} (hp : fenceEmpty p = false) (hq : fenceEmpty q = false)
    (hwait : (s.dev.hart k).fenceDone p q = false) :
    Gives (.fence k p q false) s (s.dev.setHart k { s.dev.hart k with wait := .fence p q }) := by
  change execFence k p q false s = _
  rw [execFence, occursAt_next (by simpa using hk) hready, if_neg (by simp [hp, hq, hwait])]

theorem fenceI_retires (hdrain : (s.dev.hart k).drained = true) :
    Gives (.fenceI k) s ((s.dev.setHart k { s.dev.hart k with l1i := [], fetched := [] }).retire k 4) := by
  change execFenceI k s = _
  rw [execFenceI, occursAt_next (by simpa using hk) hready, if_neg (by simp [hdrain])]

end

theorem fenceRelease_retires (hrun : s.dev.hartRuns k = true) (hfree : (s.dev.hart k).fenceFree = true) :
    Gives (.fenceRelease k) s ((s.dev.setHart k { s.dev.hart k with wait := .none }).retire k 4) :=
  occursAt_next (by simpa using hk) (by simp [hrun, hfree])

end

/-! ## The obligation -/

/-- Settles O31: each clause is the lemma of its instruction. -/
theorem atomicsMaintenanceAndFences : Obligations.AtomicsMaintenanceAndFences := by
  refine ⟨?atomics, ?maintenance, fun s k hk hrun hfree => fenceRelease_retires hk hrun hfree⟩
  case atomics =>
    rintro s b a src pa hint pbmt e rfl hok hready hsrc
    have hr := reg_of_amoOk hok
    obtain ⟨lrIo, hlr⟩ := lr_gives hok hready
    obtain ⟨scIo, hsc⟩ := sc_gives hok hready hsrc
    refine ⟨fun op hsplit => ?_, fun hmis => ⟨?_, ?_⟩,
      fun hmem hdrain => ⟨fun op hreach hin hline => ?_, fun hreach halign hline => ?_, fun hreach halign hresv hline => ?_,
        fun hreach halign hresv => ?_⟩⟩
    · obtain ⟨io, hamo⟩ := amo_gives hok hready hsrc op
      simpa [Dev.amoStep, hsplit] using hamo
    · simpa [Dev.lrStep, hmis] using hlr
    · simpa [Dev.scStep, hmis] using hsc
    · obtain ⟨io, hamo⟩ := amo_gives hok hready hsrc op
      rw [Dev.amoStep_memory hmem hreach] at hamo
      exact ⟨_, hamo, Dev.amoMemory_spec hr hdrain hin hline op _ hint⟩
    · rw [Dev.lrStep_memory hmem hreach halign] at hlr
      exact ⟨_, hlr, Dev.lrMemory_spec hr hdrain hline hint⟩
    · rw [Dev.scStep_memory hmem hreach halign] at hsc
      exact ⟨_, hsc, Dev.scMemory_reserved hr hdrain hresv hline _ hint⟩
    · rw [Dev.scStep_memory hmem hreach halign] at hsc
      exact ⟨_, hsc, Dev.scMemory_unreserved hr hdrain hresv _ hint⟩
  case maintenance =>
    rintro s b a pa pbmt hint v e rfl hready hok
    have hk := hart_of_accessOk hok
    refine ⟨fun hreach hmem hdrain hdone => ⟨fun hlegal => ?clean, fun hlegal => ?flush, fun hlegal => ?inval⟩,
      fun hlegal hreach hmem hdrain href hown => ?zero, fun p q tso hnone => ?fence, fun p q hp hq hwait => ?stall,
      fun hdrain => ?fenceI⟩
    case clean => exact ⟨_, cbo_gives rfl hok hready hlegal hreach hmem, Dev.cboMemory_answered (by simp) hdrain hdone pbmt hint⟩
    case flush => exact ⟨_, cbo_gives rfl hok hready hlegal hreach hmem, Dev.cboMemory_answered (by simp) hdrain hdone pbmt hint⟩
    case inval => exact ⟨_, cbo_gives rfl hok hready hlegal hreach hmem, Dev.cboMemory_answered (by simp) hdrain hdone pbmt hint⟩
    case zero =>
      refine ⟨_, cbo_gives rfl hok hready hlegal hreach hmem, ?_⟩
      obtain ⟨hret, hline⟩ := Dev.zeroLine_spec href hown hint
      simp only [Dev.cboMemory, hdrain, Bool.not_true, Bool.false_eq_true, if_false, if_true]
      exact ⟨hret, by simp [hline], by simp [hline], by simp [hline]⟩
    case fence => exact fence_retires hk hready hnone
    case stall => exact fence_waits hk hready hp hq hwait
    case fenceI => exact fenceI_retires hk hready hdrain

end Sys2Proof.Machine
end

section
/-!
PROOF. Translation fences and page walks (R236 to R239, R244 to R246).

A fence is one lemma on the shape that its row shares with the others (`fenceBegin`, `invalNow`, or an instruction of Svinval); a step of a walk
is first the reading of its PTE, then what the first stage makes of it, then the outcome of the walk.
-/
namespace Sys2Proof.Machine

/-! ## Invalidations -/

@[simp] theorem Hart.inval_pc (h : Hart) (q : InvalKind) (a b : Option Word) : (h.inval q a b).pc = h.pc := by cases q <;> rfl
@[simp] theorem Hart.inval_xregs (h : Hart) (q : InvalKind) (a b : Option Word) : (h.inval q a b).xregs = h.xregs := by cases q <;> rfl

/-- What a list keeps, told by what it drops. -/
theorem mem_filter_dropped {α : Type} {l : List α} {keep : α → Bool} {e : α} {dropped : Prop} (h : keep e = false ↔ dropped) :
    e ∈ l.filter keep ↔ e ∈ l ∧ ¬dropped := by
  rw [List.mem_filter, ← h, Bool.not_eq_false]

/-- Table 10-7: what an SFENCE.VMA outside a guest keeps. -/
theorem Hart.mem_tlb_invalVma (h : Hart) (a b : Option Word) (e : TlbEntry) :
    e ∈ (h.invalVma false a b).tlb ↔ e ∈ h.tlb ∧ ¬(e.gstage = false ∧ e.v = false ∧ e.vmid = 0 ∧ inScope e a b = true) :=
  mem_filter_dropped (by simp [and_assoc])

/-- Table 10-7: a global leaf is in no scope that names an ASID. -/
theorem inScope_global {e : TlbEntry} (hg : e.g = true) (a : Option Word) {b : Option Word} (hb : b ≠ none) : inScope e a b = false := by
  obtain ⟨asid, rfl⟩ := Option.ne_none_iff_exists'.1 hb
  simp [inScope, hg]

/-! ## Fences -/

section
variable {s : State} {i : Instr} {k rule : Nat} {l : Hart → CsrLegal} {a b : Option Word}

/-- A fence that its mode allows waits (R246). -/
theorem fenceBegin_gives {q : Hart → InvalKind} (hrow : exec i s = fenceBegin rule k l q a b s) (h : s.dev.fenceDue k l) :
    Gives i s (s.dev.setHart k { s.dev.hart k with wait := .inval (q (s.dev.hart k)) a b }) := by
  obtain ⟨hk, hready, hlegal⟩ := h
  rw [Gives, hrow, fenceBegin, occursAt_next (by simpa using hk) hready, hlegal]
  rfl

/-- An invalidation without a fence acts at once (R245). -/
theorem invalNow_gives {q : Hart → InvalKind} (hrow : exec i s = invalNow rule k l q a b s) (h : s.dev.fenceDue k l) :
    Gives i s ((s.dev.setHart k ((s.dev.hart k).inval (q (s.dev.hart k)) a b)).retire k 4) := by
  obtain ⟨hk, hready, hlegal⟩ := h
  rw [Gives, hrow, invalNow, occursAt_next (by simpa using hk) hready, hlegal]
  rfl

/-- An instruction of this family that its mode allows has its effect. -/
theorem fenced_gives {word : Option Nat} {f : Dev → Dev}
    (hrow : exec i s = occursAt rule (k < 240) (fun d => d.ready k) (fun d => d.fenced k (l (d.hart k)) word f) s)
    (h : s.dev.fenceDue k l) : Gives i s (f s.dev) := by
  obtain ⟨hk, hready, hlegal⟩ := h
  rw [Gives, hrow, occursAt_next (by simpa using hk) hready, hlegal]
  rfl

/-- R245: SFENCE.W.INVAL retires once every earlier store is visible, and waits until then. -/
theorem sfenceWInval_gives (h : s.dev.fenceDue k Hart.svinvalLegal) :
    Gives (.sfenceWInval k) s
      (if (s.dev.hart k).drained then s.dev.retire k 4 else s.dev.setHart k { s.dev.hart k with wait := .invalW }) :=
  fenced_gives (rule := 245) (word := some 0x1800_0073)
    (f := fun d => if (d.hart k).drained then d.retire k 4 else d.setHart k { d.hart k with wait := .invalW }) rfl h

/-- R245: SFENCE.INVAL.IR discards what was fetched. -/
theorem sfenceInvalIr_gives (h : s.dev.fenceDue k Hart.svinvalLegal) :
    Gives (.sfenceInvalIr k) s ((s.dev.setHart k { s.dev.hart k with fetched := [] }).retire k 4) :=
  fenced_gives (rule := 245) (word := some 0x1810_0073)
    (f := fun d => (d.setHart k { d.hart k with fetched := [] }).retire k 4) rfl h

/-- An SFENCE.VMA in a mode that may not execute it. -/
theorem sfenceVma_illegal (hk : k < 240) (hready : s.dev.ready k = true) (hlegal : (s.dev.hart k).sfenceLegal = .illegal) :
    Gives (.sfenceVma k a b) s (s.dev.illegal k none) := by
  change execSfenceVma k a b s = _
  rw [execSfenceVma, fenceBegin, occursAt_next (by simpa using hk) hready, hlegal]
  rfl

/-- R246: a fence that waited, once stores are visible and walks have filled. -/
theorem fenceVmaComplete_gives {q : InvalKind} (hk : k < 240) (hrun : s.dev.hartRuns k = true) (hdrain : (s.dev.hart k).drained = true)
    (hwalks : (s.dev.hart k).walks = []) (hwait : (s.dev.hart k).wait = .inval q a b) :
    Gives (.fenceVmaComplete k) s
      ((s.dev.setHart k { (s.dev.hart k).inval q a b with fetched := [], wait := .none }).retire k 4) := by
  change execFenceVmaComplete k s = _
  rw [execFenceVmaComplete, occursAt_next (by simpa using hk) (by simp [hrun, hdrain, hwalks, hwait]), hwait]

/-- What it leaves. -/
theorem Dev.retire_inval_spec (d : Dev) (k : Nat) (q : InvalKind) (a b : Option Word) {t : Dev}
    (ht : t = (d.setHart k { (d.hart k).inval q a b with fetched := [], wait := .none }).retire k 4) :
    (t.hart k).wait = .none ∧ (t.hart k).fetched = [] ∧ (t.hart k).pc = (d.hart k).pc + 4 ∧
    (t.hart k).tlb = ((d.hart k).inval q a b).tlb ∧ (t.hart k).pwc = ((d.hart k).inval q a b).pwc ∧
    (t.hart k).xregs = (d.hart k).xregs ∧ (∀ j, j ≠ k → t.hart j = d.hart j) ∧ t.regs = d.regs ∧ d.stores t := by
  rw [← (d.hart k).inval_pc q a b, ← (d.hart k).inval_xregs q a b]
  generalize (d.hart k).inval q a b = h at ht
  obtain ⟨hdev, hhart⟩ := (d.setHart k { h with fetched := [], wait := .none }).retire_spec k 4
  rw [← ht, Dev.hart_setHart_same] at hhart
  rw [← ht] at hdev
  have hall := (d.onlyHart_setHart k _).trans hdev
  rw [hhart]
  exact ⟨rfl, rfl, rfl, rfl, rfl, rfl, hall.2, hall.regs, hall.stores⟩

end

/-! ## The PTE of a first-stage walk -/

section
variable (d : Dev) (k : Nat) {w : Walk} {pte : Nat}

/-- R237 row 6: a PTE that breaks a rule of Table 10-2. -/
theorem Dev.firstStage_broken (h : pteBroken pte w.level = true) :
    d.firstStage k w pte = (.fault (walkTrap (pageFault w.access) w.va w.v false 0) false w.read, d) := by
  simp [Dev.firstStage, h]

/-- R236: a pointer outside a guest takes the walk a level down. -/
theorem Dev.firstStage_pointer (h : pteBroken pte w.level = false) (hptr : field pte 1 3 = 0) (hv : w.v = false) :
    ∃ x : Walk, d.firstStage k w pte = (.go x, d) ∧ x.level = w.level - 1 ∧ x.table = ptePpn pte ∧ x.va = w.va := by
  simp only [Dev.firstStage, h, hptr, Dev.aimPte, hv, Bool.false_and, Bool.false_eq_true, if_false, if_true]
  exact ⟨_, rfl, rfl, rfl, rfl⟩

/-- The fields of a leaf that R236 takes from its PTE and from its walk. -/
def TlbEntry.leafFor (e : TlbEntry) (w : Walk) (pte : Nat) : Prop :=
  e.va = w.va / 2 ^ e.log * 2 ^ e.log ∧ e.log = leafLog w.level (bitAt pte 63) ∧ e.pa = leafBase pte w.level ∧ e.asid = w.asid ∧
    e.r = bitAt pte 1 ∧ e.w = bitAt pte 2 ∧ e.x = bitAt pte 3 ∧ e.u = bitAt pte 4

/-- R237: a leaf that permits the access ends a walk outside a guest. -/
theorem Dev.firstStage_leaf (h : pteBroken pte w.level = false) (hleaf : field pte 1 3 ≠ 0) (halign : pteMisaligned pte w.level = false)
    (hperm : (d.hart k).ptePermits w pte = true) (hv : w.v = false) :
    ∃ e : TlbEntry, d.firstStage k w pte = (.done e, d) ∧ e.leafFor w pte := by
  simp only [Dev.firstStage, h, hleaf, halign, hperm, hv, Bool.false_and, Bool.not_true, Bool.or_self, Bool.false_eq_true, if_false]
  exact ⟨_, rfl, rfl, rfl, rfl, rfl, rfl, rfl, rfl, rfl⟩

end

/-! ## The outcome of a step -/

theorem mem_tlbFill (e : TlbEntry) (l : List TlbEntry) : e ∈ tlbFill e l := by
  unfold tlbFill
  dsimp only
  split
  · exact List.mem_cons_self
  · split <;> exact List.mem_cons_self

/-- A leaf that enters the TLBs touches nothing else. -/
theorem Hart.fillLeaf_frame (h : Hart) (t : AccessType) (e : TlbEntry) :
    h.fillLeaf t e = { h with itlb := (h.fillLeaf t e).itlb, dtlb := (h.fillLeaf t e).dtlb, tlb := tlbFill e h.tlb } := by
  cases t <;> rfl

section
variable {d : Dev} {k : Nat} {w : Walk} (hone : (d.hart k).walks = [w])
include hone

/-- A fault ends the walk, and the hart takes it unless the walk was for no instruction known to execute (R239). -/
theorem Dev.walkOutcome_fault (t : Trap) :
    d.walkOutcome k 0 w (.fault t false w.read, d) =
      if w.spec then d.setHart k ((d.hart k).walkGone w) else (d.setHart k ((d.hart k).walkGone w)).takeTrap k t := by
  simp [Dev.walkOutcome, hone, dropAt, Hart.walkGone]

theorem Dev.walkOutcome_go (x : Walk) : d.walkOutcome k 0 w (.go x, d) = d.setHart k { d.hart k with walks := [x] } := by
  simp [Dev.walkOutcome, hone]

/-- A walk that ends with a leaf leaves it in the TLBs, and the program counter and the integer registers as they were. -/
theorem Dev.walkOutcome_done (e : TlbEntry) {h : Hart} (hh : h = (d.walkOutcome k 0 w (.done e, d)).hart k) :
    d.onlyHart (d.walkOutcome k 0 w (.done e, d)) k ∧ h.walks = [] ∧ h.pc = (d.hart k).pc ∧ e ∈ h.tlb ∧ h.xregs = (d.hart k).xregs := by
  subst hh
  simp only [Dev.walkOutcome, Dev.hart_setHart_same]
  rw [Hart.fillLeaf_frame]
  exact ⟨d.onlyHart_setHart k _, by simp [hone, dropAt], rfl, mem_tlbFill _ _, rfl⟩

end

/-- A step of the hart's one walk, of the first stage, whose PTE lies in a line of the L2 that the walk may read (R236, R237 rows 2 to 5). -/
structure Dev.walkReads (d : Dev) (k : Nat) (w : Walk) (a : Nat) : Prop where
  hart : k < 240
  runs : d.hartRuns k = true
  one : (d.hart k).walks = [w]
  first : w.gw = none
  at_ : w.ptePa = some a
  mem : (d.region a).isMemory = true
  pmp : (d.hart k).pmpPermits .s .load a = true
  world : d.refusedBy w.world a = none
  ok : (d.hart k).refused (lineAddr a) .walk = false
  line : d.holdsLine k a false

/-- Such a step takes the first stage's view of the PTE to the walk's outcome. -/
theorem pageWalkStep_gives {s : State} {k a : Nat} {w : Walk} (h : s.dev.walkReads k w a) :
    Gives (.pageWalkStep k 0 .none) s (s.dev.walkOutcome k 0 w (s.dev.firstStage k w (s.dev.lineValue k a 8))) := by
  obtain ⟨hmark, hread⟩ := h.line
  simp only [Bool.false_eq_true, if_false] at hread
  have hat : w.pteAt = a := by simp [Walk.pteAt, h.first, h.at_]
  change execPageWalkStep k 0 .none s = _
  rw [execPageWalkStep, occursAt_next (by simpa using h.hart) (by simp [h.runs, h.one])]
  simp [h.one, hat, h.mem, h.pmp, h.world, h.ok, hread, hmark, h.first, Dev.pairError, Dev.l2Error, Dev.lineValue]

/-! ## The obligation -/

/-- Settles O34: each fence is the lemma of its shape, and a step of a walk is what the first stage makes of its PTE. -/
theorem translationCachesAndWalks : Obligations.TranslationCachesAndWalks := by
  refine ⟨fun s k a b => ⟨fun h => ?sfence, fun h => ?hfenceV, fun h => ?hfenceG, fun h => ?svinval, ?illegal, ?complete⟩,
    fun h a b e => ?scope, fun s k w a pte hk hrun hone hgw hat hv hmem hpmp hworld hok hline hpte => ?walk⟩
  case sfence =>
    exact ⟨fenceBegin_gives (rule := 244) (q := fun h => .vma h.v) rfl h, invalNow_gives (rule := 245) (q := fun h => .vma h.v) rfl h⟩
  case hfenceV =>
    exact ⟨fenceBegin_gives (rule := 245) (q := fun _ => .vma true) rfl h, invalNow_gives (rule := 245) (q := fun _ => .vma true) rfl h⟩
  case hfenceG =>
    exact ⟨fenceBegin_gives (rule := 245) (q := fun _ => .gvma) rfl h, invalNow_gives (rule := 245) (q := fun _ => .gvma) rfl h⟩
  case svinval =>
    refine ⟨fun hdrain => ?_, fun hdrain => ?_, sfenceInvalIr_gives h⟩
    · simpa [hdrain] using sfenceWInval_gives h
    · simpa [hdrain] using sfenceWInval_gives h
  case illegal => exact sfenceVma_illegal
  case complete =>
    intro q hk hrun hdrain hwalks hwait
    exact ⟨_, fenceVmaComplete_gives hk hrun hdrain hwalks hwait, s.dev.retire_inval_spec k q a b rfl⟩
  case scope =>
    have hmem := h.mem_tlb_invalVma a b e
    refine ⟨hmem, fun he hg hb => hmem.2 ⟨he, fun hin => ?_⟩, fun he hguest => hmem.2 ⟨he, fun hin => ?_⟩,
      fun he hstage => hmem.2 ⟨he, fun hin => ?_⟩⟩
    · simp [inScope_global hg a hb] at hin
    · simp [hguest] at hin
    · simp [hstage] at hin
  case walk =>
    have hgives := pageWalkStep_gives ⟨hk, hrun, hone, hgw, hat, hmem, hpmp, hworld, hok, hline⟩
    rw [← hpte] at hgives
    refine ⟨fun hbroken hspec => ?_, fun hbroken hspec => ?_, fun hwhole hptr _ _ => ?_, fun hwhole hleaf halign hperm => ?_⟩
    · rw [Dev.firstStage_broken _ _ hbroken, Dev.walkOutcome_fault hone, if_pos hspec] at hgives
      exact ⟨_, hgives, by simp [Hart.walkGone, Dev.stores]⟩
    · rw [Dev.firstStage_broken _ _ hbroken, Dev.walkOutcome_fault hone, if_neg (by simp [hspec]), hv] at hgives
      exact hgives
    · obtain ⟨x, hx, hlevel, htable, hva⟩ := s.dev.firstStage_pointer k hwhole hptr hv
      rw [hx, Dev.walkOutcome_go hone] at hgives
      exact ⟨_, hgives, x, by simp [hlevel, htable, hva, Dev.stores]⟩
    · obtain ⟨e, he, hfields⟩ := s.dev.firstStage_leaf k hwhole hleaf halign hperm hv
      rw [he] at hgives
      obtain ⟨honly, hwalks, hpc, hin, hx⟩ := Dev.walkOutcome_done hone e rfl
      exact ⟨_, hgives, hwalks, hpc, ⟨e, hin, hfields⟩, hx, honly.stores⟩

end Sys2Proof.Machine
end

section
/-!
SUPPORT. What counting leaves alone (R419 to R425): every sub-entry below 0x0A, which the address map, the world ranges and the assignable blocks
stand in, and every part of the device but the byte counters.
-/
namespace Sys2Proof.Machine

/-- `e` is `d` after counter groups and byte counters have counted. -/
structure Dev.tallied (d e : Dev) : Prop where
  parts : e = { d with regs := e.regs, cnt := e.cnt }
  low : ∀ i n sub dflt, sub < 0x0A → e.get ⟨regKey i n sub, dflt⟩ = d.get ⟨regKey i n sub, dflt⟩

theorem Dev.tallied.refl (d : Dev) : d.tallied d := ⟨rfl, fun _ _ _ _ _ => rfl⟩

theorem Dev.tallied.trans {d e f : Dev} (h : d.tallied e) (h' : e.tallied f) : d.tallied f where
  parts := by rw [h'.parts, h.parts]
  low i n sub dflt hs := (h'.low i n sub dflt hs).trans (h.low i n sub dflt hs)

/-- A write of a sub-entry from 0x0A on. -/
theorem Dev.tallied_set (d : Dev) {i n sub dflt : Nat} (v : Nat) (h : 0x0A ≤ sub) (h' : sub < 2 ^ 8) :
    d.tallied (d.set ⟨regKey i n sub, dflt⟩ v) :=
  ⟨rfl, fun _ _ _ _ hs => d.get_set_other v (regKey_ne_of_sub h' (by omega) (by omega))⟩

theorem Dev.tallied_bumpCounter (d : Dev) (g : Nat) {j : Nat} (hj : j < 8) (n : Nat) : d.tallied (d.bumpCounter g j n) := by
  have hcount := d.tallied_set (i := 0x9811) (n := g) (sub := 0x0A + j) (dflt := 0) ((d.get (rCgCount g j) + n) % 2 ^ 48) (by omega) (by omega)
  unfold Dev.bumpCounter
  dsimp only
  split
  · exact hcount
  · exact hcount.trans (Dev.tallied_set _ _ (by decide) (by decide))

theorem Dev.tallied_countEvent (d : Dev) (g code n : Nat) (w : Option World) : d.tallied (d.countEvent g code n w) := by
  unfold Dev.countEvent
  split
  · exact .refl d
  · refine List.foldlRecOn _ _ (motive := d.tallied) (.refl d) (fun e he j hj => he.trans (e.tallied_bumpCounter g ?_ n))
    exact List.mem_range.1 (List.mem_filter.1 hj).1

theorem Dev.tallied_countBytes (d : Dev) (g inn out : Nat) (w : Option World) : d.tallied (d.countBytes g inn out w) := by
  unfold Dev.countBytes
  split
  · exact ⟨rfl, fun _ _ _ _ _ => rfl⟩
  · exact .refl d

/-- What a root port counts of a request. -/
theorem Dev.tallied_countInbound (d : Dev) (n : Nat) (write : Bool) : d.tallied (d.countInbound n write) := by
  have hrequest := d.tallied_countEvent (portRootGroup n) 1 1 none
  unfold Dev.countInbound
  dsimp only
  split
  · exact (hrequest.trans (Dev.tallied_countEvent _ _ _ _ _)).trans (Dev.tallied_countBytes _ _ _ _ _)
  · exact hrequest

/-- And of a completion. -/
theorem Dev.tallied_sendCompletion (d : Dev) (n : Nat) (ok : Bool) : d.tallied (d.sendCompletion n ok) := by
  have hdone := d.tallied_countEvent (portRootGroup n) 2 1 none
  unfold Dev.sendCompletion
  dsimp only
  split
  · exact (hdone.trans (Dev.tallied_countEvent _ _ _ _ _)).trans (Dev.tallied_countBytes _ _ _ _ _)
  · exact hdone.trans (Dev.tallied_countEvent _ _ _ _ _)

/-! ## What is read after counting -/

section
variable {d e : Dev} (h : d.tallied e)
include h

theorem Dev.tallied.iommu : e.iommu = d.iommu := by rw [h.parts]

theorem Dev.tallied.fab : e.fab = d.fab := by rw [h.parts]

theorem Dev.tallied.stores : d.stores e := by
  rw [h.parts]
  exact .refl d

theorem Dev.tallied.region (a : Nat) : e.region a = d.region a := by
  have hpkg : e.get rPkgNumber = d.get rPkgNumber := h.low _ _ _ _ (by decide)
  have hcount : e.get rPkgCount = d.get rPkgCount := h.low _ _ _ _ (by decide)
  have hddr : e.get rDdrInstalled = d.get rDdrInstalled := h.low _ _ _ _ (by decide)
  have hcxl : e.get rCxlInstalled = d.get rCxlInstalled := h.low _ _ _ _ (by decide)
  unfold Dev.region Dev.pkg
  rw [hpkg, hcount, hddr, hcxl]

theorem Dev.tallied.shadowFile (a : Nat) : e.shadowFile a = d.shadowFile a := by
  have hmode (n : Nat) : e.get (rCoreModeActive n) = d.get (rCoreModeActive n) := h.low _ _ _ _ (by decide)
  simp only [Dev.shadowFile, h.region, Dev.isShadow, Dev.pairMode, hmode]

theorem Dev.tallied.refusedBy (w : World) (a : Nat) : e.refusedBy w a = d.refusedBy w a := by
  have henable (n : Nat) : e.get (rWrEnable n) = d.get (rWrEnable n) := h.low _ _ _ _ (by decide)
  have howner (n : Nat) : e.get (rWrOwner n) = d.get (rWrOwner n) := h.low _ _ _ _ (by decide)
  have hbase (n : Nat) : e.get (rWrBase n) = d.get (rWrBase n) := h.low _ _ _ _ (by decide)
  have hlimit (n : Nat) : e.get (rWrLimit n) = d.get (rWrLimit n) := h.low _ _ _ _ (by decide)
  cases w with
  | normal =>
    unfold Dev.refusedBy Dev.tantalumRange Dev.flag Dev.wrLimit
    dsimp only
    congr 1
    funext n
    rw [henable, howner, hbase, hlimit]
  | tantalum => rfl

/-- The source of a root port's request. -/
theorem Dev.tallied.ioSource {r : IommuReq} (hr : r.inst = none) : e.ioSource r = d.ioSource r := by
  have hworld (n : Nat) : e.get (rBlkWorld n) = d.get (rBlkWorld n) := h.low _ _ _ _ (by decide)
  simp only [Dev.ioSource, hr, Dev.blockWorld, hworld]

end

end Sys2Proof.Machine
end

section
/-!
PROOF. The IOMMU and inbound requests (R35, R248 to R250, R351, R353, R449).

An access through the IOMMU is one lemma for each way it ends; a translation and an inbound request are then read off it.
-/
namespace Sys2Proof.Machine

/-! ## Accesses -/

/-- A fault joins the fault queue; where the queue in memory is off, that is all. -/
theorem Dev.ioFault_queueOff {d : Dev} (h : d.iommu.queueOn ioFqcsr = false) (w : World) (f : IommuFault) :
    d.ioFault w f = { d with iommu := { d.iommu with faultq := d.iommu.faultq ++ [f] } } := by
  have hoff : Iommu.queueOn { d.iommu with faultq := d.iommu.faultq ++ [f] } ioFqcsr = false := h
  simp [Dev.ioFault, Dev.queueRecord, hoff]

section
variable {d : Dev} {dev iova : Nat} {pid : Option Nat} {w : World}

/-- R248: with the directory off every request faults. -/
theorem Dev.ioAccessOf_off (h : d.iommu.ddtMode = 0) (write : Bool) (ats : AtsKind) :
    d.ioAccessOf dev pid iova w write ats = (.fault, d.ioFault w ⟨256, dev, pid, iova, ioTtyp ats write, 0⟩) := by
  simp [Dev.ioAccessOf, Dev.ioTranslateRaw, h, atsAnswers]

/-- R35, R353: an address that the world may use and that is mapped. -/
theorem Dev.ioAccessOf_bare (h : d.iommu.ddtMode = 1) (hworld : d.refusedBy w iova = none) (hmap : (d.region iova).isMapped = true)
    (hshadow : d.shadowFile iova = false) (write : Bool) : d.ioAccessOf dev pid iova w write .untranslated = (.ok iova iova, d) := by
  simp [Dev.ioAccessOf, Dev.ioTranslateRaw, h, hworld, hmap, hshadow]

/-- R353: an address of the other world. -/
theorem Dev.ioAccessOf_bare_refused (h : d.iommu.ddtMode = 1) {n : Nat} (hworld : d.refusedBy w iova = some n) (write : Bool) :
    d.ioAccessOf dev pid iova w write .untranslated =
      (.fault, (d.noteRefusal n 883 iova).ioFault w ⟨ioAccess write, dev, pid, iova, ioTtyp .untranslated write, 0⟩) := by
  simp [Dev.ioAccessOf, Dev.ioTranslateRaw, h, hworld]

/-- A cached translation serves, and becomes the most recently used. -/
theorem Dev.ioAccessOf_cached (h : 2 ≤ d.iommu.ddtMode) {write : Bool} {e : IotlbEntry}
    (hit : d.iommu.atc.find? (fun e => e.device = dev && e.pasid = pid && iova / 2 ^ e.log = e.iova / 2 ^ e.log && (!write || e.w)) = some e)
    (hworld : d.refusedBy w (e.pa + iova % 2 ^ e.log) = none) (hmap : (d.region (e.pa + iova % 2 ^ e.log)).isMapped = true)
    (hshadow : d.shadowFile (e.pa + iova % 2 ^ e.log) = false) :
    d.ioAccessOf dev pid iova w write .untranslated =
      (.ok (e.pa + iova % 2 ^ e.log) (e.gpa + iova % 2 ^ e.log), { d with iommu := { d.iommu with atc := atcFill e d.iommu.atc } }) := by
  have hraw : d.ioTranslateRaw dev pid iova w write .untranslated =
      (.ok (e.pa + iova % 2 ^ e.log) (e.gpa + iova % 2 ^ e.log) e.log e.w e.g,
        { d with iommu := { d.iommu with atc := atcFill e d.iommu.atc } }) := by
    rw [Dev.ioTranslateRaw, if_neg (by omega), if_neg (by omega), if_pos rfl, hit]
  have hworld' : Dev.refusedBy { d with iommu := { d.iommu with atc := atcFill e d.iommu.atc } } w (e.pa + iova % 2 ^ e.log) = none := hworld
  have hmap' : (Dev.region { d with iommu := { d.iommu with atc := atcFill e d.iommu.atc } } (e.pa + iova % 2 ^ e.log)).isMapped = true := hmap
  have hshadow' : Dev.shadowFile { d with iommu := { d.iommu with atc := atcFill e d.iommu.atc } } (e.pa + iova % 2 ^ e.log) = false := hshadow
  simp [Dev.ioAccessOf, hraw, hworld', hmap', hshadow']

end

/-! ## Translations -/

section
variable {s : State} {r : IommuReq} {w : World} {dev : Nat} {pid : Option Nat} (hok : s.dev.ioReqOk r = true)
  (hsrc : s.dev.ioSource r = (w, dev, pid))
include hok hsrc

/-- A translation leaves what its access leaves. -/
theorem iommuTranslate_gives {ats : AtsKind} (hats : r.ats = ats) {x : IoAccess} {e : Dev}
    (h : s.dev.ioAccessOf dev pid r.iova w r.write ats = (x, e)) : Gives (.iommuTranslate r) s e := by
  subst hats
  change execIommuTranslate r s = _
  rw [execIommuTranslate, occurs_next hok, hsrc]
  dsimp only
  rw [h]

end

/-- A refusal by a world range is counted, and changes nothing of the IOMMU and the stores. -/
theorem Dev.noteRefusal_spec (d : Dev) (n src a : Nat) : (d.noteRefusal n src a).iommu = d.iommu ∧
    (d.noteRefusal n src a).get (rWrViolations n) = satAdd32 (d.get (rWrViolations n)) 1 ∧ d.stores (d.noteRefusal n src a) := by
  have hkey : (rSrcLost src).key ≠ (rWrViolations n).key := regKey_ne_of_sub (by decide) (by decide) (by decide)
  refine ⟨by simp [Dev.noteRefusal, Dev.addSat], ?_, by simp [Dev.noteRefusal, Dev.addSat, Dev.stores]⟩
  rw [Dev.noteRefusal, Dev.get_raiseAt _ _ _ _ _ hkey, Dev.addSat, Dev.get_set_same]

/-! ## Inbound requests -/

theorem Region.isMapped_of_isMemory {x : Region} (h : x.isMemory = true) : x.isMapped = true := by
  cases x with
  | unmapped => cases h
  | _ => rfl

/-- Memory is no interrupt file. -/
theorem Dev.shadowFile_of_isMemory {d : Dev} {a : Nat} (h : (d.region a).isMemory = true) : d.shadowFile a = false := by
  unfold Dev.shadowFile
  cases hx : d.region a with
  | mmio off => rw [hx] at h; cases h
  | _ => rfl

/-- Counting changes nothing of an access in bare mode. -/
theorem Dev.tallied.ioAccessOf_bare {d e : Dev} (h : d.tallied e) {dev iova : Nat} {pid : Option Nat} {w : World}
    (hmode : d.iommu.ddtMode = 1) (hworld : d.refusedBy w iova = none) (hmap : (d.region iova).isMapped = true)
    (hshadow : d.shadowFile iova = false) (write : Bool) : e.ioAccessOf dev pid iova w write .untranslated = (.ok iova iova, e) :=
  Dev.ioAccessOf_bare (h.iommu ▸ hmode) ((h.refusedBy w iova).trans hworld) ((h.region iova).symm ▸ hmap)
    ((h.shadowFile iova).trans hshadow) write

/-- A message to an interrupt file of this package is an MSI of its hart. -/
theorem Dev.postMsi_file {d : Dev} {a off : Nat} (h : d.region a = .mmio off) (hlo : 0x0200_0000 ≤ off) (hhi : off < 0x0278_0000)
    (w : World) (cls v : Nat) :
    d.postMsi w cls a v = d.post (.msiReceive ((off - 0x0200_0000) / 0x8000) ((off - 0x0200_0000) % 0x8000 / 0x1000) v) := by
  have hfile : imsicFile off = some ((off - 0x0200_0000) / 0x8000, (off - 0x0200_0000) % 0x8000 / 0x1000) := by
    simp only [imsicFile, ite_eq_left_iff, Bool.and_eq_true, decide_eq_true_eq]
    omega
  simp only [Dev.postMsi, h, hfile]

/-- The request that an inbound line makes of its home: an invalidating write, or a read that allocates nowhere (R35). -/
def inboundOp (w : World) (line : Nat) : Option Line → Instr
  | some v => .invWrite ⟨iodAgent, line, w, 0, 0⟩ v false .none .none
  | none => .readShared ⟨iodAgent, line, w, 0, 0⟩ true .none .none .none

section
variable {s : State} {r : IommuReq} {w : World} {dev : Nat} {pid : Option Nat} {data : Option Line} (hinst : r.inst = none)
  (hats : r.ats = .untranslated) (hok : s.dev.ioReqOk r = true) (hsrc : s.dev.ioSource r = (w, dev, pid)) (hwrite : r.write = data.isSome)
  (hline : r.iova % 64 = 0)
include hinst hats hok hsrc hwrite hline

/-- R35, R449: a request for memory goes to the home of its line. -/
theorem inbound_memory_reaches (hmode : s.dev.iommu.ddtMode = 1) (hworld : s.dev.refusedBy w r.iova = none)
    (hmem : (s.dev.region r.iova).isMemory = true) :
    Reaches (.inboundPcieRequest r data) s (fun t => t.fab.ops = s.dev.fab.ops ++ [(iodAgent, r.iova, inboundOp w r.iova data)] ∧
      t.iommu = s.dev.iommu ∧ s.dev.stores t) := by
  have hcount := s.dev.tallied_countInbound r.port r.write
  have hacc := hcount.ioAccessOf_bare (dev := dev) (pid := pid) hmode hworld (Region.isMapped_of_isMemory hmem)
    (Dev.shadowFile_of_isMemory hmem) r.write
  have hla : lineAddr r.iova = r.iova := by unfold lineAddr; omega
  have hexec : exec (.inboundPcieRequest r data) s = execInboundPcieRequest r data s := rfl
  simp only [Reaches, Gives, hexec]
  rw [execInboundPcieRequest, occurs_next (by simp [hinst, hok, hwrite, hline, hats])]
  simp only [hcount.ioSource hinst, hsrc, hats, hacc, hcount.region, hmem, hla, if_true]
  cases data with
  | some v => exact ⟨_, rfl, by rw [← hcount.fab]; rfl, hcount.iommu, hcount.stores⟩
  | none => exact ⟨_, rfl, by rw [← hcount.fab]; rfl, hcount.iommu, hcount.stores⟩

/-- R35: a write to an interrupt file is an MSI. -/
theorem inbound_msi_reaches {off : Nat} {v : Line} (hmode : s.dev.iommu.ddtMode = 1) (hworld : s.dev.refusedBy w r.iova = none)
    (hshadow : s.dev.shadowFile r.iova = false) (hreg : s.dev.region r.iova = .mmio off) (hlo : 0x0200_0000 ≤ off) (hhi : off < 0x0278_0000)
    (hdata : data = some v) :
    Reaches (.inboundPcieRequest r data) s (fun t =>
      Instr.msiReceive ((off - 0x0200_0000) / 0x8000) ((off - 0x0200_0000) % 0x8000 / 0x1000) (v.toNat % 2 ^ 32) ∈ t.fab.net ∧
      t.fab.ops = s.dev.fab.ops ∧ s.dev.stores t) := by
  have hcount := s.dev.tallied_countInbound r.port r.write
  have hacc := hcount.ioAccessOf_bare (dev := dev) (pid := pid) hmode hworld (by rw [hreg]; rfl) hshadow r.write
  have hreg' := (hcount.region r.iova).trans hreg
  have hgives : Gives (.inboundPcieRequest r data) s
      ((s.dev.countInbound r.port r.write).postMsi w 0 r.iova (v.toNat % 2 ^ 32)) := by
    change execInboundPcieRequest r data s = _
    rw [execInboundPcieRequest, occurs_next (by simp [hinst, hok, hwrite, hline, hats])]
    simp only [hcount.ioSource hinst, hsrc, hats, hacc, hreg', Region.isMemory, hdata, Bool.false_eq_true, if_false]
  rw [Dev.postMsi_file hreg' hlo hhi] at hgives
  exact ⟨_, hgives, List.mem_append_right _ List.mem_cons_self, by rw [← hcount.fab]; rfl, hcount.stores⟩

/-- R351: a request that faults goes no further. -/
theorem inbound_off_reaches (hmode : s.dev.iommu.ddtMode = 0) (hoff : s.dev.iommu.queueOn ioFqcsr = false) :
    Reaches (.inboundPcieRequest r data) s (fun t => t.fab.ops = s.dev.fab.ops ∧ t.fab.net = s.dev.fab.net ∧
      t.iommu.faultq = s.dev.iommu.faultq ++ [⟨256, dev, pid, r.iova, ioTtyp .untranslated r.write, 0⟩] ∧ s.dev.stores t) := by
  have hcount := s.dev.tallied_countInbound r.port r.write
  have hacc := Dev.ioAccessOf_off (dev := dev) (iova := r.iova) (pid := pid) (w := w) (hcount.iommu ▸ hmode) r.write .untranslated
  rw [Dev.ioFault_queueOff (hcount.iommu ▸ hoff)] at hacc
  generalize hd : ({ s.dev.countInbound r.port r.write with iommu := _ } : Dev) = d at hacc
  have hgives : Gives (.inboundPcieRequest r data) s (if r.write then d else d.sendCompletion r.port false) := by
    change execInboundPcieRequest r data s = _
    rw [execInboundPcieRequest, occurs_next (by simp [hinst, hok, hwrite, hline, hats])]
    simp only [hcount.ioSource hinst, hsrc, hats, hacc]
  have hdone : d.tallied (if r.write then d else d.sendCompletion r.port false) := by
    split
    · exact .refl d
    · exact d.tallied_sendCompletion _ _
  subst hd
  refine ⟨_, hgives, ?_, ?_, ?_, ?_⟩
  · rw [hdone.fab, ← hcount.fab]
  · rw [hdone.fab, ← hcount.fab]
  · rw [hdone.iommu, ← hcount.iommu]
  · exact hcount.stores.trans hdone.stores

end

/-! ## Invalidations -/

/-- A command that has been taken moves the head of the command queue alone. -/
theorem Dev.commandTaken_spec (d : Dev) : ∃ regs, d.commandTaken = { d with iommu := { d.iommu with regs := regs } } := by
  unfold Dev.commandTaken
  dsimp only
  split
  · exact ⟨_, rfl⟩
  · exact ⟨d.iommu.regs, rfl⟩

/-- A command of the IOMMU leaves it as `x`, but for the head of its command queue. -/
theorem reaches_of_commandTaken {i : Instr} {s : State} {x : Iommu} {post : Dev → Prop}
    (h : exec i s = .next { s with dev := Dev.commandTaken { s.dev with iommu := x } })
    (hpost : ∀ regs, post { s.dev with iommu := { x with regs := regs } }) : Reaches i s post := by
  obtain ⟨regs, hregs⟩ := Dev.commandTaken_spec { s.dev with iommu := x }
  refine ⟨_, h, ?_⟩
  rw [hregs]
  exact hpost regs

theorem tabFind_tabDrop_named {α : Type} (t : Tab α) {f : Nat → Bool} {k : Nat} (h : f k = true) : tabFind (tabDrop t f) k = none := by
  induction t with
  | nil => rfl
  | cons e r ih =>
    obtain ⟨k', v'⟩ := e
    cases hk : f k' with
    | true => simpa [tabDrop, hk] using ih
    | false =>
      have hne : k' ≠ k := fun heq => by rw [heq, h] at hk; cases hk
      simpa [tabDrop, hk, tabFind, hne] using ih

/-- Table 10-7 with AV, GSCID and PSCID: what IOTINVAL.VMA drops. -/
theorem iotinvalVma_reaches (s : State) (av g p : Option Nat) :
    Reaches (.iotinvalVma av g p) s (fun t => t = { s.dev with iommu := t.iommu } ∧ t.iommu.ddtCache = s.dev.iommu.ddtCache ∧
      t.iommu.pdtCache = s.dev.iommu.pdtCache ∧ t.iommu.faultq = s.dev.iommu.faultq ∧
      ∀ e, e ∈ t.iommu.atc ↔ e ∈ s.dev.iommu.atc ∧ ¬(e.v = g.isSome ∧ (∀ x, g = some x → e.gscid = x) ∧
        (∀ a, av = some a → a / 2 ^ e.log = e.iova / 2 ^ e.log) ∧ ∀ q, p = some q → e.pscid = q ∧ e.g = false)) := by
  refine reaches_of_commandTaken rfl (fun regs => ⟨rfl, rfl, rfl, rfl, fun e => mem_filter_dropped ?_⟩)
  -- each operand is named or not: the rows of Table 10-7
  cases g <;> cases av <;> cases p <;> simp [and_assoc]

/-- R250 with R245: what IOTINVAL.GVMA drops. -/
theorem iotinvalGvma_reaches (s : State) (av g : Option Nat) :
    Reaches (.iotinvalGvma av g) s (fun t => t = { s.dev with iommu := t.iommu } ∧ t.iommu.ddtCache = s.dev.iommu.ddtCache ∧
      t.iommu.faultq = s.dev.iommu.faultq ∧
      ∀ e, e ∈ t.iommu.atc ↔ e ∈ s.dev.iommu.atc ∧ ¬(e.v = true ∧ ∀ x, g = some x → e.gscid = x)) := by
  refine reaches_of_commandTaken rfl (fun regs => ⟨rfl, rfl, rfl, fun e => mem_filter_dropped ?_⟩)
  cases g <;> simp

/-! ## The obligation -/

/-- Settles O35: each clause is how its access ends, or what its invalidation drops. -/
theorem theIommuAndInboundRequests : Obligations.TheIommuAndInboundRequests := by
  refine ⟨fun s r w dev pid hok hsrc => ⟨?off, ?bare, ?refused, ?cached⟩,
    fun s r w dev pid data hinst hats hok hsrc hwrite hline => ?inbound,
    fun s => ⟨iotinvalVma_reaches s, iotinvalGvma_reaches s, ?ddt, ?ddtAll, ?pdt, ?fence⟩⟩
  case off => exact fun hmode => iommuTranslate_gives hok hsrc rfl (Dev.ioAccessOf_off hmode r.write r.ats)
  case bare =>
    exact fun hmode hats hworld hmap hshadow => iommuTranslate_gives hok hsrc hats (Dev.ioAccessOf_bare hmode hworld hmap hshadow r.write)
  case refused =>
    intro n hmode hats hworld hoff
    refine ⟨_, iommuTranslate_gives hok hsrc hats (Dev.ioAccessOf_bare_refused hmode hworld r.write), ?_⟩
    obtain ⟨hiommu, hcount, hstores⟩ := s.dev.noteRefusal_spec n 883 r.iova
    rw [Dev.ioFault_queueOff (hiommu ▸ hoff), hiommu]
    exact ⟨rfl, hcount, hstores⟩
  case cached =>
    exact fun e hmode hats hit hworld hmap hshadow =>
      ⟨_, iommuTranslate_gives hok hsrc hats (Dev.ioAccessOf_cached hmode hit hworld hmap hshadow), rfl, rfl, rfl, rfl, .refl s.dev⟩
  case inbound =>
    refine ⟨fun hmode hworld hmem => ?memory, fun off v => inbound_msi_reaches hinst hats hok hsrc hwrite hline,
      inbound_off_reaches hinst hats hok hsrc hwrite hline⟩
    have hmemory := inbound_memory_reaches hinst hats hok hsrc hwrite hline hmode hworld hmem
    cases data <;> exact hmemory
  case ddt =>
    exact fun x => reaches_of_commandTaken rfl (fun regs => ⟨rfl, tabFind_tabErase_same _ _, rfl,
      fun k hk => tabFind_tabDrop_named (f := fun k => k / 2 ^ 20 = x) _ (by simpa using hk), fun e => mem_filter_dropped (by simp)⟩)
  case ddtAll => exact reaches_of_commandTaken rfl (fun regs => ⟨rfl, rfl, rfl, rfl, rfl⟩)
  case pdt =>
    exact fun x p => reaches_of_commandTaken rfl (fun regs => ⟨rfl, rfl, tabFind_tabErase_same _ _, fun e => mem_filter_dropped (by simp)⟩)
  case fence =>
    intro hopen
    refine reaches_of_commandTaken (x := s.dev.iommu) ?_ (fun regs => ⟨rfl, rfl, rfl, rfl, rfl⟩)
    change execIofenceC s = _
    rw [execIofenceC, occurs_next (by simp [hopen])]

end Sys2Proof.Machine
end
